-- ==== Sys2Proof/Word.lean ====
section
/-! DEFINITION. The word types of the module and the type of a sparse table. -/

namespace Sys2Proof

/-- A byte of any memory of the module (spec/00_scope.md R8). -/
abbrev Byte := BitVec 8

/-- A 32-bit word of a vector or scalar register (spec/05_vector_engines.md R115). -/
abbrev W32 := BitVec 32

/-- A 64-bit register or counter word. -/
abbrev W64 := BitVec 64

/-- A sparse table: pairs of key and value, keys strictly rising, no entry equal to the table's default.
`Machine/Tables.lean` holds the operations that keep this form. -/
abbrev Tbl (α : Type) := List (Nat × α)

/-- A memory of bytes by address, in the same form as `Host.Cell` lists. -/
abbrev Mem := List (Nat × BitVec 8)

end Sys2Proof
end

