-- ==== Sys2Proof/Syntax.lean ====
section
/-! DEFINITION. The commands of the block: one constructor of `Instr` per row of the command table, with the operands that the
row's rule gives it. What an observer outside measures or sends (a temperature, a flit, a response) is an operand; what the
module holds is in `Machine/State.lean`. -/

namespace Sys2Proof

/-- The status codes of completion records (spec/12_rings_contexts_rota.md R347). -/
inductive Status where
  | ok | skippedNonfinite | skippedBreach | pageWanted | tileSeal | streamFault | tierError | noPage | stallTimeout
  | mcastDetached | revoked | protFault | certReject | rescaleLimit | depositFull | unitAbsent | linkDown | linkDegraded
  | fwReject | fwBusy | internal
  deriving DecidableEq, Repr

/-- The status code of R347. -/
def Status.code : Status → Nat
  | .ok => 0x00 | .skippedNonfinite => 0x01 | .skippedBreach => 0x02 | .pageWanted => 0x03 | .tileSeal => 0x10
  | .streamFault => 0x11 | .tierError => 0x12 | .noPage => 0x13 | .stallTimeout => 0x14 | .mcastDetached => 0x15
  | .revoked => 0x16 | .protFault => 0x17 | .certReject => 0x18 | .rescaleLimit => 0x19 | .depositFull => 0x1A
  | .unitAbsent => 0x1B | .linkDown => 0x20 | .linkDegraded => 0x21 | .fwReject => 0x30 | .fwBusy => 0x31 | .internal => 0x3F

/-- The status of a code that travels in a message or record; an unlisted code is taken as INTERNAL. -/
def Status.ofCode (n : Nat) : Status :=
  ([.ok, .skippedNonfinite, .skippedBreach, .pageWanted, .tileSeal, .streamFault, .tierError, .noPage, .stallTimeout,
    .mcastDetached, .revoked, .protFault, .certReject, .rescaleLimit, .depositFull, .unitAbsent, .linkDown, .linkDegraded,
    .fwReject, .fwBusy].find? (fun s => s.code == n)).getD .internal

/-- The fields of a vector instruction word below its opcode (spec/05_vector_engines.md R121, R122). -/
structure VOp where
  vd   : BitVec 6
  va   : BitVec 6
  vb   : BitVec 6
  vc   : BitVec 6
  pred : BitVec 3
  fmt  : BitVec 5
  imm  : BitVec 24
  deriving DecidableEq, Repr

/-- One access of a pseudo-channel or a board-tier port: who asks (context and task), where, how many bytes, and what is
written, if it is a write. -/
structure Access where
  ctx  : Nat
  task : Nat
  addr : Nat
  len  : Nat
  data : Option (List Byte)
  deriving DecidableEq, Repr

/-- What a patrol scrub finds in the run that it reads: how many words it corrects, and the addresses of those that prove uncorrectable. -/
structure ScrubFound where
  corrected : Nat
  uncorrectable : List Nat
  deriving DecidableEq, Repr

/-- Why a link lane fails (spec/11_ralda_link.md R304): its error ratio, as the BER code of LNK_LANE; 4 uncorrectable codewords in 1 ms; a loss
of lock; an eye too low, with its height. -/
inductive LaneFault where
  | errorRatio (ber : Nat)
  | codewords
  | lock
  | eye (height : Nat)
  deriving DecidableEq, Repr

/-- How an access outside the module ended: done, or with an error at an address after a number of bytes. -/
inductive Ending where
  | done
  | tierError (addr : Nat) (bytes : Nat)
  | protFault (addr : Nat) (bytes : Nat)
  | streamFault (addr : Nat) (bytes : Nat)
  deriving DecidableEq, Repr

/-- What built-in test, training and bring-up of boot step 9 found (spec/13_boot_protection_setup.md R358): wing controllers,
arrays, engine groups and gallery that pass, stacks with the four margins of each channel (packed as STK_MARGIN bits [31:0])
after the first and, where a channel failed, the second training, board-tier ports with their capacity in GiB, and the
fatal-error mark of the image. -/
structure Bringup where
  wcOk     : BitVec 4
  arrays   : BitVec 8
  veGroups : BitVec 32
  margins1 : List (List (BitVec 32))
  margins2 : List (List (BitVec 32))
  btUp     : BitVec 4
  btCap    : List Nat
  fatal    : Bool
  ms       : Nat
  deriving DecidableEq, Repr

/-- The paths by which service corridor commands reach the custodian (spec/15_integrity_records_guarantees.md R434). -/
inductive Path where
  | bar0 | pcie | smbus
  deriving DecidableEq, Repr

/-- The commands. Operand names: `c` context, `i` submission index of a descriptor, `t` task index of the admitted certificate,
`w` wing, `a` array, `e` vector engine, `u` stream unit, `m` tile mover, `q` courier queue, `k` stack, `b` board-tier port,
`n` flash namespace, `p` link port, `fn` function (0 PF, 1 to 63 VF), `o` instruction fields. -/
inductive Instr where
  | doorbell (fn c off size : Nat) (val : W64)
  | descriptorFetch (c : Nat)
  | nopDescriptor (c i : Nat)
  | load (c i : Nat)
  | admissionComplete (c : Nat)
  | unload (c i : Nat)
  | unloadProgramRelease (c : Nat)
  | run (c i : Nat)
  | abort (c i : Nat)
  | copy (c i : Nat)
  | copyComplete (c i : Nat) (how : Ending)
  | scan (c i : Nat)
  | scanComplete (c i : Nat) (how : Ending)
  | digest (c i : Nat)
  | digestComplete (c i : Nat) (how : Ending)
  | attest (c i : Nat)
  | attestReportSigned (c i : Nat)
  | kvGrant (c i : Nat)
  | kvOpen (c i : Nat)
  | kvRelease (c i : Nat)
  | kvReleaseFinish (c seq : Nat)
  | completionRecordWrite (c : Nat)
  | irqHoldoffExpiry (c : Nat)
  | ctxEnable (fn c : Nat)
  | ctxDisable (fn c : Nat)
  | ctxDisableDone (c : Nat)
  | ctxCtlAbort (fn c : Nat)
  | functionLevelReset (vf : Nat)
  | pfFunctionLevelReset
  | hotReset
  | taskComplete (c t : Nat)
  | taskAbort (c t : Nat) (st : Status) (detail : W64)
  | stepEndMarkFinish (c : Nat)
  | arrayJobStart (a : Nat)
  | arrayIssue (a : Nat) (arrived : BitVec 24) (drained : BitVec 16)
  | arrayPassEnd (a : Nat)
  | arrayJobEnd (a : Nat)
  | arrayParityError (a part : Nat)
  | columnGroupGate (a : Nat)
  | columnGroupUngate (a i : Nat)
  | barrierGroupJobStart (a : Nat)
  | vectorJobStart (c t j : Nat)
  | vectorJobComplete (c t j issued stalled : Nat)
  | vectorParityError (e : Nat)
  | updateBatchLoad (e : Nat)
  | updateRecordWrite (e : Nat)
  | nop (e : Nat) (o : VOp)
  | halt (e : Nat) (o : VOp)
  | loop (e : Nat) (o : VOp)
  | endl (e : Nat) (o : VOp)
  | skip (e : Nat) (o : VOp)
  | bar (e : Nat) (o : VOp)
  | barMet (e : Nat)
  | sig (e : Nat) (o : VOp)
  | sigIncrement (e : Nat)
  | wait (e : Nat) (o : VOp)
  | waitMet (e : Nat)
  | cwait (e : Nat) (o : VOp)
  | cwaitMet (e : Nat)
  | crel (e : Nat) (o : VOp)
  | fence (e : Nat) (o : VOp)
  | fenceMet (e : Nat)
  | add (e : Nat) (o : VOp)
  | sub (e : Nat) (o : VOp)
  | mul (e : Nat) (o : VOp)
  | fma (e : Nat) (o : VOp)
  | fms (e : Nat) (o : VOp)
  | fnma (e : Nat) (o : VOp)
  | div (e : Nat) (o : VOp)
  | sqrt (e : Nat) (o : VOp)
  | rsqrt (e : Nat) (o : VOp)
  | rcp (e : Nat) (o : VOp)
  | min (e : Nat) (o : VOp)
  | max (e : Nat) (o : VOp)
  | abs (e : Nat) (o : VOp)
  | neg (e : Nat) (o : VOp)
  | select (e : Nat) (o : VOp)
  | clip (e : Nat) (o : VOp)
  | scaleb (e : Nat) (o : VOp)
  | cmp (e : Nat) (o : VOp)
  | pand (e : Nat) (o : VOp)
  | por (e : Nat) (o : VOp)
  | pxor (e : Nat) (o : VOp)
  | pnot (e : Nat) (o : VOp)
  | pfirst (e : Nat) (o : VOp)
  | pcnt (e : Nat) (o : VOp)
  | mov (e : Nat) (o : VOp)
  | bcast (e : Nat) (o : VOp)
  | lane (e : Nat) (o : VOp)
  | perm (e : Nat) (o : VOp)
  | rot (e : Nat) (o : VOp)
  | iota (e : Nat) (o : VOp)
  | cvt (e : Nat) (o : VOp)
  | exp2 (e : Nat) (o : VOp)
  | log2 (e : Nat) (o : VOp)
  | rsum (e : Nat) (o : VOp)
  | rmax (e : Nat) (o : VOp)
  | rmin (e : Nat) (o : VOp)
  | rsumx (e : Nat) (o : VOp)
  | iadd (e : Nat) (o : VOp)
  | isub (e : Nat) (o : VOp)
  | imul (e : Nat) (o : VOp)
  | and (e : Nat) (o : VOp)
  | or (e : Nat) (o : VOp)
  | xor (e : Nat) (o : VOp)
  | shl (e : Nat) (o : VOp)
  | shr (e : Nat) (o : VOp)
  | sar (e : Nat) (o : VOp)
  | imin (e : Nat) (o : VOp)
  | imax (e : Nat) (o : VOp)
  | sadd (e : Nat) (o : VOp)
  | ssub (e : Nat) (o : VOp)
  | smul (e : Nat) (o : VOp)
  | smovi (e : Nat) (o : VOp)
  | slui (e : Nat) (o : VOp)
  | sget (e : Nat) (o : VOp)
  | sclr (e : Nat) (o : VOp)
  | ladd (e : Nat) (o : VOp)
  | lsub (e : Nat) (o : VOp)
  | lneg (e : Nat) (o : VOp)
  | lshl (e : Nat) (o : VOp)
  | lsar (e : Nat) (o : VOp)
  | lmax (e : Nat) (o : VOp)
  | lmin (e : Nat) (o : VOp)
  | lq (e : Nat) (o : VOp)
  | lwiden (e : Nat) (o : VOp)
  | lsqa (e : Nat) (o : VOp)
  | ladda (e : Nat) (o : VOp)
  | lsuma (e : Nat) (o : VOp)
  | lsh64 (e : Nat) (o : VOp)
  | lclra (e : Nat) (o : VOp)
  | gld (e : Nat) (o : VOp)
  | gst (e : Nat) (o : VOp)
  | tin (e : Nat) (o : VOp)
  | tout (e : Nat) (o : VOp)
  | tld (e : Nat) (o : VOp)
  | tst (e : Nat) (o : VOp)
  | gcl (e : Nat) (o : VOp)
  | galleryCorrectionWriteBack (w line : Nat)
  | streamFetchStart (u : Nat)
  | slotFillComplete (u slot : Nat) (how : Ending)
  | standingLoanRearm (u : Nat)
  | outStreamWrite (u : Nat)
  | outStreamTileStored (u : Nat) (how : Ending)
  | moveTile (m : Nat) (how : Ending)
  | k4FetchTile (m : Nat) (how : Ending)
  | prefetchEntryStart (w c : Nat)
  | courierEntryTake (q : Nat)
  | courierTransferComplete (q : Nat) (how : Ending)
  | depositSpill (w h : Nat) (how : Ending)
  | depositReturn (m : Nat) (how : Ending)
  | nearTierAccess (slot : Nat) (r : Access) (corrected : Nat) (uncorrectable : List Nat)
  | stackRefresh (k pc slot : Nat)
  | maintenanceProbe (k pc : Nat) (step : Int) (marginLow : Bool)
  | patrolScrub (k pc : Nat) (found : ScrubFound)
  | stackChannelRetrain (k ch temp : Nat)
  | stackRetrainEnd (k : Nat)
  | eyeScanGo (k : Nat) (cmd : BitVec 32)
  | eyeScanComplete (k : Nat) (map : List W64)
  | stackUeWindowEnd
  | boardTierRequest (b slot : Nat) (r : Access)
  | rdata (b : Nat) (msg : List Byte)
  | wack (b : Nat) (msg : List Byte)
  | cfgdata (b : Nat) (msg : List Byte)
  | evt (b : Nat) (msg : List Byte)
  | cxlMemResponse (b tag : Nat) (poison : Bool) (data : List Byte)
  | btpRequestTimeout (b tag : Nat)
  | btLinkDown (b : Nat)
  | btLinkRetrained (b : Nat)
  | btPortWithdraw (b : Nat)
  | nvmeReadCompletion (n cid status : Nat) (data : List Byte)
  | legacyFlashTimeout (n cid : Nat)
  | transportSend (c t k p : Nat)
  | flitReceive (p : Nat) (flit : List Byte) (bad : Bool) (badLanes : BitVec 9)
  | write (p : Nat)
  | mcast (p : Nat)
  | reduce (p : Nat)
  | credit (p : Nat)
  | detach (p : Nat)
  | recall (p : Nat)
  | arrive (p : Nat)
  | token (p : Nat)
  | sync (p : Nat) (stamp : Nat)
  | small (p : Nat)
  | abortMessage (p : Nat)
  | laneFailed (p lane : Nat) (cause : LaneFault)
  | laneReplacementComplete (p : Nat)
  | portHalf (p : Nat)
  | portDown (p reason : Nat)
  | linkSilenceTimeout (p : Nat)
  | portUp (p : Nat) (healthy : BitVec 9) (peerDev peerPort peerGen rttNs : Nat)
  | mcastDetach (c t k p : Nat)
  | recallLimitExpiry (c t k p : Nat)
  | timeSyncExchange (t1 t2 t3 t4 : Int)
  | barrierRelease (c t : Nat)
  | kvPageTimeout (c t : Nat)
  | attendBlock (c t : Nat)
  | stallTimeout (c t : Nat) (unit : Nat)
  | rotaSlotStart (w slot : Nat)
  | rotaCommit (wings : BitVec 4)
  | rotaTakeEffect
  | commit
  | revoke
  | heldCommitEffect
  | rehang (scopes : BitVec 14)
  | heldRehangEffect (scope : Nat)
  | setupRegisterWrite (fn off size : Nat) (val : W64)
  | clearFlags (c entry : Nat)
  | setScale (c entry : Nat) (arg : BitVec 16)
  | resetHistory (c entry : Nat)
  | setHeadroom (c entry : Nat) (arg : BitVec 16)
  | freeze (c g : Nat)
  | thaw (c g : Nat)
  | exempt (c g : Nat)
  | unexempt (c g : Nat)
  | wingMaCntClr (a : Nat)
  | wingVeCntClr (w : Nat)
  | wingGstmCntClr (w : Nat)
  | wingDepCntClr (w : Nat)
  | kvaCntClr
  | lnkCntClr (p : Nat)
  | redLdgCntClr
  | pwrCntClr
  | lnkIsolate (p : Nat)
  | retrain (p : Nat)
  | release (p : Nat)
  | pwrForceLow (on : Bool)
  | planNow
  | planDue
  | planComplete (corrected : List (Option Int))
  | clearAcc
  | free (slot : Nat)
  | mirrorRecordWrite
  | galleryApertureAccess (off size : Nat) (data : Option (List Byte))
  | imageWindowWrite (off : Nat) (data : List Byte)
  | go
  | imageDigestComplete
  | signatureVerified
  | imageStart (cpllLock fpllLock : Bool) (corrected : List (Option Int))
  | bringupComplete (found : Bringup)
  | bootReadyTimeout
  | hostLinkTrained
  | perstNAssert
  | perstNDeassert
  | inputReaches40v
  | powerUpDelayExpiry
  | pwrEnAssert
  | railsInRegulation (good : Bool)
  | pwrEnDeassert
  | inputUndervoltage
  | pwrGoodFall
  | recorderClose
  | mirrorStop
  | holdupEnd
  | vrAlertNFall
  | vrAlertNRise
  | alertHoldExpiry
  | powerSample (watts : Nat)
  | powerLoopEvaluation
  | thermalSensorRead (temps : List (Option Nat)) (stackTemps : List Nat)
  | thermalThrottleStep
  | droopDetect (d : Nat)
  | droopRecoveryEnd (d cycles : Nat)
  | droopLong (d us : Nat)
  | avsEvaluation (d : Nat) (slacks : List (Option Nat)) (above35For10ms stuckFor1ms : Bool)
  | marginRelease
  | levelStepComplete
  | cpllUnlock (d : Nat)
  | cpllRelock
  | fpllUnlock
  | readRecord (path : Path) (area index : Nat)
  | readSensors (path : Path)
  | forceLow (path : Path)
  | releaseLow (path : Path)
  | abortAll (path : Path)
  | isolate (path : Path) (p : Nat)
  | readHoldings (path : Path)
  | reset (path : Path)
  | readIdkey (path : Path)
  | mctpControlMessage (path : Path) (msg : List Byte)
  | getTid (path : Path)
  | getSensorReading (path : Path) (sensor : Nat)
  | getStateSensorReadings (path : Path) (sensor : Nat)
  | getPdrRepositoryInfo (path : Path)
  | getPdr (path : Path) (handle : Nat)
  | getPldmVersion (path : Path) (type : Nat)
  | getPldmTypes (path : Path)
  | getPldmCommands (path : Path) (type : Nat)
  | boardTierCreditReturn (b hdr data : Nat)
  | cxlDeviceEvent (b : Nat) (event : List Byte)
  | msixVectorUnmask (fn vector : Nat)
  | eyeScanCorridorStart (k : Nat) (cmd : BitVec 32)
  deriving DecidableEq, Repr

end Sys2Proof
end

