-- ==== Sys2Proof/WellFormed.lean ====
section
/-! DEFINITION. Which commands are well formed: every unit, context and index that an operand names exists in the largest module
(spec/01_module_and_one_step.md R12 to R16). A command of the block is well formed before it is sent; `exec` itself is total. -/

namespace Sys2Proof

/-- The operands of a command lie in the ranges of the module. -/
def Instr.wf (i : Instr) : Bool :=
  match i with
  | .doorbell fn c _ _ _ | .ctxEnable fn c | .ctxDisable fn c | .ctxCtlAbort fn c => decide (fn < 64) && decide (c < 16384)
  | .descriptorFetch c | .admissionComplete c | .unloadProgramRelease c | .completionRecordWrite c | .irqHoldoffExpiry c
  | .ctxDisableDone c | .stepEndMarkFinish c => decide (c < 16384)
  | .nopDescriptor c i | .load c i | .unload c i | .run c i | .abort c i | .copy c i | .copyComplete c i _ | .scan c i
  | .scanComplete c i _ | .digest c i | .digestComplete c i _ | .attest c i | .attestReportSigned c i | .kvGrant c i
  | .kvOpen c i | .kvRelease c i => decide (c < 16384) && decide (i < 2 ^ 32)
  | .kvReleaseFinish c seq => decide (c < 16384) && decide (seq < 65536)
  | .functionLevelReset vf => decide (1 ≤ vf) && decide (vf < 64)
  | .pfFunctionLevelReset | .hotReset | .nearTierAccess _ _ _ _ | .stackUeWindowEnd | .timeSyncExchange _ _ _ _
  | .rotaCommit _ | .rotaTakeEffect | .commit | .revoke | .heldCommitEffect | .rehang _ | .kvaCntClr | .redLdgCntClr
  | .pwrCntClr | .pwrForceLow _ | .planNow | .planDue | .planComplete _ | .clearAcc | .mirrorRecordWrite
  | .galleryApertureAccess _ _ _ | .imageWindowWrite _ _ | .go | .imageDigestComplete | .signatureVerified
  | .imageStart _ _ _ | .bringupComplete _ | .bootReadyTimeout | .hostLinkTrained | .perstNAssert | .perstNDeassert
  | .inputReaches40v | .powerUpDelayExpiry | .pwrEnAssert | .railsInRegulation _ | .pwrEnDeassert | .inputUndervoltage
  | .pwrGoodFall | .recorderClose | .mirrorStop | .holdupEnd | .vrAlertNFall | .vrAlertNRise | .alertHoldExpiry
  | .powerSample _ | .powerLoopEvaluation | .thermalSensorRead _ _ | .thermalThrottleStep | .marginRelease
  | .levelStepComplete | .cpllRelock | .fpllUnlock | .readSensors _ | .forceLow _ | .releaseLow _ | .abortAll _
  | .readHoldings _ | .reset _ | .readIdkey _ | .mctpControlMessage _ _ | .getTid _ | .getSensorReading _ _
  | .getStateSensorReadings _ _ | .getPdrRepositoryInfo _ | .getPdr _ _ | .getPldmVersion _ _ | .getPldmTypes _
  | .getPldmCommands _ _ => true
  | .taskComplete c t | .taskAbort c t _ _ | .barrierRelease c t | .kvPageTimeout c t | .attendBlock c t
  | .stallTimeout c t _ => decide (c < 16384) && decide (t < 2 ^ 24)
  | .arrayJobStart a | .arrayIssue a _ _ | .arrayPassEnd a | .arrayJobEnd a | .columnGroupGate a | .barrierGroupJobStart a
  | .wingMaCntClr a => decide (a < 8)
  | .arrayParityError a part => decide (a < 8) && decide (part < 65536)
  | .columnGroupUngate a i => decide (a < 8) && decide (i < 16)
  | .vectorJobStart c t j | .vectorJobComplete c t j _ _ => decide (c < 16384) && decide (t < 2 ^ 24) && decide (j < 256)
  | .vectorParityError e | .updateBatchLoad e | .updateRecordWrite e | .nop e _ | .halt e _ | .loop e _ | .endl e _
  | .skip e _ | .bar e _ | .barMet e | .sig e _ | .sigIncrement e | .wait e _ | .waitMet e | .cwait e _ | .cwaitMet e
  | .crel e _ | .fence e _ | .fenceMet e | .add e _ | .sub e _ | .mul e _ | .fma e _ | .fms e _ | .fnma e _ | .div e _
  | .sqrt e _ | .rsqrt e _ | .rcp e _ | .min e _ | .max e _ | .abs e _ | .neg e _ | .select e _ | .clip e _ | .scaleb e _
  | .cmp e _ | .pand e _ | .por e _ | .pxor e _ | .pnot e _ | .pfirst e _ | .pcnt e _ | .mov e _ | .bcast e _ | .lane e _
  | .perm e _ | .rot e _ | .iota e _ | .cvt e _ | .exp2 e _ | .log2 e _ | .rsum e _ | .rmax e _ | .rmin e _ | .rsumx e _
  | .iadd e _ | .isub e _ | .imul e _ | .and e _ | .or e _ | .xor e _ | .shl e _ | .shr e _ | .sar e _ | .imin e _
  | .imax e _ | .sadd e _ | .ssub e _ | .smul e _ | .smovi e _ | .slui e _ | .sget e _ | .sclr e _ | .ladd e _ | .lsub e _
  | .lneg e _ | .lshl e _ | .lsar e _ | .lmax e _ | .lmin e _ | .lq e _ | .lwiden e _ | .lsqa e _ | .ladda e _ | .lsuma e _
  | .lsh64 e _ | .lclra e _ | .gld e _ | .gst e _ | .tin e _ | .tout e _ | .tld e _ | .tst e _ | .gcl e _ => decide (e < 256)
  | .galleryCorrectionWriteBack w _ | .wingVeCntClr w | .wingGstmCntClr w | .wingDepCntClr w => decide (w < 4)
  | .streamFetchStart u | .standingLoanRearm u | .outStreamWrite u | .outStreamTileStored u _ => decide (u < 512)
  | .slotFillComplete u slot _ => decide (u < 512) && decide (slot < 16)
  | .moveTile m _ | .k4FetchTile m _ | .depositReturn m _ => decide (m < 64)
  | .prefetchEntryStart w c => decide (w < 4) && decide (c < 16384)
  | .courierEntryTake q | .courierTransferComplete q _ => decide (q < 64)
  | .depositSpill w h _ => decide (w < 4) && decide (h < 16)
  | .stackRefresh k pc _ | .maintenanceProbe k pc _ _ | .patrolScrub k pc _ => decide (k < 20) && decide (pc < 64)
  | .stackChannelRetrain k ch _ => decide (k < 20) && decide (ch < 32)
  | .stackRetrainEnd k | .eyeScanGo k _ | .eyeScanComplete k _ | .eyeScanCorridorStart k _ => decide (k < 20)
  | .boardTierRequest b _ _ | .rdata b _ | .wack b _ | .cfgdata b _ | .evt b _ | .cxlMemResponse b _ _ _
  | .btpRequestTimeout b _ | .btLinkDown b | .btLinkRetrained b | .btPortWithdraw b | .boardTierCreditReturn b _ _
  | .cxlDeviceEvent b _ => decide (b < 4)
  | .nvmeReadCompletion n _ _ _ | .legacyFlashTimeout n _ => decide (n < 16)
  | .transportSend c t k p | .mcastDetach c t k p | .recallLimitExpiry c t k p =>
    decide (c < 16384) && decide (t < 2 ^ 24) && decide (k < 256) && decide (p < 16)
  | .flitReceive p _ _ _ | .write p | .mcast p | .reduce p | .credit p | .detach p | .recall p | .arrive p | .token p
  | .sync p _ | .small p | .abortMessage p | .laneReplacementComplete p | .portHalf p | .portDown p _
  | .linkSilenceTimeout p | .portUp p _ _ _ _ _ | .lnkCntClr p | .lnkIsolate p | .retrain p | .release p | .isolate _ p =>
    decide (p < 16)
  | .laneFailed p ln _ => decide (p < 16) && decide (ln < 9)
  | .rotaSlotStart w slot => decide (w < 4) && decide (slot < 64)
  | .heldRehangEffect scope => decide (scope < 14)
  | .setupRegisterWrite fn _ _ _ => decide (fn < 64)
  | .clearFlags c entry | .setScale c entry _ | .resetHistory c entry | .setHeadroom c entry _ =>
    decide (c < 16384) && decide (entry < 65536)
  | .freeze c g | .thaw c g | .exempt c g | .unexempt c g => decide (c < 16384) && decide (g < 65536)
  | .free slot => decide (slot < 64)
  | .droopDetect d | .droopRecoveryEnd d _ | .droopLong d _ | .avsEvaluation d _ _ _ | .cpllUnlock d => decide (d < 2)
  | .readRecord _ area index => decide (area < 2) && decide (index < 65536)
  | .msixVectorUnmask fn vector => decide (fn < 64) && decide (vector < 2048)

end Sys2Proof
end

