-- ==== Sys2Proof/Machine/Cert.lean ====
section
/-! DEFINITION. What a certificate holds, as plain data. The specification gives the layout of every entry a certificate carries
and no byte format for the certificate as a whole (spec/12_rings_contexts_rota.md R341, R343): the model takes the certificate
as a structure. Each entry keeps the field names of its rule; `rsv` is true when a reserved bit of the entry is set.
DESIGN CHOICE (log 1). -/

namespace Sys2Proof.Machine

/-- A resource whose slots a certificate allots (spec/01_module_and_one_step.md R18). -/
inductive Resource where
  | galleryLane (wing lane : Nat)
  | network (link : Nat)
  | arrayPort (array port : Nat)
  | stackPc (stack pc : Nat)
  | boardPort (port : Nat)
  | linkSend (port : Nat)
  | linkTransit (port : Nat)
  | hostShareStack (stack : Nat)
  | hostSharePort (port : Nat)
  deriving DecidableEq, Repr

/-- One allotted (resource, slot) pair of a frame of `frame` slots, for task `task` (`none`: for the whole program). It belongs
to the allotment of index `num`, which stream, move, shelf and send entries name, and a gallery pair names its requester by module-wide
unit number (spec/06_gallery_streams_tiles.md R157, R165, R176). -/
structure Allot where
  res   : Resource
  slot  : Nat
  frame : Nat
  task  : Option Nat := none
  unit  : Nat := 0
  num   : Nat := 0
  deriving DecidableEq, Repr

/-- An array job entry (spec/04_matrix_arrays.md R88), with what the certificate says beside it: the K of the whole product,
the number of operand tiles, the shape of output tiles, the logical shape of the output tensor and the ledger scale of an
output in LI64 or LI96 or, with `split`, of the split form (spec/03_exact_path.md R78, R79), and the group that reduces it. -/
structure ArrayJob where
  form : Nat := 0
  orient : Bool := false
  chainIn : Bool := false
  chainOut : Bool := false
  bscale : Bool := false
  role : Nat := 0
  fmtS : Nat := 0
  fmtM : Nat := 0
  fmtO : Nat := 0
  rnd : Nat := 0
  nCount : Nat := 0
  group : Nat := 0xFFFF
  mCount : Nat := 0
  kStart : Nat := 0
  kEnd : Nat := 0
  statBase : Nat := 0
  movBase : Nat := 0
  outBase : Nat := 0
  handIn : Nat := 0
  smEntry : Nat := 0xFFFF
  issue : Nat := 0
  array : Nat := 0
  rsv : Bool := false
  kTotal : Nat := 0
  statTiles : Nat := 1
  movTiles : Nat := 1
  outRows : Nat := 0
  outCols : Nat := 0
  tensorCols : Nat := 0
  tensorRows : Nat := 0
  ledScale : Int := 0
  split : Bool := false
  parts : Nat := 1
  segment : Bool := false
  fromDevice : Bool := false
  redGroup : Option Nat := none
  deriving DecidableEq, Repr

/-- A tensor slot of a vector job (spec/05_vector_engines.md R119), with the logical shape of its tensor. -/
structure TSlot where
  sm : Nat := 0xFFFF
  fmt : Nat := 0
  rnd : Nat := 0
  rsv : Bool := false
  tensorCols : Nat := 0
  tensorRows : Nat := 0
  deriving DecidableEq, Repr

/-- A vector job entry (R119), with the gallery windows the certificate allots to it, the chunk it is bound to (R249), the
receive queues it is bound to (R316) and, in update mode, the flat index of its first element. -/
structure VecJob where
  mode : Nat := 0
  engFirst : Nat := 0
  engCount : Nat := 1
  progLen : Nat := 1
  group : Nat := 0xFFFF
  progBase : Nat := 0
  argBase : Nat := 0
  recordBase : Nat := 0
  gradBase : Nat := 0
  recordCount : Nat := 0
  slots : List TSlot := []
  rsv : Bool := false
  windows : List (Nat × Nat) := []
  chunk : Option (Nat × Nat) := none
  flatFirst : Nat := 0
  prog : List W64 := []
  deriving DecidableEq, Repr

/-- A stream entry (spec/06_gallery_streams_tiles.md R165). -/
structure StreamEntry where
  out : Bool := false
  standing : Bool := false
  xpose : Bool := false
  rearm : Bool := false
  slots : Nat := 2
  mover : Nat := 0
  fillEvt : Nat := 0
  fillEn : Bool := false
  unit : Nat := 0
  allot : Nat := 0
  bufBase : Nat := 0
  listCount : Nat := 0
  listBase : Nat := 0
  rsv : Bool := false
  deriving DecidableEq, Repr

/-- The move table's items: a move (R176), a K4 tile fetch (spec/07_memory_tiers.md R211) or a deposit return
(spec/08_backward_and_deposit.md R236). -/
inductive MoveKind where
  | move | k4 | ret
  deriving DecidableEq, Repr

/-- One item of the move table. A K4 fetch uses `ns` and takes `src` as an offset in the namespace; a return uses `shelf` and
`firstPos`. -/
structure MoveItem where
  kind : MoveKind := .move
  wing : Nat := 0
  xpose : Bool := false
  srcHome : Nat := 0
  dstHome : Nat := 0
  ns : Nat := 0
  mover : Nat := 0
  doneEvt : Nat := 0
  doneEn : Bool := false
  count : Nat := 1
  src : Nat := 0
  dst : Nat := 0
  key : Nat := 0
  allot : Nat := 0
  shelf : Nat := 0
  firstPos : Nat := 0
  rsv : Bool := false
  deriving DecidableEq, Repr

/-- A prefetch list entry (spec/07_memory_tiers.md R219). -/
structure Prefetch where
  move : Nat
  afterEvt : Nat
  afterVal : Nat
  due : Nat
  rsv : Bool := false
  deriving DecidableEq, Repr

/-- A shelf entry of a deposit table (spec/08_backward_and_deposit.md R230). -/
structure ShelfEntry where
  nearBase : Nat := 0
  spillBase : Nat := 0
  nearTiles : Nat := 1
  depthTiles : Nat := 1
  spillLead : Nat := 0
  spillMover : Nat := 0
  valid : Bool := false
  allot : Nat := 0
  rsv : Bool := false
  deriving DecidableEq, Repr

/-- A deposit binding (R232). -/
structure DepBind where
  pop : Bool := false
  shelf : Nat := 0
  guard : Nat := 0xFFFF
  unit : Nat := 0
  uses : Nat := 0
  tiles : Nat := 1
  rsv : Bool := false
  deriving DecidableEq, Repr

/-- A ready-list entry (R241). -/
structure ReadyEntry where
  task : Nat
  guard : Nat := 0xFFFF
  arrays : BitVec 2 := 0
  groups : BitVec 8 := 0
  rsv : Bool := false
  deriving DecidableEq, Repr

/-- A ledger step entry (spec/09_ledger_reduction_update.md R246). -/
structure LedgerEntry where
  groupFirst : Nat := 0
  groupCount : Nat := 1
  headroom : Nat := 2
  localAdds : Nat := 1
  elements : Nat := 1
  localBase : Nat := 0
  shardBase : Nat := 0
  cstatBase : Nat := 0
  stateBase : Nat := 0
  maxNorm : BitVec 32 := 0
  devices : Nat := 1
  rank : Nat := 0
  lgroup : Nat := 0
  rsv : Bool := false
  deriving DecidableEq, Repr

/-- An attend entry (spec/10_attention_kv.md R276), with the formats and geometry of its operands. -/
structure AttendEntry where
  fromStreams : Bool := false
  maskMode : Nat := 0
  stats : Bool := false
  fmtP : Nat := 1
  fmtO : Nat := 1
  rnd : Nat := 0
  bk : Nat := 0
  qHeads : Nat := 1
  mQ : Nat := 1
  smEntry : Nat := 0xFFFF
  seq : Nat := 0
  qFirst : Nat := 0
  keyEnd : Nat := 0
  scl : BitVec 32 := 0
  qBase : Nat := 0
  oBase : Nat := 0
  maskBase : Nat := 0
  sumBase : Nat := 0
  maskKt : Nat := 0
  statsBase : Nat := 0
  hookBase : Nat := 0
  hookLen : Nat := 0
  engFirst : Nat := 0
  engCount : Nat := 1
  rsv : Bool := false
  fmtQ : Nat := 1
  fmtKv : Nat := 1
  d : Nat := 32
  h : Nat := 1
  kvTiles : List Nat := []
  hook : List W64 := []
  tensorCols : Nat := 0
  tensorRows : Nat := 0
  deriving DecidableEq, Repr

/-- An append entry (R292). -/
structure AppendEntry where
  seq : Nat := 0
  src : Nat := 0
  tiles : Nat := 1
  rsv : Bool := false
  deriving DecidableEq, Repr

/-- The kind of a send entry (spec/11_ralda_link.md R318). -/
inductive SendKind where
  | unicast | multicast | reduce
  deriving DecidableEq, Repr

/-- A send entry (R318). `ledger` names the ledger entry whose chunks a reduce stream carries (R253), and `chunkFirst` the chunk
that its message 0 carries. -/
structure SendEntry where
  kind : SendKind := .unicast
  queue : Nat := 0
  dstWing : Nat := 0
  op : Nat := 0
  target : Nat := 0
  srcUnit : Nat := 0
  count : Nat := 1
  route : BitVec 20 := 0
  hops : Nat := 1
  allot : Nat := 0
  recallUnit : Nat := 0
  rsv : Bool := false
  slots : Nat := 2
  ledger : Option Nat := none
  chunkFirst : Nat := 0
  deriving DecidableEq, Repr

/-- A receive-queue binding (R316), with the task whose job or stream takes its messages and the senders of its operation, each with its device,
the link port by which its messages arrive (spec/12_rings_contexts_rota.md R462) and their links. `toStream` is BIND 1. -/
structure QueueBind where
  wing : Nat := 0
  queue : Nat := 0
  slots : Nat := 2
  toStream : Bool := false
  unit : Nat := 0
  op : Nat := 0
  base : Nat := 0
  task : Nat := 0
  senders : List (Nat × Nat × Nat) := []
  rsv : Bool := false
  deriving DecidableEq, Repr

def QueueBind.ports (q : QueueBind) : List Nat := q.senders.map (fun y => y.2.1)

/-- One destination of a reduction group (R319). -/
structure RedDest where
  dstDev : Nat := 0
  route : BitVec 20 := 0
  hops : Nat := 1
  queue : Nat := 0
  dstWing : Nat := 0
  combiner : Bool := false
  deriving DecidableEq, Repr

/-- The output of a product reduction (spec/09_ledger_reduction_update.md R264): its shape, the tiles at `base`, its format,
rounding mode and scale-manager entry, the scale of the reduced elements, and for a split-form product the group that reduces the
HIGH buffer. -/
structure ProdOut where
  rows : Nat := 1
  cols : Nat := 1
  tileRows : Nat := 1
  tileCols : Nat := 1
  base : Nat := 0
  fmt : Nat := 1
  rnd : Nat := 0
  smEntry : Nat := 0xFFFF
  scale : Int := 0
  high : Option Nat := none
  deriving DecidableEq, Repr

/-- A reduction group (R319), with the tree of R320, the contributions to a chunk that its combiner job takes, and, for the
reduction of a product (spec/09_ledger_reduction_update.md R264), its output; whether it adds in LI96, with the contributions that one message of
this member counts, and the scale-manager entries whose step maxima its small traffic combines (spec/02_number_formats.md R56). -/
structure RedGroup where
  number : Nat := 0
  members : Nat := 1
  rank : Nat := 0
  dests : List RedDest := []
  parent : Nat := 0
  children : BitVec 16 := 0
  combiner : Bool := false
  expects : Nat := 1
  product : Option ProdOut := none
  wide : Bool := false
  own : Nat := 1
  maxima : List Nat := []
  deriving DecidableEq, Repr

/-- A barrier entry (R327). -/
structure BarrierEntry where
  barrier : Nat := 0
  root : Bool := false
  stagger : Bool := false
  parent : Nat := 0
  children : BitVec 16 := 0
  devIndex : Nat := 0
  lead : Nat := 0
  rsv : Bool := false
  deriving DecidableEq, Repr

/-- A courier queue binding (spec/06_gallery_streams_tiles.md R178), with the ranges of addresses that its entries name (R217; log 106). -/
structure CourierBind where
  queue : Nat := 0
  task : Nat := 0
  qbase : Nat := 0
  postEvt : Nat := 0
  doneEvt : Nat := 0
  reaches : List (Nat × Nat) := []
  deriving DecidableEq, Repr

/-- A check-value channel binding (spec/15_integrity_records_guarantees.md R409). -/
structure ChanBind where
  chan : Nat := 0
  courier : Bool := false
  unit : Nat := 0
  poly : Nat := 0
  start : W64 := 0
  result : Nat := 0
  deriving DecidableEq, Repr

/-- What kind of task a ledger verdict holds back (spec/09_ledger_reduction_update.md R262, R268). -/
inductive TaskRole where
  | plain | update (g : Nat) | pack (g : Nat) | allGather
  deriving DecidableEq, Repr

/-- A task of the task graph; `small` is the reduction group whose maxima it combines (spec/02_number_formats.md R56). Its nominal time (spec/12_rings_contexts_rota.md R351) is `nomIssue` array issue cycles, `nomCpll`
further CPLL cycles and `nomNs` nanoseconds of the fixed families. -/
structure Task where
  wing : Nat := 0
  deps : List Nat := []
  stepEnd : Bool := false
  role : TaskRole := .plain
  nomIssue : Nat := 0
  nomCpll : Nat := 0
  nomNs : Nat := 0
  arrayJobs : List ArrayJob := []
  vecJobs : List VecJob := []
  streams : List StreamEntry := []
  moves : List Nat := []
  binds : List DepBind := []
  attend : Option AttendEntry := none
  append : Option AppendEntry := none
  ledger : Option Nat := none
  sends : List SendEntry := []
  barrier : Option BarrierEntry := none
  small : Option Nat := none
  windows : List (Nat × Nat) := []
  fwdFmts : List Nat := []
  deriving DecidableEq, Repr

/-- An entry that a RUN names (R340): its tasks and its argument block. -/
structure CertEntry where
  tasks : List Nat
  args : Nat
  deriving DecidableEq, Repr

/-- A telemetry ring (spec/09_ledger_reduction_update.md R273): 2^order records at `base`, consumer index at `cons`. -/
structure TelRing where
  base : Nat
  order : Nat
  cons : Nat
  deriving DecidableEq, Repr

/-- A certificate; `pages` counts the KV pages that it reserves. `headerOk` is false for bytes that do not form a certificate header. -/
structure Cert where
  headerOk : Bool := true
  length : Nat := 64
  digestOk : Bool := true
  generation : Nat := 0
  units : List Nat := []
  halfPorts : List Nat := []
  ports : List Nat := []
  peers : List (Nat × Nat) := []
  tasks : List Task := []
  lists : List (List ReadyEntry) := []
  entries : List CertEntry := []
  moves : List MoveItem := []
  prefetch : List (List Prefetch) := []
  shelves : List (List ShelfEntry) := []
  counters : List (Nat × Nat) := []
  couriers : List CourierBind := []
  queues : List QueueBind := []
  groups : List RedGroup := []
  chans : List ChanBind := []
  ledgers : List LedgerEntry := []
  smTable : Option Nat := none
  catTable : Option Nat := none
  catCount : Nat := 0
  groupTable : Option Nat := none
  groupCount : Nat := 0
  allots : List Allot := []
  tel : Option TelRing := none
  formats : List Nat := []
  pages : Nat := 0
  deriving DecidableEq, Repr

end Sys2Proof.Machine
end

