-- ==== Sys2Proof/Machine/State.lean ====
section
/-! DEFINITION. The state of the module as plain data, the reasons a step can stop, and the state after reset. The groups follow
the chapters of the specification; INVENTORY.md lists every piece with its rule and reset value. -/

namespace Sys2Proof.Machine

/-- A dyadic number (−1)^neg · m · 2^e, exact. -/
structure Dy where
  neg : Bool := false
  m : Nat := 0
  e : Int := 0
  deriving DecidableEq, Repr

/-- A value of a number format: NaN, an infinity, or a finite number. -/
inductive XVal where
  | nan
  | inf (neg : Bool)
  | fin (d : Dy)
  deriving DecidableEq, Repr

/-- The special state beside a sum (spec/03_exact_path.md R61). -/
inductive Special where
  | none | posInf | negInf | nan
  deriving DecidableEq, Repr

/-- A chain state (R63, R66, R70, R74): the integer accumulator or window, the anchor and the least and greatest σ of a
block-scaled chain, its marks, and the running sum of a canonical or limb chain. -/
structure ChainSt where
  x : Int := 0
  anchor : Int := 0
  sigLo : Int := 0
  sigHi : Int := 0
  sp : Special := .none
  span : Bool := false
  sticky : Bool := false
  seen : Bool := false
  s : Dy := {}
  ovf : Bool := false
  deriving DecidableEq, Repr

/-- A report to the scale manager (spec/02_number_formats.md R45, R50): the maximum of |x| over finite source elements as the
F32 code that R49 stores, rounded toward +Inf, the saturated and non-finite counts and the least flat index of a non-finite
element. `made` tells a report of no special element from no report. -/
structure SmRep where
  made : Bool := false
  maxAbs : Nat := 0
  sat : Nat := 0
  nonfin : Nat := 0
  nfIndex : Nat := 0xFFFFFFFFFFFFFFFF
  deriving DecidableEq, Repr

/-- The operation of a queued scale-manager or group command (R54, spec/09_ledger_reduction_update.md R274). -/
inductive SmOp where
  | clearFlags | setScale (a : Int) | resetHistory | setHeadroom (h : Nat) | freeze | thaw | exempt | unexempt
  deriving DecidableEq, Repr

structure SmCmd where
  ctx : Nat
  entry : Nat
  op : SmOp
  deriving DecidableEq, Repr

/-- The scale manager's own copy of one entry (R49). -/
structure SmEntry where
  tensorId : Nat := 0
  fmt : Nat := 0
  headroom : Nat := 0
  hlen : Nat := 0
  nonfinite : Bool := false
  saturated : Bool := false
  frozenScale : Bool := false
  sr : Bool := false
  hcount : Nat := 0
  scale : Int := 0
  lastSat : Nat := 0
  totalSat : Nat := 0
  totalNonfinite : Nat := 0
  nfIndex : Nat := 0xFFFFFFFFFFFFFFFF
  nfStep : Nat := 0
  history : List (BitVec 32) := []
  deriving DecidableEq, Repr

/-- The scale manager's copy of a context's table (R47, R48). -/
structure SmTable where
  base : Nat := 0
  seed : W64 := 0
  step : Nat := 0
  orphanNf : Bool := false
  orphanSat : Bool := false
  entries : List SmEntry := []
  deriving DecidableEq, Repr

/-- The ledger status of an engine (spec/05_vector_engines.md R137); BREACH is bit 3 of the flag word. -/
structure LedStat where
  nfcount : Nat := 0
  nfindex : Nat := 0xFFFFFFFFFFFF
  expmax : Int := -32768
  excess : Nat := 0
  deriving DecidableEq, Repr

/-- A tile buffer of an engine (R115, R463). `asRead` is true while a TIN filled it and no TST has changed its format. -/
structure TileBuf where
  filled : Bool := false
  fmt : Nat := 0
  hdr : List Byte := []
  pay : Mem := []
  asRead : Bool := false
  deriving DecidableEq, Repr

/-- What an engine is doing (R120, R126). -/
inductive EngRun where
  | idle
  | running
  | atBar
  | atWait (evt : Nat) (val : Nat)
  | atChunk (q : Nat) (reg : Nat)
  | atFence
  | ended
  deriving DecidableEq, Repr

/-- A vector engine (R115). Vector registers are kept by 64·r + lane, scalar registers by number, predicates p1 to p7 by
number; an unlisted word is zero. In update mode `batch` counts the sets of four batches the engine has loaded and `present`
gives the active lanes of the four windows (R145, R146). -/
structure Engine where
  run : EngRun := .idle
  ctx : Nat := 0
  task : Nat := 0
  job : Nat := 0
  rank : Nat := 0
  pc : Nat := 0
  prog : List W64 := []
  loops : List (Nat × Nat) := []
  v : Tbl W32 := []
  s : Tbl W32 := []
  p : Tbl W64 := []
  tb : Tbl TileBuf := []
  led : LedStat := {}
  flags : BitVec 4 := 0
  sigs : List Nat := []
  update : Bool := false
  batch : Nat := 0
  loaded : Bool := false
  present : List W64 := []
  deriving DecidableEq, Repr

/-- A load of a stationary operand, under way or complete (spec/04_matrix_arrays.md R91, R93, R94): its job and pass, whether it goes by
moving front, the next tile of the operand to take, the first taken tile that reaches beyond the pass, the ring slot of the operand's first
tile, the operand's origin along N and its scale from that tile, whether the load is complete, and the K positions that each fixed tile of the
operand holds, as far as the tiles have been taken. -/
structure StatLoad where
  job : Nat
  pass : Nat
  front : Bool := false
  next : Nat := 0
  keep : Option Nat := none
  slot : Option Nat := none
  org : Option Nat := none
  scale : Int := 0
  done : Bool := false
  seen : List (Nat × Nat) := []
  deriving DecidableEq, Repr

/-- A matrix array (spec/04_matrix_arrays.md): its task and jobs, its place in the job (block, pass, moving vector), the active
and shadow stationary codes by position in pass · 6144 + logical column, the load into them and whether the active ones hold the present
pass's operand, the tile at which the next pass's load begins, the column store by row in block · 6144 + logical
column, the occupancy of the skid buffers, the column groups that are on, the jobs it has done, the rows of the block whose outputs have left,
the tensor origins and scales of its operands, the output tiles counted in SPAN_COUNT, whether it is ramping, and the options of WING_MA_CFG
that its latest task took with it, FORCE_FRONT and GATE_IDLE (R114); and of operands in fixed tiles that the running job has read, the K positions
of the stationary tiles and the headers of the moving ones, in tile order (R107). -/
structure ArrayU where
  busy : Bool := false
  ctx : Nat := 0
  task : Nat := 0
  job : Nat := 0
  started : Bool := false
  block : Nat := 0
  pass : Nat := 0
  vec : Nat := 0
  lastOut : Bool := false
  active : Tbl Nat := []
  shadow : Tbl Nat := []
  load : Option StatLoad := none
  loaded : Bool := false
  statFrom : Nat := 0
  statSlot : Option Nat := none
  store : Tbl ChainSt := []
  skidIn : List Nat := List.replicate 24 0
  skidOut : List Nat := List.replicate 16 0
  groupsOn : BitVec 16 := 0
  front : Bool := true
  force : Bool := false
  doneJobs : List Nat := []
  emitted : Nat := 0
  nOrg : Option Nat := none
  mOrg : Option Nat := none
  eS : Int := 0
  eM : Int := 0
  spans : List Nat := []
  ramp : Bool := false
  cfg : Option (Nat × Nat) := none
  statSeen : List (Nat × Nat) := []
  movSeen : List (List Byte) := []
  deriving DecidableEq, Repr

/-- A barrier start group: the arrays still to start, in the order of R112, each with its start cycle after the release, the device time of
the release, the lowest wing that the group uses, and whether its starts have begun. -/
structure StartGroup where
  queue : List (Nat × Nat)
  time : Nat := 0
  wing : Nat := 0
  begun : Bool := false
  deriving DecidableEq, Repr

/-- A slot of a stream's ring (spec/06_gallery_streams_tiles.md R167): while it fills, the source address, the uses and the list
position of its entry; while it is full, the uses left. -/
inductive SlotSt where
  | empty
  | filling (addr uses pos : Nat)
  | full (uses : Nat)
  deriving DecidableEq, Repr

/-- A stream unit (R165 to R172). `list` holds the place of the command list in use; a deposit stream takes its list from a
shelf instead (spec/08_backward_and_deposit.md R232). `next` is the next list entry, `ring` the next ring slot, `writing` the slot being written to a tier with its address, `unfolded` the
number of tiles fetched that no check-value channel has folded in yet, `first` the ring slot of the list's entry 0, `reader` the place of an
in-stream's consumer and `writer` that of an out-stream's producer. -/
structure Stream where
  held : Bool := false
  ctx : Nat := 0
  task : Nat := 0
  ent : StreamEntry := {}
  listBase : Nat := 0
  listCount : Nat := 0
  next : Nat := 0
  ring : Nat := 0
  reader : Nat := 0
  writer : Nat := 0
  slots : List SlotSt := []
  writing : Option (Nat × Nat) := none
  rearm : Option (Nat × Nat) := none
  rearmed : Option Nat := none
  first : Nat := 0
  dep : Option (Nat × Nat) := none
  depVoid : Bool := false
  depUses : Nat := 1
  faulted : Bool := false
  unfolded : Nat := 0
  deriving DecidableEq, Repr

/-- A tile mover at work (R176): its item of the move table, the next tile of the run, the prefetch entry it carries, and while the tile
is MOVING the 32 bytes of its catalogue entry before step 1 (spec/07_memory_tiers.md R215). -/
structure Mover where
  held : Bool := false
  ctx : Nat := 0
  task : Nat := 0
  wing : Nat := 0
  item : Nat := 0
  tile : Nat := 0
  due : Option Nat := none
  saved : Option (List Byte) := none
  deriving DecidableEq, Repr

/-- A courier queue (R178 to R180), with the entry in progress. -/
structure Courier where
  held : Bool := false
  ctx : Nat := 0
  task : Nat := 0
  bind : CourierBind := {}
  posted : Nat := 0
  taken : Nat := 0
  busy : Bool := false
  entry : List Byte := []
  stopped : Bool := false
  deriving DecidableEq, Repr

/-- The home of a deposit position (spec/08_backward_and_deposit.md R231, R228). -/
inductive DepHome where
  | waiting | near | board | void | released
  deriving DecidableEq, Repr

/-- A deposit shelf (R230 to R240): its table entry, TOP, the positions held with their homes, the marked positions. -/
structure Shelf where
  held : Bool := false
  ctx : Nat := 0
  ent : ShelfEntry := {}
  top : Nat := 0
  homes : Tbl DepHome := []
  marked : List Nat := []
  broken : Bool := false
  deriving DecidableEq, Repr

/-- A stack beside its registers (spec/07_memory_tiers.md R189 to R197): the temperature at which each channel was last trained,
probe and scrub positions of each pseudo-channel, the farthest slot that an access to each bank has taken and the slot of its latest access (slot numbers plus one), the first slot of each pseudo-channel that is
still to come, the later slots that a read-modify-write has taken, the channel in re-training, the
requests it holds, the running eye scan, the words corrected lately (channel, device time, words) and the channels whose probe found a
low margin. -/
structure Stack where
  trained : Tbl Nat := []
  probe : Tbl Nat := []
  point : Tbl Int := []
  scrub : Tbl Nat := []
  banks : Tbl Nat := []
  latest : Tbl Nat := []
  comes : Tbl Nat := []
  second : List (Nat × Nat) := []
  refreshed : Tbl Nat := []
  recent : List (Nat × Nat × Nat) := []
  low : List Nat := []
  retrain : Option Nat := none
  held : List Access := []
  eye : Option (BitVec 32) := none
  deriving DecidableEq, Repr

/-- A request outstanding at a board-tier port (R202, R205), and whether a host-copy share issued it. -/
structure BtReq where
  tag : Nat
  line : Nat
  lines : Nat
  acc : Access
  share : Bool := false
  deriving DecidableEq, Repr

/-- A board-tier port beside its registers: credits, outstanding requests, tags kept after a timeout, the
answers to configuration reads and the events of the TB2, the tags of configuration requests, the configuration requests (write,
offset, data) that wait for a header credit, the first slot still to come, and the messages
sent. -/
structure BtPort where
  hdrCr : Nat := 0
  dataCr : Nat := 0
  out : List BtReq := []
  late : List Nat := []
  cfg : List (List Byte) := []
  events : List (List Byte) := []
  cfgOut : List Nat := []
  cfgDue : List (Bool × Nat × Nat) := []
  comes : Nat := 0
  sent : List (List Byte) := []
  deriving DecidableEq, Repr

/-- A read outstanding on a legacy flash namespace (R210): its command identifier, landing buffer, address and purpose. -/
structure LfRead where
  cid : Nat
  buffer : Nat
  addr : Nat
  stream : Option (Nat × Nat) := none
  mover : Option Nat := none
  data : List Byte := []
  ready : Bool := false
  deriving DecidableEq, Repr

/-- A legacy flash namespace (R209): the fields of its table entry, the queue positions with the phase of the completion
queue, and the reads outstanding. -/
structure FlashNs where
  valid : Bool := false
  sqDb : Nat := 0
  cqDb : Nat := 0
  nsid : Nat := 0
  qdepth : Nat := 2
  lbaShift : Nat := 12
  blocks : Nat := 0
  sqTail : Nat := 0
  cqHead : Nat := 0
  phase : Bool := true
  nextCid : Nat := 0
  reads : List LfRead := []
  deriving DecidableEq, Repr

/-- A transport message (spec/11_ralda_link.md R314). -/
structure Msg where
  kind : Nat := 1
  hops : Nat := 1
  hop : Nat := 0
  dstWing : Nat := 0
  srcDev : Nat := 0
  dstDev : Nat := 0
  queue : Nat := 0
  route : BitVec 20 := 0
  op : Nat := 0
  index : Nat := 0
  count : Nat := 0
  time : Nat := 0
  payload : List Byte := []
  deriving DecidableEq, Repr

/-- A link port beside its registers (R309 to R313): the next sequence number to send, the last one received in order, the
replay buffer, the credits for each class and those owed to the peer, the received flit payloads of each class that no message has
used up yet, the bytes of each class that wait for a flit with the task that sends them, the flits that wait to be replayed, the discard mark, the
replays of one SEQ in a row, the map of logical lanes, the uncorrectable codewords of the last millisecond (lane, device time), the failed lanes
that wait for a replacement, isolation, and the flits sent. -/
structure Port where
  txSeq : Nat := 0
  rxSeq : Nat := 4095
  replay : List (List Byte) := []
  cr0 : Nat := 0
  cr1 : Nat := 0
  owe0 : Nat := 0
  owe1 : Nat := 0
  rx0 : List (List Byte) := []
  rx1 : List (List Byte) := []
  wait0 : List (Option (Nat × Nat) × List Byte) := []
  wait1 : List (Option (Nat × Nat) × List Byte) := []
  resend : List (List Byte) := []
  discard : Bool := false
  replays : Nat := 0
  lanes : List Nat := []
  badWords : List (Nat × Nat) := []
  replacing : List Nat := []
  isolated : Bool := false
  flits : List (List Byte) := []
  flitCount : Nat := 0
  deriving DecidableEq, Repr

/-- A receive queue (R316): its binding, the slots in use and the messages among them that CWAIT has taken, the latest sender, every
device that has sent to it with the port and the links of its messages, and the senders of the messages in its slots, oldest first. -/
structure RQueue where
  held : Bool := false
  ctx : Nat := 0
  bind : QueueBind := {}
  wr : Nat := 0
  rd : Nat := 0
  used : Nat := 0
  taken : Nat := 0
  src : Nat := 0
  hops : Nat := 1
  port : Nat := 0
  nextIndex : Nat := 0
  heard : List (Nat × Nat × Nat) := []
  froms : List (Nat × Nat × Nat) := []
  deriving DecidableEq, Repr

/-- The state of an entry of the sequence table (spec/10_attention_kv.md R290). -/
inductive SeqState where
  | free | open | waiting | releasing
  deriving DecidableEq, Repr

/-- An entry of the sequence table (R290), and whether a KV_RELEASE of a descriptor waits on it. -/
structure Seq where
  state : SeqState := .free
  wing : Nat := 0
  fmt : Nat := 0
  h : Nat := 0
  dcode : Nat := 0
  ctx : Nat := 0
  vslot : Nat := 0
  scale : Int := 0
  t : Nat := 0
  len : Nat := 0
  rootBase : Nat := 0
  pages : Nat := 0
  vfull : Bool := false
  flushed : Nat := 0
  release : Option Nat := none
  deriving DecidableEq, Repr

/-- A suspended append in waiting order (R296), with the pages that its flush has taken and not yet written (R354). -/
structure KvWait where
  seq : Nat
  ctx : Nat
  task : Nat
  pages : List Nat := []
  deriving DecidableEq, Repr

/-- The state of one (query head, row) pair of an attend task (R279). -/
structure RowSt where
  m : BitVec 32 := 0xFF800000
  l : BitVec 32 := 0
  acc : List (BitVec 32) := []
  seen : Bool := false
  deriving DecidableEq, Repr

/-- The state of an attend task: the key block and, with keys from streams, the head that come next, the number of keys, the sequence,
the rows by head and row, the output tiles written, and whether all of them are. -/
structure AttendSt where
  block : Nat := 0
  head : Nat := 0
  keyEnd : Nat := 0
  seq : Nat := 0
  rows : Tbl RowSt := []
  outs : Nat := 0
  done : Bool := false
  deriving DecidableEq, Repr

/-- The life of a task (spec/08_backward_and_deposit.md R243, spec/03_exact_path.md R81). -/
inductive TaskState where
  | idle | armed | running | suspended | completed | aborted | cancelled
  deriving DecidableEq, Repr

/-- The state of a send entry of a running task (R317, R322 to R324): messages sent, credits of each receiver port, detached
receivers with their first missing index and whether their recall has ended. -/
structure SendSt where
  nexts : Tbl Nat := []
  credits : Tbl Nat := []
  detached : Tbl Nat := []
  recallEnded : List Nat := []
  recalling : Tbl Nat := []
  deriving DecidableEq, Repr

/-- The state of a barrier task (R327): whether its ARRIVE or token has gone out, and the release time. -/
structure BarrierSt where
  sentUp : Bool := false
  release : Option Nat := none
  deriving DecidableEq, Repr

/-- One task of an admitted program as it runs. `gens` are the set-up generations it started under (spec/13 R375); `jobs` the
vector jobs that have completed; `place` the position of an append in its token tiles, `prods` the product
reductions that it has converted, `prodTile` the output tiles of the next one that it has written, `grouped` whether its array jobs belong to a
barrier start group that has begun (spec/04_matrix_arrays.md R111), `depPos` the first position of each deposit binding by its stream unit. -/
structure TaskRt where
  st : TaskState := .idle
  status : Status := .ok
  detail : W64 := 0
  remote : Bool := false
  isVoid : Bool := false
  inRun : Bool := false
  fill : Bool := false
  epochOld : Bool := false
  gens : List Nat := []
  rep : Tbl SmRep := []
  jobs : List Nat := []
  place : Nat := 0
  flushing : Bool := false
  att : Option AttendSt := none
  sends : Tbl SendSt := []
  bar : Option BarrierSt := none
  movesDone : List Nat := []
  prods : List Nat := []
  prodTile : Nat := 0
  grouped : Bool := false
  depPos : Tbl Nat := []
  deriving DecidableEq, Repr

/-- A header of a gradient chunk as the owner merges it (spec/09_ledger_reduction_update.md R252). -/
structure ChunkHdr where
  contribs : Nat := 0
  flags : BitVec 4 := 0
  cbreach : Bool := false
  excess : Nat := 0
  cexcess : Nat := 0
  nfcount : Nat := 0
  nfindex : Nat := 0xFFFFFFFFFFFF
  expmax : Int := -32768
  nfdev : Nat := 0xFFFF
  deriving DecidableEq, Repr

/-- A chunk at its owner or combiner: the merged header, the codes of the summed elements, their scale exponent, and once it is reduced its
norm value. -/
structure ChunkAcc where
  hdr : ChunkHdr := {}
  elems : List Nat := []
  scale : Int := 0
  reduced : Bool := false
  norm : Nat := 0
  deriving DecidableEq, Repr

/-- The step summary (R258). -/
structure Summary where
  normSq : BitVec 96 := 0
  flags : BitVec 4 := 0
  cbreach : Bool := false
  excess : Nat := 0
  cexcess : Nat := 0
  nexcess : Nat := 0
  nfcount : Nat := 0
  nfindex : Nat := 0xFFFFFFFFFFFF
  expmax : Int := -32768
  nfdev : Nat := 0xFFFF
  round : Nat := 0
  step : Nat := 0
  deriving DecidableEq, Repr

/-- A ledger step entry at work: the ledger state record the reduction control keeps (R248), the chunks of the round, the
latest final summary, the children's summaries merged so far and the children heard, the abort mark with its rank, the telemetry sums of its
groups, and the descriptors of the groups that the step has updated as they were before. -/
structure LedgerRt where
  step : Nat := 0
  lscale : Int := 0
  lscaleNext : Int := 0
  rscale : Int := 0
  round : Nat := 0
  outcome : Nat := 0
  norm : BitVec 64 := 0
  clip : BitVec 32 := 0x3F800000
  telDrops : Nat := 0
  chunks : Tbl ChunkAcc := []
  sum : Summary := {}
  kids : Summary := {}
  heard : BitVec 16 := 0
  sentUp : Bool := false
  roundScale : Int := 0
  verdict : Option Status := none
  mark : Option (Nat × Nat) := none
  telW : Tbl Nat := []
  telD : Tbl Nat := []
  telOvf : List Nat := []
  telRecs : Tbl Nat := []
  telDue : Bool := false
  undo : Tbl (List Byte) := []
  deriving DecidableEq, Repr

/-- A running RUN (spec/12_rings_contexts_rota.md R340). -/
structure RunRt where
  desc : Nat
  entry : Nat
  seqList : List Nat := []
  detached : Nat := 0
  deriving DecidableEq, Repr

/-- The small traffic of a reduction group beside ledger steps (spec/11_ralda_link.md R320): the children heard, the words merged so far, and
whether this member's have gone up. -/
structure SmallRt where
  heard : BitVec 16 := 0
  vals : List Nat := []
  sentUp : Bool := false
  deriving DecidableEq, Repr

/-- An admitted program (R343). -/
structure Prog where
  cert : Cert := {}
  openMode : Bool := false
  image : Nat := 0
  tasks : Tbl TaskRt := []
  run : Option RunRt := none
  sm : SmTable := {}
  merged : Tbl SmRep := []
  ledgers : List LedgerRt := []
  products : Tbl ChunkAcc := []
  prodHdr : Tbl ChunkHdr := []
  wideCounts : Tbl Nat := []
  smalls : Tbl SmallRt := []
  frozen : List Nat := []
  prefetchAt : List Nat := []
  prefetchDone : List (Nat × Nat) := []
  uses : Tbl Nat := []
  arrived : Tbl Nat := []
  markRunning : Option Nat := none
  telSeq : Nat := 0
  deriving DecidableEq, Repr

/-- What has become of a fetched descriptor (R338, R339). -/
inductive DescState where
  | waiting | started | done
  deriving DecidableEq, Repr

/-- A fetched descriptor: its submission index, its 64 bytes, its state, and whether it runs under the previous protection epoch. -/
structure Desc where
  idx : Nat
  bytes : List Byte
  st : DescState := .waiting
  epochOld : Bool := false
  deriving DecidableEq, Repr

/-- A completion record as it is formed (R345). -/
structure CRec where
  tag : Nat
  status : Status
  opcode : Nat
  detail : W64 := 0
  time : Nat := 0
  task : Nat := 0xFFFFFFFF
  remote : Bool := false
  interim : Bool := false
  irqNow : Bool := false
  deriving DecidableEq, Repr

/-- A context beside its registers. -/
structure Context where
  descs : List Desc := []
  sqTail : Nat := 0
  recs : List CRec := []
  irqCount : Nat := 0
  irqArmed : Bool := false
  prog : Option Prog := none
  loading : Option Prog := none
  unloading : Option Nat := none
  dropRecs : Bool := false
  deriving DecidableEq, Repr

/-- A slot of a rota (R353, R354): owner, fill context and length in µs. -/
structure RotaSlot where
  owner : Option Nat := none
  fill : Option Nat := none
  len : Nat := 1000
  deriving DecidableEq, Repr

structure Rota where
  slots : List RotaSlot := [{}]
  fillMax : Nat := 0
  deriving DecidableEq, Repr

/-- A wing's rota as it runs: present slot and when it began, and the time since which a task has held the wing past its run; and what
the scheduler saw at its last look in this slot, if it has looked: the tasks (context and task) that ran and those that were ready. -/
structure WingRota where
  rota : Rota := {}
  cur : Nat := 0
  began : Nat := 0
  overrun : Option Nat := none
  looked : Bool := false
  ran : List (Nat × Nat) := []
  waited : List (Nat × Nat) := []
  deriving DecidableEq, Repr

/-- An entry of a protection table (spec/13_boot_protection_setup.md R366, PROT_STAGE), kept by 16·d + e. -/
structure ProtEntry where
  valid : Bool := false
  read : Bool := false
  write : Bool := false
  base : Nat := 0
  last : Nat := 0
  deriving DecidableEq, Repr

/-- A set-up scope (R374 to R376): the generation, the set in force and the one before it (register words by key),
and a held snapshot. -/
structure Scope where
  gen : Nat := 0
  cur : Tbl Nat := []
  prev : Tbl Nat := []
  held : Option (Tbl Nat) := none
  deriving DecidableEq, Repr

/-- An event record (spec/15_integrity_records_guarantees.md R419), without its number. -/
structure EvRec where
  time : Nat := 0
  source : Nat := 0
  code : Nat := 0
  severity : Nat := 0
  ctx : Option Nat := none
  payload : List Byte := []
  seq : Nat := 0
  deriving DecidableEq, Repr

/-- The event recorder (R419 to R427): day book and accession register by index, the highest number stored, the next number to
mirror, the copies in NOR (of the day book the latest 4,096 copied, oldest first), the records the custodian holds before boot step 8, and the closing of a power loss. -/
structure Recorder where
  day : Tbl EvRec := []
  acc : List EvRec := []
  last : Nat := 0
  copied : Nat := 0
  accCopied : Nat := 0
  norDay : List EvRec := []
  norAcc : List EvRec := []
  held : List EvRec := []
  restored : Bool := false
  falling : Bool := false
  closed : Bool := false
  mirrorOff : Bool := false
  deriving DecidableEq, Repr

/-- The block of one die in the condition report (spec/14_clocks_power_condition.md R401). Voltages in units of 0.1 mV, shifts
in units of 0.1 ps. -/
structure DieBlock where
  vmax : Nat := 0
  gb : Nat := 0
  topState : Nat := 0
  retired : BitVec 15 := 0
  shiftMax : Int := 0
  worst : Nat := 0
  monFailed : Nat := 0
  s : Nat := 0
  vPlan : List Nat := List.replicate 15 0
  deriving DecidableEq, Repr

/-- The condition report (R401). -/
structure Report where
  generation : Nat := 0
  eol : BitVec 2 := 0
  lost : Bool := false
  seq : Nat := 0
  opSeconds : Nat := 0
  nextPlan : Nat := 0
  boots : Nat := 0
  plans : Nat := 0
  dies : List DieBlock := [{}, {}]
  stacksOut : BitVec 20 := 0
  veOut : BitVec 32 := 0
  arraysOut : BitVec 8 := 0
  stackUe : List Nat := List.replicate 20 0
  ueWindow : Nat := 0
  shifts : List (Option Int) := []
  sig : List Byte := []
  deriving DecidableEq, Repr

/-- Ageing (R395 to R402): the report in use, the two copies in NOR and which of them is in use, a running plan, the operating
seconds at the last READY and its device time, and the units that failed built-in test at the last boot. -/
structure Cond where
  rep : Report := {}
  copyA : Option Report := none
  copyB : Option Report := none
  useB : Bool := false
  planning : Bool := false
  opBase : Nat := 0
  readyAt : Nat := 0
  arrayFails : BitVec 8 := 0
  veFails : BitVec 32 := 0
  deriving DecidableEq, Repr

/-- Power, clocks, heat and droop (R378 to R394). `cpllLost` tells the dies whose CPLL has lost lock. -/
structure Power where
  lp : Nat := 0
  lt : Nat := 0
  lm : Nat := 0
  alertHold : Bool := false
  forceReg : Bool := false
  forceCorr : Bool := false
  trip : Bool := false
  samples : List Nat := []
  target : Nat := 0
  cpll : Bool := false
  cpllLost : List Bool := [false, false]
  fpll : Bool := false
  onFpll : Bool := false
  computeOn : Bool := false
  trims : List Nat := [0, 0]
  stretch : List Bool := [false, false]
  stretched : List Nat := [0, 0]
  hot : Bool := false
  cool : Bool := true
  deriving DecidableEq, Repr

/-- The phases of the supply (spec/16_module_electrical.md R447 to R450). -/
inductive Rail where
  | off | charging | ready | rising | on | falling
  deriving DecidableEq, Repr

/-- The sideband pins (R446): true means asserted for the active-low signals, and for PWR_EN that the module has seen it asserted
since its rails were last off; `input` is true while the input stands at 40 V (R447, R448). -/
structure Pins where
  input : Bool := true
  perst : Bool := true
  pwrEn : Bool := true
  pwrGood : Bool := true
  vrAlert : Bool := false
  thermTrip : Bool := false
  smbAlert : Bool := false
  slotId : BitVec 5 := 0
  btMode : Bool := false
  slotIdS : BitVec 5 := 0
  btModeS : Bool := false
  deriving DecidableEq, Repr

/-- The fuses (spec/13 R362, spec/14 R392, spec/15 R415). Voltages in units of 0.1 mV, S in 0.01 mV/ps, delays in 0.1 ps;
the delay, the voltage coefficient and the temperature coefficient of a condition monitor by its number, 0 to 255. -/
structure Fuses where
  generation : Nat := 0
  svnFloor : Nat := 0
  keyRevoked : BitVec 4 := 0
  vendorKeys : List (List Byte) := []
  vFuse : List (List Nat) := [List.replicate 15 0, List.replicate 15 0]
  vmax : List Nat := [0, 0]
  sCoef : List Nat := [0, 0]
  d0 : Tbl Int := []
  coefV : Tbl Int := []
  coefT : Tbl Int := []
  idKey : List Byte := List.replicate 96 0
  deriving DecidableEq, Repr

/-- The boot in progress (spec/13 R358): the digest once formed, the SVN of the image, the BTP_CFG.MODE of each port at GO
(spec/07 R199), and the dies that are left out (spec/14 R398). -/
structure Boot where
  digest : Option (List Byte) := none
  svn : Nat := 0
  modes : List Bool := []
  outDies : List Nat := []
  t0 : Bool := false
  started : Bool := false
  deriving DecidableEq, Repr

/-- A running SCAN, DIGEST or ATTEST (spec/15 R406, R410, R413). -/
structure Engaged where
  ctx : Nat
  desc : Nat
  unit : Nat
  deriving DecidableEq, Repr

/-- A digest slot (R412). -/
structure DigSlot where
  valid : Bool := false
  mode : Bool := false
  ctx : Nat := 0
  digest : List Byte := []
  count : Nat := 0
  deriving DecidableEq, Repr

/-- A check-value channel (R409). -/
structure Chan where
  held : Bool := false
  ctx : Nat := 0
  bind : ChanBind := {}
  value : W64 := 0
  deriving DecidableEq, Repr

/-- A reply of the custodian on one path (R433, R454). -/
structure Reply where
  path : Path
  cmd : Nat
  status : Status
  data : List Byte
  deriving DecidableEq, Repr

/-- Why a step stops with a fault: no command of this block does, so the type has one constructor that nothing raises. -/
inductive Fault where
  /-- Raised by nothing: every error of the block is a status, a record or a flag (safe). -/
  | none
  deriving DecidableEq, Repr

/-- Why a command has no meaning here. -/
inductive Refusal where
  /-- Raised by an arm of `exec` whose meaning is not written; safe, since the run stops. -/
  | notModelled (mnemonic : String)
  deriving DecidableEq, Repr

/-- The state of the module. BAR0 registers lie in `regs` by `Reg` key, an unlisted one holding its reset value;
`wcMem` is the number of the free value that stands for the private memories of the wing controllers since READY (log 134); `accs` holds the
eighths of cycles that a counter of cycles has counted beyond its whole units. -/
structure State where
  regs : Tbl Nat := []
  mem : Mem := []
  hmem : Mem := []
  img : Mem := []
  land : Mem := []
  wcMem : Option Nat := none
  poison : List Nat := []
  corrected : List Nat := []
  fuse : Fuses := {}
  pins : Pins := {}
  rail : Rail := .on
  railTried : Bool := false
  boot : Boot := {}
  time : Nat := 0
  timeRun : Bool := false
  rate : Int := 0
  syncGood : Nat := 0
  timeSet : Bool := false
  syncStamps : List Nat := []
  certs : List (Nat × Cert) := []
  ctx : Tbl Context := []
  irqOut : List (Nat × Nat) := []
  msixOpen : List (Nat × Nat) := []
  msixPend : List (Nat × Nat) := []
  ev : Tbl W32 := []
  evOwn : Tbl Nat := []
  arr : Tbl ArrayU := []
  starts : List StartGroup := []
  eng : Tbl Engine := []
  strm : Tbl Stream := []
  mov : Tbl Mover := []
  cour : Tbl Courier := []
  shelf : Tbl Shelf := []
  stk : Tbl Stack := []
  bt : Tbl BtPort := []
  lf : Tbl FlashNs := []
  port : Tbl Port := []
  rq : Tbl RQueue := []
  seqs : Tbl Seq := []
  kvWait : List KvWait := []
  smq : List SmCmd := []
  rota : Tbl WingRota := []
  rotaPend : List (Nat × Rota) := []
  rotaAt : Nat := 0
  accs : Tbl Nat := []
  protStage : Tbl ProtEntry := []
  protAct : Tbl ProtEntry := []
  protPrev : Tbl ProtEntry := []
  protHeld : Option (Tbl ProtEntry) := none
  scope : Tbl Scope := []
  hold : List Byte := List.replicate 64 0
  evr : Recorder := {}
  cond : Cond := {}
  pwr : Power := {}
  scans : List Engaged := []
  digs : List Engaged := []
  atts : List Engaged := []
  slots : Tbl DigSlot := []
  chan : Tbl Chan := []
  replies : List Reply := []
  eids : List (Path × Nat) := []
  freeCtr : Nat := 0
  pending : List Instr := []
  deriving DecidableEq, Repr

/-- The module right after a fundamental reset, with its rails on and PERST_N asserted, before firmware runs
(spec/17_register_index.md R459). The values the specification does not state are named in logs 2 to 6. -/
def State.reset : State := {}

end Sys2Proof.Machine
end

