-- ==== Sys2Proof/Machine/Tables.lean ====
section
/-! DEFINITION. Sparse tables in canonical form, runs of them, and bytes: little-endian numbers (spec/00_scope.md R8) and bit
fields. -/

namespace Sys2Proof.Machine

section
variable {α : Type}

/-- The entries of a run of values from key `k`, leaving out those equal to the default. -/
def Tbl.cells [DecidableEq α] (d : α) : Nat → List α → Tbl α
  | _, [] => []
  | k, x :: xs => if x = d then Tbl.cells d (k + 1) xs else (k, x) :: Tbl.cells d (k + 1) xs

/-- Write the run `xs` at keys `k`, `k + 1` and so on: entries below it, the run, entries above it. -/
def Tbl.setRun [DecidableEq α] (d : α) (m : Tbl α) (k : Nat) (xs : List α) : Tbl α :=
  m.filter (fun c => c.1 < k) ++ Tbl.cells d k xs ++ m.filter (fun c => k + xs.length ≤ c.1)

/-- The value at a key. -/
def Tbl.get (d : α) : Tbl α → Nat → α
  | [], _ => d
  | c :: m, k => if c.1 = k then c.2 else Tbl.get d m k

/-- Write one value. -/
def Tbl.set [DecidableEq α] (d : α) (m : Tbl α) (k : Nat) (x : α) : Tbl α := Tbl.setRun d m k [x]

/-- Change one value. -/
def Tbl.upd [DecidableEq α] (d : α) (m : Tbl α) (k : Nat) (f : α → α) : Tbl α := Tbl.set d m k (f (Tbl.get d m k))

/-- The `n` values from key `k` of entries whose keys rise from `k`. -/
def Tbl.runFrom (d : α) : Nat → Nat → Tbl α → List α
  | 0, _, _ => []
  | n + 1, k, [] => d :: Tbl.runFrom d n (k + 1) []
  | n + 1, k, c :: m => if c.1 = k then c.2 :: Tbl.runFrom d n (k + 1) m else d :: Tbl.runFrom d n (k + 1) (c :: m)

/-- The `n` values from key `k`. -/
def Tbl.getRun (d : α) (m : Tbl α) (k n : Nat) : List α :=
  Tbl.runFrom d n k (m.filter (fun c => k ≤ c.1 && c.1 < k + n))

/-- Apply a change to every listed value. -/
def Tbl.mapAll [DecidableEq α] (d : α) (m : Tbl α) (f : Nat → α → α) : Tbl α :=
  (m.map (fun c => (c.1, f c.1 c.2))).filter (fun c => !decide (c.2 = d))

/-- The canonical form: keys strictly rising and no entry equal to the default. -/
abbrev Tbl.Wf [DecidableEq α] (d : α) (m : Tbl α) : Prop :=
  m.Pairwise (fun a b => a.1 < b.1) ∧ ∀ c ∈ m, ¬ c.2 = d

end

/-- Element `i` of a list, or the default. -/
def nth {α : Type} (d : α) (l : List α) (i : Nat) : α := (l[i]?).getD d

/-- A list with element `i` replaced. -/
def setNth {α : Type} (l : List α) (i : Nat) (x : α) : List α := l.set i x

/-- The first index whose element satisfies `f`, from index `i`. -/
def indexFrom {α : Type} (f : α → Bool) : List α → Nat → Option Nat
  | [], _ => none
  | x :: xs, i => if f x then some i else indexFrom f xs (i + 1)

/-- Remove one element by a test. -/
def dropOne {α : Type} (f : α → Bool) : List α → List α
  | [] => []
  | x :: xs => if f x then xs else x :: dropOne f xs

/-- Repeat a change `n` times. -/
def times {α : Type} : Nat → (α → α) → α → α
  | 0, _, x => x
  | n + 1, f, x => times n f (f x)

/-- Bits [lo + w − 1 : lo] of a number. -/
def bits (x lo w : Nat) : Nat := x / 2 ^ lo % 2 ^ w

/-- A number with bits [lo + w − 1 : lo] replaced. -/
def setBits (x lo w v : Nat) : Nat := x - bits x lo w * 2 ^ lo + v % 2 ^ w * 2 ^ lo

/-- A w-bit two's complement number. -/
def signed (w x : Nat) : Int := if x % 2 ^ w < 2 ^ (w - 1) then (x % 2 ^ w : Nat) else (x % 2 ^ w : Nat) - (2 ^ w : Nat)

/-- The w-bit two's complement code of an integer. -/
def unsigned (w : Nat) (x : Int) : Nat := (x % (2 ^ w : Nat)).toNat

/-- The n bytes of a number, least significant first. -/
def leBytes : Nat → Nat → List (BitVec 8)
  | 0, _ => []
  | n + 1, x => BitVec.ofNat 8 x :: leBytes n (x / 256)

/-- The number that bytes spell, least significant first. -/
def leNat : List (BitVec 8) → Nat
  | [] => 0
  | b :: bs => b.toNat + 256 * leNat bs

/-- The number of n bytes from byte `o` of a list. -/
def field (l : List (BitVec 8)) (o n : Nat) : Nat := leNat ((l.drop o).take n)

/-- A list padded with zero bytes, or cut, to n bytes. -/
def pad (n : Nat) (l : List (BitVec 8)) : List (BitVec 8) := (l ++ List.replicate (n - l.length) 0).take n

/-- All listed bytes are zero. -/
def zeros (l : List (BitVec 8)) : Bool := l.all (· == 0)

/-- A counter that stops at the largest value of its width. -/
def satAdd (w x n : Nat) : Nat := if x + n < 2 ^ w then x + n else 2 ^ w - 1

/-- The greater of two integers, and of a list with a start. -/
def maxInt (l : List Int) (d : Int) : Int := l.foldl (fun a b => if a < b then b else a) d

/-- ⌈a / b⌉ for b > 0. -/
def ceilDiv (a b : Nat) : Nat := (a + b - 1) / b

/-- The least r with 2^r ≥ x. -/
def clog2 (x : Nat) : Nat := if x ≤ 1 then 0 else Nat.log2 (x - 1) + 1

end Sys2Proof.Machine
end

