-- ==== Sys2Proof/Machine/Formats.lean ====
section
/-! DEFINITION. The number formats, rounding and conversion (spec/02_number_formats.md R22 to R45): codes and their values, the
rounding modes, stochastic rounding, conversion into every format, and the reports of converting units. -/

namespace Sys2Proof.Machine

/-! ### Exact dyadic arithmetic -/

def Dy.zero (d : Dy) : Bool := d.m == 0

/-- ⌊log2 |d|⌋ for d ≠ 0. -/
def Dy.lg (d : Dy) : Int := d.e + (Nat.log2 d.m : Nat)

/-- d · 2^k. -/
def Dy.shift (d : Dy) (k : Int) : Dy := { d with e := d.e + k }

/-- The integer of d in units of 2^q, for q at most the exponent of d. -/
def Dy.units (d : Dy) (q : Int) : Int :=
  let n : Int := d.m * 2 ^ (d.e - q).toNat
  if d.neg then -n else n

/-- n · 2^q as a dyadic number; zero is +0. -/
def Dy.ofInt (n : Int) (q : Int) : Dy := { neg := n < 0, m := n.natAbs, e := q }

def Dy.neg' (d : Dy) : Dy := { d with neg := !d.neg }

def Dy.mul (a b : Dy) : Dy := { neg := a.neg != b.neg, m := a.m * b.m, e := a.e + b.e }

/-- Exact sum; a zero sum is +0 (callers that need −0 decide it themselves). -/
def Dy.add (a b : Dy) : Dy :=
  if a.m = 0 then (if b.m = 0 then { e := 0 } else b)
  else if b.m = 0 then a
  else
    let q := min a.e b.e
    Dy.ofInt (a.units q + b.units q) q

/-- |a| < |b|. -/
def Dy.ltMag (a b : Dy) : Bool :=
  if a.m = 0 then !b.zero
  else if b.m = 0 then false
  else if a.lg < b.lg then true
  else if b.lg < a.lg then false
  else
    let q := min a.e b.e
    decide ((a.units q).natAbs < (b.units q).natAbs)

/-- a < b as numbers; +0 and −0 are equal. -/
def Dy.lt (a b : Dy) : Bool :=
  let q := min a.e b.e
  decide (a.units q < b.units q)

def Dy.eqv (a b : Dy) : Bool :=
  let q := min a.e b.e
  decide (a.units q = b.units q)

/-! ### Rounding (R36, R37) -/

/-- Round the magnitude m · 2^e, with a further part below it when `sticky`, to a multiple of 2^q. Modes: 0 RNE, 1 RTZ, 2 RTO,
3 SR with the 32-bit number r. A sticky part is less than one unit of m, and then q exceeds e by at least 2. -/
def roundMag (mode : Nat) (r m : Nat) (e : Int) (sticky : Bool) (q : Int) : Nat :=
  if q ≤ e then m * 2 ^ (e - q).toNat
  else
    let k := (q - e).toNat
    let lo := m / 2 ^ k
    let rem := m % 2 ^ k
    match mode with
    | 0 => if 2 ^ k < 2 * rem ∨ (2 * rem = 2 ^ k ∧ (sticky ∨ lo % 2 = 1)) then lo + 1 else lo
    | 1 => lo
    | 2 => if (rem ≠ 0 ∨ sticky) ∧ lo % 2 = 0 then lo + 1 else lo
    | _ => if 2 ^ 32 ≤ rem * 2 ^ 32 / 2 ^ k + r then lo + 1 else lo

/-! ### Format codes (R22 to R28) -/

/-- The kinds of special codes of a floating layout (R23). -/
inductive Spec where
  | infNan | nanOnly | noSpec
  deriving DecidableEq, Repr

/-- A floating layout s/e/f with its bias. -/
structure FloatFmt where
  e : Nat
  f : Nat
  bias : Nat
  spec : Spec
  deriving DecidableEq, Repr

def f64 : FloatFmt := ⟨11, 52, 1023, .infNan⟩
def f32 : FloatFmt := ⟨8, 23, 127, .infNan⟩
def e8m31 : FloatFmt := ⟨8, 31, 127, .infNan⟩
def e11m44 : FloatFmt := ⟨11, 44, 1023, .infNan⟩
def e12m83 : FloatFmt := ⟨12, 83, 2047, .infNan⟩

/-- The floating layouts of R22 by format code. -/
def floatFmt : Nat → Option FloatFmt
  | 0x00 => some f64
  | 0x01 => some f32
  | 0x02 => some ⟨5, 10, 15, .infNan⟩
  | 0x03 => some ⟨8, 7, 127, .infNan⟩
  | 0x04 => some ⟨9, 6, 255, .infNan⟩
  | 0x05 => some ⟨8, 39, 127, .infNan⟩
  | 0x06 => some ⟨5, 2, 15, .infNan⟩
  | 0x07 => some ⟨4, 3, 7, .nanOnly⟩
  | 0x08 => some ⟨3, 2, 3, .noSpec⟩
  | 0x09 => some ⟨2, 3, 1, .noSpec⟩
  | 0x0A => some ⟨2, 1, 1, .noSpec⟩
  | _ => none

/-- Widths in bits (R22). -/
def fmtWidth : Nat → Nat
  | 0x00 => 64 | 0x01 => 32 | 0x02 => 16 | 0x03 => 16 | 0x04 => 16 | 0x05 => 48 | 0x06 => 8 | 0x07 => 8 | 0x08 => 6
  | 0x09 => 6 | 0x0A => 4 | 0x0B => 8 | 0x0C => 8 | 0x0D => 4 | 0x0E => 32 | 0x0F => 64 | 0x10 => 96 | _ => 0

/-- The format code is not reserved. -/
def fmtValid (c : Nat) : Bool := decide (c ≤ 0x10)

/-- The managed formats: the narrow formats and F16. -/
def fmtManaged (c : Nat) : Bool := c == 2 || (decide (6 ≤ c) && decide (c ≤ 0xA)) || c == 0xC || c == 0xD

/-- Integer formats with their width. -/
def intFmt : Nat → Option Nat
  | 0x0C => some 8 | 0x0D => some 4 | 0x0E => some 32 | _ => none

/-- Ledger formats with their width and bound (R30). -/
def ledFmt : Nat → Option (Nat × Nat)
  | 0x0F => some (64, 51) | 0x10 => some (96, 63) | _ => none

/-- The value of a floating code (R23). -/
def FloatFmt.value (t : FloatFmt) (c : Nat) : XVal :=
  let neg := c.testBit (t.e + t.f)
  let ex := bits c t.f t.e
  let fr := bits c 0 t.f
  let top := 2 ^ t.e - 1
  if ex = top ∧ t.spec = .infNan then (if fr = 0 then .inf neg else .nan)
  else if ex = top ∧ t.spec = .nanOnly ∧ fr = 2 ^ t.f - 1 then .nan
  else if ex = 0 then .fin ⟨neg, fr, 1 - (t.bias : Int) - t.f⟩
  else .fin ⟨neg, fr + 2 ^ t.f, (ex : Int) - t.bias - t.f⟩

/-- The value of a code of a format at ledger scale exponent s. -/
def valueOf (fmt : Nat) (c : Nat) (s : Int := 0) : XVal :=
  match floatFmt fmt with
  | some t => t.value c
  | none =>
    match fmt with
    | 0x0B => if c % 256 = 255 then .nan else .fin ⟨false, 1, (c % 256 : Nat) - (127 : Int)⟩
    | 0x0C => .fin (Dy.ofInt (signed 8 c) 0)
    | 0x0D => .fin (Dy.ofInt (signed 4 c) 0)
    | 0x0E => .fin (Dy.ofInt (signed 32 c) 0)
    | 0x0F => .fin (Dy.ofInt (signed 64 c) s)
    | 0x10 => .fin (Dy.ofInt (signed 96 c) s)
    | _ => .nan

def FloatFmt.sign (t : FloatFmt) (neg : Bool) : Nat := if neg then 2 ^ (t.e + t.f) else 0

/-- The code of the largest finite magnitude (R24 to R26). -/
def FloatFmt.maxCode (t : FloatFmt) : Nat :=
  match t.spec with
  | .infNan => (2 ^ t.e - 2) * 2 ^ t.f + (2 ^ t.f - 1)
  | .nanOnly => 2 ^ (t.e + t.f) - 2
  | .noSpec => 2 ^ (t.e + t.f) - 1

/-- The canonical NaN (R34), or the positive largest finite code of a format without NaN (R42). -/
def FloatFmt.nanCode (t : FloatFmt) : Nat :=
  match t.spec with
  | .infNan => (2 ^ t.e - 1) * 2 ^ t.f + 2 ^ (t.f - 1)
  | .nanOnly => 2 ^ (t.e + t.f) - 1
  | .noSpec => t.maxCode

def FloatFmt.infCode (t : FloatFmt) (neg : Bool) : Nat := (2 ^ t.e - 1) * 2 ^ t.f + t.sign neg

/-- The largest finite magnitude. -/
def FloatFmt.maxVal (t : FloatFmt) : Dy :=
  match t.value t.maxCode with
  | .fin d => d
  | _ => {}

/-- The exponent of the unit at which a magnitude d ≠ 0 is rounded, with no upper limit to the exponent (R40 step 3). -/
def FloatFmt.quantum (t : FloatFmt) (lg : Int) : Int := max lg (1 - (t.bias : Int)) - t.f

/-- The code of a finite value that the format holds exactly. -/
def FloatFmt.encode (t : FloatFmt) (d : Dy) : Nat :=
  if d.m = 0 then t.sign d.neg
  else
    let l := d.lg
    let q := t.quantum l
    let n := if q ≤ d.e then d.m * 2 ^ (d.e - q).toNat else d.m / 2 ^ (q - d.e).toNat
    let ex := if l < 1 - (t.bias : Int) then 0 else (l + t.bias).toNat
    (if ex = 0 then n else n - 2 ^ t.f + ex * 2 ^ t.f) + t.sign d.neg

/-- Round a finite value to the precision of a format. -/
def FloatFmt.round (t : FloatFmt) (mode r : Nat) (d : Dy) (sticky : Bool := false) : Dy :=
  if d.m = 0 then d
  else
    let q := t.quantum d.lg
    { neg := d.neg, m := roundMag mode r d.m d.e sticky q, e := q }

/-- Round a finite value into a wide floating format and encode it: beyond range RNE and SR give infinity, RTZ and RTO the
largest finite value (R42). The last component tells that the result is infinite. -/
def FloatFmt.pack (t : FloatFmt) (mode r : Nat) (d : Dy) (sticky : Bool := false) : Nat × Bool :=
  let x := t.round mode r d sticky
  if t.maxVal.ltMag x then
    (if mode = 1 ∨ mode = 2 then (t.maxCode + t.sign d.neg, false) else (t.infCode d.neg, true))
  else (t.encode x, false)

/-- The code that an operation gives for a value in a wide format, with RNE (R129). -/
def FloatFmt.ofX (t : FloatFmt) (mode : Nat) : XVal → Nat
  | .nan => t.nanCode
  | .inf n => t.infCode n
  | .fin d => (t.pack mode 0 d).1

/-! ### Stochastic rounding (R38) -/

def rotl64 (x n : Nat) : Nat := (x * 2 ^ n) % 2 ^ 64 + x / 2 ^ (64 - n)

/-- One round of the generator over (a, b, k). -/
def srRound (x : Nat × Nat × Nat) : Nat × Nat × Nat :=
  let a := rotl64 ((x.1 + (x.2.1 ^^^ x.2.2)) % 2 ^ 64) 23
  let b := ((x.2.1 ^^^ a) * 0x9E3779B97F4A7C15) % 2 ^ 64
  (a, b, (x.2.2 + 0xD1B54A32D192ED03) % 2 ^ 64)

/-- The 32-bit number of the generator for a seed, step, tensor id and flat index. -/
def srNumber (seed step tensor index : Nat) : Nat :=
  let x := times 6 srRound ((tensor % 2 ^ 32) * 2 ^ 32 + step % 2 ^ 32, index % 2 ^ 64, seed % 2 ^ 64)
  (x.1 ^^^ x.2.1) / 2 ^ 32

/-! ### Conversion (R40 to R44) -/

/-- A converted element: its code, and the flags SATURATED, NONFINITE and BREACH. -/
structure Conv where
  code : Nat
  sat : Bool := false
  nonfin : Bool := false
  breach : Bool := false
  deriving DecidableEq, Repr

/-- Conversion into E8M0 (R43). -/
def toE8M0 : XVal → Conv
  | .nan => { code := 0xFF, nonfin := true }
  | .inf neg => if neg then { code := 0xFF, nonfin := true } else { code := 0xFE, nonfin := true }
  | .fin d =>
    if d.neg ∨ d.m = 0 then { code := 0xFF, nonfin := true }
    else if d.lg < -127 then { code := 0 }
    else if 127 < d.lg then { code := 0xFE }
    else { code := (d.lg + 127).toNat }

/-- Conversion into an integer format of width w (R40, R42). -/
def toIntFmt (w mode r : Nat) : XVal → Conv
  | .nan => { code := 2 ^ (w - 1) - 1, nonfin := true }
  | .inf neg => { code := if neg then 2 ^ (w - 1) else 2 ^ (w - 1) - 1, nonfin := true }
  | .fin d =>
    let n := roundMag mode r d.m d.e false 0
    let v : Int := if d.neg then -n else n
    if (2 : Int) ^ (w - 1) - 1 < v then { code := 2 ^ (w - 1) - 1, sat := true }
    else if v < -(2 : Int) ^ (w - 1) then { code := 2 ^ (w - 1), sat := true }
    else { code := unsigned w v }

/-- The integer q that represents a finite value at scale exponent s, with RNE (R44). -/
def ledgerInt (d : Dy) (s : Int) : Int :=
  let n := roundMag 0 0 d.m (d.e - s) false 0
  if d.neg then -n else n

/-- Conversion into a ledger format of width w and bound 2^b at scale exponent s (R42, R44). -/
def toLedger (w b : Nat) (s : Int) : XVal → Conv
  | .fin d =>
    let q := ledgerInt d s
    { code := unsigned w q, breach := 2 ^ b ≤ q.natAbs }
  | _ => { code := 0, nonfin := true }

/-- Conversion into a floating format: managed formats saturate, wide formats follow the overflow rule (R40, R42). -/
def toFloat (fmt : Nat) (t : FloatFmt) (mode r : Nat) : XVal → Conv
  | .nan => { code := t.nanCode, nonfin := true }
  | .inf neg =>
    match t.spec with
    | .infNan => { code := t.infCode neg, nonfin := true }
    | _ => { code := t.maxCode + t.sign neg, nonfin := true }
  | .fin d =>
    if fmtManaged fmt then
      let x := t.round mode r d
      if t.maxVal.ltMag x then { code := t.maxCode + t.sign d.neg, sat := true } else { code := t.encode x }
    else
      let p := t.pack mode r d
      { code := p.1, nonfin := p.2 }

/-- Convert a source value into an element of format `fmt` at scale exponent e (a per-tensor scale of a managed format, the ledger
scale of a ledger format, 0 otherwise). An infinite source is non-finite and does not count as saturated (R42). -/
def convert (fmt mode r : Nat) (e : Int) (x : XVal) : Conv :=
  let y := match x with
    | .fin d => XVal.fin (d.shift (-e))
    | x => x
  match floatFmt fmt, intFmt fmt, ledFmt fmt with
  | some t, _, _ => toFloat fmt t mode r y
  | _, some w, _ => toIntFmt w mode r y
  | _, _, some (w, b) => toLedger w b e x
  | _, _, _ => toE8M0 y

/-- The value of a code in a tensor with scale exponent e (R39). -/
def scaledValue (fmt : Nat) (e : Int) (c : Nat) : XVal :=
  match ledFmt fmt with
  | some _ => valueOf fmt c e
  | none =>
    match valueOf fmt c with
    | .fin d => .fin (d.shift e)
    | x => x

/-! ### Reports (R45, R50) -/

/-- |d| rounded toward +Inf into F32, with the largest finite value above it (R49). -/
def upF32 (d : Dy) : Nat :=
  if d.m = 0 then 0
  else
    let q := f32.quantum d.lg
    let lo := roundMag 1 0 d.m d.e false q
    let up : Dy := ⟨false, if (Dy.mk false lo q).ltMag { d with neg := false } then lo + 1 else lo, q⟩
    if f32.maxVal.ltMag up then f32.maxCode else f32.encode up

/-- Report one converted element at its flat index. -/
def SmRep.add (r : SmRep) (x : XVal) (c : Conv) (index : Nat) : SmRep :=
  { made := true, maxAbs := (match x with | .fin d => max r.maxAbs (upF32 d) | _ => r.maxAbs),
    sat := satAdd 32 r.sat (if c.sat then 1 else 0),
    nonfin := satAdd 64 r.nonfin (if c.nonfin then 1 else 0),
    nfIndex := if c.nonfin then min r.nfIndex index else r.nfIndex }

/-- Merge two reports by maximum, sum and minimum; sums saturate. -/
def SmRep.merge (a b : SmRep) : SmRep :=
  { made := a.made || b.made, maxAbs := max a.maxAbs b.maxAbs, sat := satAdd 32 a.sat b.sat, nonfin := satAdd 64 a.nonfin b.nonfin,
    nfIndex := min a.nfIndex b.nfIndex }

/-- The flags of a report. -/
def SmRep.anySat (r : SmRep) : Bool := r.sat != 0
def SmRep.anyNonfin (r : SmRep) : Bool := r.nonfin != 0

end Sys2Proof.Machine
end

