-- ==== Sys2Proof/Machine/Chain.lean ====
section
/-! DEFINITION. The exact path and canonical order (spec/03_exact_path.md R57 to R79): classes, special states, the chains of the
exact, block-scaled, canonical and limb classes, the result of a chain, and the chain-state record. -/

namespace Sys2Proof.Machine

/-- The arithmetic classes with the record codes of R77. -/
inductive Cls where
  | exact | block | canonical | limb32 | limb64
  deriving DecidableEq, Repr

def Cls.code : Cls → Nat
  | .exact => 0 | .block => 1 | .canonical => 2 | .limb32 => 3 | .limb64 => 4

/-- The class of a pair of operand formats; none where R57 accepts no such pair. -/
def classOf (a b : Nat) (bscale : Bool) : Option Cls :=
  let ex := [6, 7, 8, 9, 0xA, 0xC, 0xD]
  let ca := [2, 3, 4]
  if a ∈ ex ∧ b ∈ ex then some (if bscale then .block else .exact)
  else if bscale then none
  else if a ∈ ca ∧ b ∈ ca then some .canonical
  else if a = 1 ∧ b = 1 then some .limb32
  else if a = 0 ∧ b = 0 then some .limb64
  else none

/-- Combination of special states (R61). -/
def Special.join : Special → Special → Special
  | .none, b => b
  | a, .none => a
  | .nan, _ => .nan
  | _, .nan => .nan
  | .posInf, .posInf => .posInf
  | .negInf, .negInf => .negInf
  | .posInf, .negInf => .nan
  | .negInf, .posInf => .nan

def Special.ofSign (neg : Bool) : Special := if neg then .negInf else .posInf

/-- The special state of one product and its exact value (R61, R62, R68). -/
def product (a b : XVal) : Special × Dy :=
  match a, b with
  | .nan, _ => (.nan, {})
  | _, .nan => (.nan, {})
  | .inf s, .inf t => (.ofSign (s != t), {})
  | .inf s, .fin d => if d.m = 0 then (.nan, {}) else (.ofSign (s != d.neg), {})
  | .fin d, .inf s => if d.m = 0 then (.nan, {}) else (.ofSign (s != d.neg), {})
  | .fin x, .fin y => (.none, x.mul y)

/-- The joined special state of products. -/
def joinAll (l : List (Special × Dy)) : Special := l.foldl (fun a p => a.join p.1) .none

/-- The exact sum of products in units of 2^-32 (R62, R63). -/
def sumUnits (l : List (Special × Dy)) : Int := (l.map (fun p => p.2.units (-32))).sum

/-- An integer divided by 2^d with truncation of its magnitude, and whether a non-zero bit was discarded. -/
def truncShift (x : Int) (d : Nat) : Int × Bool :=
  let n := x.natAbs / 2 ^ d
  (if x < 0 then -n else n, x.natAbs % 2 ^ d != 0)

/-- B · 2^k with truncation of the magnitude for k < 0. -/
def truncScale (b : Int) (k : Int) : Int × Bool :=
  if 0 ≤ k then (b * 2 ^ k.toNat, false) else truncShift b (-k).toNat

/-- One plain exact panel: X gains the exact sum (R63). -/
def ChainSt.exactStep (s : ChainSt) (l : List (Special × Dy)) : ChainSt :=
  { s with x := s.x + sumUnits l, sp := s.sp.join (joinAll l) }

/-- One block of a block-scaled chain with scale product σ (R66, R67); `bad` is true where a block scale is 0xFF (R65). -/
def ChainSt.blockStep (s : ChainSt) (l : List (Special × Dy)) (σ : Int) (bad : Bool) : ChainSt :=
  let s := { s with sp := (s.sp.join (joinAll l)).join (if bad then .nan else .none) }
  let b := if bad then 0 else sumUnits l
  if b = 0 then s
  else if ¬ s.seen then { s with seen := true, x := b, anchor := σ, sigLo := σ, sigHi := σ }
  else
    let lo := min s.sigLo σ
    let hi := max s.sigHi σ
    if ¬ s.span ∧ hi - lo ≤ 30 then
      let w := if σ < s.anchor then s.x * 2 ^ (s.anchor - σ).toNat else s.x
      let α := min s.anchor σ
      { s with x := w + b * 2 ^ (σ - α).toNat, anchor := α, sigLo := lo, sigHi := hi }
    else
      let α := hi - 30
      let w := truncScale s.x (s.anchor - α)
      let t := truncScale b (σ - α)
      { s with x := w.1 + t.1, anchor := α, sigLo := lo, sigHi := hi, span := true,
               sticky := s.sticky || w.2 || t.2 }

/-- The panel value of the canonical class (R69). -/
def canonPanel (l : List (Special × Dy)) : Dy :=
  let ps := (l.map (fun p => p.2)).filter (fun d => d.m ≠ 0)
  match ps with
  | [] => {}
  | p :: rest =>
    let emax := rest.foldl (fun e d => max e d.lg) p.lg
    let q := emax - 89
    let parts := ps.map (fun d => (if d.neg then -(roundMag 1 0 d.m d.e false q : Int) else roundMag 1 0 d.m d.e false q,
      decide (d.e < q) && d.m % 2 ^ (q - d.e).toNat != 0))
    let w : Int := (parts.map (fun x => x.1)).sum
    let st := parts.any (fun x => x.2)
    let n := if st && w.natAbs % 2 == 0 then w.natAbs + 1 else w.natAbs
    ⟨decide (w < 0), n, q⟩

/-- The largest exponent of the finite non-zero elements of a panel (R72). -/
def limbExp (l : List XVal) : Option Int :=
  l.foldl (fun e x => match x with
    | .fin d => if d.m = 0 then e else some (match e with | none => d.lg | some y => max y d.lg)
    | _ => e) none

/-- The magnitude of R72 step 2. -/
def limbMag (n : Nat) (ep : Int) : XVal → Int
  | .fin d =>
    let v : Int := roundMag 1 0 d.m (d.e + (8 * n - 1 - ep)) false 0
    if d.neg then -v else v
  | _ => 0

/-- Limb i of a magnitude with n limbs. -/
def limb (n i : Nat) (v : Nat) : Nat := v / 2 ^ (8 * (n - 1 - i)) % 256

/-- The kept limb products of one pair of elements in the units of T (R73). -/
def limbPair (n : Nat) (a b : Int) : Int :=
  let t : Nat := ((List.range n).map (fun i => ((List.range (n - i)).map (fun j =>
    limb n i a.natAbs * limb n j b.natAbs * 2 ^ (8 * (2 * n - 2 - i - j)))).sum)).sum
  if (decide (a < 0) != decide (b < 0)) then -(t : Int) else t

/-- The panel value of the limb class (R72, R73). -/
def limbPanel (n : Nat) (as bs : List XVal) : Dy :=
  match limbExp as, limbExp bs with
  | some ea, some eb =>
    Dy.ofInt ((List.zipWith (fun a b => limbPair n (limbMag n ea a) (limbMag n eb b)) as bs).sum) (ea + eb - 2 * (8 * n - 1))
  | _, _ => {}

/-- The internal format of a combining chain (R70, R74). -/
def Cls.internal : Cls → FloatFmt
  | .limb32 => e11m44
  | .limb64 => e12m83
  | _ => e8m31

/-- Combine a panel value into the running sum (R70). The Inf of an overflow joins a NaN or Inf that is already there by R61 (DESIGN CHOICE,
log 135). -/
def ChainSt.combine (s : ChainSt) (t : FloatFmt) (p : Dy) (sp : Special) : ChainSt :=
  let s := { s with sp := s.sp.join sp }
  if s.ovf then s
  else
    let d := s.s.add p
    if t.maxVal.ltMag d then { s with sp := s.sp.join (.ofSign d.neg), ovf := true } else { s with s := t.round 2 0 d }

/-- One panel of a chain: the operand values of its positions and, for block-scaled operands, the scale product. -/
def ChainSt.panel (c : Cls) (s : ChainSt) (as bs : List XVal) (σ : Int) (bad : Bool) : ChainSt :=
  let l := List.zipWith product as bs
  match c with
  | .exact => s.exactStep l
  | .block => s.blockStep l σ bad
  | .canonical => s.combine c.internal (canonPanel l) (joinAll l)
  | .limb32 => s.combine c.internal (limbPanel 3 as bs) (joinAll l)
  | .limb64 => s.combine c.internal (limbPanel 7 as bs) (joinAll l)

/-- Cut a list into panels of 32 with fuel. -/
def panels {α : Type} : Nat → List α → List (List α)
  | 0, _ => []
  | n + 1, l => if l.isEmpty then [] else l.take 32 :: panels n (l.drop 32)

/-- All panels of a pass, in ascending order, with the scale product of each panel. -/
def ChainSt.pass (c : Cls) (s : ChainSt) (as bs : List XVal) (sig : List (Int × Bool)) : ChainSt :=
  let n := as.length
  ((panels n as).zip (panels n bs)).zipIdx.foldl
    (fun s x => s.panel c x.1.1 x.1.2 (nth (0, false) sig x.2).1 (nth (0, false) sig x.2).2) s

/-- The exact numeric value of a chain before scales (R64, R67, R71). -/
def ChainSt.number (c : Cls) (s : ChainSt) : Dy :=
  match c with
  | .exact => Dy.ofInt s.x (-32)
  | .block =>
    let n := if s.sticky && s.x.natAbs % 2 == 0 then s.x.natAbs + 1 else s.x.natAbs
    ⟨decide (s.x < 0), n, s.anchor - 32⟩
  | _ => s.s

/-- The result of a chain at the operands' scale exponents (R60, R64, R71): exact classes give no infinity. -/
def ChainSt.result (c : Cls) (s : ChainSt) (eA eB : Int) : XVal :=
  match s.sp with
  | .none =>
    let d := s.number c
    .fin (if d.m = 0 then {} else d.shift (eA + eB))
  | .nan => .nan
  | .posInf => if c = .exact ∨ c = .block then .nan else .inf false
  | .negInf => if c = .exact ∨ c = .block then .nan else .inf true

/-- The two LI64 elements of the split form (R78): LOW and HIGH. -/
def ChainSt.splitForm (s : ChainSt) : Int × Int :=
  if s.sp = .none then (s.x % 2 ^ 48, s.x / 2 ^ 48) else (0, -(2 : Int) ^ 50)

/-- The value recovered from summed split-form buffers (R78): none where a part was not finite. -/
def splitJoin (low high : Int) : Option Int := if high < -(2 : Int) ^ 49 then none else some (high * 2 ^ 48 + low)

/-! ### The chain-state record (R77) -/

def Special.bits : Special → Nat
  | .none => 0 | .posInf => 1 | .negInf => 2 | .nan => 3

def Special.ofBits : Nat → Special
  | 0 => .none | 1 => .posInf | 2 => .negInf | _ => .nan

/-- The 32 bytes of a chain state that continues at position k. -/
def ChainSt.record (c : Cls) (s : ChainSt) (k : Nat) : List Byte :=
  let value : Nat := match c with
    | .exact => unsigned 128 s.x
    | .block => unsigned 128 s.x
    | c => if s.ovf then c.internal.infCode false else c.internal.encode s.s
  leBytes 16 value ++ leBytes 2 (unsigned 16 s.anchor) ++ leBytes 2 (unsigned 16 s.sigLo) ++ leBytes 2 (unsigned 16 s.sigHi) ++
    leBytes 1 (s.sp.bits + 4 * (if s.span then 1 else 0) + 8 * (if s.sticky then 1 else 0) + 16 * (if s.seen then 1 else 0)) ++
    leBytes 1 c.code ++ leBytes 4 k ++ leBytes 4 0

/-- The chain state that a record holds. A combining chain that has overflowed is written with the exponent code beyond the
largest finite value in place of S, so that later panels change only the special state (R70). DESIGN CHOICE (log 13). -/
def ChainSt.ofRecord (c : Cls) (b : List Byte) : ChainSt :=
  let v := field b 0 16
  let st := field b 22 1
  let sp := Special.ofBits (st % 4)
  { x := (match c with | .exact => signed 128 v | .block => signed 128 v | _ => 0),
    s := (match c with
      | .exact => {}
      | .block => {}
      | c => match c.internal.value v with | .fin d => d | _ => {}),
    anchor := signed 16 (field b 16 2), sigLo := signed 16 (field b 18 2), sigHi := signed 16 (field b 20 2),
    ovf := (match c with
      | .exact => false
      | .block => false
      | c => match c.internal.value v with | .fin _ => false | _ => true),
    sp := sp, span := st.testBit 2, sticky := st.testBit 3, seen := st.testBit 4 }

end Sys2Proof.Machine
end

