-- ==== Sys2Proof/Config.lean ====
section
/-! DEFINITION. What the specification leaves to the single module: free values without a body. -/

namespace Sys2Proof

/-- The 96 signature bytes (r, then s) that the custodian makes with its identity key over a SHA-384 digest. The private key
never leaves the custodian and ECDSA takes a fresh number for each signature (spec/15_integrity_records_guarantees.md R415,
spec/14_clocks_power_condition.md R399): the bytes are a free value of the signature's index and the digest.
DESIGN CHOICE (log 8). -/
opaque Config.identitySignature : Nat → List Byte → List Byte

/-- The scale exponent that CVT uses where the scalar register holds a value outside −32,768 to 32,767: R131 states the range and
no result beyond it. A free value of the register. DESIGN CHOICE (log 9). -/
opaque Config.scaleOutside : BitVec 32 → BitVec 16

/-- A byte of a wing controller's private memory, which the specification gives no layout (spec/12_rings_contexts_rota.md R331,
spec/13_boot_protection_setup.md R365): a free value of the number that READY took, the device time, the wing and the offset. DESIGN CHOICE
(log 134). -/
opaque Config.privateByte : Nat → Nat → Nat → Nat → BitVec 8

/-- The PCI vendor ID that the configuration space of the PF reports (spec/16_module_electrical.md R453); the specification gives no value.
DESIGN CHOICE (log 52). -/
opaque Config.pciVendorId : BitVec 16

/-- A value that the specification leaves open, taken by the index that `State.freeCtr` counts. DESIGN CHOICE (log 7). -/
opaque Config.freeWord : Nat → BitVec 64

end Sys2Proof
end

