-- ==== Sys2Proof/Machine/Regs.lean ====
section
/-! DEFINITION. The BAR0 registers: their names, fields, access classes, reset values and offsets, from the register tables of the
chapters and the index of spec/17_register_index.md R458. -/

namespace Sys2Proof.Machine

/-- The registers of BAR0 (R458). -/
inductive Reg where
  | redSmCmd
  | redSmSts
  | wingArithSts
  | wingMaCfg
  | wingMaSts
  | wingMaStall
  | wingMaEvt
  | wingMaCntClr
  | wingVeHold
  | wingVeFlags
  | wingVeCnt
  | wingVeCntClr
  | wingGalEcc
  | wingGalUeAddr
  | wingStrmSts
  | wingStrmCnt
  | wingTmSts
  | wingCourSts
  | wingGstmCntClr
  | stkSts
  | stkEcc
  | stkUeAddr
  | stkEvt
  | stkMargin
  | stkEyeCmd
  | stkEyeData
  | btpCfg
  | btpTimeout
  | btpSts
  | btpErr
  | glbLfTable
  | wingLateTile
  | wingDepSts
  | wingDepSpl
  | wingDepCnt
  | wingDepWait
  | wingRpSts
  | wingRpCnt
  | wingDepCntClr
  | redGrpCmd
  | redVerdict
  | redLdgCnt
  | redLdgCntClr
  | kvaSts
  | kvaCnt
  | kvaSkip
  | kvaPageTimeout
  | kvaCntClr
  | kvaCtxSeq
  | kvaCtxPool
  | kvaSeq
  | lnkCfg
  | lnkCtl
  | lnkSts
  | lnkErr
  | lnkCnt
  | lnkCntClr
  | lnkLane
  | glbTime
  | glbTimeCfg
  | glbTimeSts
  | glbLinkCfg
  | glbBar4Win
  | ctxCfg
  | ctxSq
  | ctxCq
  | ctxIrq
  | ctxDep
  | ctxSts
  | ctxCqSts
  | ctxCtl
  | wingRotaHdr
  | wingRotaSlot
  | glbRotaCmt
  | glbRotaSts
  | wingRotaSts
  | bootCtl
  | bootSts
  | bootProgress
  | bootFuse
  | bootFwDigest
  | protEpoch
  | protCommit
  | protSts
  | protStage
  | protActive
  | glbStatus
  | glbSetupIgn
  | glbRehang
  | glbRehangSts
  | pwrCfg
  | pwrCtl
  | pwrSts
  | pwrAvg
  | pwrDie
  | pwrDroop
  | pwrEvt
  | pwrCntClr
  | pwrTsens
  | condSts
  | condCtl
  | condDie
  | condMon
  | condReport
  | chkSts
  | chkChan
  | chkChanVal
  | prvCtl
  | prvSlot
  | prvSlotDig
  | prvIdkey
  | evrAcc
  | evrDay
  | evrSts
  | evrCtl
  | evrMirror
  | glbHold
  | glbWatchdog
  | glbCorrCmd
  | glbCorrSts
  | glbCorrData
  deriving DecidableEq, Repr

/-- The access codes of spec/00_scope.md R9. -/
inductive Acc where
  | ro | rw | rw1c | wo | lk | st | lv
  deriving DecidableEq, Repr

/-- A field: its register, lowest bit and width. -/
structure Fld where
  reg : Reg
  lo : Nat
  w : Nat
  deriving DecidableEq, Repr

/-- A row of a register table: the field, its access code and its reset value (a field marked FW resets to zero, R10). -/
structure Row where
  lo : Nat
  w : Nat
  acc : Acc
  rst : Nat
  deriving DecidableEq, Repr

/-- The number of a register, which makes the key of its word. -/
def Reg.index (r : Reg) : Nat := r.ctorIdx

/-- The key of word (i, j) of a register. Indices of the module lie below 2^20; any other pair has a key of its own as well, so that no
two words share one. -/
def Reg.key (r : Reg) (i j : Nat) : Nat :=
  if i < 2 ^ 20 ∧ j < 2 ^ 20 then (r.index * 2 ^ 20 + i) * 2 ^ 20 + j else 2 ^ 60 + (r.index + 256 * Nat.pair i j)

/-- The register tables: each field that is not reserved. -/
def Reg.rows : Reg → List Row
  | .redSmCmd => [⟨0, 16, .lv, 0x0⟩, ⟨16, 14, .lv, 0x0⟩, ⟨32, 4, .lv, 0x0⟩, ⟨48, 16, .lv, 0x0⟩]
  | .redSmSts => [⟨0, 6, .ro, 0x0⟩, ⟨6, 1, .ro, 0x0⟩, ⟨7, 1, .rw1c, 0x0⟩, ⟨8, 1, .rw1c, 0x0⟩]
  | .wingArithSts => [⟨0, 1, .rw1c, 0x0⟩, ⟨1, 1, .rw1c, 0x0⟩, ⟨2, 1, .rw1c, 0x0⟩, ⟨16, 16, .ro, 0x0⟩, ⟨32, 14, .ro, 0x0⟩]
  | .wingMaCfg => [⟨0, 1, .st, 0x0⟩, ⟨4, 12, .st, 0x0⟩]
  | .wingMaSts => [⟨0, 3, .ro, 0x0⟩, ⟨3, 1, .ro, 0x0⟩, ⟨4, 2, .ro, 0x0⟩, ⟨6, 1, .ro, 0x0⟩, ⟨8, 14, .ro, 0x0⟩]
  | .wingMaStall => [⟨0, 32, .ro, 0x0⟩, ⟨32, 32, .ro, 0x0⟩]
  | .wingMaEvt => [⟨0, 32, .ro, 0x0⟩, ⟨32, 16, .ro, 0x0⟩, ⟨48, 16, .ro, 0x0⟩]
  | .wingMaCntClr => [⟨0, 1, .wo, 0x0⟩]
  | .wingVeHold => [⟨0, 8, .ro, 0x0⟩]
  | .wingVeFlags => [⟨0, 1, .rw1c, 0x0⟩, ⟨1, 1, .rw1c, 0x0⟩, ⟨2, 1, .rw1c, 0x0⟩, ⟨3, 1, .rw1c, 0x0⟩, ⟨16, 14, .ro, 0x0⟩]
  | .wingVeCnt => [⟨0, 32, .ro, 0x0⟩, ⟨32, 32, .ro, 0x0⟩]
  | .wingVeCntClr => [⟨0, 1, .wo, 0x0⟩]
  | .wingGalEcc => [⟨0, 32, .ro, 0x0⟩, ⟨32, 16, .ro, 0x0⟩]
  | .wingGalUeAddr => [⟨0, 32, .ro, 0x0⟩, ⟨32, 1, .rw1c, 0x0⟩]
  | .wingStrmSts => [⟨0, 2, .ro, 0x0⟩, ⟨2, 1, .ro, 0x0⟩, ⟨3, 1, .ro, 0x0⟩, ⟨4, 5, .ro, 0x0⟩, ⟨16, 14, .ro, 0x0⟩, ⟨32, 32, .ro, 0x0⟩]
  | .wingStrmCnt => [⟨0, 24, .ro, 0x0⟩, ⟨24, 20, .ro, 0x0⟩, ⟨44, 20, .ro, 0x0⟩]
  | .wingTmSts => [⟨0, 2, .ro, 0x0⟩, ⟨16, 14, .ro, 0x0⟩, ⟨32, 32, .ro, 0x0⟩]
  | .wingCourSts => [⟨0, 7, .ro, 0x0⟩, ⟨16, 14, .ro, 0x0⟩, ⟨32, 32, .ro, 0x0⟩]
  | .wingGstmCntClr => [⟨0, 1, .wo, 0x0⟩]
  | .stkSts => [⟨0, 3, .ro, 0x0⟩, ⟨8, 5, .ro, 0x0⟩, ⟨16, 8, .ro, 0x0⟩, ⟨32, 32, .ro, 0x0⟩]
  | .stkEcc => [⟨0, 32, .ro, 0x0⟩, ⟨32, 16, .ro, 0x0⟩]
  | .stkUeAddr => [⟨0, 48, .ro, 0x0⟩, ⟨48, 1, .rw1c, 0x0⟩]
  | .stkEvt => [⟨0, 32, .ro, 0x0⟩, ⟨32, 32, .ro, 0x0⟩]
  | .stkMargin => [⟨0, 8, .ro, 0x0⟩, ⟨8, 8, .ro, 0x0⟩, ⟨16, 8, .ro, 0x0⟩, ⟨24, 8, .ro, 0x0⟩, ⟨32, 1, .ro, 0x0⟩, ⟨33, 1, .ro, 0x0⟩]
  | .stkEyeCmd => [⟨0, 5, .lv, 0x0⟩, ⟨5, 1, .lv, 0x0⟩, ⟨6, 5, .lv, 0x0⟩, ⟨11, 1, .lv, 0x0⟩, ⟨12, 1, .wo, 0x0⟩, ⟨13, 1, .ro, 0x0⟩, ⟨14, 1, .rw1c, 0x0⟩]
  | .stkEyeData => [⟨0, 64, .ro, 0x0⟩]
  | .btpCfg => [⟨0, 1, .lk, 0x0⟩, ⟨1, 1, .lk, 0x0⟩, ⟨4, 5, .lk, 0x8⟩]
  | .btpTimeout => [⟨0, 7, .st, 0x0⟩]
  | .btpSts => [⟨0, 3, .ro, 0x0⟩, ⟨3, 1, .ro, 0x0⟩, ⟨16, 13, .ro, 0x0⟩, ⟨32, 13, .ro, 0x0⟩]
  | .btpErr => [⟨0, 16, .ro, 0x0⟩, ⟨16, 16, .ro, 0x0⟩, ⟨32, 16, .ro, 0x0⟩, ⟨48, 16, .ro, 0x0⟩]
  | .glbLfTable => [⟨0, 48, .lk, 0x0⟩, ⟨48, 5, .lk, 0x0⟩, ⟨53, 6, .lk, 0x28⟩]
  | .wingLateTile => [⟨0, 32, .ro, 0x0⟩, ⟨32, 32, .ro, 0x0⟩]
  | .wingDepSts => [⟨0, 2, .ro, 0x0⟩, ⟨16, 14, .ro, 0x0⟩, ⟨32, 25, .ro, 0x0⟩]
  | .wingDepSpl => [⟨0, 25, .ro, 0x0⟩, ⟨25, 25, .ro, 0x0⟩]
  | .wingDepCnt => [⟨0, 32, .ro, 0x0⟩, ⟨32, 32, .ro, 0x0⟩]
  | .wingDepWait => [⟨0, 32, .ro, 0x0⟩, ⟨32, 16, .ro, 0x0⟩, ⟨48, 16, .ro, 0x0⟩]
  | .wingRpSts => [⟨0, 24, .ro, 0x0⟩, ⟨32, 14, .ro, 0x0⟩, ⟨48, 8, .ro, 0x0⟩]
  | .wingRpCnt => [⟨0, 32, .ro, 0x0⟩, ⟨32, 32, .ro, 0x0⟩]
  | .wingDepCntClr => [⟨0, 1, .wo, 0x0⟩]
  | .redGrpCmd => [⟨0, 16, .lv, 0x0⟩, ⟨16, 14, .lv, 0x0⟩, ⟨32, 4, .lv, 0x0⟩]
  | .redVerdict => [⟨0, 8, .ro, 0x0⟩, ⟨8, 2, .ro, 0x0⟩, ⟨10, 1, .ro, 0x0⟩, ⟨16, 14, .ro, 0x0⟩, ⟨32, 12, .ro, 0x0⟩]
  | .redLdgCnt => [⟨0, 16, .ro, 0x0⟩, ⟨16, 16, .ro, 0x0⟩, ⟨32, 16, .ro, 0x0⟩, ⟨48, 16, .ro, 0x0⟩]
  | .redLdgCntClr => [⟨0, 1, .wo, 0x0⟩]
  | .kvaSts => [⟨0, 12, .ro, 0x800⟩, ⟨16, 16, .ro, 0x0⟩]
  | .kvaCnt => [⟨0, 32, .ro, 0x0⟩, ⟨32, 16, .ro, 0x0⟩, ⟨48, 16, .ro, 0x0⟩]
  | .kvaSkip => [⟨0, 32, .ro, 0x0⟩, ⟨32, 32, .ro, 0x0⟩]
  | .kvaPageTimeout => [⟨0, 7, .st, 0x0⟩]
  | .kvaCntClr => [⟨0, 1, .wo, 0x0⟩]
  | .kvaCtxSeq => [⟨0, 16, .st, 0x0⟩, ⟨16, 17, .st, 0x0⟩]
  | .kvaCtxPool => [⟨0, 48, .st, 0x0⟩]
  | .kvaSeq => []
  | .lnkCfg => [⟨0, 1, .lk, 0x1⟩, ⟨1, 1, .lk, 0x1⟩, ⟨4, 4, .st, 0x0⟩, ⟨8, 8, .lv, 0x0⟩]
  | .lnkCtl => [⟨0, 1, .wo, 0x0⟩, ⟨1, 1, .wo, 0x0⟩, ⟨2, 1, .wo, 0x0⟩]
  | .lnkSts => [⟨0, 3, .ro, 0x0⟩, ⟨3, 3, .ro, 0x0⟩, ⟨8, 9, .ro, 0x0⟩, ⟨32, 16, .ro, 0x0⟩, ⟨48, 4, .ro, 0x0⟩, ⟨52, 1, .ro, 0x0⟩]
  | .lnkErr => [⟨0, 32, .ro, 0x0⟩, ⟨32, 16, .ro, 0x0⟩, ⟨48, 16, .ro, 0x0⟩]
  | .lnkCnt => [⟨0, 32, .ro, 0x0⟩, ⟨32, 16, .ro, 0x0⟩, ⟨48, 16, .ro, 0x0⟩]
  | .lnkCntClr => [⟨0, 1, .wo, 0x0⟩]
  | .lnkLane => [⟨0, 2, .ro, 0x0⟩, ⟨2, 3, .ro, 0x0⟩, ⟨8, 8, .ro, 0x0⟩, ⟨16, 4, .ro, 0x0⟩, ⟨32, 30, .ro, 0x0⟩]
  | .glbTime => [⟨0, 64, .ro, 0x0⟩]
  | .glbTimeCfg => [⟨0, 1, .lv, 0x0⟩, ⟨1, 4, .lv, 0x0⟩, ⟨5, 1, .lv, 0x0⟩, ⟨8, 7, .lv, 0xa⟩]
  | .glbTimeSts => [⟨0, 1, .ro, 0x0⟩, ⟨16, 16, .ro, 0x0⟩, ⟨32, 32, .ro, 0x0⟩]
  | .glbLinkCfg => [⟨0, 16, .lk, 0x0⟩, ⟨16, 10, .st, 0x0⟩]
  | .glbBar4Win => [⟨0, 9, .lv, 0x0⟩]
  | .ctxCfg => [⟨0, 6, .lk, 0x0⟩, ⟨8, 4, .lk, 0x0⟩, ⟨12, 1, .lk, 0x0⟩, ⟨13, 1, .lk, 0x0⟩, ⟨16, 10, .lk, 0x0⟩, ⟨32, 8, .lk, 0x0⟩]
  | .ctxSq => [⟨0, 4, .lk, 0x0⟩, ⟨12, 52, .lk, 0x0⟩]
  | .ctxCq => [⟨0, 4, .lk, 0x0⟩, ⟨12, 52, .lk, 0x0⟩]
  | .ctxIrq => [⟨0, 11, .lv, 0x0⟩, ⟨11, 1, .lv, 0x0⟩, ⟨16, 8, .lv, 0x0⟩, ⟨32, 16, .lv, 0x0⟩]
  | .ctxDep => [⟨0, 32, .lv, 0x0⟩, ⟨32, 32, .lv, 0x0⟩]
  | .ctxSts => [⟨0, 3, .ro, 0x0⟩, ⟨3, 1, .ro, 0x0⟩, ⟨4, 1, .ro, 0x0⟩, ⟨5, 1, .rw1c, 0x0⟩, ⟨6, 1, .rw1c, 0x0⟩, ⟨7, 1, .ro, 0x0⟩, ⟨32, 32, .ro, 0x0⟩]
  | .ctxCqSts => [⟨0, 32, .ro, 0x0⟩, ⟨32, 32, .ro, 0x0⟩]
  | .ctxCtl => [⟨0, 1, .rw, 0x0⟩, ⟨1, 1, .wo, 0x0⟩]
  | .wingRotaHdr => [⟨0, 7, .st, 0x1⟩, ⟨16, 16, .st, 0x0⟩]
  | .wingRotaSlot => [⟨0, 14, .st, 0x0⟩, ⟨14, 1, .st, 0x0⟩, ⟨16, 14, .st, 0x0⟩, ⟨30, 1, .st, 0x0⟩, ⟨32, 14, .st, 0x3e8⟩]
  | .glbRotaCmt => [⟨0, 4, .wo, 0x0⟩]
  | .glbRotaSts => [⟨0, 4, .ro, 0x0⟩, ⟨4, 1, .rw1c, 0x0⟩, ⟨8, 4, .ro, 0x0⟩, ⟨12, 2, .ro, 0x0⟩]
  | .wingRotaSts => [⟨0, 6, .ro, 0x0⟩, ⟨16, 14, .ro, 0x0⟩, ⟨32, 16, .ro, 0x0⟩, ⟨48, 16, .ro, 0x0⟩]
  | .bootCtl => [⟨0, 1, .wo, 0x0⟩, ⟨1, 1, .lv, 0x0⟩]
  | .bootSts => [⟨0, 4, .ro, 0x0⟩, ⟨8, 8, .ro, 0x0⟩, ⟨16, 8, .ro, 0x0⟩, ⟨24, 1, .rw1c, 0x0⟩, ⟨32, 16, .ro, 0x0⟩]
  | .bootProgress => [⟨0, 4, .ro, 0x1⟩, ⟨32, 32, .ro, 0x0⟩]
  | .bootFuse => [⟨0, 6, .ro, 0x0⟩, ⟨8, 4, .ro, 0x0⟩]
  | .bootFwDigest => [⟨0, 64, .ro, 0x0⟩]
  | .protEpoch => [⟨0, 32, .ro, 0x0⟩, ⟨32, 1, .ro, 0x0⟩]
  | .protCommit => [⟨0, 1, .wo, 0x0⟩, ⟨1, 1, .wo, 0x0⟩]
  | .protSts => [⟨0, 1, .ro, 0x0⟩, ⟨1, 1, .ro, 0x0⟩, ⟨2, 1, .rw1c, 0x0⟩, ⟨32, 32, .ro, 0x0⟩]
  | .protStage => []
  | .protActive => []
  | .glbStatus => [⟨0, 1, .ro, 0x0⟩, ⟨1, 1, .ro, 0x0⟩, ⟨2, 1, .rw1c, 0x0⟩, ⟨8, 8, .ro, 0x0⟩]
  | .glbSetupIgn => [⟨0, 26, .ro, 0x0⟩, ⟨26, 1, .rw1c, 0x0⟩]
  | .glbRehang => [⟨0, 14, .wo, 0x0⟩]
  | .glbRehangSts => [⟨0, 14, .ro, 0x0⟩, ⟨16, 14, .ro, 0x0⟩, ⟨32, 32, .ro, 0x0⟩]
  | .pwrCfg => [⟨0, 12, .lv, 0x0⟩, ⟨12, 4, .lv, 0x0⟩, ⟨16, 8, .lv, 0xa⟩, ⟨24, 7, .lv, 0x0⟩, ⟨32, 5, .lv, 0x0⟩, ⟨40, 6, .st, 0x0⟩]
  | .pwrCtl => [⟨0, 1, .rw, 0x0⟩]
  | .pwrSts => [⟨0, 5, .ro, 0x0⟩, ⟨8, 3, .ro, 0x0⟩, ⟨11, 1, .ro, 0x0⟩, ⟨12, 1, .ro, 0x0⟩, ⟨16, 8, .ro, 0x0⟩, ⟨24, 7, .ro, 0x0⟩, ⟨32, 8, .ro, 0x0⟩]
  | .pwrAvg => [⟨0, 12, .ro, 0x0⟩, ⟨16, 12, .ro, 0x0⟩, ⟨32, 12, .ro, 0x0⟩]
  | .pwrDie => [⟨0, 12, .ro, 0x0⟩, ⟨12, 4, .ro, 0x0⟩]
  | .pwrDroop => [⟨0, 32, .ro, 0x0⟩, ⟨32, 32, .ro, 0x0⟩]
  | .pwrEvt => [⟨0, 16, .ro, 0x0⟩, ⟨16, 16, .ro, 0x0⟩, ⟨32, 16, .ro, 0x0⟩, ⟨48, 16, .ro, 0x0⟩]
  | .pwrCntClr => [⟨0, 1, .wo, 0x0⟩]
  | .pwrTsens => [⟨0, 8, .ro, 0x0⟩, ⟨8, 8, .ro, 0x0⟩, ⟨16, 1, .ro, 0x0⟩]
  | .condSts => [⟨0, 1, .ro, 0x0⟩, ⟨1, 1, .ro, 0x0⟩, ⟨2, 1, .ro, 0x0⟩, ⟨3, 1, .ro, 0x0⟩, ⟨4, 1, .ro, 0x0⟩, ⟨8, 4, .ro, 0x0⟩, ⟨16, 15, .ro, 0x0⟩, ⟨32, 32, .ro, 0x0⟩]
  | .condCtl => [⟨0, 1, .wo, 0x0⟩]
  | .condDie => [⟨0, 8, .ro, 0x0⟩, ⟨8, 16, .ro, 0x0⟩, ⟨24, 16, .ro, 0x0⟩, ⟨40, 7, .ro, 0x0⟩, ⟨48, 8, .ro, 0x0⟩]
  | .condMon => [⟨0, 16, .ro, 0x0⟩, ⟨16, 16, .ro, 0x0⟩]
  | .condReport => [⟨0, 64, .ro, 0x0⟩]
  | .chkSts => [⟨0, 4, .ro, 0x0⟩, ⟨16, 7, .ro, 0x0⟩, ⟨32, 32, .ro, 0x0⟩]
  | .chkChan => [⟨0, 1, .ro, 0x0⟩, ⟨1, 2, .ro, 0x0⟩, ⟨16, 14, .ro, 0x0⟩]
  | .chkChanVal => [⟨0, 64, .ro, 0x0⟩]
  | .prvCtl => [⟨0, 6, .lv, 0x0⟩, ⟨6, 1, .wo, 0x0⟩]
  | .prvSlot => [⟨0, 1, .ro, 0x0⟩, ⟨1, 1, .ro, 0x0⟩, ⟨16, 14, .ro, 0x0⟩]
  | .prvSlotDig => [⟨0, 64, .ro, 0x0⟩]
  | .prvIdkey => [⟨0, 64, .ro, 0x0⟩]
  | .evrAcc => [⟨0, 64, .ro, 0x0⟩]
  | .evrDay => [⟨0, 64, .ro, 0x0⟩]
  | .evrSts => [⟨0, 13, .ro, 0x0⟩, ⟨32, 31, .ro, 0x0⟩]
  | .evrCtl => [⟨0, 1, .wo, 0x0⟩]
  | .evrMirror => [⟨0, 13, .ro, 0x0⟩, ⟨32, 32, .ro, 0x0⟩]
  | .glbHold => [⟨0, 64, .ro, 0x0⟩]
  | .glbWatchdog => [⟨0, 7, .lv, 0x0⟩]
  | .glbCorrCmd => [⟨0, 8, .wo, 0x0⟩, ⟨8, 16, .wo, 0x0⟩, ⟨24, 1, .wo, 0x0⟩]
  | .glbCorrSts => [⟨0, 1, .ro, 0x0⟩, ⟨1, 1, .rw1c, 0x0⟩, ⟨8, 8, .ro, 0x0⟩]
  | .glbCorrData => [⟨0, 64, .ro, 0x0⟩]

/-! The fields by name. -/

namespace RegF
def redSmCmdEntry : Fld := ⟨.redSmCmd, 0, 16⟩
def redSmCmdCtx : Fld := ⟨.redSmCmd, 16, 14⟩
def redSmCmdOp : Fld := ⟨.redSmCmd, 32, 4⟩
def redSmCmdArg : Fld := ⟨.redSmCmd, 48, 16⟩
def redSmStsPending : Fld := ⟨.redSmSts, 0, 6⟩
def redSmStsFull : Fld := ⟨.redSmSts, 6, 1⟩
def redSmStsBad : Fld := ⟨.redSmSts, 7, 1⟩
def redSmStsDropped : Fld := ⟨.redSmSts, 8, 1⟩
def wingArithStsSpan : Fld := ⟨.wingArithSts, 0, 1⟩
def wingArithStsCmbOvf : Fld := ⟨.wingArithSts, 1, 1⟩
def wingArithStsNonfinite : Fld := ⟨.wingArithSts, 2, 1⟩
def wingArithStsSpanCount : Fld := ⟨.wingArithSts, 16, 16⟩
def wingArithStsSpanCtx : Fld := ⟨.wingArithSts, 32, 14⟩
def wingMaCfgForceFront : Fld := ⟨.wingMaCfg, 0, 1⟩
def wingMaCfgGateIdle : Fld := ⟨.wingMaCfg, 4, 12⟩
def wingMaStsState : Fld := ⟨.wingMaSts, 0, 3⟩
def wingMaStsShadowValid : Fld := ⟨.wingMaSts, 3, 1⟩
def wingMaStsForm : Fld := ⟨.wingMaSts, 4, 2⟩
def wingMaStsStalled : Fld := ⟨.wingMaSts, 6, 1⟩
def wingMaStsCtx : Fld := ⟨.wingMaSts, 8, 14⟩
def wingMaStallRowStall : Fld := ⟨.wingMaStall, 0, 32⟩
def wingMaStallColStall : Fld := ⟨.wingMaStall, 32, 32⟩
def wingMaEvtFrontLoads : Fld := ⟨.wingMaEvt, 0, 32⟩
def wingMaEvtFrozenSkips : Fld := ⟨.wingMaEvt, 32, 16⟩
def wingMaEvtSkidFull : Fld := ⟨.wingMaEvt, 48, 16⟩
def wingMaCntClrClear : Fld := ⟨.wingMaCntClr, 0, 1⟩
def wingVeHoldGroupPresent : Fld := ⟨.wingVeHold, 0, 8⟩
def wingVeFlagsNonfinite : Fld := ⟨.wingVeFlags, 0, 1⟩
def wingVeFlagsSat : Fld := ⟨.wingVeFlags, 1, 1⟩
def wingVeFlagsWideOvf : Fld := ⟨.wingVeFlags, 2, 1⟩
def wingVeFlagsBreach : Fld := ⟨.wingVeFlags, 3, 1⟩
def wingVeFlagsCtx : Fld := ⟨.wingVeFlags, 16, 14⟩
def wingVeCntIssued : Fld := ⟨.wingVeCnt, 0, 32⟩
def wingVeCntStalled : Fld := ⟨.wingVeCnt, 32, 32⟩
def wingVeCntClrClear : Fld := ⟨.wingVeCntClr, 0, 1⟩
def wingGalEccCorrected : Fld := ⟨.wingGalEcc, 0, 32⟩
def wingGalEccUncorrected : Fld := ⟨.wingGalEcc, 32, 16⟩
def wingGalUeAddrAddr : Fld := ⟨.wingGalUeAddr, 0, 32⟩
def wingGalUeAddrValid : Fld := ⟨.wingGalUeAddr, 32, 1⟩
def wingStrmStsState : Fld := ⟨.wingStrmSts, 0, 2⟩
def wingStrmStsStanding : Fld := ⟨.wingStrmSts, 2, 1⟩
def wingStrmStsDir : Fld := ⟨.wingStrmSts, 3, 1⟩
def wingStrmStsFull : Fld := ⟨.wingStrmSts, 4, 5⟩
def wingStrmStsCtx : Fld := ⟨.wingStrmSts, 16, 14⟩
def wingStrmStsNextEntry : Fld := ⟨.wingStrmSts, 32, 32⟩
def wingStrmCntTiles : Fld := ⟨.wingStrmCnt, 0, 24⟩
def wingStrmCntMarkWait : Fld := ⟨.wingStrmCnt, 24, 20⟩
def wingStrmCntFillWait : Fld := ⟨.wingStrmCnt, 44, 20⟩
def wingTmStsState : Fld := ⟨.wingTmSts, 0, 2⟩
def wingTmStsCtx : Fld := ⟨.wingTmSts, 16, 14⟩
def wingTmStsTiles : Fld := ⟨.wingTmSts, 32, 32⟩
def wingCourStsPending : Fld := ⟨.wingCourSts, 0, 7⟩
def wingCourStsCtx : Fld := ⟨.wingCourSts, 16, 14⟩
def wingCourStsDone : Fld := ⟨.wingCourSts, 32, 32⟩
def wingGstmCntClrClear : Fld := ⟨.wingGstmCntClr, 0, 1⟩
def stkStsState : Fld := ⟨.stkSts, 0, 3⟩
def stkStsRetrainCh : Fld := ⟨.stkSts, 8, 5⟩
def stkStsTemp : Fld := ⟨.stkSts, 16, 8⟩
def stkStsRetrains : Fld := ⟨.stkSts, 32, 32⟩
def stkEccCorrected : Fld := ⟨.stkEcc, 0, 32⟩
def stkEccUncorrected : Fld := ⟨.stkEcc, 32, 16⟩
def stkUeAddrAddr : Fld := ⟨.stkUeAddr, 0, 48⟩
def stkUeAddrValid : Fld := ⟨.stkUeAddr, 48, 1⟩
def stkEvtBankWait : Fld := ⟨.stkEvt, 0, 32⟩
def stkEvtHeld : Fld := ⟨.stkEvt, 32, 32⟩
def stkMarginRdTime : Fld := ⟨.stkMargin, 0, 8⟩
def stkMarginWrTime : Fld := ⟨.stkMargin, 8, 8⟩
def stkMarginRdVolt : Fld := ⟨.stkMargin, 16, 8⟩
def stkMarginWrVolt : Fld := ⟨.stkMargin, 24, 8⟩
def stkMarginPass : Fld := ⟨.stkMargin, 32, 1⟩
def stkMarginRetried : Fld := ⟨.stkMargin, 33, 1⟩
def stkEyeCmdCh : Fld := ⟨.stkEyeCmd, 0, 5⟩
def stkEyeCmdPc : Fld := ⟨.stkEyeCmd, 5, 1⟩
def stkEyeCmdPin : Fld := ⟨.stkEyeCmd, 6, 5⟩
def stkEyeCmdDir : Fld := ⟨.stkEyeCmd, 11, 1⟩
def stkEyeCmdGo : Fld := ⟨.stkEyeCmd, 12, 1⟩
def stkEyeCmdBusy : Fld := ⟨.stkEyeCmd, 13, 1⟩
def stkEyeCmdDone : Fld := ⟨.stkEyeCmd, 14, 1⟩
def stkEyeDataPassMap : Fld := ⟨.stkEyeData, 0, 64⟩
def btpCfgMode : Fld := ⟨.btpCfg, 0, 1⟩
def btpCfgShareMode : Fld := ⟨.btpCfg, 1, 1⟩
def btpCfgShareLow : Fld := ⟨.btpCfg, 4, 5⟩
def btpTimeoutTimeout : Fld := ⟨.btpTimeout, 0, 7⟩
def btpStsState : Fld := ⟨.btpSts, 0, 3⟩
def btpStsMode : Fld := ⟨.btpSts, 3, 1⟩
def btpStsCapGib : Fld := ⟨.btpSts, 16, 13⟩
def btpStsOutstanding : Fld := ⟨.btpSts, 32, 13⟩
def btpErrTimeouts : Fld := ⟨.btpErr, 0, 16⟩
def btpErrPoisoned : Fld := ⟨.btpErr, 16, 16⟩
def btpErrFaults : Fld := ⟨.btpErr, 32, 16⟩
def btpErrLinkDowns : Fld := ⟨.btpErr, 48, 16⟩
def glbLfTableBase : Fld := ⟨.glbLfTable, 0, 48⟩
def glbLfTableCount : Fld := ⟨.glbLfTable, 48, 5⟩
def glbLfTableTimeout : Fld := ⟨.glbLfTable, 53, 6⟩
def wingLateTileEvents : Fld := ⟨.wingLateTile, 0, 32⟩
def wingLateTileIdle : Fld := ⟨.wingLateTile, 32, 32⟩
def wingDepStsState : Fld := ⟨.wingDepSts, 0, 2⟩
def wingDepStsCtx : Fld := ⟨.wingDepSts, 16, 14⟩
def wingDepStsTop : Fld := ⟨.wingDepSts, 32, 25⟩
def wingDepSplSpilled : Fld := ⟨.wingDepSpl, 0, 25⟩
def wingDepSplHighWater : Fld := ⟨.wingDepSpl, 25, 25⟩
def wingDepCntSpillTiles : Fld := ⟨.wingDepCnt, 0, 32⟩
def wingDepCntReturnTiles : Fld := ⟨.wingDepCnt, 32, 32⟩
def wingDepWaitPushWait : Fld := ⟨.wingDepWait, 0, 32⟩
def wingDepWaitLeftover : Fld := ⟨.wingDepWait, 32, 16⟩
def wingDepWaitBreaks : Fld := ⟨.wingDepWait, 48, 16⟩
def wingRpStsHead : Fld := ⟨.wingRpSts, 0, 24⟩
def wingRpStsCtx : Fld := ⟨.wingRpSts, 32, 14⟩
def wingRpStsRunning : Fld := ⟨.wingRpSts, 48, 8⟩
def wingRpCntAhead : Fld := ⟨.wingRpCnt, 0, 32⟩
def wingRpCntNoneReady : Fld := ⟨.wingRpCnt, 32, 32⟩
def wingDepCntClrClear : Fld := ⟨.wingDepCntClr, 0, 1⟩
def redGrpCmdEntry : Fld := ⟨.redGrpCmd, 0, 16⟩
def redGrpCmdCtx : Fld := ⟨.redGrpCmd, 16, 14⟩
def redGrpCmdOp : Fld := ⟨.redGrpCmd, 32, 4⟩
def redVerdictOutcome : Fld := ⟨.redVerdict, 0, 8⟩
def redVerdictRound : Fld := ⟨.redVerdict, 8, 2⟩
def redVerdictRepeat : Fld := ⟨.redVerdict, 10, 1⟩
def redVerdictCtx : Fld := ⟨.redVerdict, 16, 14⟩
def redVerdictScale : Fld := ⟨.redVerdict, 32, 12⟩
def redLdgCntRepeats : Fld := ⟨.redLdgCnt, 0, 16⟩
def redLdgCntSkipNf : Fld := ⟨.redLdgCnt, 16, 16⟩
def redLdgCntSkipBr : Fld := ⟨.redLdgCnt, 32, 16⟩
def redLdgCntLimit : Fld := ⟨.redLdgCnt, 48, 16⟩
def redLdgCntClrClear : Fld := ⟨.redLdgCntClr, 0, 1⟩
def kvaStsFreeSlots : Fld := ⟨.kvaSts, 0, 12⟩
def kvaStsWaiting : Fld := ⟨.kvaSts, 16, 16⟩
def kvaCntFlushes : Fld := ⟨.kvaCnt, 0, 32⟩
def kvaCntWanted : Fld := ⟨.kvaCnt, 32, 16⟩
def kvaCntNoPage : Fld := ⟨.kvaCnt, 48, 16⟩
def kvaSkipBlocks : Fld := ⟨.kvaSkip, 0, 32⟩
def kvaSkipEmptyRows : Fld := ⟨.kvaSkip, 32, 32⟩
def kvaPageTimeoutTimeout : Fld := ⟨.kvaPageTimeout, 0, 7⟩
def kvaCntClrClear : Fld := ⟨.kvaCntClr, 0, 1⟩
def kvaCtxSeqSeqFirst : Fld := ⟨.kvaCtxSeq, 0, 16⟩
def kvaCtxSeqSeqCount : Fld := ⟨.kvaCtxSeq, 16, 17⟩
def kvaCtxPoolPoolBase : Fld := ⟨.kvaCtxPool, 0, 48⟩
def lnkCfgSpareEn : Fld := ⟨.lnkCfg, 0, 1⟩
def lnkCfgHalfEn : Fld := ⟨.lnkCfg, 1, 1⟩
def lnkCfgRetryLimit : Fld := ⟨.lnkCfg, 4, 4⟩
def lnkCfgEyeMin : Fld := ⟨.lnkCfg, 8, 8⟩
def lnkCtlIsolate : Fld := ⟨.lnkCtl, 0, 1⟩
def lnkCtlRetrain : Fld := ⟨.lnkCtl, 1, 1⟩
def lnkCtlRelease : Fld := ⟨.lnkCtl, 2, 1⟩
def lnkStsState : Fld := ⟨.lnkSts, 0, 3⟩
def lnkStsReason : Fld := ⟨.lnkSts, 3, 3⟩
def lnkStsHealthy : Fld := ⟨.lnkSts, 8, 9⟩
def lnkStsPeerDev : Fld := ⟨.lnkSts, 32, 16⟩
def lnkStsPeerPort : Fld := ⟨.lnkSts, 48, 4⟩
def lnkStsPeerValid : Fld := ⟨.lnkSts, 52, 1⟩
def lnkErrReplays : Fld := ⟨.lnkErr, 0, 32⟩
def lnkErrSpares : Fld := ⟨.lnkErr, 32, 16⟩
def lnkErrLinkDowns : Fld := ⟨.lnkErr, 48, 16⟩
def lnkCntFlits : Fld := ⟨.lnkCnt, 0, 32⟩
def lnkCntDetaches : Fld := ⟨.lnkCnt, 32, 16⟩
def lnkCntRecallFails : Fld := ⟨.lnkCnt, 48, 16⟩
def lnkCntClrClear : Fld := ⟨.lnkCntClr, 0, 1⟩
def lnkLaneState : Fld := ⟨.lnkLane, 0, 2⟩
def lnkLaneLogical : Fld := ⟨.lnkLane, 2, 3⟩
def lnkLaneEye : Fld := ⟨.lnkLane, 8, 8⟩
def lnkLaneBer : Fld := ⟨.lnkLane, 16, 4⟩
def lnkLaneFfe : Fld := ⟨.lnkLane, 32, 30⟩
def glbTimeTime : Fld := ⟨.glbTime, 0, 64⟩
def glbTimeCfgMaster : Fld := ⟨.glbTimeCfg, 0, 1⟩
def glbTimeCfgUpstream : Fld := ⟨.glbTimeCfg, 1, 4⟩
def glbTimeCfgUpValid : Fld := ⟨.glbTimeCfg, 5, 1⟩
def glbTimeCfgPeriod : Fld := ⟨.glbTimeCfg, 8, 7⟩
def glbTimeStsLocked : Fld := ⟨.glbTimeSts, 0, 1⟩
def glbTimeStsOffset : Fld := ⟨.glbTimeSts, 16, 16⟩
def glbTimeStsLateTokens : Fld := ⟨.glbTimeSts, 32, 32⟩
def glbLinkCfgDevId : Fld := ⟨.glbLinkCfg, 0, 16⟩
def glbLinkCfgDetachBound : Fld := ⟨.glbLinkCfg, 16, 10⟩
def glbBar4WinBase : Fld := ⟨.glbBar4Win, 0, 9⟩
def ctxCfgFunc : Fld := ⟨.ctxCfg, 0, 6⟩
def ctxCfgWings : Fld := ⟨.ctxCfg, 8, 4⟩
def ctxCfgCompat : Fld := ⟨.ctxCfg, 12, 1⟩
def ctxCfgOpenOk : Fld := ⟨.ctxCfg, 13, 1⟩
def ctxCfgPd : Fld := ⟨.ctxCfg, 16, 10⟩
def ctxCfgVfSlot : Fld := ⟨.ctxCfg, 32, 8⟩
def ctxSqOrder : Fld := ⟨.ctxSq, 0, 4⟩
def ctxSqBase : Fld := ⟨.ctxSq, 12, 52⟩
def ctxCqOrder : Fld := ⟨.ctxCq, 0, 4⟩
def ctxCqBase : Fld := ⟨.ctxCq, 12, 52⟩
def ctxIrqVector : Fld := ⟨.ctxIrq, 0, 11⟩
def ctxIrqIrqEn : Fld := ⟨.ctxIrq, 11, 1⟩
def ctxIrqCount : Fld := ⟨.ctxIrq, 16, 8⟩
def ctxIrqHoldoff : Fld := ⟨.ctxIrq, 32, 16⟩
def ctxDepBase64k : Fld := ⟨.ctxDep, 0, 32⟩
def ctxDepSize64k : Fld := ⟨.ctxDep, 32, 32⟩
def ctxStsState : Fld := ⟨.ctxSts, 0, 3⟩
def ctxStsRingErr : Fld := ⟨.ctxSts, 3, 1⟩
def ctxStsCqFull : Fld := ⟨.ctxSts, 4, 1⟩
def ctxStsBadDb : Fld := ⟨.ctxSts, 5, 1⟩
def ctxStsBadVec : Fld := ⟨.ctxSts, 6, 1⟩
def ctxStsOpen : Fld := ⟨.ctxSts, 7, 1⟩
def ctxStsSqHead : Fld := ⟨.ctxSts, 32, 32⟩
def ctxCqStsCqTail : Fld := ⟨.ctxCqSts, 0, 32⟩
def ctxCqStsCqHead : Fld := ⟨.ctxCqSts, 32, 32⟩
def ctxCtlEnable : Fld := ⟨.ctxCtl, 0, 1⟩
def ctxCtlAbort : Fld := ⟨.ctxCtl, 1, 1⟩
def wingRotaHdrSlots : Fld := ⟨.wingRotaHdr, 0, 7⟩
def wingRotaHdrFillMax : Fld := ⟨.wingRotaHdr, 16, 16⟩
def wingRotaSlotOwner : Fld := ⟨.wingRotaSlot, 0, 14⟩
def wingRotaSlotOwnerValid : Fld := ⟨.wingRotaSlot, 14, 1⟩
def wingRotaSlotFill : Fld := ⟨.wingRotaSlot, 16, 14⟩
def wingRotaSlotFillValid : Fld := ⟨.wingRotaSlot, 30, 1⟩
def wingRotaSlotLenUs : Fld := ⟨.wingRotaSlot, 32, 14⟩
def glbRotaCmtWings : Fld := ⟨.glbRotaCmt, 0, 4⟩
def glbRotaStsPending : Fld := ⟨.glbRotaSts, 0, 4⟩
def glbRotaStsRefused : Fld := ⟨.glbRotaSts, 4, 1⟩
def glbRotaStsReason : Fld := ⟨.glbRotaSts, 8, 4⟩
def glbRotaStsWing : Fld := ⟨.glbRotaSts, 12, 2⟩
def wingRotaStsCurSlot : Fld := ⟨.wingRotaSts, 0, 6⟩
def wingRotaStsCurCtx : Fld := ⟨.wingRotaSts, 16, 14⟩
def wingRotaStsOverhangs : Fld := ⟨.wingRotaSts, 32, 16⟩
def wingRotaStsMaxOvh : Fld := ⟨.wingRotaSts, 48, 16⟩
def bootCtlGo : Fld := ⟨.bootCtl, 0, 1⟩
def bootCtlIrqEn : Fld := ⟨.bootCtl, 1, 1⟩
def bootStsState : Fld := ⟨.bootSts, 0, 4⟩
def bootStsCode : Fld := ⟨.bootSts, 8, 8⟩
def bootStsReason : Fld := ⟨.bootSts, 16, 8⟩
def bootStsGoRefused : Fld := ⟨.bootSts, 24, 1⟩
def bootStsAttempts : Fld := ⟨.bootSts, 32, 16⟩
def bootProgressStep : Fld := ⟨.bootProgress, 0, 4⟩
def bootProgressElapsedMs : Fld := ⟨.bootProgress, 32, 32⟩
def bootFuseSvnFloor : Fld := ⟨.bootFuse, 0, 6⟩
def bootFuseKeyRevoked : Fld := ⟨.bootFuse, 8, 4⟩
def bootFwDigestDigest : Fld := ⟨.bootFwDigest, 0, 64⟩
def protEpochEpoch : Fld := ⟨.protEpoch, 0, 32⟩
def protEpochPrevLive : Fld := ⟨.protEpoch, 32, 1⟩
def protCommitCommit : Fld := ⟨.protCommit, 0, 1⟩
def protCommitRevoke : Fld := ⟨.protCommit, 1, 1⟩
def protStsHeld : Fld := ⟨.protSts, 0, 1⟩
def protStsRevoking : Fld := ⟨.protSts, 1, 1⟩
def protStsBad : Fld := ⟨.protSts, 2, 1⟩
def protStsRevokedTasks : Fld := ⟨.protSts, 32, 32⟩
def glbStatusReady : Fld := ⟨.glbStatus, 0, 1⟩
def glbStatusFailed : Fld := ⟨.glbStatus, 1, 1⟩
def glbStatusSetupIgnored : Fld := ⟨.glbStatus, 2, 1⟩
def glbStatusGeneration : Fld := ⟨.glbStatus, 8, 8⟩
def glbSetupIgnOffset : Fld := ⟨.glbSetupIgn, 0, 26⟩
def glbSetupIgnValid : Fld := ⟨.glbSetupIgn, 26, 1⟩
def glbRehangScopes : Fld := ⟨.glbRehang, 0, 14⟩
def glbRehangStsPending : Fld := ⟨.glbRehangSts, 0, 14⟩
def glbRehangStsHeld : Fld := ⟨.glbRehangSts, 16, 14⟩
def glbRehangStsCommits : Fld := ⟨.glbRehangSts, 32, 32⟩
def pwrCfgSetpoint : Fld := ⟨.pwrCfg, 0, 12⟩
def pwrCfgWindow : Fld := ⟨.pwrCfg, 12, 4⟩
def pwrCfgAlertHold : Fld := ⟨.pwrCfg, 16, 8⟩
def pwrCfgTjThrottle : Fld := ⟨.pwrCfg, 24, 7⟩
def pwrCfgLevelFloor : Fld := ⟨.pwrCfg, 32, 5⟩
def pwrCfgDroopMv : Fld := ⟨.pwrCfg, 40, 6⟩
def pwrCtlForceLow : Fld := ⟨.pwrCtl, 0, 1⟩
def pwrStsLevel : Fld := ⟨.pwrSts, 0, 5⟩
def pwrStsCause : Fld := ⟨.pwrSts, 8, 3⟩
def pwrStsAlert : Fld := ⟨.pwrSts, 11, 1⟩
def pwrStsTripped : Fld := ⟨.pwrSts, 12, 1⟩
def pwrStsTjMax : Fld := ⟨.pwrSts, 16, 8⟩
def pwrStsTjSensor : Fld := ⟨.pwrSts, 24, 7⟩
def pwrStsStackMax : Fld := ⟨.pwrSts, 32, 8⟩
def pwrAvgAvgW : Fld := ⟨.pwrAvg, 0, 12⟩
def pwrAvgLastW : Fld := ⟨.pwrAvg, 16, 12⟩
def pwrAvgPeakW : Fld := ⟨.pwrAvg, 32, 12⟩
def pwrDieVolt : Fld := ⟨.pwrDie, 0, 12⟩
def pwrDieTrim : Fld := ⟨.pwrDie, 12, 4⟩
def pwrDroopEvents : Fld := ⟨.pwrDroop, 0, 32⟩
def pwrDroopStretched : Fld := ⟨.pwrDroop, 32, 32⟩
def pwrEvtAlerts : Fld := ⟨.pwrEvt, 0, 16⟩
def pwrEvtThrottles : Fld := ⟨.pwrEvt, 16, 16⟩
def pwrEvtMarginSteps : Fld := ⟨.pwrEvt, 32, 16⟩
def pwrEvtForced : Fld := ⟨.pwrEvt, 48, 16⟩
def pwrCntClrClear : Fld := ⟨.pwrCntClr, 0, 1⟩
def pwrTsensTemp : Fld := ⟨.pwrTsens, 0, 8⟩
def pwrTsensMax : Fld := ⟨.pwrTsens, 8, 8⟩
def pwrTsensFailed : Fld := ⟨.pwrTsens, 16, 1⟩
def condStsPlanValid : Fld := ⟨.condSts, 0, 1⟩
def condStsReportLost : Fld := ⟨.condSts, 1, 1⟩
def condStsPlanning : Fld := ⟨.condSts, 2, 1⟩
def condStsEol0 : Fld := ⟨.condSts, 3, 1⟩
def condStsEol1 : Fld := ⟨.condSts, 4, 1⟩
def condStsTopState : Fld := ⟨.condSts, 8, 4⟩
def condStsRetired : Fld := ⟨.condSts, 16, 15⟩
def condStsPlans : Fld := ⟨.condSts, 32, 32⟩
def condCtlPlanNow : Fld := ⟨.condCtl, 0, 1⟩
def condDieGb : Fld := ⟨.condDie, 0, 8⟩
def condDieVmax : Fld := ⟨.condDie, 8, 16⟩
def condDieShiftMax : Fld := ⟨.condDie, 24, 16⟩
def condDieWorstMon : Fld := ⟨.condDie, 40, 7⟩
def condDieMonFailed : Fld := ⟨.condDie, 48, 8⟩
def condMonShift : Fld := ⟨.condMon, 0, 16⟩
def condMonSlack : Fld := ⟨.condMon, 16, 16⟩
def condReportData : Fld := ⟨.condReport, 0, 64⟩
def chkStsScanBusy : Fld := ⟨.chkSts, 0, 4⟩
def chkStsBound : Fld := ⟨.chkSts, 16, 7⟩
def chkStsScans : Fld := ⟨.chkSts, 32, 32⟩
def chkChanBound : Fld := ⟨.chkChan, 0, 1⟩
def chkChanPoly : Fld := ⟨.chkChan, 1, 2⟩
def chkChanCtx : Fld := ⟨.chkChan, 16, 14⟩
def chkChanValValue : Fld := ⟨.chkChanVal, 0, 64⟩
def prvCtlSlot : Fld := ⟨.prvCtl, 0, 6⟩
def prvCtlFree : Fld := ⟨.prvCtl, 6, 1⟩
def prvSlotValid : Fld := ⟨.prvSlot, 0, 1⟩
def prvSlotMode : Fld := ⟨.prvSlot, 1, 1⟩
def prvSlotCtx : Fld := ⟨.prvSlot, 16, 14⟩
def prvSlotDigDigest : Fld := ⟨.prvSlotDig, 0, 64⟩
def prvIdkeyKey : Fld := ⟨.prvIdkey, 0, 64⟩
def evrStsAccCount : Fld := ⟨.evrSts, 0, 13⟩
def evrStsLastSeq : Fld := ⟨.evrSts, 32, 31⟩
def evrCtlClearAcc : Fld := ⟨.evrCtl, 0, 1⟩
def evrMirrorLag : Fld := ⟨.evrMirror, 0, 13⟩
def evrMirrorSkipped : Fld := ⟨.evrMirror, 32, 32⟩
def glbHoldData : Fld := ⟨.glbHold, 0, 64⟩
def glbWatchdogPeriod : Fld := ⟨.glbWatchdog, 0, 7⟩
def glbCorrCmdOp : Fld := ⟨.glbCorrCmd, 0, 8⟩
def glbCorrCmdArg : Fld := ⟨.glbCorrCmd, 8, 16⟩
def glbCorrCmdArea : Fld := ⟨.glbCorrCmd, 24, 1⟩
def glbCorrStsBusy : Fld := ⟨.glbCorrSts, 0, 1⟩
def glbCorrStsDone : Fld := ⟨.glbCorrSts, 1, 1⟩
def glbCorrStsResult : Fld := ⟨.glbCorrSts, 8, 8⟩
def glbCorrDataData : Fld := ⟨.glbCorrData, 0, 64⟩
end RegF

/-- Where the words of a register lie: word (i, j) at base + i·s1 + j·s2, for i below n1 and j below n2. -/
structure Loc where
  reg : Reg
  base : Nat
  n1 : Nat
  s1 : Nat
  n2 : Nat
  s2 : Nat
  deriving DecidableEq, Repr

/-- Part 1 of the register map. -/
def regMap1 : List Loc :=
  [⟨.redSmCmd, 0x3c04000, 1, 0x8, 1, 0x8⟩,
   ⟨.redSmSts, 0x3c04008, 1, 0x8, 1, 0x8⟩,
   ⟨.wingArithSts, 0x1002000, 4, 0x400000, 1, 0x8⟩,
   ⟨.wingMaCfg, 0x1001000, 4, 0x400000, 2, 0x100⟩,
   ⟨.wingMaSts, 0x1001008, 4, 0x400000, 2, 0x100⟩,
   ⟨.wingMaStall, 0x1001010, 4, 0x400000, 2, 0x100⟩,
   ⟨.wingMaEvt, 0x1001018, 4, 0x400000, 2, 0x100⟩,
   ⟨.wingMaCntClr, 0x1001020, 4, 0x400000, 2, 0x100⟩,
   ⟨.wingVeHold, 0x1003000, 4, 0x400000, 1, 0x8⟩,
   ⟨.wingVeFlags, 0x1003008, 4, 0x400000, 1, 0x8⟩,
   ⟨.wingVeCnt, 0x1003010, 4, 0x400000, 1, 0x8⟩,
   ⟨.wingVeCntClr, 0x1003018, 4, 0x400000, 1, 0x8⟩,
   ⟨.wingGalEcc, 0x1004000, 4, 0x400000, 1, 0x8⟩,
   ⟨.wingGalUeAddr, 0x1004008, 4, 0x400000, 1, 0x8⟩,
   ⟨.wingStrmSts, 0x1005000, 4, 0x400000, 128, 0x10⟩,
   ⟨.wingStrmCnt, 0x1005008, 4, 0x400000, 128, 0x10⟩,
   ⟨.wingTmSts, 0x1006000, 4, 0x400000, 16, 0x10⟩,
   ⟨.wingCourSts, 0x1006200, 4, 0x400000, 16, 0x10⟩,
   ⟨.wingGstmCntClr, 0x1006400, 4, 0x400000, 1, 0x8⟩,
   ⟨.stkSts, 0x2000000, 20, 0x80000, 1, 0x8⟩,
   ⟨.stkEcc, 0x2000008, 20, 0x80000, 1, 0x8⟩,
   ⟨.stkUeAddr, 0x2000010, 20, 0x80000, 1, 0x8⟩,
   ⟨.stkEvt, 0x2000018, 20, 0x80000, 1, 0x8⟩,
   ⟨.stkMargin, 0x2001000, 20, 0x80000, 32, 0x8⟩,
   ⟨.stkEyeCmd, 0x2002000, 20, 0x80000, 1, 0x8⟩,
   ⟨.stkEyeData, 0x2002100, 20, 0x80000, 64, 0x8⟩,
   ⟨.btpCfg, 0x3400000, 4, 0x40000, 1, 0x8⟩,
   ⟨.btpTimeout, 0x3400008, 4, 0x40000, 1, 0x8⟩,
   ⟨.btpSts, 0x3400010, 4, 0x40000, 1, 0x8⟩,
   ⟨.btpErr, 0x3400018, 4, 0x40000, 1, 0x8⟩,
   ⟨.glbLfTable, 0x8000, 1, 0x8, 1, 0x8⟩,
   ⟨.wingLateTile, 0x1007000, 4, 0x400000, 1, 0x8⟩,
   ⟨.wingDepSts, 0x1008000, 4, 0x400000, 16, 0x10⟩,
   ⟨.wingDepSpl, 0x1008008, 4, 0x400000, 16, 0x10⟩,
   ⟨.wingDepCnt, 0x1008100, 4, 0x400000, 1, 0x8⟩,
   ⟨.wingDepWait, 0x1008108, 4, 0x400000, 1, 0x8⟩,
   ⟨.wingRpSts, 0x1009000, 4, 0x400000, 256, 0x10⟩,
   ⟨.wingRpCnt, 0x1009008, 4, 0x400000, 256, 0x10⟩,
   ⟨.wingDepCntClr, 0x1008200, 4, 0x400000, 1, 0x8⟩,
   ⟨.redGrpCmd, 0x3c04010, 1, 0x8, 1, 0x8⟩,
   ⟨.redVerdict, 0x3c06000, 1, 0x8, 1, 0x8⟩]

/-- Part 2 of the register map. -/
def regMap2 : List Loc :=
  [⟨.redLdgCnt, 0x3c06008, 1, 0x8, 1, 0x8⟩,
   ⟨.redLdgCntClr, 0x3c06010, 1, 0x8, 1, 0x8⟩,
   ⟨.kvaSts, 0x3800000, 4, 0x100, 1, 0x8⟩,
   ⟨.kvaCnt, 0x3800008, 4, 0x100, 1, 0x8⟩,
   ⟨.kvaSkip, 0x3800010, 4, 0x100, 1, 0x8⟩,
   ⟨.kvaPageTimeout, 0x3800400, 1, 0x8, 1, 0x8⟩,
   ⟨.kvaCntClr, 0x3800800, 1, 0x8, 1, 0x8⟩,
   ⟨.kvaCtxSeq, 0x3808000, 16384, 0x10, 1, 0x8⟩,
   ⟨.kvaCtxPool, 0x3808008, 16384, 0x10, 1, 0x8⟩,
   ⟨.kvaSeq, 0x3900000, 65536, 0x20, 4, 0x8⟩,
   ⟨.lnkCfg, 0x3000000, 16, 0x40000, 1, 0x8⟩,
   ⟨.lnkCtl, 0x3000008, 16, 0x40000, 1, 0x8⟩,
   ⟨.lnkSts, 0x3000010, 16, 0x40000, 1, 0x8⟩,
   ⟨.lnkErr, 0x3000018, 16, 0x40000, 1, 0x8⟩,
   ⟨.lnkCnt, 0x3000020, 16, 0x40000, 1, 0x8⟩,
   ⟨.lnkCntClr, 0x3000028, 16, 0x40000, 1, 0x8⟩,
   ⟨.lnkLane, 0x3000100, 16, 0x40000, 9, 0x8⟩,
   ⟨.glbTime, 0x9000, 1, 0x8, 1, 0x8⟩,
   ⟨.glbTimeCfg, 0x9008, 1, 0x8, 1, 0x8⟩,
   ⟨.glbTimeSts, 0x9010, 1, 0x8, 1, 0x8⟩,
   ⟨.glbLinkCfg, 0x9018, 1, 0x8, 1, 0x8⟩,
   ⟨.glbBar4Win, 0xe000, 1, 0x8, 1, 0x8⟩,
   ⟨.ctxCfg, 0x300000, 16384, 0x40, 1, 0x8⟩,
   ⟨.ctxSq, 0x300008, 16384, 0x40, 1, 0x8⟩,
   ⟨.ctxCq, 0x300010, 16384, 0x40, 1, 0x8⟩,
   ⟨.ctxIrq, 0x300018, 16384, 0x40, 1, 0x8⟩,
   ⟨.ctxDep, 0x300020, 16384, 0x40, 1, 0x8⟩,
   ⟨.ctxSts, 0x300028, 16384, 0x40, 1, 0x8⟩,
   ⟨.ctxCqSts, 0x300030, 16384, 0x40, 1, 0x8⟩,
   ⟨.ctxCtl, 0x300038, 16384, 0x40, 1, 0x8⟩,
   ⟨.wingRotaHdr, 0x100a000, 4, 0x400000, 1, 0x8⟩,
   ⟨.wingRotaSlot, 0x100a100, 4, 0x400000, 64, 0x8⟩,
   ⟨.glbRotaCmt, 0xa000, 1, 0x8, 1, 0x8⟩,
   ⟨.glbRotaSts, 0xa008, 1, 0x8, 1, 0x8⟩,
   ⟨.wingRotaSts, 0x100a008, 4, 0x400000, 1, 0x8⟩,
   ⟨.bootCtl, 0x100000, 1, 0x8, 1, 0x8⟩,
   ⟨.bootSts, 0x100008, 1, 0x8, 1, 0x8⟩,
   ⟨.bootProgress, 0x100010, 1, 0x8, 1, 0x8⟩,
   ⟨.bootFuse, 0x100018, 1, 0x8, 1, 0x8⟩,
   ⟨.bootFwDigest, 0x100100, 6, 0x8, 1, 0x8⟩,
   ⟨.protEpoch, 0x200000, 1, 0x8, 1, 0x8⟩]

/-- Part 3 of the register map. -/
def regMap3 : List Loc :=
  [⟨.protCommit, 0x200008, 1, 0x8, 1, 0x8⟩,
   ⟨.protSts, 0x200010, 1, 0x8, 1, 0x8⟩,
   ⟨.protStage, 0x240000, 1024, 0x100, 32, 0x8⟩,
   ⟨.protActive, 0x280000, 1024, 0x100, 32, 0x8⟩,
   ⟨.glbStatus, 0x0, 1, 0x8, 1, 0x8⟩,
   ⟨.glbSetupIgn, 0x8, 1, 0x8, 1, 0x8⟩,
   ⟨.glbRehang, 0x10, 1, 0x8, 1, 0x8⟩,
   ⟨.glbRehangSts, 0x18, 1, 0x8, 1, 0x8⟩,
   ⟨.pwrCfg, 0x400000, 1, 0x8, 1, 0x8⟩,
   ⟨.pwrCtl, 0x400008, 1, 0x8, 1, 0x8⟩,
   ⟨.pwrSts, 0x400010, 1, 0x8, 1, 0x8⟩,
   ⟨.pwrAvg, 0x400018, 1, 0x8, 1, 0x8⟩,
   ⟨.pwrDie, 0x400020, 2, 0x10, 1, 0x8⟩,
   ⟨.pwrDroop, 0x400028, 2, 0x10, 1, 0x8⟩,
   ⟨.pwrEvt, 0x400040, 1, 0x8, 1, 0x8⟩,
   ⟨.pwrCntClr, 0x400048, 1, 0x8, 1, 0x8⟩,
   ⟨.pwrTsens, 0x400100, 96, 0x8, 1, 0x8⟩,
   ⟨.condSts, 0x500000, 1, 0x8, 1, 0x8⟩,
   ⟨.condCtl, 0x500008, 1, 0x8, 1, 0x8⟩,
   ⟨.condDie, 0x500010, 2, 0x8, 1, 0x8⟩,
   ⟨.condMon, 0x501000, 256, 0x8, 1, 0x8⟩,
   ⟨.condReport, 0x502000, 512, 0x8, 1, 0x8⟩,
   ⟨.chkSts, 0x700000, 1, 0x8, 1, 0x8⟩,
   ⟨.chkChan, 0x701000, 64, 0x10, 1, 0x8⟩,
   ⟨.chkChanVal, 0x701008, 64, 0x10, 1, 0x8⟩,
   ⟨.prvCtl, 0x800008, 1, 0x8, 1, 0x8⟩,
   ⟨.prvSlot, 0x801000, 64, 0x40, 1, 0x8⟩,
   ⟨.prvSlotDig, 0x801008, 64, 0x40, 6, 0x8⟩,
   ⟨.prvIdkey, 0x802000, 12, 0x8, 1, 0x8⟩,
   ⟨.evrAcc, 0x600000, 32768, 0x8, 1, 0x8⟩,
   ⟨.evrDay, 0x640000, 32768, 0x8, 1, 0x8⟩,
   ⟨.evrSts, 0x680000, 1, 0x8, 1, 0x8⟩,
   ⟨.evrCtl, 0x680008, 1, 0x8, 1, 0x8⟩,
   ⟨.evrMirror, 0x680010, 1, 0x8, 1, 0x8⟩,
   ⟨.glbHold, 0xb000, 8, 0x8, 1, 0x8⟩,
   ⟨.glbWatchdog, 0xc000, 1, 0x8, 1, 0x8⟩,
   ⟨.glbCorrCmd, 0xd000, 1, 0x8, 1, 0x8⟩,
   ⟨.glbCorrSts, 0xd008, 1, 0x8, 1, 0x8⟩,
   ⟨.glbCorrData, 0xd100, 12, 0x8, 1, 0x8⟩]

/-- The register map of R458. -/
def regMap : List Loc := regMap1 ++ regMap2 ++ regMap3

/-- The word of a register that lies at an 8-byte aligned offset, if the row holds one. -/
def Loc.at (l : Loc) (off : Nat) : Option (Reg × Nat × Nat) :=
  let o := off - l.base
  let i := o / l.s1
  let j := o % l.s1 / l.s2
  if l.base ≤ off ∧ i < l.n1 ∧ j < l.n2 ∧ l.base + i * l.s1 + j * l.s2 = off then some (l.reg, i, j) else none

/-- The register word at an offset; none where no register lies (spec/17_register_index.md R456). -/
def regAt (off : Nat) : Option (Reg × Nat × Nat) := (regMap.filterMap (fun l => l.at off)).head?

/-- The offset of word (i, j) of a register. -/
def Reg.offset (r : Reg) (i j : Nat) : Nat :=
  match regMap.find? (fun l => l.reg = r) with
  | some l => l.base + i * l.s1 + j * l.s2
  | none => 0

/-- The reset value of word (i, j) of a register: its rows' values; slot 0 of a rota is 1,000 µs long and the others 0
(spec/12_rings_contexts_rota.md, WING_ROTA_SLOT). -/
def Reg.reset (r : Reg) (_i j : Nat) : Nat :=
  match r with
  | .wingRotaSlot => if j = 0 then 0x3E8 * 2 ^ 32 else 0
  | r => (r.rows.map (fun f => f.rst * 2 ^ f.lo)).sum

end Sys2Proof.Machine
end

