-- ==== Sys2Proof/Machine/Ops.lean ====
section
/-! DEFINITION. The operations that every family shares: register fields, the holdings table, addresses and memories, protection,
event records, completion records and interrupts, event counters. -/

namespace Sys2Proof.Machine

/-! ### Registers (spec/00_scope.md R9 to R11) -/

/-- The stored word (i, j) of a register. -/
def State.reg (s : State) (r : Reg) (i j : Nat) : Nat := Tbl.get (r.reset i j) s.regs (r.key i j)

/-- Store a register word. -/
def State.setReg (s : State) (r : Reg) (i j v : Nat) : State :=
  { s with regs := Tbl.set (r.reset i j) s.regs (r.key i j) v }

/-- A field of register word (i, j). -/
def State.fld (s : State) (f : Fld) (i : Nat := 0) (j : Nat := 0) : Nat := bits (s.reg f.reg i j) f.lo f.w

/-- Set a field of register word (i, j). -/
def State.setFld (s : State) (f : Fld) (v : Nat) (i : Nat := 0) (j : Nat := 0) : State :=
  s.setReg f.reg i j (setBits (s.reg f.reg i j) f.lo f.w v)

/-- Add to a counter field, which saturates. -/
def State.incFld (s : State) (f : Fld) (n : Nat) (i : Nat := 0) (j : Nat := 0) : State :=
  s.setFld f (satAdd f.w (s.fld f i j) n) i j

/-- Add to a counter field, which wraps. -/
def State.wrapFld (s : State) (f : Fld) (n : Nat) (i : Nat := 0) (j : Nat := 0) : State :=
  s.setFld f (s.fld f i j + n) i j

/-- The key of a counter's remainder. -/
def cycKey (f : Fld) (i j : Nat) : Nat := f.reg.key i j * 64 + f.lo

/-- Add eighths of cycles to a counter that counts cycles in units of 1,024 and saturates; what does not make a unit is kept (log 100). -/
def State.addCycles (s : State) (f : Fld) (q : Nat) (i : Nat := 0) (j : Nat := 0) : State :=
  let n := Tbl.get 0 s.accs (cycKey f i j) + q
  ({ s with accs := Tbl.set 0 s.accs (cycKey f i j) (n % 8192) } : State).incFld f (n / 8192) i j

/-- Clear a counter of cycles. -/
def State.clrCycles (s : State) (f : Fld) (i : Nat := 0) (j : Nat := 0) : State :=
  ({ s with accs := Tbl.set 0 s.accs (cycKey f i j) 0 } : State).setFld f 0 i j

/-- A one-bit field as a truth value. -/
def State.flag (s : State) (f : Fld) (i : Nat := 0) (j : Nat := 0) : Bool := s.fld f i j == 1

/-- A truth value as a bit. -/
def bit (b : Bool) : Nat := if b then 1 else 0

/-- Apply a change for each number of a list, in order. -/
def overList {α : Type} (l : List α) (f : α → State → State) (s : State) : State := l.foldl (fun s x => f x s) s

/-- Do a change when a condition holds. -/
def when (b : Bool) (f : State → State) (s : State) : State := if b then f s else s

/-! ### Set-up in force (spec/13_boot_protection_setup.md R374 to R377) -/

/-- The scope of the ST fields of register word (i, j), by the bits of GLB_REHANG. -/
def scopeOf (r : Reg) (i : Nat) : Nat :=
  match r with
  | .wingMaCfg => i
  | .kvaPageTimeout => 4
  | .kvaCtxSeq => 4
  | .kvaCtxPool => 4
  | .btpTimeout => 5
  | .lnkCfg => 6
  | .glbLinkCfg => 6
  | _ => 8

/-- A word of a set of register words. -/
def setWord (t : Tbl Nat) (r : Reg) (i j : Nat) : Nat := Tbl.get (r.reset i j) t (r.key i j)

/-- The value in force of an ST field. -/
def State.eff (s : State) (f : Fld) (i : Nat := 0) (j : Nat := 0) : Nat :=
  bits (setWord (Tbl.get {} s.scope (scopeOf f.reg i)).cur f.reg i j) f.lo f.w

/-- The value of an ST field for work that started under generation g of its scope. -/
def State.effAt (s : State) (g : Nat) (f : Fld) (i : Nat := 0) (j : Nat := 0) : Nat :=
  let x := Tbl.get {} s.scope (scopeOf f.reg i)
  bits (setWord (if g < x.gen then x.prev else x.cur) f.reg i j) f.lo f.w

/-! ### The boot state and the holdings (spec/13 R358, spec/15 R416) -/

/-- BOOT_STS.STATE. -/
def State.bootState (s : State) : Nat := s.fld RegF.bootStsState

/-- READY has been published. -/
def State.ready (s : State) : Bool := s.flag RegF.glbStatusReady

/-- Byte i of the holdings table. -/
def State.holdByte (s : State) (i : Nat) : Nat := (nth 0 s.hold i).toNat

/-- A field of the holdings table. -/
def State.holdField (s : State) (o n : Nat) : Nat := field s.hold o n

def State.hasWing (s : State) (w : Nat) : Bool := (s.holdByte 1).testBit w && decide (w < 4)
def State.hasArray (s : State) (a : Nat) : Bool := (s.holdByte 2).testBit a
def State.hasGroup (s : State) (g : Nat) : Bool := (s.holdField 4 4).testBit g
def State.hasEngine (s : State) (e : Nat) : Bool := s.hasGroup (e / 8)
def State.hasStack (s : State) (k : Nat) : Bool := (s.holdField 8 4).testBit k && decide (k < 20)
def State.linkWidth (s : State) (p : Nat) : Nat := bits (s.holdField 12 4) (2 * p) 2
def State.hasBt (s : State) (b : Nat) : Bool := (s.holdByte 16).testBit b && decide (b < 4)
def State.btCap (s : State) (b : Nat) : Nat := s.holdField (20 + 2 * b) 2

/-- The holdings bytes with n bytes from `o` replaced. -/
def State.setHold (s : State) (o n v : Nat) : State :=
  { s with hold := s.hold.take o ++ leBytes n v ++ s.hold.drop (o + n) }

/-! ### Addresses (spec/07_memory_tiers.md R185, R186, R189) -/

/-- What an address of the device address space names. -/
inductive Home where
  | gallery | near (stack : Nat) | board (port : Nat) | flash (ns : Nat) | nowhere
  deriving DecidableEq, Repr

def galleryEnd : Nat := 0x18000000
def nearBase : Nat := 0x10000000000
def boardBase : Nat := 0x100000000000
def flashBase : Nat := 0x1000000000000

/-- The memory of an address by R185. -/
def homeOf (a : Nat) : Home :=
  if a < galleryEnd then .gallery
  else if nearBase ≤ a ∧ a < nearBase + 20 * 2 ^ 37 then .near ((a - nearBase) / 2 ^ 37)
  else if boardBase ≤ a ∧ a < boardBase + 4 * 2 ^ 42 then .board ((a - boardBase) / 2 ^ 42)
  else if flashBase ≤ a ∧ a < flashBase + 16 * 2 ^ 44 then .flash ((a - flashBase) / 2 ^ 44)
  else .nowhere

/-- An address lies in legacy flash (R186). -/
def isFlash (a : Nat) : Bool := match homeOf a with | .flash _ => true | _ => false

/-- The size of a legacy flash namespace in bytes (R209). -/
def State.nsBytes (s : State) (n : Nat) : Nat :=
  let t := Tbl.get {} s.lf n
  if t.valid then t.blocks * 2 ^ t.lbaShift else 0

/-- An address names memory that is present (R186). -/
def State.present (s : State) (a : Nat) : Bool :=
  match homeOf a with
  | .gallery => true
  | .near k => s.hasStack k
  | .board b => s.hasBt b && decide ((a - boardBase) % 2 ^ 42 < s.btCap b * 2 ^ 30)
  | .flash n => decide ((a - flashBase) % 2 ^ 44 < s.nsBytes n)
  | .nowhere => false

/-- Bytes a to a + n − 1 lie in one memory that is present. -/
def State.presentRange (s : State) (a n : Nat) : Bool :=
  s.present a && (n == 0 || (s.present (a + n - 1) && decide (homeOf a = homeOf (a + n - 1))))

/-- The wing whose gallery banks hold a gallery address (spec/06_gallery_streams_tiles.md R154). -/
def galleryWing (a : Nat) : Nat := a / 0x6000000

/-! ### Memories -/

/-- Read n bytes of the device memory; an unlisted byte reads as zero (log 2). -/
def State.rd (s : State) (a n : Nat) : List Byte := Tbl.getRun 0 s.mem a n

/-- Remove the lines that a write covers from the poisoned lines. -/
def clearLines (l : List Nat) (a n : Nat) : List Nat :=
  l.filter (fun x => !decide (a ≤ x * 64 ∧ x * 64 + 64 ≤ a + n))

/-- Write bytes of the device memory. A line written whole is no longer poisoned and holds no word to correct. -/
def State.wr (s : State) (a : Nat) (bs : List Byte) : State :=
  { s with mem := Tbl.setRun 0 s.mem a bs, poison := clearLines s.poison a bs.length,
           corrected := clearLines s.corrected a bs.length }

/-- Read n bytes of host memory. -/
def State.hrd (s : State) (a n : Nat) : List Byte := Tbl.getRun 0 s.hmem a n

/-- Write bytes of host memory. -/
def State.hwr (s : State) (a : Nat) (bs : List Byte) : State := { s with hmem := Tbl.setRun 0 s.hmem a bs }

/-- Some line of bytes a to a + n − 1 is poisoned. -/
def State.poisoned (s : State) (a n : Nat) : Bool :=
  decide (0 < n) && s.poison.any (fun x => decide (a < x * 64 + 64 ∧ x * 64 < a + n))

/-- Add a line to a set of lines. -/
def addLine (l : List Nat) (x : Nat) : List Nat := if x ∈ l then l else l ++ [x]

/-- Mark the line of an address poisoned. -/
def State.poisonLine (s : State) (a : Nat) : State := { s with poison := addLine s.poison (a / 64) }

/-! ### Protection (spec/13 R366, R367) -/

/-- A valid entry covers bytes a to a + n − 1. -/
def ProtEntry.covers (e : ProtEntry) (a n : Nat) : Bool :=
  e.valid && decide (e.base ≤ e.last ∧ e.base * 2 ^ 16 ≤ a ∧ a + n ≤ e.last * 2 ^ 16 + 2 ^ 16)

/-- A domain of a table allows a read or a write. -/
def protAllows (t : Tbl ProtEntry) (d : Nat) (write : Bool) (a n : Nat) : Bool :=
  (List.range 16).any (fun e =>
    let p := Tbl.get {} t (16 * d + e)
    p.covers a n && (if write then p.write else p.read))

/-- The protection domain of a context. -/
def State.pd (s : State) (c : Nat) : Nat := s.fld RegF.ctxCfgPd c

/-- An access of a context to a tier outside the gallery is allowed, under the table its work started with. -/
def State.allows (s : State) (c : Nat) (old write : Bool) (a n : Nat) : Bool :=
  s.presentRange a n && protAllows (if old then s.protPrev else s.protAct) (s.pd c) write a n

/-- The context may reach bytes a to a + n − 1 (R366). -/
def State.reach (s : State) (c a n : Nat) : Bool := s.allows c false false a n && s.allows c false true a n

/-! ### The event recorder (spec/15_integrity_records_guarantees.md R419 to R426) -/

/-- The bytes 16 to 55 of a record: pieces at their offsets, the rest zero. -/
def payload (l : List (Nat × Nat × Nat)) : List Byte :=
  l.foldl (fun b x => b.take (x.1 - 16) ++ leBytes x.2.1 x.2.2 ++ b.drop (x.1 - 16 + x.2.1)) (List.replicate 40 0)

/-- The 64 bytes of a record. -/
def EvRec.bytes (r : EvRec) : List Byte :=
  leBytes 8 r.time ++ leBytes 2 r.source ++ leBytes 2 r.code ++ leBytes 1 r.severity ++ leBytes 3 (r.ctx.getD 0xFFFFFF) ++
    pad 40 r.payload ++ leBytes 8 (r.seq + 2 ^ 63)

/-- Store a record: its number is the next one; it goes to the day book, and to the accession register while that has space. A
record that would replace one not yet copied is counted as skipped, or refused after a fall of PWR_GOOD. -/
def Recorder.store (r : Recorder) (e : EvRec) : Recorder :=
  let q := r.last + 1
  if r.closed || (r.falling && decide (r.copied + 4096 < q)) then r
  else
    let e := { e with seq := q }
    { r with last := q, day := Tbl.set {} r.day (q % 4096) e,
             acc := if r.acc.length < 4096 then r.acc ++ [e] else r.acc }

/-- Store a record in service: a day-book record that it replaces before the mirror has copied it is skipped (R424). -/
def State.storeEv (s : State) (e : EvRec) : State :=
  let r := s.evr
  let late := !r.closed && !r.falling && decide (r.copied + 4096 < r.last + 1)
  let s := if late then s.incFld RegF.evrMirrorSkipped 1 else s
  { s with evr := (if late then { r with copied := r.last + 1 - 4096 } else r).store e }

/-- Create an event record (R419). Before boot step 8 the custodian holds up to 64 records (R425). -/
def State.event (s : State) (source code severity : Nat) (ctx : Option Nat) (pl : List (Nat × Nat × Nat)) : State :=
  let e : EvRec := { time := s.time, source := source, code := code, severity := severity, ctx := ctx, payload := payload pl }
  if s.evr.restored then s.storeEv e
  else if s.evr.held.length < 64 then { s with evr := { s.evr with held := s.evr.held ++ [e] } }
  else s

/-- Unit numbers (R420). -/
def uArray (a : Nat) : Nat := a
def uEngine (e : Nat) : Nat := 0x100 + e
def uStream (u : Nat) : Nat := 0x200 + u
def uMover (m : Nat) : Nat := 0x400 + m
def uCourier (q : Nat) : Nat := 0x440 + q
def uKv (w : Nat) : Nat := 0x480 + w
def uWing (w : Nat) : Nat := 0x490 + w
def uStack (k : Nat) : Nat := 0x500 + k
def uPort (p : Nat) : Nat := 0x600 + p
def uLane (p l : Nat) : Nat := 0x700 + 16 * p + l
def uBt (b : Nat) : Nat := 0x800 + b
def uBank (k : Nat) : Nat := 0x1000 + k
def uHost : Nat := 0x2000
def uCustodian : Nat := 0x2001
def uRecorder : Nat := 0x2002
def uProv : Nat := 0x2003
def uRed : Nat := 0x2004
def uChan (c : Nat) : Nat := 0x2100 + c
def uScan (e : Nat) : Nat := 0x2140 + e
def uThermal (i : Nat) : Nat := 0x2300 + i

/-! ### Contexts, completion records and interrupts (spec/12_rings_contexts_rota.md R344 to R348) -/

def State.cx (s : State) (c : Nat) : Context := Tbl.get {} s.ctx c
def State.setCx (s : State) (c : Nat) (x : Context) : State := { s with ctx := Tbl.set {} s.ctx c x }
def State.updCx (s : State) (c : Nat) (f : Context → Context) : State := s.setCx c (f (s.cx c))

/-- CTX_STS.STATE of a context. -/
def State.cstate (s : State) (c : Nat) : Nat := s.fld RegF.ctxStsState c

/-- Ring lengths (R335). -/
def State.sqLen (s : State) (c : Nat) : Nat := 2 ^ (6 + s.fld RegF.ctxSqOrder c)
def State.cqLen (s : State) (c : Nat) : Nat := 2 ^ (6 + s.fld RegF.ctxCqOrder c)

/-- The distance from one free-running 32-bit index to another. -/
def dist32 (a b : Nat) : Nat := (b + 2 ^ 32 - a % 2 ^ 32) % 2 ^ 32

/-- The completion ring has no space (R344). -/
def State.cqRingFull (s : State) (c : Nat) : Bool :=
  decide (s.cqLen c ≤ dist32 (s.fld RegF.ctxCqStsCqHead c) (s.fld RegF.ctxCqStsCqTail c))

/-- CQ_FULL shows whether records are held because the ring is full. -/
def State.syncFull (s : State) (c : Nat) : State :=
  s.setFld RegF.ctxStsCqFull (bit (s.cqRingFull c && !(s.cx c).recs.isEmpty)) c

/-- The hold of 64 records is full and the ring has no space: nothing of the context starts (R344). -/
def State.holdFull (s : State) (c : Nat) : Bool := s.cqRingFull c && decide (64 ≤ (s.cx c).recs.length)

/-- Form a completion record; it waits in the device until it is written. While a context is disabled, and where a reset gives no
records, it is dropped (R334, R350). -/
def State.complete (s : State) (c : Nat) (r : CRec) : State :=
  if (s.cx c).dropRecs then s
  else (s.updCx c (fun x => { x with recs := x.recs ++ [{ r with time := s.time }] })).syncFull c

/-- Send an interrupt on a vector of a function, or set its pending bit where it is masked (R346). -/
def State.msix (s : State) (fn v : Nat) : State :=
  if (fn, v) ∈ s.msixOpen then { s with irqOut := s.irqOut ++ [(fn, v)] }
  else { s with msixPend := if (fn, v) ∈ s.msixPend then s.msixPend else s.msixPend ++ [(fn, v)] }

/-- Interrupt of a context: sent when IRQ_EN is 1 and the vector lies in the function's table, else BAD_VEC. One that is sent, or that a mask
keeps pending, covers every record written before it (R346). -/
def State.irq (s : State) (c : Nat) : State :=
  let fn := s.fld RegF.ctxCfgFunc c
  let v := s.fld RegF.ctxIrqVector c
  if ¬ s.flag RegF.ctxIrqIrqEn c then s
  else if v < (if fn = 0 then 2048 else 256) then (s.updCx c (fun x => { x with irqCount := 0, irqArmed := false })).msix fn v
  else s.setFld RegF.ctxStsBadVec 1 c

/-- The bytes of a completion record (R345). -/
def CRec.bytes (r : CRec) (sqHead : Nat) (phase : Bool) : List Byte :=
  leBytes 2 r.tag ++ leBytes 1 r.status.code ++ leBytes 1 r.opcode ++ leBytes 4 sqHead ++ leBytes 8 r.detail.toNat ++
    leBytes 8 r.time ++ leBytes 4 r.task ++ leBytes 3 0 ++ leBytes 1 (bit phase + 2 * bit r.remote + 4 * bit r.interim)

/-- A descriptor's fields (R338). -/
def Desc.opcode (d : Desc) : Nat := field d.bytes 0 1
def Desc.flags (d : Desc) : Nat := field d.bytes 1 1
def Desc.tag (d : Desc) : Nat := field d.bytes 2 2
def Desc.waitTag (d : Desc) : Nat := field d.bytes 4 2

/-- The descriptor of submission index i, if the context holds it. -/
def State.desc (s : State) (c i : Nat) : Option Desc := (s.cx c).descs.find? (fun d => d.idx == i)

def State.updDesc (s : State) (c i : Nat) (f : Desc → Desc) : State :=
  s.updCx c (fun x => { x with descs := x.descs.map (fun d => if d.idx = i then f d else d) })

/-- Complete a descriptor: it is done and its record is formed. -/
def State.finish (s : State) (c i : Nat) (st : Status) (detail : W64 := 0) (task : Nat := 0xFFFFFFFF)
    (remote : Bool := false) : State :=
  match s.desc c i with
  | none => s
  | some d =>
    if d.st = .done then s
    else (s.updDesc c i (fun d => { d with st := .done })).complete c
      { tag := d.tag, status := st, opcode := d.opcode, detail := detail, task := task, remote := remote,
        irqNow := (d.flags).testBit 2 }

/-- A CERT_REJECT detail: reason and item (R348). -/
def rejectDetail (reason item : Nat) : W64 := BitVec.ofNat 64 (reason % 2 ^ 16 + (item % 2 ^ 32) * 2 ^ 16)

/-- The detail of a context abort: the protection epoch and bit 63 (R348). -/
def State.abortDetail (s : State) : W64 := BitVec.ofNat 64 (s.fld RegF.protEpochEpoch + 2 ^ 63)

/-- The keeper owns a context: its function is the PF. -/
def State.keeper (s : State) (c : Nat) : Bool := s.fld RegF.ctxCfgFunc c == 0

/-- Set SETUP_IGNORED and record the first ignored write (spec/13 R373). -/
def State.setupIgnored (s : State) (off : Nat) : State :=
  let s := s.setFld RegF.glbStatusSetupIgnored 1
  if s.flag RegF.glbSetupIgnValid then s
  else (s.setFld RegF.glbSetupIgnOffset off).setFld RegF.glbSetupIgnValid 1

/-! ### The admitted program of a context -/

def State.prog (s : State) (c : Nat) : Option Prog := (s.cx c).prog
def State.setProg (s : State) (c : Nat) (p : Prog) : State := s.updCx c (fun x => { x with prog := some p })
def State.updProg (s : State) (c : Nat) (f : Prog → Prog) : State :=
  s.updCx c (fun x => { x with prog := x.prog.map f })

/-- The certificate of the admitted program; an empty one where none is admitted. -/
def State.cert (s : State) (c : Nat) : Cert := ((s.prog c).getD {}).cert

/-- The certificate's entry for a task. -/
def State.task (s : State) (c t : Nat) : Task := nth {} (s.cert c).tasks t

/-- The task as it runs. -/
def State.rt (s : State) (c t : Nat) : TaskRt := Tbl.get {} ((s.prog c).getD {}).tasks t
def State.updRt (s : State) (c t : Nat) (f : TaskRt → TaskRt) : State :=
  s.updProg c (fun p => { p with tasks := Tbl.upd {} p.tasks t f })

/-- The set-up generations in force, by scope (spec/13_boot_protection_setup.md R375). -/
def State.nowGens (s : State) : List Nat := (List.range 14).map (fun i => (Tbl.get {} s.scope i : Scope).gen)

/-- A task is running. -/
def State.running (s : State) (c t : Nat) : Bool := (s.rt c t).st == .running

/-! ### Event counters (spec/05_vector_engines.md R128) -/

def State.evGet (s : State) (w e : Nat) : W32 := Tbl.get 0 s.ev (64 * w + e)
def State.evAdd (s : State) (w e n : Nat) : State :=
  { s with ev := Tbl.upd 0 s.ev (64 * w + e) (fun x => x + BitVec.ofNat 32 n) }

/-- The context that holds an event counter of a wing. -/
def State.evOwner (s : State) (w e : Nat) : Option Nat :=
  let x := Tbl.get 0 s.evOwn (64 * w + e)
  if x = 0 then none else some (x - 1)

/-- A counter gains 1 for the work of a context, where a program of that context holds it. -/
def State.evCount (s : State) (c w e : Nat) : State := if s.evOwner w e = some c then s.evAdd w e 1 else s

/-! ### Table accessors of the units -/

def State.engine (s : State) (e : Nat) : Engine := Tbl.get {} s.eng e
def State.setEngine (s : State) (e : Nat) (x : Engine) : State := { s with eng := Tbl.set {} s.eng e x }
def State.updEngine (s : State) (e : Nat) (f : Engine → Engine) : State := s.setEngine e (f (s.engine e))
def State.array (s : State) (a : Nat) : ArrayU := Tbl.get {} s.arr a
def State.setArray (s : State) (a : Nat) (x : ArrayU) : State := { s with arr := Tbl.set {} s.arr a x }
def State.stream (s : State) (u : Nat) : Stream := Tbl.get {} s.strm u
def State.setStream (s : State) (u : Nat) (x : Stream) : State := { s with strm := Tbl.set {} s.strm u x }
def State.mover (s : State) (m : Nat) : Mover := Tbl.get {} s.mov m
def State.setMover (s : State) (m : Nat) (x : Mover) : State := { s with mov := Tbl.set {} s.mov m x }
def State.courier (s : State) (q : Nat) : Courier := Tbl.get {} s.cour q
def State.setCourier (s : State) (q : Nat) (x : Courier) : State := { s with cour := Tbl.set {} s.cour q x }
def State.shelfOf (s : State) (w h : Nat) : Shelf := Tbl.get {} s.shelf (16 * w + h)
def State.setShelf (s : State) (w h : Nat) (x : Shelf) : State := { s with shelf := Tbl.set {} s.shelf (16 * w + h) x }
def State.stack (s : State) (k : Nat) : Stack := Tbl.get {} s.stk k
def State.setStack (s : State) (k : Nat) (x : Stack) : State := { s with stk := Tbl.set {} s.stk k x }
def State.btPort (s : State) (b : Nat) : BtPort := Tbl.get {} s.bt b
def State.setBt (s : State) (b : Nat) (x : BtPort) : State := { s with bt := Tbl.set {} s.bt b x }
def State.flash (s : State) (n : Nat) : FlashNs := Tbl.get {} s.lf n
def State.setFlash (s : State) (n : Nat) (x : FlashNs) : State := { s with lf := Tbl.set {} s.lf n x }
def State.lport (s : State) (p : Nat) : Port := Tbl.get {} s.port p
def State.setPort (s : State) (p : Nat) (x : Port) : State := { s with port := Tbl.set {} s.port p x }
def State.rqueue (s : State) (w q : Nat) : RQueue := Tbl.get {} s.rq (64 * w + q)
def State.setRq (s : State) (w q : Nat) (x : RQueue) : State := { s with rq := Tbl.set {} s.rq (64 * w + q) x }
def State.seqOf (s : State) (n : Nat) : Seq := Tbl.get {} s.seqs n
def State.setSeq (s : State) (n : Nat) (x : Seq) : State := { s with seqs := Tbl.set {} s.seqs n x }
def State.ch (s : State) (k : Nat) : Chan := Tbl.get {} s.chan k
def State.setCh (s : State) (k : Nat) (x : Chan) : State := { s with chan := Tbl.set {} s.chan k x }
def State.wrota (s : State) (w : Nat) : WingRota := Tbl.get {} s.rota w
def State.setWrota (s : State) (w : Nat) (x : WingRota) : State := { s with rota := Tbl.set {} s.rota w x }
def State.scp (s : State) (k : Nat) : Scope := Tbl.get {} s.scope k
def State.setScp (s : State) (k : Nat) (x : Scope) : State := { s with scope := Tbl.set {} s.scope k x }

/-- The device time goes on to a time at which the specification places an event, where it has not come yet (log 48). -/
def State.comeTo (s : State) (t : Nat) : State := if s.time < t then { s with time := t } else s

/-- The next free value (log 7) and the state in which it is used up. -/
def State.free (s : State) : W64 × State := (Config.freeWord s.freeCtr, { s with freeCtr := s.freeCtr + 1 })

/-- A command that has its effect: the machine goes on. -/
abbrev ok (s : State) : Host.Outcome State Fault Refusal := .next s

end Sys2Proof.Machine
end

