-- ==== Sys2Proof/Machine/Check.lean ====
section
/-! DEFINITION. Check values and digests: the four functions of the check-value units (spec/15_integrity_records_guarantees.md
R405), the CRC of tile seals and pages, and SHA-384, whose constants FIPS 180-4 fixes (PRESUMED, log 8). -/

namespace Sys2Proof.Machine

/-- A check-value function (R405). A reflected function keeps its register and polynomial in reflected form. -/
structure CrcFn where
  width : Nat
  poly : Nat
  init : Nat
  reflect : Bool
  xorOut : Nat
  deriving DecidableEq, Repr

def crc32c : CrcFn := ⟨32, 0x82F63B78, 0xFFFFFFFF, true, 0xFFFFFFFF⟩
def crc32 : CrcFn := ⟨32, 0xEDB88320, 0xFFFFFFFF, true, 0xFFFFFFFF⟩
def crc64 : CrcFn := ⟨64, 0x42F0E1EBA9EA3693, 0, false, 0⟩
def crc16 : CrcFn := ⟨16, 0x1021, 0xFFFF, false, 0⟩

/-- The function of a POLY code. -/
def crcFn (poly : Nat) : CrcFn :=
  match poly with
  | 0 => crc32c
  | 1 => crc32
  | 2 => crc64
  | _ => crc16

/-- One bit step of a running value. -/
def CrcFn.bit (f : CrcFn) (c : Nat) : Nat :=
  if f.reflect then (if c % 2 = 1 then c / 2 ^^^ f.poly else c / 2)
  else if c.testBit (f.width - 1) then (c * 2 % 2 ^ f.width) ^^^ f.poly else c * 2

/-- Fold one byte into a running value. -/
def CrcFn.byte (f : CrcFn) (c : Nat) (b : BitVec 8) : Nat :=
  times 8 f.bit (if f.reflect then c ^^^ b.toNat else c ^^^ (b.toNat * 2 ^ (f.width - 8)))

/-- Fold bytes into a running value. -/
def CrcFn.run (f : CrcFn) (c : Nat) (bs : List (BitVec 8)) : Nat := bs.foldl f.byte c

/-- The check value of bytes from the function's initial value. -/
def CrcFn.of (f : CrcFn) (bs : List (BitVec 8)) : Nat := f.run f.init bs ^^^ f.xorOut

/-! ### SHA-384 (R361, R410) -/

def shaK0 : List (BitVec 64) :=
  [0x428A2F98D728AE22, 0x7137449123EF65CD, 0xB5C0FBCFEC4D3B2F, 0xE9B5DBA58189DBBC, 0x3956C25BF348B538,
   0x59F111F1B605D019, 0x923F82A4AF194F9B, 0xAB1C5ED5DA6D8118, 0xD807AA98A3030242, 0x12835B0145706FBE,
   0x243185BE4EE4B28C, 0x550C7DC3D5FFB4E2, 0x72BE5D74F27B896F, 0x80DEB1FE3B1696B1, 0x9BDC06A725C71235,
   0xC19BF174CF692694, 0xE49B69C19EF14AD2, 0xEFBE4786384F25E3, 0x0FC19DC68B8CD5B5, 0x240CA1CC77AC9C65]

def shaK1 : List (BitVec 64) :=
  [0x2DE92C6F592B0275, 0x4A7484AA6EA6E483, 0x5CB0A9DCBD41FBD4, 0x76F988DA831153B5, 0x983E5152EE66DFAB,
   0xA831C66D2DB43210, 0xB00327C898FB213F, 0xBF597FC7BEEF0EE4, 0xC6E00BF33DA88FC2, 0xD5A79147930AA725,
   0x06CA6351E003826F, 0x142929670A0E6E70, 0x27B70A8546D22FFC, 0x2E1B21385C26C926, 0x4D2C6DFC5AC42AED,
   0x53380D139D95B3DF, 0x650A73548BAF63DE, 0x766A0ABB3C77B2A8, 0x81C2C92E47EDAEE6, 0x92722C851482353B]

def shaK2 : List (BitVec 64) :=
  [0xA2BFE8A14CF10364, 0xA81A664BBC423001, 0xC24B8B70D0F89791, 0xC76C51A30654BE30, 0xD192E819D6EF5218,
   0xD69906245565A910, 0xF40E35855771202A, 0x106AA07032BBD1B8, 0x19A4C116B8D2D0C8, 0x1E376C085141AB53,
   0x2748774CDF8EEB99, 0x34B0BCB5E19B48A8, 0x391C0CB3C5C95A63, 0x4ED8AA4AE3418ACB, 0x5B9CCA4F7763E373,
   0x682E6FF3D6B2B8A3, 0x748F82EE5DEFB2FC, 0x78A5636F43172F60, 0x84C87814A1F0AB72, 0x8CC702081A6439EC]

def shaK3 : List (BitVec 64) :=
  [0x90BEFFFA23631E28, 0xA4506CEBDE82BDE9, 0xBEF9A3F7B2C67915, 0xC67178F2E372532B, 0xCA273ECEEA26619C,
   0xD186B8C721C0C207, 0xEADA7DD6CDE0EB1E, 0xF57D4F7FEE6ED178, 0x06F067AA72176FBA, 0x0A637DC5A2C898A6,
   0x113F9804BEF90DAE, 0x1B710B35131C471B, 0x28DB77F523047D84, 0x32CAAB7B40C72493, 0x3C9EBE0A15C9BEBC,
   0x431D67C49C100D4C, 0x4CC5D4BECB3E42B6, 0x597F299CFC657E2A, 0x5FCB6FAB3AD6FAEC, 0x6C44198C4A475817]

/-- The round constants of FIPS 180-4. -/
def shaK : List (BitVec 64) := shaK0 ++ shaK1 ++ shaK2 ++ shaK3

/-- The initial hash value of SHA-384. -/
def shaInit : List (BitVec 64) :=
  [0xCBBB9D5DC1059ED8, 0x629A292A367CD507, 0x9159015A3070DD17, 0x152FECD8F70E5939, 0x67332667FFC00B31,
   0x8EB44A8768581511, 0xDB0C2E0D64F98FA7, 0x47B5481DBEFA4FA4]

def shaSig (a b c : Nat) (x : BitVec 64) : BitVec 64 := x.rotateRight a ^^^ x.rotateRight b ^^^ x.rotateRight c
def shaSml (a b c : Nat) (x : BitVec 64) : BitVec 64 := x.rotateRight a ^^^ x.rotateRight b ^^^ (x >>> c)

/-- Extend a message schedule held newest first by one word. -/
def shaExtend (w : List (BitVec 64)) : List (BitVec 64) :=
  (shaSml 19 61 6 (nth 0 w 1) + nth 0 w 6 + shaSml 1 8 7 (nth 0 w 14) + nth 0 w 15) :: w

/-- The 80 words of the schedule of a block. -/
def shaSchedule (block : List (BitVec 64)) : List (BitVec 64) := (times 64 shaExtend block.reverse).reverse

/-- One round over the eight working words. -/
def shaRound (h : List (BitVec 64)) (kw : BitVec 64 × BitVec 64) : List (BitVec 64) :=
  match h with
  | [a, b, c, d, e, f, g, hh] =>
    let t1 := hh + shaSig 14 18 41 e + ((e &&& f) ^^^ (~~~e &&& g)) + kw.1 + kw.2
    let t2 := shaSig 28 34 39 a + ((a &&& b) ^^^ (a &&& c) ^^^ (b &&& c))
    [t1 + t2, a, b, c, d + t1, e, f, g]
  | h => h

/-- The hash value after one block of 16 words. -/
def shaBlock (h : List (BitVec 64)) (block : List (BitVec 64)) : List (BitVec 64) :=
  List.zipWith (· + ·) h ((shaK.zip (shaSchedule block)).foldl shaRound h)

/-- A big-endian word of 8 bytes. -/
def beWord (l : List (BitVec 8)) : BitVec 64 := BitVec.ofNat 64 (l.foldl (fun a b => a * 256 + b.toNat) 0)

/-- The n bytes of a number, most significant first. -/
def beBytes (n x : Nat) : List (BitVec 8) := (leBytes n x).reverse

/-- The 16-word blocks of padded bytes, with fuel. -/
def shaBlocks : Nat → List (BitVec 8) → List (List (BitVec 64))
  | 0, _ => []
  | n + 1, l =>
    if l.isEmpty then []
    else (List.range 16).map (fun i => beWord ((l.drop (8 * i)).take 8)) :: shaBlocks n (l.drop 128)

/-- A message padded to whole blocks. -/
def shaPad (m : List (BitVec 8)) : List (BitVec 8) :=
  m ++ [0x80] ++ List.replicate ((111 + 128 - m.length % 128) % 128) 0 ++ beBytes 16 (8 * m.length)

/-- The 48 bytes of the SHA-384 digest. -/
def sha384 (m : List (BitVec 8)) : List (BitVec 8) :=
  let p := shaPad m
  ((((shaBlocks p.length p).foldl shaBlock shaInit).take 6).map (fun x => beBytes 8 x.toNat)).flatten

end Sys2Proof.Machine
end

