-- ==== Sys2Proof/Machine/Tiles.lean ====
section
/-! DEFINITION. Tiles (spec/06_gallery_streams_tiles.md R159 to R164, R175) and elements packed in bytes
(spec/02_number_formats.md R31). -/

namespace Sys2Proof.Machine

def tileBytes : Nat := 16448
def payloadBytes : Nat := 16384

/-- Stored bytes of an element; 0 for the 4-bit formats, which share bytes (R31). -/
def elemBytes (f : Nat) : Nat :=
  match f with
  | 0x00 => 8 | 0x0F => 8 | 0x01 => 4 | 0x0E => 4 | 0x02 => 2 | 0x03 => 2 | 0x04 => 2 | 0x05 => 6 | 0x06 => 1 | 0x07 => 1
  | 0x08 => 1 | 0x09 => 1 | 0x0B => 1 | 0x0C => 1 | 0x10 => 12 | _ => 0

/-- The bytes that n elements of a format take. -/
def spanBytes (f n : Nat) : Nat := if elemBytes f = 0 then ceilDiv n 2 else n * elemBytes f

/-- The code of element i of packed bytes (R31): bits [7:6] of a 6-bit code's byte are ignored. -/
def elemCode (f : Nat) (bs : List Byte) (i : Nat) : Nat :=
  if elemBytes f = 0 then
    let b := (nth 0 bs (i / 2)).toNat
    if i % 2 = 0 then b % 16 else b / 16
  else field bs (i * elemBytes f) (elemBytes f) % 2 ^ fmtWidth f

/-- The packed bytes of codes (R31). -/
def packCodes (f : Nat) : List Nat → List Byte
  | [] => []
  | [a] => if elemBytes f = 0 then leBytes 1 (a % 16) else leBytes (elemBytes f) (a % 2 ^ fmtWidth f)
  | a :: b :: l =>
    if elemBytes f = 0 then leBytes 1 (a % 16 + 16 * (b % 16)) ++ packCodes f l
    else leBytes (elemBytes f) (a % 2 ^ fmtWidth f) ++ packCodes f (b :: l)

/-- Put the code of element i into packed bytes. -/
def putCode (f : Nat) (bs : List Byte) (i c : Nat) : List Byte :=
  if elemBytes f = 0 then
    let b := (nth 0 bs (i / 2)).toNat
    setNth bs (i / 2) (BitVec.ofNat 8 (if i % 2 = 0 then b / 16 * 16 + c % 16 else b % 16 + 16 * (c % 16)))
  else bs.take (i * elemBytes f) ++ leBytes (elemBytes f) (c % 2 ^ fmtWidth f) ++ bs.drop ((i + 1) * elemBytes f)

/-- A tile header's fields (R160). -/
structure Hdr where
  fmt : Nat := 0
  bscale : Bool := false
  kaxis : Bool := false
  transposed : Bool := false
  rows : Nat := 0
  cols : Nat := 0
  scale : Int := 0
  home : Nat := 0
  epoch : Nat := 0
  tensor : Nat := 0
  rowO : Nat := 0
  colO : Nat := 0
  key : Nat := 0
  producer : Nat := 0
  deriving DecidableEq, Repr

def Hdr.ofBytes (b : List Byte) : Hdr :=
  { fmt := field b 0 1 % 32, bscale := (field b 1 1).testBit 0, kaxis := (field b 1 1).testBit 1,
    transposed := (field b 1 1).testBit 2, rows := field b 2 2, cols := field b 4 2, scale := signed 16 (field b 6 2),
    home := field b 8 1 % 4, epoch := field b 12 4, tensor := field b 16 4, rowO := field b 20 4, colO := field b 24 4,
    key := field b 28 8, producer := field b 36 2 }

/-- Header bytes 0 to 59. -/
def Hdr.bytes (h : Hdr) : List Byte :=
  leBytes 1 (h.fmt % 32) ++
    leBytes 1 ((if h.bscale then 1 else 0) + (if h.kaxis then 2 else 0) + (if h.transposed then 4 else 0)) ++
    leBytes 2 h.rows ++ leBytes 2 h.cols ++ leBytes 2 (unsigned 16 h.scale) ++ leBytes 1 (h.home % 4) ++ leBytes 3 0 ++
    leBytes 4 h.epoch ++ leBytes 4 h.tensor ++ leBytes 4 h.rowO ++ leBytes 4 h.colO ++ leBytes 8 h.key ++
    leBytes 2 h.producer ++ leBytes 22 0

/-- The seal over header bytes 0 to 59 and the payload (R162). -/
def sealOf (head pay : List Byte) : Nat := crc32c.of (head.take 60 ++ pay)

/-- A tile image from a header and a payload, padded with zero bytes, with its seal. -/
def tileImage (h : Hdr) (pay : List Byte) : List Byte :=
  let p := pad payloadBytes pay
  h.bytes ++ leBytes 4 (sealOf h.bytes p) ++ p

/-- The number of blocks and block-scale bytes of a header (R161). -/
def Hdr.blocks (h : Hdr) : Nat := if h.bscale then h.rows * h.cols / 32 else 0

/-- A reserved field of header bytes is non-zero. -/
def hdrReserved (b : List Byte) : Bool :=
  decide (32 ≤ field b 0 1) || decide (8 ≤ field b 1 1) || decide (4 ≤ field b 8 1) || !zeros ((b.drop 9).take 3) ||
    !zeros ((b.drop 38).take 22)

def exactFmt (f : Nat) : Bool := (decide (6 ≤ f) && decide (f ≤ 0xA)) || f == 0xC || f == 0xD

/-- A header is malformed (R161). -/
def hdrMalformed (b : List Byte) : Bool :=
  let h := Hdr.ofBytes b
  hdrReserved b || h.rows == 0 || h.cols == 0 || !fmtValid h.fmt || h.fmt == 5 ||
    decide (payloadBytes < spanBytes h.fmt (h.rows * h.cols) + h.blocks) ||
    (h.bscale && (!exactFmt h.fmt || (if h.kaxis then h.rows else h.cols) % 32 != 0)) ||
    ((h.fmt == 0xA || h.fmt == 0xD) && h.cols % 2 == 1)

/-- The check of a tile by a user of its elements: seal, header and the format that the user names (R164). -/
def tileGood (b : List Byte) (fmt : Option Nat) : Bool :=
  sealOf b (b.drop 64) == field b 60 4 && !hdrMalformed b &&
    (match fmt with | some f => field b 0 1 % 32 == f | none => true)

/-- The code of element (r, c) of a tile image. -/
def tileCode (b : List Byte) (r c : Nat) : Nat :=
  let h := Hdr.ofBytes b
  elemCode h.fmt (b.drop 64) (r * h.cols + c)

/-- The block scale code that covers element (r, c); 127, the scale 2^0, in a tile without block scales (R65, R161). -/
def tileScaleCode (b : List Byte) (r c : Nat) : Nat :=
  let h := Hdr.ofBytes b
  if h.bscale then
    (nth 0 (b.drop (64 + spanBytes h.fmt (h.rows * h.cols)))
      (if h.kaxis then c * (h.rows / 32) + r / 32 else r * (h.cols / 32) + c / 32)).toNat
  else 127

/-- The transposed image of a checked tile, written by a mover (R175). -/
def transposeTile (b : List Byte) (mover : Nat) : List Byte :=
  let h := Hdr.ofBytes b
  let codes := (List.range (h.cols * h.rows)).map (fun k => elemCode h.fmt (b.drop 64) (k % h.rows * h.cols + k / h.rows))
  tileImage { h with rows := h.cols, cols := h.rows, rowO := h.colO, colO := h.rowO, transposed := !h.transposed,
                     producer := mover } (packCodes h.fmt codes)

end Sys2Proof.Machine
end

