-- ==== Sys2Proof/Machine/Slots.lean ====
section
/-! DEFINITION. The slots in which transfers run (spec/01_module_and_one_step.md R14, R18, R20, spec/06_gallery_streams_tiles.md R154, R156,
R157, spec/07_memory_tiers.md R189, R190, R198, spec/11_ralda_link.md R309): where an address lies, which slots a certificate gives a task,
and whether a unit reaches every line of a range in them. A transfer without a slot waits (log 99). -/

namespace Sys2Proof.Machine

/-! ### Where an address of a stack lies (R189) -/

def stackOff (a : Nat) : Nat := (a - nearBase) % 2 ^ 37
def runOf (a : Nat) : Nat := stackOff a / 512
def pcOf (a : Nat) : Nat := runOf a % 64
def bankOf (a : Nat) : Nat := runOf a / 64 % 64

/-- The device address of run index m of a pseudo-channel. -/
def runAddr (k pc m : Nat) : Nat := nearBase + k * 2 ^ 37 + 512 * (64 * m + pc)

/-! ### Allotments -/

/-- An allotment serves a task, or with none the whole program: it is the task's, or the whole program's. -/
def Allot.serves (a : Allot) (task : Option Nat) : Bool := a.task == none || a.task == task

/-- A pair belongs to the allotment that a requester names, where it names one by its ALLOT field, and serves the requester's task. -/
def Allot.meets (a : Allot) (task num : Option Nat) : Bool := a.serves task && (num == none || num == some a.num)

/-- An allotment gives a slot, counted without end, to a resource for a task. -/
def Allot.gives (a : Allot) (r : Resource) (slot task : Nat) : Bool :=
  a.res == r && slot % max 1 a.frame == a.slot && a.serves (some task)

def State.allots (s : State) (c : Nat) (r : Resource) (slot task : Nat) : Bool :=
  (s.cert c).allots.any (fun a => a.gives r slot task)

/-- A host-copy share gives the slot (R407). -/
def State.shares (s : State) (c : Nat) (r : Resource) (slot : Nat) : Bool :=
  (s.cert c).allots.any (fun a => a.res == r && slot % max 1 a.frame == a.slot)

/-- Who makes a transfer: the context, the task or the whole program, the allotment that it names, its wing and its module-wide unit
number. -/
structure Requester where
  ctx  : Nat
  task : Option Nat
  num  : Option Nat := none
  wing : Nat
  unit : Nat
  deriving DecidableEq, Repr

/-- The pairs of a requester. -/
def State.pairsOf (s : State) (q : Requester) : List Allot := (s.cert q.ctx).allots.filter (fun a => a.meets q.task q.num)

def Allot.isNet (a : Allot) : Bool := match a.res with | .network _ => true | _ => false

/-- A requester reaches a unit of another wing through network slots (R14). -/
def State.netOk (s : State) (q : Requester) (v : Nat) : Bool :=
  q.wing == v || (s.cert q.ctx).allots.any (fun a => a.serves q.task && a.isNet)

/-- The board-tier slot belongs to the wing by the default or the set share (R15). -/
def State.shareOk (s : State) (w b slot : Nat) : Bool :=
  b / 2 == w / 2 && (if s.flag RegF.btpCfgShareMode b then decide (slot % 16 < s.fld RegF.btpCfgShareLow b) == decide (w % 2 = 0)
    else slot % 2 == w % 2)

/-- A requester has some slot of a resource. -/
def State.hasSlot (s : State) (q : Requester) (r : Resource) : Bool := (s.pairsOf q).any (fun a => a.res == r)

/-- The wing of a link port. -/
def portWing (p : Nat) : Nat := p / 4

/-- Ports of a mask. -/
def maskPorts (m : Nat) : List Nat := (List.range 16).filter (fun p => m.testBit p)

/-- The ports that a reduction group, a barrier entry and a send entry name. -/
def RedGroup.ports (g : RedGroup) : List Nat :=
  g.dests.map (fun d => bits d.route.toNat 0 4) ++ (if g.rank = 0 then [] else [g.parent]) ++ maskPorts g.children.toNat
def BarrierEntry.ports (b : BarrierEntry) : List Nat := (if b.root then [] else [b.parent]) ++ maskPorts b.children.toNat
def SendEntry.ports (e : SendEntry) : List Nat :=
  match e.kind with
  | .unicast => [bits e.route.toNat 0 4]
  | .multicast => maskPorts e.target
  | .reduce => []

def Resource.linkPort : Resource → Option Nat
  | .linkSend p => some p
  | .linkTransit p => some p
  | _ => none

/-- The link ports that a program names, by its allotments, peers, queue bindings, reduction groups and barriers (spec/12 R462), and those
that its send entries use. -/
def Cert.linkPorts (k : Cert) : List Nat :=
  let all : List Nat := k.allots.filterMap (fun a => a.res.linkPort) ++ k.peers.map (fun x => x.1) ++ (k.queues.map (fun q => q.ports)).flatten ++
    (k.groups.map RedGroup.ports).flatten ++ (k.tasks.filterMap (fun t => t.barrier.map BarrierEntry.ports)).flatten ++
    (k.tasks.map (fun t => (t.sends.map SendEntry.ports).flatten)).flatten
  all.eraseDups

/-! ### The gallery timetable (R156, R157) -/

/-- Lines of a range that is not empty. -/
def linesOf (a n : Nat) : List Nat := (List.range ((a + n - 1) / 64 - a / 64 + 1)).map (fun i => a / 64 + i)

/-- The bank of wing w that a pair of a requester reaches: in frame cycle c, lane j is attached to bank (j + c) mod 1,024. -/
def Allot.bank (x : Allot) (w unit : Nat) : Option Nat :=
  match x.res with
  | .galleryLane v j => if v = w ∧ x.unit = unit then some ((j + x.slot) % 1024) else none
  | _ => none

/-- The requester of a pair on wing v: the unit itself on its own wing, on another wing its network port, which goes under the wing's
unit number. -/
def Requester.on (q : Requester) (v : Nat) : Nat := if v = q.wing then q.unit else uWing v

/-- A requester reaches gallery lines: of each, some pair reaches the bank. -/
def State.linesIn (s : State) (q : Requester) (lines : List Nat) : Bool :=
  lines.all (fun x =>
    let v := galleryWing (64 * x)
    s.netOk q v && (s.pairsOf q).any (fun a => a.bank v (q.on v) == some (x % 1024)))

/-! ### A range of any memory -/

/-- A requester reaches bytes a to a + n − 1 in its slots: gallery pairs for each line, a slot of each pseudo-channel or of the
board-tier port, of the requester's wing. -/
def State.slotted (s : State) (q : Requester) (a n : Nat) : Bool :=
  n == 0 || (match homeOf a with
    | .gallery => s.linesIn q (linesOf a n)
    | .near k => s.netOk q (k / 5) && (List.range (runOf (a + n - 1) - runOf a + 1)).all (fun i => s.hasSlot q (.stackPc k ((runOf a + i) % 64)))
    | .board b => (s.pairsOf q).any (fun a => a.res == .boardPort b && s.shareOk q.wing b a.slot)
    | .flash _ => true
    | .nowhere => true)

/-- The requester of a task's unit on the task's wing. -/
def State.asker (s : State) (c t unit : Nat) (num : Option Nat := none) : Requester :=
  { ctx := c, task := some t, num := num, wing := (s.task c t).wing, unit := unit }

end Sys2Proof.Machine
end

