-- ==== Sys2Proof/Machine/Units.lean ====
section
/-! DEFINITION. Shared operations of the units that carry tiles: stream units and their rings, check-value channels, tile movers,
courier queues and deposit shelves (spec/06_gallery_streams_tiles.md R165 to R183, spec/08_backward_and_deposit.md R230 to R240), and
the event records of their faults. Each store of a unit's state shows it in the unit's status register. -/

namespace Sys2Proof.Machine

/-- How a data operation ends early: the status and detail of the task's abort. -/
structure Fail where
  st : Status
  detail : W64 := 0
  deriving DecidableEq, Repr

def Fail.addr (st : Status) (a : Nat) : Fail := ⟨st, BitVec.ofNat 64 a⟩

/-- A failure whose detail names a unit and the event record just created (spec/12_rings_contexts_rota.md R348). -/
def State.unitFail (s : State) (st : Status) (unit : Nat) : Fail := ⟨st, BitVec.ofNat 64 (unit + 2 ^ 32 * (s.evr.last % 2 ^ 32))⟩

/-- What a read of a poisoned line ends its task with: in a stack STREAM_FAULT (spec/07 R192), in the board tier TIER_ERROR (R205),
in the gallery INTERNAL (spec/06 R158). -/
def State.poisonFail (s : State) (a : Nat) : Fail :=
  match homeOf a with
  | .board _ => Fail.addr .tierError a
  | .gallery => s.unitFail .internal (uBank (1024 * galleryWing a + (a % 0x6000000) / 64 % 1024))
  | _ => Fail.addr .streamFault a

/-! ### Event records of faults (spec/15_integrity_records_guarantees.md R421) -/

def State.evSeal (s : State) (unit c a : Nat) (tile : List Byte) : State :=
  s.event unit 0x0100 3 (some c) [(16, 8, a), (24, 4, field tile 60 4), (28, 4, sealOf tile (tile.drop 64)),
    (32, 8, field tile 28 8), (40, 2, unit)]
def State.evStream (s : State) (unit c a pos : Nat) : State := s.event unit 0x0102 3 (some c) [(16, 8, a), (24, 4, pos)]
def State.evTier (s : State) (unit : Nat) (c : Option Nat) (a status : Nat) : State :=
  s.event unit 0x0103 3 c [(16, 8, a), (24, 1, status)]

/-- A tier error that no response reports: the status byte of its record is a free value (log 7). -/
def State.evTierOpen (s : State) (unit : Nat) (c : Option Nat) (a : Nat) : State :=
  let f := s.free
  f.2.evTier unit c a (f.1.toNat % 256)

/-- The failure that an access outside the module ended with, and its record. -/
def State.endingFail (s : State) (unit c pos : Nat) : Ending → Option (Fail × State)
  | .done => none
  | .tierError a _ => some (Fail.addr .tierError a, s.evTierOpen unit (some c) a)
  | .protFault a _ => some (Fail.addr .protFault a, s)
  | .streamFault a _ => some (Fail.addr .streamFault a, s.evStream unit c a pos)

/-- The lowest poisoned line of bytes a to a + n − 1, by its address. -/
def State.firstBad (s : State) (a n : Nat) : Nat :=
  ((s.poison.filter (fun x => decide (a < x * 64 + 64 ∧ x * 64 < a + n))).foldl (fun (m : Option Nat) x =>
    some (match m with | some y => min x y | none => x)) none).elim a (fun x => 64 * x)

/-- A poisoned gallery line is read (spec/06 R158): counted, the first line kept, a record created. UNCORRECTED counts 1 for each access that
fails (DESIGN CHOICE, log 137). -/
def State.galleryUe (s : State) (c a : Nat) : State :=
  let w := galleryWing a
  let s := s.incFld RegF.wingGalEccUncorrected 1 w
  let s := if s.flag RegF.wingGalUeAddrValid w then s
    else (s.setFld RegF.wingGalUeAddrAddr a w).setFld RegF.wingGalUeAddrValid 1 w
  s.event (uBank (1024 * w + (a % 0x6000000) / 64 % 1024)) 0x0104 3 (some c) [(16, 4, a)]

/-- A read of bytes a to a + n − 1 of the gallery meets a poisoned line: the failure with INTERNAL that names its bank. -/
def State.galleryFail (s : State) (c a n : Nat) : Fail × State :=
  let l := s.firstBad a n
  let s := s.galleryUe c l
  (s.poisonFail l, s)

/-- Words corrected while bytes a to a + n − 1 of the gallery are read. -/
def State.galleryCorrected (s : State) (a n : Nat) : State :=
  let k := (s.corrected.filter (fun x => decide (x * 64 < galleryEnd ∧ a < x * 64 + 64 ∧ x * 64 < a + n))).length
  if k = 0 then s else s.incFld RegF.wingGalEccCorrected k (galleryWing a)

/-! ### Stores that show in status registers -/

def SlotSt.isFull : SlotSt → Bool
  | .full _ => true | _ => false

def Stream.full (x : Stream) : Nat :=
  (x.slots.filter (fun t => match t with | .full _ => true | _ => false)).length

def Stream.filling (x : Stream) : Bool := x.held && x.slots.any (fun t => match t with | .filling _ _ _ => true | _ => false)

/-- The state code of WING_STRM_STS. -/
def Stream.code (x : Stream) (mark : Bool) : Nat := if x.faulted then 3 else if ¬ x.held then 0 else if mark then 2 else 1

/-- Store a stream unit and show it in WING_STRM_STS; while a slot of a transposing stream fills, its mover transposes. -/
def State.putStream (s : State) (u : Nat) (x : Stream) (mark : Bool := false) : State :=
  let s := s.setStream u x
  let w := u / 128
  let j := u % 128
  let s := s.setFld RegF.wingStrmStsState (x.code mark) w j
  let s := s.setFld RegF.wingStrmStsStanding (bit (x.held && x.ent.standing)) w j
  let s := s.setFld RegF.wingStrmStsDir (bit x.ent.out) w j
  let s := s.setFld RegF.wingStrmStsFull x.full w j
  let s := s.setFld RegF.wingStrmStsCtx x.ctx w j
  let s := s.setFld RegF.wingStrmStsNextEntry x.next w j
  if x.ent.xpose && !(s.mover (16 * w + x.ent.mover)).held then
    (s.setFld RegF.wingTmStsState (bit x.filling) w x.ent.mover).setFld RegF.wingTmStsCtx x.ctx w x.ent.mover
  else s

/-- The state code of WING_MA_STS of an array in service. -/
def ArrayU.code (x : ArrayU) : Nat :=
  if x.ramp then 2
  else if ¬ x.started then (if x.groupsOn = 0 then 1 else 6)
  else if ¬ x.loaded ∧ x.load.any (fun l => l.front) then 3 else 4

/-- The shadow registers hold a whole operand. -/
def ArrayU.shadowValid (x : ArrayU) : Bool := x.load.any (fun l => l.done && !l.front)

/-- Store an array and show it in WING_MA_STS. -/
def State.putArray (s : State) (a : Nat) (x : ArrayU) : State :=
  ((s.setArray a x).setFld RegF.wingMaStsState x.code (a / 2) (a % 2)).setFld RegF.wingMaStsShadowValid (bit x.shadowValid) (a / 2) (a % 2)

def State.setStalled (s : State) (a v : Nat) : State := s.setFld RegF.wingMaStsStalled v (a / 2) (a % 2)

/-- Store a tile mover and show it in WING_TM_STS: state 1 transposing for a stream, 2 moving. -/
def State.putMover (s : State) (m : Nat) (x : Mover) : State :=
  let s := s.setMover m x
  let s := s.setFld RegF.wingTmStsState (if x.held then 2 else 0) (m / 16) (m % 16)
  if x.held then s.setFld RegF.wingTmStsCtx x.ctx (m / 16) (m % 16) else s

/-- Entries that a courier queue has completed, and those posted to it that it has taken up to now. -/
def Courier.completed (x : Courier) : Nat := x.taken - bit x.busy
def State.postedTo (s : State) (q : Nat) (x : Courier) : Nat := dist32 x.posted (s.evGet (q / 16) x.bind.postEvt).toNat

/-- Entries posted beyond 64 that the queue has not completed are not taken: the count of posts begins later by their number (R178). -/
def State.capPosts (s : State) (q : Nat) (x : Courier) : Courier :=
  { x with posted := (x.posted + (s.postedTo q x - (x.completed + 64))) % 2 ^ 32 }

/-- Store a courier queue and show it in WING_COUR_STS: PENDING counts the entries posted and not complete, at most 64. -/
def State.putCourier (s : State) (q : Nat) (x : Courier) : State :=
  let s := s.setCourier q x
  let s := s.setFld RegF.wingCourStsPending (if x.held then min 64 (s.postedTo q x - x.completed) else 0) (q / 16) (q % 16)
  if x.held then s.setFld RegF.wingCourStsCtx x.ctx (q / 16) (q % 16) else s

def Shelf.spilled (x : Shelf) : Nat := (x.homes.filter (fun c => c.2 == .board)).length

/-- Store a deposit shelf and show it in WING_DEP_STS and WING_DEP_SPL. -/
def State.putShelf (s : State) (w h : Nat) (x : Shelf) : State :=
  let s := s.setShelf w h x
  let s := s.setFld RegF.wingDepStsState (if ¬ x.held then 0 else if x.broken then 2 else 1) w h
  let s := s.setFld RegF.wingDepStsCtx x.ctx w h
  let s := s.setFld RegF.wingDepStsTop x.top w h
  let s := s.setFld RegF.wingDepSplSpilled x.spilled w h
  s.setFld RegF.wingDepSplHighWater (max x.top (s.fld RegF.wingDepSplHighWater w h)) w h

/-! ### Check-value channels (spec/15 R409) -/

/-- A channel is bound to a stream unit or courier queue that serves the channel's own program (R409). -/
def State.chanOf (s : State) (x : Chan) (courier : Bool) (unit : Nat) : Bool :=
  x.held && x.bind.courier == courier && x.bind.unit == unit && x.ctx == (if courier then (s.courier unit).ctx else (s.stream unit).ctx)

/-- Fold bytes into every channel bound to a stream unit or courier queue. -/
def State.foldChans (s : State) (courier : Bool) (unit : Nat) (bs : List Byte) : State :=
  overList (List.range 64) (fun k s =>
    let x := s.ch k
    if s.chanOf x courier unit then
      s.setCh k { x with value := BitVec.ofNat 64 ((crcFn x.bind.poly).run x.value.toNat bs) }
    else s) s

/-- The stream or bound list ends: each channel bound to it writes its running value to its result address. -/
def State.endChans (s : State) (courier : Bool) (unit : Nat) : State :=
  overList (List.range 64) (fun k s =>
    let x := s.ch k
    if s.chanOf x courier unit then s.wr x.bind.result (leBytes 8 x.value.toNat)
    else s) s

/-! ### Streams -/

/-- Address of slot i of a ring (R165). -/
def Stream.slotAddr (x : Stream) (i : Nat) : Nat := x.ent.bufBase + tileBytes * i

/-- The held stream of a wing whose ring covers a gallery address, with the slot, for a direction. -/
def State.ringAt (s : State) (w a : Nat) (out : Bool) : Option (Nat × Nat) :=
  (s.strm.find? (fun c => c.2.held && c.2.ent.out == out && c.1 / 128 == w &&
      decide (c.2.ent.bufBase ≤ a ∧ a < c.2.slotAddr c.2.slots.length))).map
    (fun c => (c.1, (a - c.2.ent.bufBase) / tileBytes))

def Stream.slot (x : Stream) (i : Nat) : SlotSt := nth .empty x.slots i

/-- The ring slot of a stream that holds tile n of its list. -/
def Stream.tileSlot (x : Stream) (n : Nat) : Nat := (x.first + n) % max 1 x.slots.length

/-- All of a stream's slots are EMPTY. -/
def Stream.drained (x : Stream) : Bool := x.slots.all (fun t => decide (t = .empty)) && x.writing.isNone

/-- A stream that is no standing loan has ended (R172); a void pop has nothing to fetch. -/
def Stream.over (x : Stream) : Bool :=
  !x.ent.standing && x.drained && (decide (x.listCount ≤ x.next) || (x.depVoid && !x.ent.out))

/-- End a stream that is over: its channels write their results and its unit is free. -/
def State.endStream (s : State) (u : Nat) : State :=
  let x := s.stream u
  if x.held && x.over then (s.endChans false u).putStream u { x with held := false } else s

/-- A whole read of a FULL slot lowers its uses; at zero the slot is EMPTY, and the consumer's place moves on past it (R167). -/
def SlotSt.spend : SlotSt → SlotSt
  | .full n => if n ≤ 1 then .empty else .full (n - 1)
  | t => t

def State.spendSlot (s : State) (u i : Nat) : State :=
  let x := s.stream u
  let t := (x.slot i).spend
  let s := s.putStream u { x with slots := setNth x.slots i t, reader := if t = .empty then (i + 1) % max 1 x.slots.length else x.reader }
  s.endStream u

/-- A producer has placed a tile in a slot of an out-stream: its place is the slot after it (R167). -/
def State.fillOut (s : State) (u i : Nat) : State :=
  let x := s.stream u
  s.putStream u { x with slots := setNth x.slots i (.full 0), writer := (i + 1) % max 1 x.slots.length }

/-- The slot of the i-th tile that a producer places next. -/
def Stream.outSlot (x : Stream) (i : Nat) : Nat := (x.writer + i) % max 1 x.slots.length

/-- An entry of a command list (R166). -/
structure ListEntry where
  addr : Nat
  mark : Bool
  uses : Nat
  evt : Nat
  val : Nat
  bad : Bool
  deriving DecidableEq, Repr

def ListEntry.ofBytes (b : List Byte) : ListEntry :=
  { addr := field b 0 8, mark := (field b 8 1).testBit 0, uses := field b 9 1, evt := field b 10 1 % 64,
    val := field b 12 4,
    bad := decide (2 ≤ field b 8 1) || decide (64 ≤ field b 10 1) || field b 11 1 != 0 }

/-- The next entry of a stream: from its command list, or from the shelf of its deposit binding (R232 to R234). -/
def State.nextEntry (s : State) (u : Nat) : ListEntry :=
  let x := s.stream u
  match x.dep with
  | some (h, p) =>
    let t := (s.shelfOf (u / 128) h).ent
    { addr := t.nearBase + tileBytes * ((p + x.next) % max 1 t.nearTiles), mark := false, uses := x.depUses, evt := 0, val := 0,
      bad := false }
  | none => ListEntry.ofBytes (s.rd (x.listBase + 16 * x.next) 16)

/-- A mark is met when its counter is at least its value (R166). -/
def State.markMet (s : State) (w : Nat) (e : ListEntry) : Bool :=
  !e.mark || decide (e.val ≤ (s.evGet w e.evt).toNat)

/-- Take up a re-arm: the next fetch takes entry 0 of the new list (R171). -/
def Stream.takeRearm (x : Stream) : Stream :=
  match x.rearm with
  | some (b, n) => if x.listCount ≤ x.next then { x with listBase := b, listCount := n, next := 0, rearm := none, rearmed := none, first := x.ring } else x
  | none => x

/-- FILL_EVT gains 1 where FILL_EN is set. -/
def State.fillEvt (s : State) (u : Nat) : State :=
  let x := s.stream u
  if x.ent.fillEn then s.evCount x.ctx (u / 128) x.ent.fillEvt else s

/-- A stream that ends by a fault or an abort: WING_STRM_STS.STATE reads 3 after either (R183; DESIGN CHOICE, log 137). -/
def Stream.stopped (x : Stream) : Stream :=
  { x with held := false, faulted := true, writing := none, dep := none, rearm := none, rearmed := none, slots := x.slots.map (fun _ => .empty) }

/-- Reads of legacy flash for streams that satisfy a test: one that has landed is discarded, one in flight serves nothing more (R183). -/
def State.dropStreamReads (s : State) (f : Nat → Bool) : State :=
  let mine := fun (r : LfRead) => match r.stream with | some (u, _) => f u | none => false
  { s with lf := s.lf.map (fun n => (n.1, { n.2 with reads :=
      (n.2.reads.filter (fun r => !(mine r && r.ready))).map (fun r => if mine r then { r with stream := none } else r) })) }

/-- Reads of legacy flash for a mover that stops: as those of a stream. -/
def State.dropMoverReads (s : State) (m : Nat) : State :=
  let mine := fun (r : LfRead) => r.mover == some m
  { s with lf := s.lf.map (fun n => (n.1, { n.2 with reads :=
      (n.2.reads.filter (fun r => !(mine r && r.ready))).map (fun r => if mine r then { r with mover := none } else r) })) }

/-- End the streams of an aborted task and the standing loans bound to it (R183). -/
def State.stopStreams (s : State) (c t : Nat) : State :=
  let mine := fun (s : State) (u : Nat) => (s.stream u).held && (s.stream u).ctx == c && (s.stream u).task == t
  overList s.strm (fun k s => if mine s k.1 then s.putStream k.1 (s.stream k.1).stopped else s) (s.dropStreamReads (mine s))

/-! ### Shelves (spec/08) -/

/-- The two locations of a position (R231). -/
def ShelfEntry.nearSlot (t : ShelfEntry) (p : Nat) : Nat := t.nearBase + tileBytes * (p % max 1 t.nearTiles)
def ShelfEntry.boardSlot (t : ShelfEntry) (p : Nat) : Nat := t.spillBase + tileBytes * p

def Shelf.home (x : Shelf) (p : Nat) : DepHome := Tbl.get .released x.homes p
def Shelf.setHome (x : Shelf) (p : Nat) (h : DepHome) : Shelf := { x with homes := Tbl.set .released x.homes p h }

/-- Another position holds the near slot of position q. -/
def Shelf.slotBusy (x : Shelf) (q : Nat) : Bool :=
  x.homes.any (fun c => c.1 != q && c.1 % max 1 x.ent.nearTiles == q % max 1 x.ent.nearTiles &&
    ((c.2 == .near) || (c.2 == .waiting && decide (c.1 < q))))

/-- Another position holds the near slot of position p, or is still to receive its tile there. -/
def Shelf.slotTaken (x : Shelf) (p : Nat) : Bool :=
  x.homes.any (fun c => c.1 != p && c.1 % max 1 x.ent.nearTiles == p % max 1 x.ent.nearTiles && (c.2 == .near || c.2 == .waiting))

/-- Positions that a push up to position r marks for spilling (R235). -/
def Shelf.toMark (x : Shelf) (r : Nat) : List Nat :=
  (x.homes.filter (fun c => ((c.2 == .near) || (c.2 == .waiting)) && !x.marked.contains c.1 &&
    decide (c.1 + x.ent.nearTiles - x.ent.spillLead ≤ r))).map (fun c => c.1)

/-- A shelf becomes broken (R240). -/
def State.breakShelf (s : State) (w h : Nat) : State :=
  let x := s.shelfOf w h
  if x.broken then s else (s.putShelf w h { x with broken := true }).incFld RegF.wingDepWaitBreaks 1 w

/-- Break every shelf on which a task has a binding (R240). -/
def State.breakShelves (s : State) (c t : Nat) : State :=
  overList (s.task c t).binds (fun b s =>
    let x := s.shelfOf (s.task c t).wing b.shelf
    if x.held && x.ctx == c then s.breakShelf (s.task c t).wing b.shelf else s) s

/-! ### The catalogue while a tile moves (spec/07 R213 to R215) -/

def State.catAddr (s : State) (c key : Nat) : Nat := ((s.cert c).catTable.getD 0) + 32 * key

/-- A mover gives up its tile before step 4: the catalogue entry is as before step 1 in every field (R215). -/
def State.restoreCat (s : State) (m : Nat) : State :=
  let x := s.mover m
  match x.saved with
  | none => s
  | some b =>
    let k := (nth {} (s.cert x.ctx).moves x.item).key + x.tile
    (s.wr (s.catAddr x.ctx k) b).setMover m { x with saved := none }

/-- A mover works for no move and no transposing stream (R173, R220). -/
def State.moverFree (s : State) (m : Nat) : Bool :=
  !(s.mover m).held && s.strm.all (fun u => !(u.2.held && u.2.ent.xpose && 16 * (u.1 / 128) + u.2.ent.mover == m))

/-! ### Movers and couriers stop (R183, R215, R222) -/

/-- Stop the movers that work for a task, or that carry a prefetch entry due for it. -/
def State.stopMovers (s : State) (c t : Nat) : State :=
  overList s.mov (fun k s =>
    let x := s.mover k.1
    if x.held && x.ctx == c && (x.due == some t || (x.due == none && x.task == t)) then
      ((s.dropMoverReads k.1).restoreCat k.1).putMover k.1 { x with held := false, saved := none }
    else s) s

/-- The queues of a wing see the posts that have come. -/
def State.seePosts (s : State) (w : Nat) : State :=
  overList (List.range 16) (fun i s =>
    let q := 16 * w + i
    let x := s.courier q
    if x.held then s.putCourier q (s.capPosts q x) else s) s

/-- The courier queues of a task take no further entry; the entry in progress completes. -/
def State.stopCouriers (s : State) (c t : Nat) : State :=
  overList s.cour (fun k s =>
    let x := s.courier k.1
    if x.held && x.ctx == c && x.task == t then s.putCourier k.1 { x with stopped := true, held := x.busy } else s) s

end Sys2Proof.Machine
end

