-- ==== Sys2Proof/Machine/ArrayOps.lean ====
section
/-! DEFINITION. The working of a matrix array (spec/04_matrix_arrays.md R84 to R113): forms, blocks and passes, loading a stationary
operand, issuing a moving vector, and writing outputs or chain records. Operand tiles are taken in order, checked before their headers are
used, and their elements found by their origins (log 14); an operand whose base lies in the ring of a stream is read through the ring
(R167, log 15). -/

namespace Sys2Proof.Machine

/-! ### Conversion into a tensor (spec/02 R39, R45, R49) -/

/-- Where converted elements go: format, rounding mode, scale exponent and the inputs of stochastic rounding. -/
structure Target where
  fmt : Nat
  rnd : Nat
  e : Int
  sr : Bool := false
  seed : Nat := 0
  step : Nat := 0
  tensor : Nat := 0
  deriving DecidableEq, Repr

/-- The scale-manager entry of a tensor, if it has one. -/
def State.smEnt (s : State) (c sm : Nat) : Option SmEntry :=
  if sm = 0xFFFF then none else ((s.prog c).getD {}).sm.entries[sm]?

/-- The target of a tensor with an entry, or without one at scale 0; ledger formats take the ledger scale. -/
def State.target (s : State) (c sm fmt rnd : Nat) (led : Int) : Target :=
  let t := ((s.prog c).getD {}).sm
  match s.smEnt c sm with
  | some x => { fmt := fmt, rnd := rnd, e := x.scale, sr := x.sr, seed := t.seed.toNat, step := t.step, tensor := x.tensorId }
  | none => { fmt := fmt, rnd := rnd, e := if (ledFmt fmt).isSome then led else 0 }

/-- Convert one element with its flat index. An entry with SR set rounds stochastically whatever RND says (R38), also where the tensor has 2^48
elements or more (DESIGN CHOICE, log 135). -/
def Target.conv (t : Target) (x : XVal) (index : Nat) : Conv :=
  if t.sr then convert t.fmt 3 (srNumber t.seed t.step t.tensor index) t.e x else convert t.fmt t.rnd 0 t.e x

/-- Add a report to the task's report for an entry; 0xFFFF gathers the flags of tensors without an entry. -/
def State.report (s : State) (c t sm : Nat) (r : SmRep) : State :=
  s.updRt c t (fun x => { x with rep := Tbl.upd {} x.rep sm (fun y => y.merge r) })

/-! ### Geometry (R86, R89, R90) -/

def ArrayJob.depth (j : ArrayJob) : Nat := 768 / 2 ^ j.form
def ArrayJob.width (j : ArrayJob) : Nat := 768 * 2 ^ j.form
def ArrayJob.blockSize (j : ArrayJob) : Nat := 256 / 2 ^ j.form
def ArrayJob.kFirst (j : ArrayJob) : Nat := j.kStart / 32 * 32
def ArrayJob.passes (j : ArrayJob) : Nat := ceilDiv (j.kEnd - j.kFirst) j.depth
def ArrayJob.blocks (j : ArrayJob) : Nat := ceilDiv j.mCount j.blockSize
def ArrayJob.blockRows (j : ArrayJob) (b : Nat) : Nat := min j.blockSize (j.mCount - b * j.blockSize)
def ArrayJob.passLo (j : ArrayJob) (p : Nat) : Nat := j.kFirst + p * j.depth
def ArrayJob.passHi (j : ArrayJob) (p : Nat) : Nat := min (j.passLo p + j.depth) j.kEnd
def ArrayJob.cls (j : ArrayJob) : Cls := (classOf j.fmtS j.fmtM j.bscale).getD .exact

/-- 4-bit pairs run at two moving vectors per issue (R96). -/
def ArrayJob.perIssue (j : ArrayJob) : Nat := if (j.fmtS = 0xA ∨ j.fmtS = 0xD) ∧ (j.fmtM = 0xA ∨ j.fmtM = 0xD) then 2 else 1

/-- K positions of a pass that belong to the job. -/
def ArrayJob.inPart (j : ArrayJob) (k : Nat) : Bool := decide (j.kStart ≤ k ∧ k < j.kEnd)

/-- The row groups and column groups in use (R103). -/
def ArrayJob.rowGroups (j : ArrayJob) (p : Nat) : List Nat :=
  (List.range 24).filter (fun g => (List.range (ceilDiv j.nCount 768)).any (fun sg =>
    decide (sg * j.depth < 32 * g + 32 ∧ 32 * g < sg * j.depth + (j.passHi p - j.passLo p))))
def ArrayJob.colGroups (j : ArrayJob) : List Nat := List.range (ceilDiv (min j.nCount 768) 48)

/-- Wing and local index of array a. -/
def arrWing (a : Nat) : Nat := a / 2

/-- The job that an array runs. -/
def State.jobOf (s : State) (a : Nat) : ArrayJob :=
  let x := s.array a
  nth {} (s.task x.ctx x.task).arrayJobs x.job

/-! ### Operand tiles -/

/-- A tile that an array reads: its address, its image, and its ring slot if a stream delivers it. -/
structure OpTile where
  addr : Nat
  img : List Byte
  ring : Option (Nat × Nat)
  deriving DecidableEq, Repr

/-- Tile i of the stationary operand, if it is there: of n tiles from the base, or from the ring's slots in order, tile 0 in slot `k`. -/
def State.opTile (s : State) (w base n : Nat) (k : Option Nat) (i : Nat) : Option OpTile :=
  match s.ringAt w base false with
  | some (u, _) =>
    let x := s.stream u
    let q := (k.getD x.reader + i) % max 1 x.slots.length
    if (x.slot q).isFull then some ⟨x.slotAddr q, s.rd (x.slotAddr q) tileBytes, some (u, q)⟩ else none
  | none => if i < n then some ⟨base + tileBytes * i, s.rd (base + tileBytes * i) tileBytes, none⟩ else none

/-- The tiles of the moving operand that are there, in order: `n` tiles from the base, or the ring's slots from the reader's place up to the
first that is not FULL. -/
def State.opTiles (s : State) (w base n : Nat) : List OpTile :=
  match s.ringAt w base false with
  | some (u, _) =>
    let x := s.stream u
    let l := x.slots.length
    (((List.range l).map (fun i => (x.reader + i) % max 1 l)).takeWhile (fun i => (x.slot i).isFull)).map (fun i =>
      ⟨x.slotAddr i, s.rd (x.slotAddr i) tileBytes, some (u, i)⟩)
  | none => (List.range n).map (fun i => ⟨base + tileBytes * i, s.rd (base + tileBytes * i) tileBytes, none⟩)

/-- The rows and columns that a tile holds of its tensor. -/
def OpTile.rowIn (t : OpTile) (r : Nat) : Bool :=
  let h := Hdr.ofBytes t.img
  decide (h.rowO ≤ r ∧ r < h.rowO + h.rows)
def OpTile.colIn (t : OpTile) (c : Nat) : Bool :=
  let h := Hdr.ofBytes t.img
  decide (h.colO ≤ c ∧ c < h.colO + h.cols)

/-- The code and block-scale code of tensor element (r, c). -/
def OpTile.at (t : OpTile) (r c : Nat) : Nat × Nat :=
  let h := Hdr.ofBytes t.img
  (tileCode t.img (r - h.rowO) (c - h.colO), tileScaleCode t.img (r - h.rowO) (c - h.colO))

def findTile (l : List OpTile) (r c : Nat) : Option OpTile := l.find? (fun t => t.rowIn r && t.colIn c)

/-- The check of an operand tile by an input port or load bus (R107, R164): `kaxis` is the axis that runs along K. -/
def ArrayJob.tileOk (j : ArrayJob) (fmt : Nat) (kaxis : Bool) (t : OpTile) : Bool :=
  let h := Hdr.ofBytes t.img
  tileGood t.img (some fmt) && (h.bscale == j.bscale) && (!j.bscale || h.kaxis == kaxis)

/-- A port of an array: 0 to 23 the row groups' inputs, 24 to 39 the column groups' outputs, 40 the load buses (log 99). It moves data only
in slots of its own task's (R18, R102). -/
def State.portSlot (s : State) (a p : Nat) : Bool :=
  s.hasSlot (s.asker (s.array a).ctx (s.array a).task (uArray a)) (.arrayPort a p)
def loadPort : Nat := 40

/-- The array reaches bytes b to b + n − 1 in its task's slots. -/
def State.arrayReach (s : State) (a b n : Nat) : Bool := s.slotted (s.asker (s.array a).ctx (s.array a).task (uArray a)) b n

/-- What a tile that fails its check ends the task with: INTERNAL for a poisoned one, else TILE_SEAL. -/
def State.tileFail (s : State) (a : Nat) (t : OpTile) : Fail × State :=
  if s.poisoned t.addr tileBytes then s.galleryFail (s.array a).ctx t.addr tileBytes
  else (Fail.addr .tileSeal t.addr, s.evSeal (uArray a) (s.array a).ctx t.addr t.img)

/-- The check of an operand tile as the array reads it: no poisoned line, and a header and seal that agree with the job. -/
def State.tileSound (s : State) (j : ArrayJob) (fmt : Nat) (kaxis : Bool) (t : OpTile) : Bool :=
  !s.poisoned t.addr tileBytes && j.tileOk fmt kaxis t

/-- Spend one use of each ring slot among tiles. -/
def State.spendTiles (s : State) (l : List OpTile) : State :=
  l.foldl (fun s t => match t.ring with | some (u, i) => s.spendSlot u i | none => s) s

/-! ### Loading the stationary operand (R91, R93, R94) -/

/-- The entry of one stationary position: code and block-scale code in one number, never zero. -/
def packOp (x : Nat × Nat) : Nat := x.1 + 2 ^ 64 * (1 + x.2)
def unpackOp (n : Nat) : Nat × Nat := (n % 2 ^ 64, n / 2 ^ 64 - 1)

/-- A tile's first K position and the one past its last. -/
def ArrayJob.tileK (j : ArrayJob) (t : OpTile) : Nat × Nat :=
  let h := Hdr.ofBytes t.img
  if j.orient then (h.colO, h.colO + h.cols) else (h.rowO, h.rowO + h.rows)

/-- The operand of pass p: positions already held, and those that the tiles give. Keys are position · 6144 + logical column. -/
def ArrayJob.statLoad (j : ArrayJob) (p nOrg : Nat) (old : Tbl Nat) (l : List OpTile) : Tbl Nat :=
  ((List.range (j.passHi p - j.passLo p)).map (fun q => (List.range j.nCount).filterMap (fun c =>
    let key := q * 6144 + c
    let k := j.passLo p + q
    if ¬ j.inPart k then none
    else
      let held := Tbl.get 0 old key
      if held ≠ 0 then some (key, held)
      else
        let r := if j.orient then nOrg + c else k
        let cc := if j.orient then k else nOrg + c
        (findTile l r cc).map (fun t => (key, packOp (t.at r cc)))))).flatten

/-- The number of positions that the operand of a pass has. -/
def ArrayJob.statNeed (j : ArrayJob) (p : Nat) : Nat :=
  ((List.range (j.passHi p - j.passLo p)).filter (fun q => j.inPart (j.passLo p + q))).length * j.nCount

/-- Job i of the array's task. -/
def State.jobAt (s : State) (a i : Nat) : ArrayJob := nth {} (s.task (s.array a).ctx (s.array a).task).arrayJobs i

/-- A load has every position of its pass. -/
def ArrayJob.statFull (j : ArrayJob) (l : StatLoad) (held : Tbl Nat) : Bool := decide (j.statNeed l.pass ≤ held.length)

/-- Take a checked tile into a load: its elements of the pass, and from the first tile the operand's origin and scale. A ring slot spends a
use once the tile's last K position of the job is in. -/
def State.takeTile (s : State) (a : Nat) (l : StatLoad) (t : OpTile) : State :=
  let x := s.array a
  let j := s.jobAt a l.job
  let h := Hdr.ofBytes t.img
  let k := j.tileK t
  let org := l.org.getD (if j.orient then h.rowO else h.colO)
  let held := j.statLoad l.pass org (if l.front then x.active else x.shadow) [t]
  let more := decide (j.passHi l.pass < k.2 ∧ l.pass + 1 < j.passes)
  let seen := if t.ring.isNone ∧ l.seen.length ≤ l.next then l.seen ++ [k] else l.seen
  let l := { l with next := l.next + 1, seen := seen, org := some org, scale := if l.org.isSome then l.scale else h.scale,
                    keep := if more && l.keep.isNone then some l.next else l.keep }
  let l := { l with done := j.statFull l held }
  let s := s.putArray a (if l.front then { x with active := held, load := some l } else { x with shadow := held, load := some l })
  if more then s.galleryCorrected t.addr tileBytes else (s.galleryCorrected t.addr tileBytes).spendTiles [t]

/-- The next tile of a load is a fixed one that was taken before and holds no K position of the pass: it is not read again. -/
def ArrayJob.passesBy (j : ArrayJob) (l : StatLoad) : Bool :=
  match l.seen[l.next]? with
  | some k => decide (k.2 ≤ j.passLo l.pass ∨ j.passHi l.pass ≤ k.1)
  | none => false

/-- Take up to n more tiles into the array's load: each once it is there and in the array's slots, checked before its header is used; a fixed
tile known to hold nothing of the pass is passed by (log 109). The load ends with every position there, after the operand's last tile, or at a tile of a ring that begins beyond the pass. The failure of a tile
is the second part. -/
def State.takeTiles (s : State) (a : Nat) : Nat → State × Option Fail
  | 0 => (s, none)
  | n + 1 =>
    let x := s.array a
    match x.load with
    | none => (s, none)
    | some l =>
      let j := s.jobAt a l.job
      if l.done then (s, none)
      else if j.statTiles ≤ l.next then (s.putArray a { x with load := some { l with done := true } }, none)
      else if j.passesBy l then (s.putArray a { x with load := some { l with next := l.next + 1 } }).takeTiles a n
      else
        let l := { l with slot := (l.slot.or ((s.ringAt (arrWing a) j.statBase false).map (fun r => (s.stream r.1).reader))) }
        match s.opTile (arrWing a) j.statBase j.statTiles l.slot l.next with
        | none => (s, none)
        | some t =>
          if ¬ s.portSlot a loadPort ∨ ¬ s.arrayReach a t.addr tileBytes then (s, none)
          else if ¬ s.tileSound j j.fmtS (!j.orient) t then
            let f := s.tileFail a t
            (f.2, some f.1)
          else if t.ring.isSome ∧ j.passHi l.pass ≤ (j.tileK t).1 then (s.putArray a { x with load := some { l with done := true } }, none)
          else (s.takeTile a l t).takeTiles a n

/-! ### What follows a load (R91, R93, R94, R100) -/

/-- The address range of a job's outputs. -/
def ArrayJob.outBytes (j : ArrayJob) : Nat :=
  if j.chainOut then 32 * (j.mCount * j.nCount)
  else (if j.split then 2 else 1) * (tileBytes * (ceilDiv j.mCount (max 1 j.outRows) * ceilDiv j.nCount (max 1 j.outCols)))

/-- A weight-gradient job of a frozen group, which does nothing (R106). -/
def State.frozenJob (s : State) (c : Nat) (j : ArrayJob) : Bool :=
  j.role == 2 && j.group != 0xFFFF && ((s.prog c).getD {}).frozen.contains j.group

/-- A stream's ring covers a gallery address. -/
def Stream.covers (x : Stream) (a : Nat) : Bool := decide (x.ent.bufBase ≤ a ∧ a < x.slotAddr x.slots.length)

/-- The base addresses of a job's operands and outputs. -/
def ArrayJob.bases (j : ArrayJob) : List Nat :=
  [j.statBase, j.movBase, j.outBase, j.outBase + tileBytes * (ceilDiv j.mCount (max 1 j.outRows) * ceilDiv j.nCount (max 1 j.outCols))]

/-- A stream of a task that only array jobs of frozen groups are left to read or fill: some job that names its ring was skipped, every one has
been done or skipped, and nothing else of the task names it (R106, log 130). -/
def State.idleRing (s : State) (c t : Nat) (x : Stream) : Bool :=
  let k := s.task c t
  let named := k.arrayJobs.zipIdx.filter (fun j => j.1.bases.any x.covers)
  x.held && x.ctx == c && x.task == t && !x.ent.standing && named.any (fun j => s.frozenJob c j.1) &&
    named.all (fun j => (s.array (2 * k.wing + j.1.array)).doneJobs.contains j.2) &&
    !(k.vecJobs.any (fun v => v.windows.any (fun w => decide (w.1 < x.slotAddr x.slots.length ∧ x.ent.bufBase < w.1 + w.2)))) &&
    !(k.sends.any (fun e => e.srcUnit == x.ent.unit))

/-- The positions of a stream's deposit binding that it has not carried: a pop gives them up, and a push leaves them void. -/
def State.dropDeposit (s : State) (w : Nat) (x : Stream) : State :=
  match x.dep with
  | none => s
  | some (h, p) =>
    let y := s.shelfOf w h
    let mine := fun (q : Nat) => decide (p ≤ q ∧ q < p + x.listCount)
    s.putShelf w h { y with marked := y.marked.filter (fun q => !(mine q && y.home q == .waiting)),
                            homes := if x.ent.out then Tbl.mapAll .released y.homes (fun q v => if mine q ∧ v = .waiting then .void else v)
                                     else y.homes.filter (fun v => !mine v.1) }

/-- A skipped job leaves nothing for its streams to carry: they end where they are (R106, log 130). -/
def State.endIdleRings (s : State) (c t : Nat) : State :=
  overList s.strm (fun u s =>
    let x := s.stream u.1
    if s.idleRing c t x then
      let s := (s.dropStreamReads (fun v => v == u.1)).dropDeposit (u.1 / 128) x
      (s.putStream u.1 { x with next := x.listCount, slots := x.slots.map (fun _ => .empty), writing := none }).endStream u.1
    else s) s

/-- The first job of the array's task, in entry order, that the array has not done; with `after` also not in progress. -/
def State.nextJob (s : State) (a : Nat) (after : Option Nat := none) : Option Nat :=
  let x := s.array a
  ((s.task x.ctx x.task).arrayJobs.zipIdx.find? (fun j => j.1.array == a % 2 && !x.doneJobs.contains j.2 && after != some j.2)).map
    (fun j => j.2)

/-- A load of pass q of the running job, after an earlier load of it. One from a ring goes on in ring order, and begins again at the operand's
first tile for each block; one from fixed tiles goes through all of them. -/
def State.passLoad (s : State) (a q : Nat) (front : Bool) : StatLoad :=
  let x := s.array a
  { job := x.job, pass := q, front := front, seen := x.statSeen, slot := x.statSlot, org := x.nOrg, scale := x.eS,
    next := if q = 0 ∨ (s.ringAt (arrWing a) (s.jobAt a x.job).statBase false).isNone then 0 else x.statFrom }

/-- The load that begins once the active registers hold the present pass's operand: of the next pass, or after the job's last load of the
next job's first pass, where its operand does not lie in what the running job writes (log 109). None while every pass loads by moving
front. -/
def State.followLoad (s : State) (a : Nat) : Option StatLoad :=
  let x := s.array a
  let j := s.jobAt a x.job
  let q := if j.passes ≤ x.pass + 1 then 0 else x.pass + 1
  if x.force then none
  else if 1 < j.passes ∧ ¬ (q = 0 ∧ j.blocks ≤ x.block + 1) then some (s.passLoad a q false)
  else
    match s.nextJob a (some x.job) with
    | none => none
    | some i =>
      let k := s.jobAt a i
      if s.frozenJob x.ctx k ∨ (s.ringAt (arrWing a) k.statBase false).isNone ∧
          k.statBase < j.outBase + j.outBytes ∧ j.outBase < k.statBase + tileBytes * k.statTiles then none
      else some { job := i, pass := 0 }

/-- Once the load of the present pass is complete its operand is active: a broadcast load moves out of the shadow registers, and the next
load begins. -/
def State.swapLoad (s : State) (a : Nat) : State :=
  let x := s.array a
  match x.load with
  | none => s
  | some l =>
    if x.loaded ∨ ¬ l.done ∨ l.job ≠ x.job ∨ l.pass ≠ x.pass then s
    else
      let s := s.setArray a { x with active := if l.front then x.active else x.shadow, shadow := [], load := none, loaded := true,
                                     statFrom := l.keep.getD l.next, statSlot := l.slot, statSeen := l.seen, nOrg := l.org, eS := l.scale }
      s.putArray a { s.array a with load := s.followLoad a }

/-- The load goes on, takes effect where it is complete, and the load after it begins. -/
def State.loadStep (s : State) (a : Nat) : State × Option Fail :=
  let tiles := fun (s : State) => (match (s.array a).load with | some l => (s.jobAt a l.job).statTiles + 1 | none => 0)
  let r := s.takeTiles a (tiles s)
  match r.2 with
  | some f => (r.1, some f)
  | none =>
    let s := r.1.swapLoad a
    s.takeTiles a (tiles s)

/-! ### Issuing a moving vector (R84, R90) -/

/-- The value of an operand position: zero where it does not belong to the job (R90), and where no tile of a fixed operand holds it (DESIGN
CHOICE, log 136). -/
def opVal (fmt : Nat) (x : Option (Nat × Nat)) : XVal :=
  match x with
  | some c => valueOf fmt c.1
  | none => .fin {}

/-- Scale product of a block and whether one of the scale codes is 0xFF (R65). -/
def sigmaOf (a b : Nat) : Int × Bool := ((a : Int) - 127 + ((b : Int) - 127), a == 255 || b == 255)

/-- Advance the chain of every logical column by the pass, for moving row m of the tensor. -/
def ArrayJob.issueRow (j : ArrayJob) (p : Nat) (active : Tbl Nat) (mov : List OpTile) (m row : Nat)
    (store : Tbl ChainSt) : Tbl ChainSt :=
  let ks := (List.range (ceilDiv (j.passHi p - j.passLo p) 32 * 32)).map (fun q => (q, j.passLo p + q))
  let ms := ks.map (fun q => if j.inPart q.2 then (findTile mov m q.2).map (fun t => t.at m q.2) else none)
  let next := (List.range j.nCount).map (fun c =>
    let st := ks.map (fun q => let v := Tbl.get 0 active (q.1 * 6144 + c); if v = 0 ∨ ¬ j.inPart q.2 then none else some (unpackOp v))
    let sig := (List.range (ks.length / 32)).map (fun b =>
      let at' := fun (l : List (Option (Nat × Nat))) => (((l.drop (32 * b)).take 32).filterMap id).head?.map (fun y => y.2)
      sigmaOf ((at' ms).getD 127) ((at' st).getD 127))
    (Tbl.get {} store (row * 6144 + c)).pass j.cls
      (List.zipWith (fun a b => if b.isSome then opVal j.fmtM a else .fin {}) ms st)
      (List.zipWith (fun a b => if a.isSome then opVal j.fmtS b else .fin {}) ms st) sig)
  Tbl.setRun {} store (row * 6144) next

/-- The place of the records that a block of a CHAIN_IN job begins with. -/
def ArrayJob.inRange (j : ArrayJob) (block : Nat) : Nat × Nat :=
  (j.handIn + 32 * (block * j.blockSize * j.nCount), 32 * (j.blockRows block * j.nCount))

/-- The chain states that a block begins with: from the records at HAND_IN, or zero (R76, R77, log 16). -/
def State.chainIn (s : State) (j : ArrayJob) (block : Nat) : Tbl ChainSt :=
  if j.chainIn then
    ((List.range (j.blockRows block)).map (fun r => (List.range j.nCount).map (fun c =>
      (r * 6144 + c, ChainSt.ofRecord j.cls
        (s.rd ((j.inRange block).1 + 32 * (r * j.nCount + c)) 32))))).flatten.filter (fun x => !decide (x.2 = {}))
  else []

/-! ### Outputs (R58, R64, R71, R77, R78) -/

/-- Output tile (ti, tj) of a job: its rows, columns and index in row-major order. -/
def ArrayJob.outTileCols (j : ArrayJob) : Nat := ceilDiv j.nCount (max 1 j.outCols)
def ArrayJob.outIndex (j : ArrayJob) (ti tj : Nat) : Nat := ti * j.outTileCols + tj

/-- Where output tile (ti, tj) of the buffer at a base goes: the next slot of an out-stream's ring in ring order, once the tiles of the rows
above it are in, or its place by index (R167). The second part is the ring slot. -/
def State.outPlace (s : State) (j : ArrayJob) (w base ti tj : Nat) : Nat × Option (Nat × Nat) :=
  match s.ringAt w base true with
  | some (u, _) => let x := s.stream u; (x.slotAddr (x.outSlot tj), some (u, x.outSlot tj))
  | none => (base + tileBytes * j.outIndex ti tj, none)

/-- Write codes of one output row r of the product into the tiles at a base (payload only). -/
def State.writeOutRow (s : State) (j : ArrayJob) (w base fmt r : Nat) (codes : List Nat) : State :=
  overList (List.range j.outTileCols) (fun tj s =>
    let n := min j.outCols (j.nCount - tj * j.outCols)
    let a := (s.outPlace j w base (r / max 1 j.outRows) tj).1
    s.wr (a + 64 + spanBytes fmt ((r % max 1 j.outRows) * n)) (packCodes fmt ((codes.drop (tj * j.outCols)).take n))) s

/-- Write the headers of the output tiles whose last row is r, with zero bytes beyond the elements (R163). -/
def State.writeOutHeads (s : State) (a : Nat) (j : ArrayJob) (w base fmt r : Nat) (h : Hdr) : State :=
  if (r + 1) % max 1 j.outRows = 0 ∨ r + 1 = j.mCount then
    let ti := r / max 1 j.outRows
    let rows := r % max 1 j.outRows + 1
    let at' := (List.range j.outTileCols).map (fun tj => s.outPlace j w base ti tj)
    overList at'.zipIdx (fun q s =>
      let n := min j.outCols (j.nCount - q.2 * j.outCols)
      let pay := s.rd (q.1.1 + 64) (spanBytes fmt (rows * n))
      let s := s.wr q.1.1 (tileImage { h with fmt := fmt, rows := rows, cols := n, rowO := h.rowO + ti * j.outRows,
                                              colO := h.colO + q.2 * j.outCols, home := 2, producer := uArray a } pay)
      match q.1.2 with
      | some (u, i) => s.fillOut u i
      | none => s) s
  else s

/-- Base of the HIGH buffer of a split-form product, after the tiles of LOW. -/
def ArrayJob.highBase (j : ArrayJob) : Nat := j.outBase + tileBytes * (ceilDiv j.mCount (max 1 j.outRows) * j.outTileCols)
def ArrayJob.outBases (j : ArrayJob) : List Nat := if j.split then [j.outBase, j.highBase] else [j.outBase]

/-- The outputs of row r of a job can leave: its output ports have slots and reach the place; where tiles begin in a ring, their slots are
EMPTY. -/
def State.outFree (s : State) (a : Nat) (j : ArrayJob) (w r : Nat) : Bool :=
  j.colGroups.all (fun g => s.portSlot a (24 + g)) &&
    (if j.chainOut then s.arrayReach a (j.outBase + 32 * (r * j.nCount)) (32 * j.nCount)
    else j.outBases.all (fun base => (List.range j.outTileCols).all (fun tj =>
      let q := s.outPlace j w base (r / max 1 j.outRows) tj
      s.arrayReach a q.1 tileBytes &&
        (decide (r % max 1 j.outRows ≠ 0) || (match q.2 with | some (u, i) => decide ((s.stream u).slot i = .empty) | none => true)))))

/-- Output tiles of a job, by index, of which a chain satisfies a test. -/
def ArrayJob.tilesOf (j : ArrayJob) (block : Nat) (store : Tbl ChainSt) (f : Nat → ChainSt → Bool) : List Nat :=
  ((store.filter (fun c => f c.1 c.2)).map (fun c =>
    j.outIndex ((block * j.blockSize + c.1 / 6144) / max 1 j.outRows) (c.1 % 6144 / max 1 j.outCols))).eraseDups

/-- Count output tiles whose chains entered aligned mode in SPAN_COUNT, each once for the job (R82, log 115). -/
def State.countSpans (s : State) (a : Nat) (tiles : List Nat) : State :=
  let x := s.array a
  let w := arrWing a
  let l := tiles.filter (fun t => !x.spans.contains t)
  if l.isEmpty then s
  else
    let s := s.setArray a { x with spans := x.spans ++ l }
    let s := if s.fld RegF.wingArithStsSpanCount w = 0 then s.setFld RegF.wingArithStsSpanCtx x.ctx w else s
    (s.setFld RegF.wingArithStsSpan 1 w).incFld RegF.wingArithStsSpanCount l.length w

/-- What an issue raises in WING_ARITH_STS: CMB_OVF for a chain whose combination has overflowed in it, SPAN for one that has entered
aligned mode, its output tile counted unless the job writes chain-state records (R70, R74, R82). -/
def State.issueFlags (s : State) (a : Nat) (old new : Tbl ChainSt) : State :=
  let x := s.array a
  let j := s.jobOf a
  let w := arrWing a
  let since := fun (f : ChainSt → Bool) (k : Nat) (c : ChainSt) => f c && !f (Tbl.get {} old k)
  let s := if new.any (fun c => since ChainSt.ovf c.1 c.2) then s.setFld RegF.wingArithStsCmbOvf 1 w else s
  let s := if new.any (fun c => since ChainSt.span c.1 c.2) then s.setFld RegF.wingArithStsSpan 1 w else s
  if j.chainOut then s else s.countSpans a (j.tilesOf x.block new (since ChainSt.span))

/-- What the finished chains of a product raise in WING_ARITH_STS of a wing: CMB_OVF and NONFINITE. -/
def State.arithFlags (s : State) (w : Nat) (l : List ChainSt) : State :=
  let s := if l.any (fun x => x.ovf) then s.setFld RegF.wingArithStsCmbOvf 1 w else s
  if l.any (fun x => decide (x.sp ≠ .none)) then s.setFld RegF.wingArithStsNonfinite 1 w else s

/-- Output of one row of a block: converted outputs and their reports, the split form, or chain records. -/
def State.emitRow (s : State) (a : Nat) (row : Nat) : State :=
  let x := s.array a
  let j := s.jobOf a
  let w := arrWing a
  let r := x.block * j.blockSize + row
  let chains := (List.range j.nCount).map (fun c => Tbl.get {} x.store (row * 6144 + c))
  if j.chainOut then
    s.wr (j.outBase + 32 * (r * j.nCount)) ((chains.map (fun st => st.record j.cls j.kEnd)).flatten)
  else
    let h : Hdr := { rowO := x.mOrg.getD 0, colO := x.nOrg.getD 0 }
    if j.split then
      let lo := chains.map (fun st => unsigned 64 st.splitForm.1)
      let hi := chains.map (fun st => unsigned 64 st.splitForm.2)
      let low := { h with scale := -32 + x.eM + x.eS }
      let high := { h with scale := 16 + x.eM + x.eS }
      (((s.writeOutRow j w j.outBase 0x0F r lo).writeOutRow j w j.highBase 0x0F r hi).writeOutHeads a j w j.outBase 0x0F r low
        ).writeOutHeads a j w j.highBase 0x0F r high
    else
      let t := s.target x.ctx j.smEntry j.fmtO j.rnd j.ledScale
      let vals := chains.map (fun st => st.result j.cls x.eM x.eS)
      let conv := vals.zipIdx.map (fun v => (v.1, t.conv v.1 ((h.rowO + r) * j.tensorCols + h.colO + v.2),
        (h.rowO + r) * j.tensorCols + h.colO + v.2))
      let rep := conv.foldl (fun (q : SmRep) v => q.add v.1 v.2.1 v.2.2) {}
      let s := s.report x.ctx x.task j.smEntry rep
      let s := match j.redGroup with
        | some g => overList conv (fun v s => if v.2.1.nonfin then s.updProg x.ctx (fun p =>
            { p with prodHdr := Tbl.upd {} p.prodHdr (g * 2 ^ 32 + v.2.2 / 2048 + 2 ^ 64 * x.task) (fun y =>
                       { y with flags := y.flags ||| 1, nfcount := satAdd 32 y.nfcount 1, nfindex := min y.nfindex v.2.2 }) }) else s) s
        | none => s
      let h := { h with scale := if fmtManaged j.fmtO || (ledFmt j.fmtO).isSome then t.e else 0, tensor := t.tensor }
      (s.writeOutRow j w j.outBase j.fmtO r (conv.map (fun v => v.2.1.code))).writeOutHeads a j w j.outBase j.fmtO r h

/-- The arithmetic flag of the chains of a block whose outputs have left (R82): NONFINITE. -/
def State.blockFlags (s : State) (a : Nat) : State :=
  let x := s.array a
  let j := s.jobOf a
  if j.chainOut then s
  else if x.store.any (fun c => decide (c.2.sp ≠ .none)) then s.setFld RegF.wingArithStsNonfinite 1 (arrWing a) else s

/-- Let the outputs of the rows of a block leave, in order from row `r`, as far as they can; the second part is the first row left. -/
def State.emitFrom (s : State) (a : Nat) : Nat → Nat → State × Nat
  | 0, r => (s, r)
  | n + 1, r =>
    let x := s.array a
    let j := s.jobOf a
    let row := x.block * j.blockSize + r
    if j.blockRows x.block ≤ r then (s, r)
    else if ¬ s.outFree a j (arrWing a) row then (s, r)
    else (s.emitRow a r).emitFrom a n (r + 1)

end Sys2Proof.Machine
end

