-- ==== Sys2Proof/Machine/Signature.lean ====
section
/-! DEFINITION. The verification of an ECDSA P-384 signature (spec/13_boot_protection_setup.md R361, R362, spec/14_clocks_power_condition.md
R399), which the specification names: the curve and the algorithm are those of FIPS 186 and SEC1 (PRESUMED, log 8). -/

namespace Sys2Proof.Machine

/-! ### The curve: y² = x³ − 3x + b over the integers modulo a prime -/

def p384Prime : Nat := 2 ^ 384 - 2 ^ 128 - 2 ^ 96 + 2 ^ 32 - 1
def p384B : Nat := 0xb3312fa7e23ee7e4988e056be3f82d19181d9c6efe8141120314088f5013875ac656398d8a2ed19d2a85c8edd3ec2aef
def p384Order : Nat := 0xffffffffffffffffffffffffffffffffffffffffffffffffc7634d81f4372ddf581a0db248b0a77aecec196accc52973
def p384Gx : Nat := 0xaa87ca22be8b05378eb1c71ef320ad746e1d3b628ba79b9859f741e082542a385502f25dbf55296c3a545e3872760ab7
def p384Gy : Nat := 0x3617de4a96262c6f5d9e98bf9292dc29f8f41dbd289a147ce9da3113b5f0b8c00a60b1ce1d7e819d7a431d7c90ea0e5f

/-- A product and a difference modulo the prime. -/
def p384Mul (a b : Nat) : Nat := a * b % p384Prime
def p384Sub (a b : Nat) : Nat := (a + (p384Prime - b % p384Prime)) % p384Prime

/-- A power modulo m, by the bits of the exponent from the top one down. -/
def powMod (m a : Nat) (e : Nat) : Nat → Nat
  | 0 => 1 % m
  | k + 1 =>
    let r := powMod m a (e / 2) k
    if e % 2 = 1 then r * r % m * a % m else r * r % m

/-- The inverse modulo a prime m of 384 bits. -/
def inverseMod (m a : Nat) : Nat := powMod m a (m - 2) 384

/-- A point (X/Z², Y/Z³); Z = 0 is the point at infinity. -/
structure CurvePoint where
  x : Nat
  y : Nat
  z : Nat
  deriving DecidableEq, Repr

def CurvePoint.infinity : CurvePoint := ⟨1, 1, 0⟩

/-- Twice a point. -/
def CurvePoint.double (a : CurvePoint) : CurvePoint :=
  let yy := p384Mul a.y a.y
  let zz := p384Mul a.z a.z
  let s := 4 * p384Mul a.x yy % p384Prime
  let m := 3 * p384Mul (p384Sub a.x zz) (a.x + zz) % p384Prime
  let x := p384Sub (p384Mul m m) (2 * s)
  ⟨x, p384Sub (p384Mul m (p384Sub s x)) (8 * p384Mul yy yy), p384Mul (2 * a.y) a.z⟩

/-- The sum of two points. -/
def CurvePoint.add (a b : CurvePoint) : CurvePoint :=
  if a.z = 0 then b
  else if b.z = 0 then a
  else
    let za := p384Mul a.z a.z
    let zb := p384Mul b.z b.z
    let u := p384Mul a.x zb
    let s := p384Mul a.y (p384Mul zb b.z)
    let h := p384Sub (p384Mul b.x za) u
    let r := p384Sub (p384Mul b.y (p384Mul za a.z)) s
    if h = 0 then (if r = 0 then a.double else .infinity)
    else
      let hh := p384Mul h h
      let hhh := p384Mul hh h
      let v := p384Mul u hh
      let x := p384Sub (p384Sub (p384Mul r r) hhh) (2 * v)
      ⟨x, p384Sub (p384Mul r (p384Sub v x)) (p384Mul s hhh), p384Mul (p384Mul h a.z) b.z⟩

/-- j·a + k·b for numbers of n bits, where c = a + b. -/
def CurvePoint.combine (a b c : CurvePoint) (j k : Nat) : Nat → CurvePoint
  | 0 => .infinity
  | n + 1 =>
    let t := (CurvePoint.combine a b c (j / 2) (k / 2) n).double
    match j % 2, k % 2 with
    | 0, 0 => t
    | 0, _ => t.add b
    | _, 0 => t.add a
    | _, _ => t.add c

/-- Big-endian bytes as a number. -/
def beNat (bs : List (BitVec 8)) : Nat := bs.foldl (fun n b => n * 256 + b.toNat) 0

/-- The 96 bytes of a signature, r and s, verify over a digest of 48 bytes against a public key, x and y; every number has 48 bytes, big-endian. -/
def ecdsaVerifies (key digest sig : List (BitVec 8)) : Bool :=
  let x := beNat (key.take 48)
  let y := beNat ((key.drop 48).take 48)
  let r := beNat (sig.take 48)
  let s := beNat ((sig.drop 48).take 48)
  let g : CurvePoint := ⟨p384Gx, p384Gy, 1⟩
  let q : CurvePoint := ⟨x, y, 1⟩
  decide (x < p384Prime ∧ y < p384Prime ∧ 0 < r ∧ r < p384Order ∧ 0 < s ∧ s < p384Order) &&
    y * y % p384Prime == p384Sub (x * x * x + p384B) (3 * x) &&
    (let w := inverseMod p384Order s
     let t := CurvePoint.combine g q (g.add q) (beNat digest * w % p384Order) (r * w % p384Order) 384
     t.z != 0 && p384Mul t.x (inverseMod p384Prime (p384Mul t.z t.z)) % p384Order == r)

end Sys2Proof.Machine
end

