-- ==== Sys2Proof/Machine/PowerOps.lean ====
section
/-! DEFINITION. Levels, clocks and voltages (spec/14_clocks_power_condition.md R381 to R393), guard-band plans and the condition report
(R395 to R402). -/

namespace Sys2Proof.Machine

/-! ### Requests and the level (R382, R385) -/

/-- The performance states that are retired, for the module (R397). -/
def State.retired (s : State) : Nat := (s.cond.rep.dies.foldl (fun m d => m ||| d.retired.toNat) 0)

/-- The lowest-numbered state that is not retired. -/
def State.topState (s : State) : Nat := (indexFrom (fun k => !s.retired.testBit k) (List.range 14) 0).getD 14

def State.alertOn (s : State) : Bool := s.pins.vrAlert || s.pwr.alertHold

/-- The requests of R385 with their cause codes: the alert, the forced hold and the trip ask only while they last. -/
def State.requests (s : State) : List (Nat × Nat) :=
  [(s.pwr.lp, 0), (s.pwr.lt, 1), (s.pwr.lm, 2), (s.topState, 3)] ++ (if s.alertOn then [(22, 4)] else []) ++
    (if s.pwr.forceReg || s.pwr.forceCorr then [(22, 5)] else []) ++ [(min 22 (s.fld RegF.pwrCfgLevelFloor), 6)] ++
    (if s.pwr.trip then [(22, 7)] else [])

def maxReq (l : List (Nat × Nat)) : Nat := l.foldl (fun a x => max a x.1) 0

/-- The level that the requests ask for, and the highest code among those that ask for it. -/
def State.wanted (s : State) : Nat := maxReq s.requests
def State.cause (s : State) : Nat := (s.requests.filter (fun x => x.1 == s.wanted)).foldl (fun a x => max a x.2) 0

/-- The level the module runs at. -/
def State.level (s : State) : Nat := s.fld RegF.pwrStsLevel

/-- The performance state of a level and its column-group duty in sixteenths. -/
def levelState (l : Nat) : Nat := min l 14
def levelDuty (l : Nat) : Nat := if l ≤ 14 then 16 else 30 - l

/-- The compute clock in MHz, at the source of the family: CPLL, or FPLL ÷ 2. -/
def State.cpllMhz (s : State) : Nat := if s.pwr.onFpll then 5000 else 12000 - 500 * levelState s.level

/-! ### Voltage (R393) -/

/-- The applied voltage of a die at its level, in units of 0.1 mV. -/
def State.voltage (s : State) (d : Nat) : Nat :=
  min (nth 0 (nth {} s.cond.rep.dies d).vPlan (levelState s.level) + 25 * nth 0 s.pwr.trims d) (nth 0 s.fuse.vmax d)

def State.syncVolt (s : State) : State :=
  overList [0, 1] (fun d s => (s.setFld RegF.pwrDieVolt (s.voltage d / 5) d).setFld RegF.pwrDieTrim (nth 0 s.pwr.trims d) d) s

/-- Show the requests, and give the level loop its target. -/
def State.syncPower (s : State) : State :=
  let s := (s.setFld RegF.pwrStsCause s.cause).setFld RegF.pwrStsAlert (bit s.alertOn)
  let s := s.setFld RegF.pwrStsTripped (bit s.pwr.trip)
  ({ s with pwr := { s.pwr with target := s.wanted } } : State).syncVolt

/-- Go to a level at once (R388 steps 2 to 5). -/
def State.setLevel (s : State) (l : Nat) : State := (s.setFld RegF.pwrStsLevel l).syncPower

/-- Limit Lp to the other requests and 22 (R386). -/
def State.limitLp (s : State) (lp : Nat) : Nat := min 22 (max lp (maxReq (s.requests.drop 1)))

/-- SETPOINT and WINDOW with their limits. -/
def State.setpoint (s : State) : Nat := max 1200 (min 3200 (s.fld RegF.pwrCfgSetpoint))
def State.window (s : State) : Nat := max 1 (min 10 (s.fld RegF.pwrCfgWindow))

/-! ### Nominal times (spec/12_rings_contexts_rota.md R351) -/

/-- ⌈n · 16 / D⌉. -/
def dutyCycles (n d : Nat) : Nat := ceilDiv (16 * n) (max 1 d)

/-- A task of `issue` array issue cycles, `cpll` further CPLL cycles and `ns` nanoseconds ends within `limit` nanoseconds at a clock of
`mhz` and duty `d`. -/
def fitsIn (issue cpll ns mhz d limit : Nat) : Bool :=
  decide ((8 * dutyCycles issue d + cpll) * 1000 + ns * mhz ≤ limit * mhz)

/-! ### Condition report (R399 to R401) -/

def DieBlock.bytes (d : DieBlock) : List Byte :=
  leBytes 2 d.vmax ++ leBytes 1 d.gb ++ leBytes 1 d.topState ++ leBytes 2 d.retired.toNat ++ leBytes 2 (unsigned 16 d.shiftMax) ++
    leBytes 1 d.worst ++ leBytes 1 d.monFailed ++ leBytes 2 d.s ++ (d.vPlan.map (leBytes 2)).flatten ++ leBytes 22 0

/-- Bytes 0 to 3,999 of a report. -/
def Report.body (r : Report) : List Byte :=
  let head := leBytes 4 0x444E4F43 ++ leBytes 2 1 ++ leBytes 1 r.generation ++ leBytes 1 (r.eol.toNat + 4 * bit r.lost) ++
    leBytes 8 r.seq ++ leBytes 8 r.opSeconds ++ leBytes 8 r.nextPlan ++ leBytes 4 r.boots ++ leBytes 4 r.plans ++ leBytes 24 0
  let mid := (r.dies.map DieBlock.bytes).flatten ++ leBytes 4 r.stacksOut.toNat ++ leBytes 4 r.veOut.toNat ++
    leBytes 1 r.arraysOut.toNat ++ leBytes 7 0 ++ (r.stackUe.map (leBytes 2)).flatten ++ leBytes 8 r.ueWindow
  pad 4000 (head ++ mid ++ (r.shifts.map (fun x => leBytes 2 (match x with | some v => unsigned 16 v | none => 0x8000))).flatten)

/-- The 4,096 bytes of a report. -/
def Report.bytes (r : Report) : List Byte := r.body ++ pad 96 r.sig

/-- A copy in NOR is valid (R399). -/
def Report.valid (r : Report) (gen : Nat) (key : List Byte) : Bool :=
  r.generation == gen && ecdsaVerifies key (sha384 r.body) r.sig

/-- Operating time in seconds (R396). -/
def State.opSeconds (s : State) : Nat := s.cond.opBase + (s.time - s.cond.readyAt) / 250000000

/-- The report in use: the NOR copy that the last report went to, or the report formed at boot where there is none. -/
def State.reportInUse (s : State) : Report := (if s.cond.useB then s.cond.copyB else s.cond.copyA).getD s.cond.rep

/-- Write a new report to the copy not in use, signature last; it is the report in use from then on (R400). -/
def State.writeReport (s : State) (r : Report) : State :=
  let r := { r with seq := s.cond.rep.seq + 1, opSeconds := s.opSeconds }
  let r := { r with sig := Config.identitySignature s.freeCtr (sha384 r.body) }
  { s with cond := { s.cond with rep := r, copyA := if s.cond.useB then some r else s.cond.copyA,
                                 copyB := if s.cond.useB then s.cond.copyB else some r, useB := !s.cond.useB },
           freeCtr := s.freeCtr + 1 }

/-! ### Plans (R395, R397) -/

/-- The shift of a monitor in 0.1 ps; none where it failed. -/
def State.shiftOf (s : State) (corrected : List (Option Int)) (i : Nat) : Option Int :=
  match nth none corrected i with
  | none => none
  | some v =>
    let d := v - Tbl.get 0 s.fuse.d0 i
    if -500 ≤ d ∧ d ≤ 500 then some d else none

/-- GB for a shift in 0.1 ps and a coefficient in 0.01 mV/ps, in steps of 2.5 mV. -/
def guardBand (coef : Nat) (shift : Int) : Nat := if shift ≤ 0 then 0 else ceilDiv (coef * shift.toNat) 2500

/-- The plan of die d. -/
def State.planDie (s : State) (corrected : List (Option Int)) (d : Nat) : DieBlock :=
  let old := nth {} s.cond.rep.dies d
  let mons := (List.range 128).map (fun i => (i, s.shiftOf corrected (128 * d + i)))
  let best := mons.foldl (fun (a : Option (Nat × Int)) m => match m.2, a with
    | some v, some b => if b.2 < v then some (m.1, v) else some b
    | some v, none => some (m.1, v)
    | none, a => a) none
  let gb := max old.gb (guardBand (nth 0 s.fuse.sCoef d) ((best.map (fun b => b.2)).getD 0))
  let v := (nth [] s.fuse.vFuse d).map (fun x => x + 25 * gb)
  let ret := (List.range 14).foldl (fun m k => if nth 0 s.fuse.vmax d < nth 0 v k then m ||| 2 ^ k else m) old.retired.toNat
  { vmax := nth 0 s.fuse.vmax d, gb := gb, topState := old.topState, retired := BitVec.ofNat 15 ret,
    shiftMax := (best.map (fun b => b.2)).getD 0, worst := (best.map (fun b => b.1)).getD 0,
    monFailed := (mons.filter (fun m => m.2.isNone)).length, s := nth 0 s.fuse.sCoef d, vPlan := v }

/-- Die d runs P14 at VMAX: END_OF_LIFE (R397). -/
def State.endOfLife (s : State) (b : DieBlock) (d : Nat) : Bool := decide (nth 0 s.fuse.vmax d < nth 0 b.vPlan 14)

/-- Show the report in use in the COND registers. -/
def State.syncCond (s : State) : State :=
  let r := s.cond.rep
  let s := (s.setFld RegF.condStsReportLost (bit r.lost)).setFld RegF.condStsPlanning (bit s.cond.planning)
  let s := (s.setFld RegF.condStsEol0 (bit (r.eol.getLsbD 0))).setFld RegF.condStsEol1 (bit (r.eol.getLsbD 1))
  let s := (s.setFld RegF.condStsTopState s.topState).setFld RegF.condStsRetired s.retired
  let s := s.setFld RegF.condStsPlans r.plans
  let s := overList [0, 1] (fun d s =>
    let b := nth {} r.dies d
    let s := (s.setFld RegF.condDieGb b.gb d).setFld RegF.condDieVmax b.vmax d
    let s := (s.setFld RegF.condDieShiftMax (unsigned 16 b.shiftMax) d).setFld RegF.condDieWorstMon b.worst d
    s.setFld RegF.condDieMonFailed b.monFailed d) s
  overList (r.shifts.zipIdx) (fun x s =>
    s.setFld RegF.condMonShift (match x.1 with | some v => unsigned 16 v | none => 0x8000) x.2) s

/-- A plan of the dies in service comes to its result: guard bands, planned voltages, retired states and a new report. -/
def State.plan (s : State) (corrected : List (Option Int)) (on : List Nat) : State :=
  let before := s.retired
  let old := fun (d : Nat) => (nth {} s.cond.rep.dies d : DieBlock)
  let b0 := if on.contains 0 then s.planDie corrected 0 else old 0
  let b1 := if on.contains 1 then s.planDie corrected 1 else old 1
  let eol := s.cond.rep.eol ||| BitVec.ofNat 2 (bit (on.contains 0 && s.endOfLife b0 0) + 2 * bit (on.contains 1 && s.endOfLife b1 1))
  let newEol := [0, 1].filter (fun d => eol.getLsbD d && !s.cond.rep.eol.getLsbD d)
  let ret := b0.retired.toNat ||| b1.retired.toNat
  let top := (indexFrom (fun k => !ret.testBit k) (List.range 14) 0).getD 14
  let show' := fun (d : Nat) (b : DieBlock) => if on.contains d then { b with topState := top, retired := BitVec.ofNat 15 ret } else b
  let dies := [show' 0 b0, show' 1 b1]
  let r := { s.cond.rep with dies := dies, eol := eol, plans := s.cond.rep.plans + 1, nextPlan := s.opSeconds + 86400,
                             generation := s.fuse.generation, shifts := (List.range 256).map (s.shiftOf corrected) }
  let s := s.writeReport r
  let s := ({ s with cond := { s.cond with planning := false } } : State).setFld RegF.condStsPlanValid 1
  let s := s.syncCond
  let s := overList ((List.range 14).filter (fun k => ret.testBit k && !before.testBit k)) (fun k s =>
    s.event uCustodian 0x0006 3 none [(16, 1, k), (17, 1, if b0.retired.getLsbD k then 0 else 1)]) s
  let s := overList newEol (fun d s => s.event uCustodian 0x0007 3 none [(16, 1, d)]) s
  (s.event uCustodian 0x0005 0 none [(16, 1, b0.gb), (17, 1, b1.gb), (18, 1, top), (24, 8, s.opSeconds)]).syncPower

/-- A change of the holdings in service (R417): SEQ rises and a record is made. -/
def State.holdChanged (s : State) (unit code : Nat) : State :=
  let q := s.holdField 32 8 + 1
  (s.setHold 32 8 q).event uCustodian 0x0011 1 none [(16, 8, q), (24, 2, unit), (26, 1, code)]

end Sys2Proof.Machine
end

