-- ==== Sys2Proof/Machine/Flags.lean ====
section
/-! DEFINITION. The flag word and the ledger status of a vector engine (spec/05_vector_engines.md R136, R137, R142): how each
instruction sets them, how SGET reads and SCLR clears them. -/

namespace Sys2Proof.Machine

/-- One lane's result: its value, and the flags NONFINITE, SAT, WIDE_OVF and BREACH that it sets. -/
structure LaneRes where
  val : Nat
  nonfin : Bool := false
  sat : Bool := false
  ovf : Bool := false
  breach : Bool := false
  deriving DecidableEq, Repr

/-- The flags of a lane as a flag word: bit 0 NONFINITE, 1 SAT, 2 WIDE_OVF, 3 BREACH. -/
def LaneRes.flags (r : LaneRes) : BitVec 4 :=
  (if r.nonfin then 1 else 0) ||| (if r.sat then 2 else 0) ||| (if r.ovf then 4 else 0) ||| (if r.breach then 8 else 0)

/-- The flags of several lanes. -/
def flagsOf (l : List LaneRes) : BitVec 4 := l.foldl (fun f r => f ||| r.flags) 0

def XVal.special : XVal → Bool
  | .fin _ => false
  | _ => true

/-- A code of a floating format is NaN or infinite. -/
def FloatFmt.special (t : FloatFmt) (c : Nat) : Bool := (t.value c).special

/-- The clear values of the ledger status (R137). -/
def LedStat.clear : LedStat := {}

/-- One active lane of LQ with source x, exact integer q (0 where x is not finite), width limit L and flat index n (R136). -/
def LedStat.quantise (l : LedStat) (x : XVal) (q : Int) (L n : Nat) : LedStat :=
  match x with
  | .fin d =>
    { l with expmax := if d.m = 0 then l.expmax else max l.expmax d.lg,
             excess := if 2 ^ L ≤ q.natAbs then max l.excess (min 255 (Nat.log2 q.natAbs - (L - 1))) else l.excess }
  | _ => { l with nfcount := satAdd 32 l.nfcount 1, nfindex := min l.nfindex n }

/-- The items that SGET reads; items 6 to 15 are reserved and read as zero (R137). -/
def sgetItem (l : LedStat) (flags : BitVec 4) (item : Nat) : W32 :=
  match item with
  | 0 => BitVec.ofNat 32 flags.toNat
  | 1 => BitVec.ofNat 32 l.nfcount
  | 2 => BitVec.ofNat 32 (l.nfindex % 2 ^ 32)
  | 3 => BitVec.ofNat 32 (l.nfindex / 2 ^ 32 % 2 ^ 16)
  | 4 => BitVec.ofInt 32 l.expmax
  | 5 => BitVec.ofNat 32 l.excess
  | _ => 0

/-- The flag word after SCLR: IMM[1] clears NONFINITE, SAT and WIDE_OVF; IMM[0] clears BREACH. -/
def sclrFlags (imm : Nat) (flags : BitVec 4) : BitVec 4 :=
  (flags &&& (if imm.testBit 1 then 8 else 15)) &&& (if imm.testBit 0 then 7 else 15)

/-- The ledger status after SCLR. -/
def sclrStat (imm : Nat) (l : LedStat) : LedStat := if imm.testBit 0 then LedStat.clear else l

end Sys2Proof.Machine
end

