-- ==== Sys2Proof/Machine/Float.lean ====
section
/-! DEFINITION. The floating operations of the vector engines (spec/05_vector_engines.md R129, R130, R132): the exact result of each
operation on the operand values, and the value's one rounding. -/

namespace Sys2Proof.Machine

/-- An exact or bounded result: a special value, or a dyadic number with a further part below its last bit. -/
inductive Exact where
  | nan
  | inf (neg : Bool)
  | fin (d : Dy) (sticky : Bool)
  deriving DecidableEq, Repr

def XVal.exact : XVal → Exact
  | .nan => .nan
  | .inf n => .inf n
  | .fin d => .fin d false

/-- Round an exact result once into a wide floating format with RM (R129). -/
def Exact.pack (t : FloatFmt) (rm : Nat) : Exact → Nat
  | .nan => t.nanCode
  | .inf n => t.infCode n
  | .fin d st => (t.pack rm 0 d st).1

/-- A sum of two finite numbers with the zero-sign rules of roundTiesToEven. -/
def addFin (x y : Dy) : Dy :=
  if x.m = 0 ∧ y.m = 0 then { neg := x.neg && y.neg, m := 0, e := 0 } else x.add y

def fAdd (a b : XVal) : Exact :=
  match a, b with
  | .nan, _ => .nan
  | _, .nan => .nan
  | .inf s, .inf t => if s = t then .inf s else .nan
  | .inf s, .fin _ => .inf s
  | .fin _, .inf t => .inf t
  | .fin x, .fin y => .fin (addFin x y) false

def XVal.negate : XVal → XVal
  | .nan => .nan
  | .inf s => .inf (!s)
  | .fin d => .fin d.neg'

def XVal.absolute : XVal → XVal
  | .nan => .nan
  | .inf _ => .inf false
  | .fin d => .fin { d with neg := false }

/-- The exact product. -/
def fMulX (a b : XVal) : XVal :=
  match a, b with
  | .nan, _ => .nan
  | _, .nan => .nan
  | .inf s, .inf t => .inf (s != t)
  | .inf s, .fin y => if y.m = 0 then .nan else .inf (s != y.neg)
  | .fin x, .inf t => if x.m = 0 then .nan else .inf (x.neg != t)
  | .fin x, .fin y => .fin (x.mul y)

/-- va × vb + vc, exact. -/
def fFma (a b c : XVal) : Exact := fAdd (fMulX a b) c

/-- Bits of a quotient or root beyond the precision of every format. -/
def guardBits : Nat := 130

def fDiv (a b : XVal) : Exact :=
  match a, b with
  | .nan, _ => .nan
  | _, .nan => .nan
  | .inf _, .inf _ => .nan
  | .inf s, .fin y => .inf (s != y.neg)
  | .fin x, .inf t => .fin ⟨x.neg != t, 0, 0⟩ false
  | .fin x, .fin y =>
    if y.m = 0 then (if x.m = 0 then .nan else .inf (x.neg != y.neg))
    else
      let k := guardBits + Nat.log2 y.m
      .fin ⟨x.neg != y.neg, x.m * 2 ^ k / y.m, x.e - y.e - k⟩ (x.m * 2 ^ k % y.m != 0)

/-- ⌊√n⌋ from the highest of `k` result bits down. -/
def isqrtFrom : Nat → Nat → Nat → Nat
  | 0, r, _ => r
  | k + 1, r, n => isqrtFrom k (if (r + 2 ^ k) * (r + 2 ^ k) ≤ n then r + 2 ^ k else r) n

def isqrt (n : Nat) : Nat := isqrtFrom (Nat.log2 n / 2 + 1) 0 n

def fSqrt (a : XVal) : Exact :=
  match a with
  | .nan => .nan
  | .inf s => if s then .nan else .inf false
  | .fin x =>
    if x.m = 0 then .fin x false
    else if x.neg then .nan
    else
      let odd := (x.e % 2).toNat
      let n := x.m * 2 ^ odd * 2 ^ (2 * guardBits)
      let r := isqrt n
      .fin ⟨false, r, (x.e - odd) / 2 - guardBits⟩ (r * r != n)

def fRsqrt (a : XVal) : Exact :=
  match a with
  | .nan => .nan
  | .inf s => if s then .nan else .fin ⟨false, 0, 0⟩ false
  | .fin x =>
    if x.m = 0 then .inf x.neg
    else if x.neg then .nan
    else
      let odd := (x.e % 2).toNat
      let m := x.m * 2 ^ odd
      let k := guardBits + Nat.log2 m
      let r := isqrt (2 ^ (2 * k) / m)
      .fin ⟨false, r, -((x.e - odd) / 2) - k⟩ (m * (r * r) != 2 ^ (2 * k))

def fRcp (a : XVal) : Exact := fDiv (.fin ⟨false, 1, 0⟩) a

/-- a is below b in the order of minimum and maximum, where −0 ranks below +0 (R129). -/
def XVal.below (a b : XVal) : Bool :=
  match a, b with
  | .inf s, .inf t => s && !t
  | .inf s, .fin _ => s
  | .fin _, .inf t => !t
  | .fin x, .fin y => if x.m = 0 ∧ y.m = 0 then x.neg && !y.neg else x.lt y
  | _, _ => false

def fMin (a b : XVal) : XVal :=
  match a, b with
  | .nan, _ => .nan
  | _, .nan => .nan
  | a, b => if a.below b then a else b

def fMax (a b : XVal) : XVal :=
  match a, b with
  | .nan, _ => .nan
  | _, .nan => .nan
  | a, b => if a.below b then b else a

def fSelect (a b c : XVal) : XVal :=
  match c with
  | .nan => b
  | .inf s => if s then b else a
  | .fin z => if z.m ≠ 0 ∧ ¬ z.neg then a else b

def fClip (a b c : XVal) : XVal := fMin (fMax a b) c

def fScaleb (a : XVal) (n : Int) : XVal :=
  match a with
  | .fin x => .fin (x.shift n)
  | a => a

/-- Comparisons of CMP by IMM[2:0] (R130). -/
def fCmp (op : Nat) (a b : XVal) : Bool :=
  match a, b with
  | .nan, _ => op == 1 || op == 6
  | _, .nan => op == 1 || op == 6
  | a, b =>
    let lt := match a, b with | .fin x, .fin y => x.lt y | a, b => a.below b
    let gt := match a, b with | .fin x, .fin y => y.lt x | a, b => b.below a
    match op with
    | 0 => !lt && !gt
    | 1 => lt || gt
    | 2 => lt
    | 3 => !gt
    | 4 => gt
    | 5 => !lt
    | _ => false

def iCmp (op : Nat) (a b : Int) : Bool :=
  match op with
  | 0 => a == b
  | 1 => a != b
  | 2 => decide (a < b)
  | 3 => decide (a ≤ b)
  | 4 => decide (b < a)
  | 5 => decide (b ≤ a)
  | _ => false

/-! ### exp2 and log2 (R132) -/

/-- Bits of the fixed-point value of a power of two with a fractional exponent. -/
def expBits : Nat := 256

/-- Multiply by 2^(2^-j) for every set bit j = 1, 2, … of the fraction f, most significant first of `n` bits; `c` is 2^(2^-j) and
`p` the product, both in units of 2^-256, rounded down. -/
def exp2Frac : Nat → Nat → Nat → Nat → Nat
  | 0, _, _, p => p
  | n + 1, f, c, p =>
    let c' := isqrt (c * 2 ^ expBits)
    exp2Frac n (f % 2 ^ n) c' (if 2 ^ n ≤ f then p * c' / 2 ^ expBits else p)

def fExp2 (a : XVal) : Exact :=
  match a with
  | .nan => .nan
  | .inf s => if s then .fin ⟨false, 0, 0⟩ false else .inf false
  | .fin x =>
    if x.m = 0 then .fin ⟨false, 1, 0⟩ false
    else if 10 < x.lg then .fin ⟨false, 1, if x.neg then -2000 else 2000⟩ false
    else
      let k := (-x.e).toNat
      let n := x.units (if 0 ≤ x.e then 0 else x.e)
      let i := n / 2 ^ k
      let f := (n % 2 ^ k).toNat
      if f = 0 then .fin ⟨false, 1, i⟩ false
      else .fin ⟨false, exp2Frac k f (2 ^ (expBits + 1)) (2 ^ expBits), i - expBits⟩ true

/-- Result bits of log2 of y in [1, 2), y in units of 2^-400: repeated squaring. -/
def log2Frac : Nat → Nat → Nat → Nat
  | 0, _, r => r
  | n + 1, y, r =>
    let z := y * y / 2 ^ 400
    if 2 ^ 401 ≤ z then log2Frac n (z / 2) (2 * r + 1) else log2Frac n z (2 * r)

def fLog2 (a : XVal) : Exact :=
  match a with
  | .nan => .nan
  | .inf s => if s then .nan else .inf false
  | .fin x =>
    if x.m = 0 then .inf true
    else if x.neg then .nan
    else
      let k := x.lg
      let l := Nat.log2 x.m
      if x.m = 2 ^ l then .fin (Dy.ofInt k 0) false
      else
        let r := log2Frac 160 (x.m * 2 ^ 400 / 2 ^ l) 0
        let v : Int := k * 2 ^ 160 + r
        if v < 0 then .fin ⟨true, v.natAbs - 1, -160⟩ true else .fin ⟨false, v.natAbs, -160⟩ true

end Sys2Proof.Machine
end

