-- ==== Sys2Proof/Machine/ScaleOps.lean ====
section
/-! DEFINITION. The scale manager (spec/02_number_formats.md R47 to R55): its table in memory, the scale it chooses at a step-end
mark, the queue of commands, and the parameter-group descriptors that group commands and updates write
(spec/09_ledger_reduction_update.md R265 to R268). -/

namespace Sys2Proof.Machine

/-! ### The table (R48, R49) -/

def SmEntry.ofBytes (b : List Byte) : SmEntry :=
  let f := field b 6 1
  { tensorId := field b 0 4, fmt := field b 4 1 % 32, headroom := field b 5 1 % 16, hlen := field b 5 1 / 16,
    nonfinite := f.testBit 0, saturated := f.testBit 1, frozenScale := f.testBit 2, sr := f.testBit 3,
    hcount := field b 7 1, scale := signed 16 (field b 8 2), lastSat := field b 16 4, totalSat := field b 24 8,
    totalNonfinite := field b 32 8, nfIndex := field b 40 8, nfStep := field b 48 4,
    history := (List.range 16).map (fun i => BitVec.ofNat 32 (field b (64 + 4 * i) 4)) }

/-- The bytes of an entry with its STAMP word. -/
def SmEntry.bytes (e : SmEntry) (stamp : Nat) (busy : Bool) : List Byte :=
  leBytes 4 e.tensorId ++ leBytes 1 e.fmt ++ leBytes 1 (e.headroom + 16 * e.hlen) ++
    leBytes 1 (bit e.nonfinite + 2 * bit e.saturated + 4 * bit e.frozenScale + 8 * bit e.sr) ++ leBytes 1 e.hcount ++
    leBytes 2 (unsigned 16 e.scale) ++ leBytes 6 0 ++ leBytes 4 e.lastSat ++ leBytes 4 0 ++ leBytes 8 e.totalSat ++
    leBytes 8 e.totalNonfinite ++ leBytes 8 e.nfIndex ++ leBytes 4 e.nfStep ++ leBytes 4 0 ++ leBytes 8 (bit busy + 2 * stamp) ++
    pad 64 ((e.history.map (fun h => leBytes 4 h.toNat)).flatten)

/-- Read a whole table (R54). -/
def State.readSmTable (s : State) (base : Nat) : SmTable :=
  let h := s.rd base 128
  { base := base, seed := BitVec.ofNat 64 (field h 0 8), step := field h 12 4, orphanNf := (field h 16 4).testBit 0,
    orphanSat := (field h 16 4).testBit 1,
    entries := (List.range (field h 8 4)).map (fun n => SmEntry.ofBytes (s.rd (base + 128 + 128 * n) 128)) }

/-- Write every entry back, then the STEP and ORPHAN words of the header (R53). -/
def State.writeSmTable (s : State) (t : SmTable) : State :=
  let s := overList (List.range t.entries.length) (fun n s =>
    s.wr (t.base + 128 + 128 * n) ((nth {} t.entries n).bytes t.step false)) s
  (s.wr (t.base + 12) (leBytes 4 t.step)).wr (t.base + 16) (leBytes 4 (bit t.orphanNf + 2 * bit t.orphanSat))

/-! ### The scale of the next step (R52) -/

/-- The largest finite value of a managed format. -/
def fmtMax (f : Nat) : Dy :=
  match floatFmt f with
  | some t => t.maxVal
  | none => { m := if f = 0xC then 127 else 7 }

/-- The smallest integer e with a ≤ M · 2^(e − h), limited to 16 bits, for a > 0. -/
def chooseScale (a m : Dy) (h : Nat) : Int :=
  let k := a.lg - m.lg
  let k := if (m.shift k).ltMag a then k + 1 else k
  max (-32768) (min 32767 (k + h))

/-- The values of the history that count. -/
def SmEntry.maxHistory (e : SmEntry) : BitVec 32 := (e.history.take e.hcount).foldl (fun a b => if a.toNat < b.toNat then b else a) 0

/-- One entry at a step-end mark, with the step's merged report, if any. -/
def SmEntry.mark (e : SmEntry) (rep : Option SmRep) (step : Nat) : SmEntry :=
  let e := match rep with
    | some r =>
      { e with history := BitVec.ofNat 32 r.maxAbs :: (e.history.take e.hlen ++ e.history.drop (e.hlen + 1)),
               hcount := min (e.hcount + 1) (e.hlen + 1), lastSat := r.sat, totalSat := satAdd 64 e.totalSat r.sat,
               totalNonfinite := satAdd 64 e.totalNonfinite r.nonfin,
               nfIndex := if 0 < r.nonfin then r.nfIndex else e.nfIndex, nfStep := if 0 < r.nonfin then step else e.nfStep }
    | none => { e with lastSat := 0 }
  let a := e.maxHistory
  if ¬ e.frozenScale ∧ 0 < e.hcount ∧ 0 < a.toNat then
    match f32.value a.toNat with
    | .fin d => { e with scale := chooseScale d (fmtMax e.fmt) e.headroom }
    | _ => e
  else e

/-- The sticky flags that a task's reports set at once (R45). -/
def SmTable.stick (t : SmTable) (entry : Nat) (r : SmRep) : SmTable :=
  if entry = 0xFFFF then { t with orphanNf := t.orphanNf || r.anyNonfin, orphanSat := t.orphanSat || r.anySat }
  else { t with entries := t.entries.zipIdx.map (fun x => if x.2 = entry then
    { x.1 with nonfinite := x.1.nonfinite || r.anyNonfin, saturated := x.1.saturated || r.anySat } else x.1) }

/-! ### Parameter-group descriptors (R265, R266) -/

/-- The address of a context's group descriptor. -/
def State.groupAddr (s : State) (c g : Nat) : Nat := ((s.cert c).groupTable.getD 0) + 128 * g

def State.groupBytes (s : State) (c g : Nat) : List Byte := s.rd (s.groupAddr c g) 128

/-- FROZEN and CLIP_EXEMPT of a descriptor. -/
def State.groupFrozen (s : State) (c g : Nat) : Bool := (field (s.groupBytes c g) 4 1).testBit 5
def State.groupExempt (s : State) (c g : Nat) : Bool := (field (s.groupBytes c g) 4 1).testBit 6

/-- Set or clear a bit of descriptor byte 4. -/
def State.setGroupBit (s : State) (c g b : Nat) (v : Bool) : State :=
  s.wr (s.groupAddr c g + 4) (leBytes 1 (setBits (field (s.groupBytes c g) 4 1) b 1 (bit v)))

/-- The groups of a context that are frozen now. -/
def State.frozenNow (s : State) (c : Nat) : List Nat := (List.range (s.cert c).groupCount).filter (fun g => s.groupFrozen c g)

/-! ### Commands (R55, R274) -/

/-- Show the queue in RED_SM_STS. -/
def State.syncSmq (s : State) : State :=
  (s.setFld RegF.redSmStsPending s.smq.length).setFld RegF.redSmStsFull (bit (decide (32 ≤ s.smq.length)))

/-- Queue a command: an invalid one sets BAD, a valid one on a full queue sets DROPPED. -/
def State.queueSm (s : State) (valid : Bool) (x : SmCmd) : State :=
  if ¬ valid then s.setFld RegF.redSmStsBad 1
  else if 32 ≤ s.smq.length then s.setFld RegF.redSmStsDropped 1
  else ({ s with smq := s.smq ++ [x] } : State).syncSmq

/-- The entry of a scale-manager command is below ENTRY_COUNT of an admitted program. -/
def State.smValid (s : State) (c entry : Nat) : Bool :=
  match s.prog c with
  | some p => decide (entry < p.sm.entries.length)
  | none => false

/-- The group of a group command is below the program's group count. -/
def State.grpValid (s : State) (c g : Nat) : Bool :=
  match s.prog c with
  | some p => p.cert.groupTable.isSome && decide (g < p.cert.groupCount)
  | none => false

/-- Apply one command. -/
def State.applySm (s : State) (x : SmCmd) : State :=
  let up := fun (f : SmEntry → SmEntry) => s.updProg x.ctx (fun p =>
    { p with sm := { p.sm with entries := p.sm.entries.zipIdx.map (fun y => if y.2 = x.entry then f y.1 else y.1) } })
  match x.op with
  | .clearFlags => up (fun e => { e with nonfinite := false, saturated := false })
  | .setScale a => up (fun e => { e with scale := a })
  | .resetHistory => up (fun e => { e with hcount := 0 })
  | .setHeadroom h => up (fun e => { e with headroom := h })
  | .freeze => s.setGroupBit x.ctx x.entry 5 true
  | .thaw => s.setGroupBit x.ctx x.entry 5 false
  | .exempt => s.setGroupBit x.ctx x.entry 6 true
  | .unexempt => s.setGroupBit x.ctx x.entry 6 false

/-- A context's queued commands take effect, oldest first. -/
def State.applySmq (s : State) (c : Nat) : State :=
  let mine := s.smq.filter (fun x => x.ctx == c)
  let s := overList mine (fun x s => s.applySm x) s
  ({ s with smq := s.smq.filter (fun x => x.ctx != c) } : State).syncSmq

/-- A context's queued commands are discarded at unload (R55). -/
def State.dropSmq (s : State) (c : Nat) : State :=
  let some' := s.smq.any (fun x => x.ctx == c)
  let s := ({ s with smq := s.smq.filter (fun x => x.ctx != c) } : State).syncSmq
  if some' then s.setFld RegF.redSmStsDropped 1 else s

/-- The scale manager's part of a step-end mark (R52, R53): each entry, the queued commands, STEP, and the write-back. -/
def State.markScales (s : State) (c : Nat) : State :=
  let s := s.updProg c (fun p =>
    { p with sm := { p.sm with entries := p.sm.entries.zipIdx.map (fun x =>
               let r := Tbl.get {} p.merged x.2
               x.1.mark (if r.made then some r else none) p.sm.step) },
             merged := [] })
  let s := s.applySmq c
  let s := s.updProg c (fun p => { p with sm := { p.sm with step := (p.sm.step + 1) % 2 ^ 32 } })
  match s.prog c with
  | some p => if p.cert.smTable.isSome then s.writeSmTable p.sm else s
  | none => s

/-- Hand a completed task's reports to the scale manager (R50). -/
def State.handReports (s : State) (c t : Nat) : State :=
  let reps := (s.rt c t).rep
  s.updProg c (fun p =>
    reps.foldl (fun p x => { p with sm := p.sm.stick x.1 x.2,
                                    merged := if x.1 = 0xFFFF then p.merged else Tbl.upd {} p.merged x.1 (fun y => y.merge x.2) }) p)

end Sys2Proof.Machine
end

