-- ==== Sys2Proof/Machine/LedgerOps.lean ====
section
/-! DEFINITION. The ledger reduction (spec/09_ledger_reduction_update.md): chunks and their headers, the merges, the step summary, the
verdict, the ledger state record, the constants of an update and telemetry. -/

namespace Sys2Proof.Machine

/-! ### Geometry (R246, R252) -/

/-- m = ⌈log2 LOCAL_ADDS⌉. -/
def LedgerEntry.m (l : LedgerEntry) : Nat := clog2 l.localAdds
def LedgerEntry.chunks (l : LedgerEntry) : Nat := ceilDiv l.elements 2048
def LedgerEntry.chunkElems (l : LedgerEntry) (j : Nat) : Nat := min 2048 (l.elements - 2048 * j)

/-- The first chunk that rank r owns. -/
def LedgerEntry.ownFrom (l : LedgerEntry) (r : Nat) : Nat := ceilDiv (r * l.chunks) (max 1 l.devices)
def LedgerEntry.owns (l : LedgerEntry) (j : Nat) : Bool :=
  decide (l.ownFrom l.rank ≤ j ∧ j < l.ownFrom (l.rank + 1) ∧ j < l.chunks)
def LedgerEntry.owned (l : LedgerEntry) : List Nat :=
  (List.range (l.ownFrom (l.rank + 1) - l.ownFrom l.rank)).map (fun i => l.ownFrom l.rank + i)
def LedgerEntry.localAddr (l : LedgerEntry) (j : Nat) : Nat := l.localBase + 8 * (2048 * j)
def LedgerEntry.shardAddr (l : LedgerEntry) (j : Nat) : Nat := l.shardBase + 8 * (2048 * (j - l.ownFrom l.rank))
def LedgerEntry.cstatAddr (l : LedgerEntry) (j : Nat) : Nat := l.cstatBase + 16 * j
def LedgerEntry.covers (l : LedgerEntry) (g : Nat) : Bool := decide (l.groupFirst ≤ g ∧ g < l.groupFirst + l.groupCount)
def LedgerEntry.groups (l : LedgerEntry) : List Nat := (List.range l.groupCount).map (fun i => l.groupFirst + i)

/-! ### Headers and their merges (R137, R250, R252) -/

/-- The lesser of two (NFINDEX, NFDEV) pairs, compared first by NFINDEX. -/
def nfLeast (a b : Nat × Nat) : Nat × Nat := if a.1 < b.1 ∨ (a.1 = b.1 ∧ a.2 ≤ b.2) then a else b

/-- Merge two headers by the merges of R252. -/
def ChunkHdr.merge (a b : ChunkHdr) : ChunkHdr :=
  { contribs := a.contribs + b.contribs, flags := a.flags ||| b.flags, cbreach := a.cbreach || b.cbreach,
    excess := max a.excess b.excess, cexcess := max a.cexcess b.cexcess, nfcount := satAdd 32 a.nfcount b.nfcount,
    nfindex := (nfLeast (a.nfindex, a.nfdev) (b.nfindex, b.nfdev)).1, expmax := max a.expmax b.expmax,
    nfdev := (nfLeast (a.nfindex, a.nfdev) (b.nfindex, b.nfdev)).2 }

/-- Bytes 16 to 31 of a chunk header: a chunk status record. -/
def ChunkHdr.record (h : ChunkHdr) : List Byte :=
  leBytes 1 (h.flags.toNat + 16 * bit h.cbreach) ++ leBytes 1 h.excess ++ leBytes 1 h.cexcess ++ leBytes 1 0 ++
    leBytes 4 h.nfcount ++ leBytes 6 h.nfindex ++ leBytes 2 (unsigned 16 h.expmax)

def ChunkHdr.ofRecord (b : List Byte) : ChunkHdr :=
  { flags := BitVec.ofNat 4 (field b 0 1), cbreach := (field b 0 1).testBit 4, excess := field b 1 1, cexcess := field b 2 1,
    nfcount := field b 4 4, nfindex := field b 8 6, expmax := signed 16 (field b 14 2) }

/-- The 64 bytes of a chunk header (R252). -/
def ChunkHdr.bytes (h : ChunkHdr) (round : Nat) (scale : Int) (step j elems : Nat) : List Byte :=
  leBytes 1 0x0F ++ leBytes 1 round ++ leBytes 2 (unsigned 16 scale) ++ leBytes 4 step ++ leBytes 4 j ++ leBytes 2 elems ++
    leBytes 2 h.contribs ++ h.record ++ leBytes 2 h.nfdev ++ leBytes 30 0

def ChunkHdr.ofBytes (b : List Byte) : ChunkHdr :=
  { ChunkHdr.ofRecord (b.drop 16) with contribs := field b 14 2, nfdev := field b 32 2 }

/-- A chunk status record of an engine's ledger status and flag word (R137, R249). -/
def LedStat.hdr (l : LedStat) (flags : BitVec 4) : ChunkHdr :=
  { flags := flags, excess := l.excess, nfcount := l.nfcount, nfindex := l.nfindex, expmax := l.expmax }

/-- Merge a status into the record of chunk j (R249, R250). -/
def State.mergeCstat (s : State) (l : LedgerEntry) (j : Nat) (h : ChunkHdr) : State :=
  s.wr (l.cstatAddr j) (((ChunkHdr.ofRecord (s.rd (l.cstatAddr j) 16)).merge h).record)

/-- Write every record of an entry back to the clear values (R250). -/
def State.clearCstat (s : State) (l : LedgerEntry) : State :=
  overList (List.range l.chunks) (fun j s => s.wr (l.cstatAddr j) ({} : ChunkHdr).record) s

/-! ### Contributions (R253, R260) -/

/-- The integer of an LI64 code. -/
def li64 (x : Nat) : Int := signed 64 x

/-- RNE(q · 2^−d). -/
def shiftRne (q : Int) (d : Nat) : Int :=
  let m := roundMag 0 0 q.natAbs (-(d : Int)) false 0
  if q < 0 then -(m : Int) else m

/-- CEXCESS of the elements sent: the largest ⌊log2 |y|⌋ − 50 among those with |y| ≥ 2^51, else 0. -/
def cexcessOf (l : List Int) : Nat :=
  l.foldl (fun m y => if 2 ^ 51 ≤ y.natAbs then max m (Nat.log2 y.natAbs - 50) else m) 0
def cbreachOf (l : List Int) : Bool := l.any (fun y => decide (2 ^ 51 ≤ y.natAbs))

/-- The contribution of this device to chunk j at the round's scale. -/
def State.contribution (s : State) (l : LedgerEntry) (j : Nat) (shift : Nat) : ChunkHdr × List Nat :=
  let q := (List.range (l.chunkElems j)).map (fun i => li64 (leNat (s.rd (l.localAddr j + 8 * i) 8)))
  let y := if shift = 0 then q else q.map (fun x => shiftRne x shift)
  let r := ChunkHdr.ofRecord (s.rd (l.cstatAddr j) 16)
  ({ r with contribs := 1, cbreach := cbreachOf y, cexcess := cexcessOf y, nfdev := if r.nfcount = 0 then 0xFFFF else l.rank },
    y.map (fun x => unsigned 64 x))

/-- Add a contribution to a chunk: headers merge, elements add modulo 2^w (R254, R264). The first gives the scale exponent, and one with
another is dropped, for elements with different exponents are never added (R29; DESIGN CHOICE, log 129). -/
def ChunkAcc.add (w : Nat) (a : ChunkAcc) (h : ChunkHdr) (scale : Int) (elems : List Nat) : ChunkAcc :=
  if a.elems.isEmpty then { a with hdr := a.hdr.merge h, scale := scale, elems := elems }
  else if a.scale ≠ scale then a
  else { a with hdr := a.hdr.merge h, elems := List.zipWith (fun x y => (x + y) % 2 ^ w) a.elems elems }

/-- ⌊Σ y² / 2^64⌋ of the reduced elements (R257). -/
def normValue (elems : List Nat) : Nat := (elems.map (fun x => (li64 x).natAbs ^ 2)).sum / 2 ^ 64

/-! ### The step summary (R257, R258) -/

def Summary.addChunk (t : Summary) (h : ChunkHdr) (norm : Nat) : Summary :=
  { t with normSq := t.normSq + BitVec.ofNat 96 norm, flags := t.flags ||| h.flags, cbreach := t.cbreach || h.cbreach,
           excess := max t.excess h.excess, cexcess := max t.cexcess h.cexcess,
           nexcess := max t.nexcess (if 2 ^ 63 ≤ norm then Nat.log2 norm - 62 else 0),
           nfcount := satAdd 32 t.nfcount h.nfcount,
           nfindex := (nfLeast (t.nfindex, t.nfdev) (h.nfindex, h.nfdev)).1, expmax := max t.expmax h.expmax,
           nfdev := (nfLeast (t.nfindex, t.nfdev) (h.nfindex, h.nfdev)).2 }

def Summary.merge (a b : Summary) : Summary :=
  { a with normSq := a.normSq + b.normSq, flags := a.flags ||| b.flags, cbreach := a.cbreach || b.cbreach,
           excess := max a.excess b.excess, cexcess := max a.cexcess b.cexcess, nexcess := max a.nexcess b.nexcess,
           nfcount := satAdd 32 a.nfcount b.nfcount, nfindex := (nfLeast (a.nfindex, a.nfdev) (b.nfindex, b.nfdev)).1,
           expmax := max a.expmax b.expmax, nfdev := (nfLeast (a.nfindex, a.nfdev) (b.nfindex, b.nfdev)).2 }

def Summary.bytes (t : Summary) : List Byte :=
  leBytes 12 t.normSq.toNat ++ leBytes 1 (t.flags.toNat + 16 * bit t.cbreach) ++ leBytes 1 t.excess ++ leBytes 1 t.cexcess ++
    leBytes 1 t.nexcess ++ leBytes 4 t.nfcount ++ leBytes 6 t.nfindex ++ leBytes 2 (unsigned 16 t.expmax) ++ leBytes 2 t.nfdev ++
    leBytes 1 t.round ++ leBytes 1 0 ++ leBytes 4 t.step ++ leBytes 28 0

def Summary.ofBytes (b : List Byte) : Summary :=
  { normSq := BitVec.ofNat 96 (field b 0 12), flags := BitVec.ofNat 4 (field b 12 1), cbreach := (field b 12 1).testBit 4,
    excess := field b 13 1, cexcess := field b 14 1, nexcess := field b 15 1, nfcount := field b 16 4, nfindex := field b 20 6,
    expmax := signed 16 (field b 26 2), nfdev := field b 28 2, round := field b 30 1 % 4, step := field b 32 4 }

/-! ### The verdict (R259 to R261, R263) -/

inductive Verdict where
  | update
  | skip (st : Status)
  | again (scale : Int)
  deriving DecidableEq, Repr

/-- The first row of R259 whose condition holds, at the round's scale s. -/
def LedgerEntry.verdict (l : LedgerEntry) (t : Summary) (s : Int) : Verdict :=
  if 0 < t.nfcount then .skip .skippedNonfinite
  else if 12 < t.excess + l.m then .skip .skippedBreach
  else if t.cbreach ∨ 0 < t.nexcess then
    let s' := s + (max t.cexcess (ceilDiv t.nexcess 2) + l.headroom : Nat)
    if t.round = 3 ∨ 2047 < s' then .skip .rescaleLimit else .again s'
  else .update

/-- The scale of the next step (R263). -/
def LedgerEntry.nextScale (l : LedgerEntry) (expmax lscale : Int) : Int :=
  if expmax = -32768 then lscale else max (-2048) (min 2047 (expmax + l.m + l.headroom - 50))

/-- Σ = NORM_SQ · 2^(2s + 64). -/
def Summary.sigma (t : Summary) (s : Int) : Dy := { m := t.normSq.toNat, e := 2 * s + 64 }

/-- NORM: √Σ rounded once into F64. -/
def Summary.norm (t : Summary) (s : Int) : BitVec 64 := BitVec.ofNat 64 ((fSqrt (.fin (t.sigma s))).pack f64 0)

/-- √(a / b) for non-zero a and b, as an exact prefix with a sticky part. -/
def sqrtRatio (a b : Dy) : Exact :=
  let e := a.e - b.e
  let odd := (e % 2).toNat
  let k := guardBits + Nat.log2 (b.m + 1)
  let q := a.m * 2 ^ odd * 2 ^ (2 * k) / b.m
  let r := isqrt q
  .fin ⟨false, r, (e - odd) / 2 - k⟩ (r * r * b.m != a.m * 2 ^ odd * 2 ^ (2 * k))

/-- CLIP: 1.0, or MAX_NORM ÷ √Σ rounded once into F32. -/
def LedgerEntry.clip (l : LedgerEntry) (t : Summary) (s : Int) : BitVec 32 :=
  match f32.value l.maxNorm.toNat with
  | .fin d =>
    let dd := d.mul d
    if d.m = 0 ∨ ¬ dd.lt (t.sigma s) then 0x3F800000
    else BitVec.ofNat 32 ((sqrtRatio dd (t.sigma s)).pack f32 0)
  | _ => 0x3F800000

/-! ### The ledger state record (R248) -/

def LedgerRt.ofBytes (b : List Byte) : LedgerRt :=
  { step := field b 0 4, lscale := signed 16 (field b 4 2), lscaleNext := signed 16 (field b 6 2), rscale := signed 16 (field b 8 2),
    round := field b 10 1 % 4, outcome := field b 11 1, norm := BitVec.ofNat 64 (field b 16 8), clip := BitVec.ofNat 32 (field b 24 4),
    telDrops := field b 28 4, sum := Summary.ofBytes ((b.drop 32).take 32) }

def LedgerRt.bytes (x : LedgerRt) : List Byte :=
  leBytes 4 x.step ++ leBytes 2 (unsigned 16 x.lscale) ++ leBytes 2 (unsigned 16 x.lscaleNext) ++
    leBytes 2 (unsigned 16 x.rscale) ++ leBytes 1 x.round ++ leBytes 1 x.outcome ++ leBytes 4 0 ++ leBytes 8 x.norm.toNat ++
    leBytes 4 x.clip.toNat ++ leBytes 4 x.telDrops ++ x.sum.bytes.take 32

def State.ledger (s : State) (c le : Nat) : LedgerRt := nth {} ((s.prog c).getD {}).ledgers le
def State.ledgerEnt (s : State) (c le : Nat) : LedgerEntry := nth {} (s.cert c).ledgers le

def State.setLedger (s : State) (c le : Nat) (x : LedgerRt) : State :=
  s.updProg c (fun p => { p with ledgers := setNth p.ledgers le x })

/-- Keep a ledger's state and write its record to memory. -/
def State.putLedger (s : State) (c le : Nat) (x : LedgerRt) : State :=
  (s.setLedger c le x).wr (s.ledgerEnt c le).stateBase x.bytes

/-- The chunk accumulators are kept by turn · 2^32 + chunk, where a turn is a round of a step: another device may be a turn ahead. -/
def accKey (turn j : Nat) : Nat := turn * 2 ^ 32 + j
def LedgerRt.turn (x : LedgerRt) : Nat := 4 * x.step + x.round

/-- A chunk whose contributions are complete is reduced: the owner writes its elements to the shard and forms its norm value
(R254, R257). -/
def State.addContribution (s : State) (c le turn j : Nat) (h : ChunkHdr) (scale : Int) (elems : List Nat) : State :=
  let l := s.ledgerEnt c le
  let x := s.ledger c le
  let a := (Tbl.get {} x.chunks (accKey turn j)).add 64 h scale elems
  let full := l.owns j && a.hdr.contribs == l.devices
  let a := if full then { a with reduced := true, norm := normValue a.elems } else a
  let s := s.setLedger c le { x with chunks := Tbl.set {} x.chunks (accKey turn j) a }
  if full then s.wr (l.shardAddr j) ((a.elems.map (leBytes 8)).flatten) else s

/-- This device adds its own contribution to every chunk it owns, for the round that begins (R253, R260). -/
def State.ownContributions (s : State) (c le : Nat) : State :=
  let l := s.ledgerEnt c le
  let x := s.ledger c le
  overList l.owned (fun j s =>
    let k := s.contribution l j (x.roundScale - x.lscale).toNat
    s.addContribution c le x.turn j k.1 x.roundScale k.2) s

/-- Every chunk that this device owns is reduced in the present round. -/
def State.allReduced (s : State) (c le : Nat) : Bool :=
  let x := s.ledger c le
  (s.ledgerEnt c le).owned.all (fun j => (Tbl.get {} x.chunks (accKey x.turn j)).reduced)

/-- The summary of the owner's chunks in the present round, merged with the children's (R258, R320). -/
def State.ownSummary (s : State) (c le : Nat) : Summary :=
  let x := s.ledger c le
  let own := (s.ledgerEnt c le).owned.foldl (fun (t : Summary) j =>
    let a := Tbl.get {} x.chunks (accKey x.turn j)
    t.addChunk a.hdr a.norm) {}
  { own.merge x.kids with round := x.round, step := x.step }

/-- The accesses of a ledger task to its tables (R367): reads of the local buffer and of the chunk status records, which a mark writes back,
writes of the shard, and the state record. -/
def State.ledgerAccesses (s : State) (c le : Nat) : List (Bool × Nat × Nat) :=
  let l := s.ledgerEnt c le
  let cs := List.range l.chunks
  cs.map (fun j => (false, l.localAddr j, 8 * l.chunkElems j)) ++ cs.map (fun j => (false, l.cstatAddr j, 16)) ++
    cs.map (fun j => (true, l.cstatAddr j, 16)) ++ l.owned.map (fun j => (true, l.shardAddr j, 8 * l.chunkElems j)) ++ [(true, l.stateBase, 64)]

/-- The first of them that the context's domain does not allow. -/
def State.ledgerFail (s : State) (c le : Nat) (old : Bool) : Option Nat :=
  ((s.ledgerAccesses c le).find? (fun r => !s.allows c old r.1 r.2.1 r.2.2)).map (fun r => r.2.1)

/-- The reduction group of a ledger entry. -/
def Cert.redGroup (k : Cert) (g : Nat) : RedGroup := (k.groups.find? (fun x => x.number == g)).getD {}

/-! ### Group descriptors after a step (R262, R268, R269) -/

def State.setLastStatus (s : State) (c g : Nat) (st : Nat) : State := s.wr (s.groupAddr c g + 14) (leBytes 1 st)

/-- The constants of an update (R150, R268): t, P1 and P2 as F64 codes, and STEP, BC1, BC2 and CLIP as F32 codes. -/
structure UpdConst where
  t : Nat
  p1 : Nat
  p2 : Nat
  step : Nat
  bc1 : Nat
  bc2 : Nat
  clip : Nat
  deriving DecidableEq, Repr

/-- 1 − P rounded once into F32. -/
def biasCorrection (p : Nat) : Nat := (fAdd (.fin ⟨false, 1, 0⟩) (f64.value p).negate).pack f32 0

def State.updConst (s : State) (c g le : Nat) : UpdConst :=
  let b := s.groupBytes c g
  let t := (field b 0 4 + 1) % 2 ^ 32
  let p1 := (fMulX (f64.value (field b 48 8)) (f64.value (field b 32 8))).exact.pack f64 0
  let p2 := (fMulX (f64.value (field b 56 8)) (f64.value (field b 40 8))).exact.pack f64 0
  { t := t, p1 := p1, p2 := p2, step := (XVal.fin ⟨false, t, 0⟩).exact.pack f32 0, bc1 := biasCorrection p1, bc2 := biasCorrection p2,
    clip := if s.groupExempt c g then 0x3F800000 else (s.ledger c le).clip.toNat }

/-- The ledger entry that covers a group. -/
def State.ledgerOf (s : State) (c g : Nat) : Option Nat := indexFrom (fun l => LedgerEntry.covers l g) (s.cert c).ledgers 0

/-- The group descriptor after every update job of the group completed with OK (R268); FWD_SCALE is 0 for a group without a scale-manager
entry. The ledger keeps the descriptor as it was until the step ends. -/
def State.groupUpdated (s : State) (c g : Nat) : State :=
  match s.ledgerOf c g with
  | none => s
  | some le =>
    let u := s.updConst c g le
    let b := s.groupBytes c g
    let fwd := match ((s.prog c).getD {}).sm.entries[field b 6 2]? with | some e => if field b 6 2 = 0xFFFF then 0 else e.scale | none => 0
    let a := s.groupAddr c g
    let s := s.setLedger c le { s.ledger c le with undo := Tbl.set [] (s.ledger c le).undo g b }
    let s := ((s.wr a (leBytes 4 u.t)).wr (a + 8) (leBytes 2 (unsigned 16 fwd))).wr (a + 14) (leBytes 1 0)
    (s.wr (a + 48) (leBytes 8 u.p1)).wr (a + 56) (leBytes 8 u.p2)

/-- An abort mark reaches a device that has updated groups in the step: their STEP_COUNT, B1POW and B2POW are again as before it, and
LAST_STATUS takes the status (R269). -/
def State.undoUpdates (s : State) (c le : Nat) (st : Nat) : State :=
  let x := s.ledger c le
  let s := overList x.undo (fun g s =>
    let a := s.groupAddr c g.1
    ((s.wr a (g.2.take 4)).wr (a + 48) ((g.2.drop 48).take 16)).setLastStatus c g.1 st) s
  s.setLedger c le { x with undo := [] }

/-! ### Telemetry (R272, R273) -/

/-- Limit a telemetry integer to ±(2^63 − 1), and tell whether it was limited. -/
def telLimit (q : Nat) : Nat × Bool := if q ≤ 2 ^ 63 - 1 then (q, false) else (2 ^ 63 - 1, true)

/-- RNE(x · 2^−e) as a magnitude, limited: an infinity is limited, and a NaN has no value and adds nothing, but counts as limited (log 119). -/
def telPart (x : XVal) (e : Int) : Nat × Bool :=
  match x with
  | .fin d => telLimit (roundMag 0 0 d.m (d.e - e) false 0)
  | .inf _ => (2 ^ 63 - 1, true)
  | .nan => (0, true)

/-- The difference of a new and an old master. -/
def telDiff (new old : XVal) : XVal :=
  match new, old with
  | .fin b, .fin a => .fin (b.add a.neg')
  | .nan, _ => .nan
  | _, .nan => .nan
  | .inf n, .fin _ => .inf n
  | .fin _, .inf n => .inf (!n)
  | .inf n, .inf k => if n = k then .nan else .inf n

/-- Add one record's old and new master to its group's sums. -/
def State.telAdd (s : State) (c g : Nat) (old new : XVal) : State :=
  match s.ledgerOf c g with
  | none => s
  | some le =>
    let d := s.groupBytes c g
    let w := telPart new (signed 16 (field d 10 2))
    let e := telPart (telDiff new old) (signed 16 (field d 12 2))
    let x := s.ledger c le
    s.setLedger c le { x with telW := Tbl.upd 0 x.telW g (fun y => y + w.1 * w.1), telD := Tbl.upd 0 x.telD g (fun y => y + e.1 * e.1),
                              telOvf := if (w.2 || e.2) && !x.telOvf.contains g then g :: x.telOvf else x.telOvf,
                              telRecs := Tbl.upd 0 x.telRecs g (fun y => y + 1) }

/-- A 192-bit total as LI96 at scale 2 · TSCALE + 64, limited. -/
def telTotal (x : Nat) : Nat × Bool := if x / 2 ^ 64 < 2 ^ 95 then (x / 2 ^ 64, false) else (2 ^ 95 - 1, true)

/-- Write the telemetry records of a ledger step, one for each group in order; a record that finds the ring full is dropped. -/
def State.telemetry (s : State) (c le : Nat) : State :=
  match (s.cert c).tel with
  | none => s
  | some r =>
    let l := s.ledgerEnt c le
    let s := overList l.groups (fun g s =>
      let x := s.ledger c le
      let seq := ((s.prog c).getD {}).telSeq
      if 2 ^ r.order ≤ seq - leNat (s.hrd r.cons 8) then s.setLedger c le { x with telDrops := satAdd 32 x.telDrops 1 }
      else
        let b := s.groupBytes c g
        let skip := x.outcome != 0
        let w := if skip then (0, false) else telTotal (Tbl.get 0 x.telW g)
        let d := if skip then (0, false) else telTotal (Tbl.get 0 x.telD g)
        let rec' := leBytes 4 g ++ leBytes 4 (field b 0 4) ++ leBytes 1 x.outcome ++ leBytes 1 x.sum.round ++
          leBytes 2 (field b 10 2) ++ leBytes 2 (field b 12 2) ++
          leBytes 1 (bit (!skip && (w.2 || d.2 || x.telOvf.contains g))) ++ leBytes 1 0 ++ leBytes 12 w.1 ++ leBytes 12 d.1 ++
          leBytes 8 (if skip then 0 else Tbl.get 0 x.telRecs g) ++ leBytes 8 0 ++ leBytes 8 (seq % 2 ^ 63 + 2 ^ 63)
        (s.hwr (r.base + 64 * (seq % 2 ^ r.order)) rec').updProg c (fun p => { p with telSeq := p.telSeq + 1 })) s
    let x := s.ledger c le
    s.putLedger c le { x with telW := [], telD := [], telOvf := [], telRecs := [], telDue := false }

end Sys2Proof.Machine
end

