-- ==== Sys2Proof/Machine/LinkOps.lean ====
section
/-! DEFINITION. The link layer and the transport (spec/11_ralda_link.md R309 to R322): messages and flits, sequence numbers, credits and
replay, taking the next message from a port, forwarding, and the receive queues. -/

namespace Sys2Proof.Machine

/-! ### Messages (R314) -/

def kWrite : Nat := 1
def kMcast : Nat := 2
def kReduce : Nat := 3
def kCredit : Nat := 4
def kDetach : Nat := 5
def kRecall : Nat := 6
def kArrive : Nat := 7
def kToken : Nat := 8
def kSync : Nat := 9
def kSmall : Nat := 10
def kAbort : Nat := 11

def Msg.bytes (m : Msg) : List Byte :=
  leBytes 1 (m.kind + 16 * m.hops) ++ leBytes 1 (m.hop + 8 * m.dstWing) ++ leBytes 2 m.srcDev ++ leBytes 2 m.dstDev ++
    leBytes 2 m.queue ++ leBytes 3 m.route.toNat ++ leBytes 1 0 ++ leBytes 2 m.op ++ leBytes 2 m.payload.length ++
    leBytes 4 m.index ++ leBytes 4 m.count ++ leBytes 8 m.time ++ m.payload

def Msg.ofBytes (b : List Byte) : Msg :=
  { kind := field b 0 1 % 16, hops := field b 0 1 / 16, hop := field b 1 1 % 8, dstWing := field b 1 1 / 8 % 4,
    srcDev := field b 2 2, dstDev := field b 4 2, queue := field b 6 2 % 64, route := BitVec.ofNat 20 (field b 8 3),
    op := field b 12 2, index := field b 16 4, count := field b 20 4, time := field b 24 8,
    payload := (b.drop 32).take (field b 14 2 % 2 ^ 15) }

/-- The output port of link i. -/
def Msg.port (m : Msg) (i : Nat) : Nat := bits m.route.toNat (4 * i) 4

/-- The traffic class of a kind: WRITE, MCAST, REDUCE and RECALL travel in TC0, every other kind in TC1 (R314, log 18). -/
def msgClass (kind : Nat) : Nat := if kind = 1 ∨ kind = 2 ∨ kind = 3 ∨ kind = 6 then 0 else 1

/-- The payload of an ABORT: status, 1 for a mark of R256 and 0 for an abort of R321, and the rank of a mark (log 19). -/
def abortPayload (st : Status) (rank : Nat) (mark : Bool := false) : List Byte := leBytes 1 st.code ++ leBytes 1 (bit mark) ++ leBytes 2 rank

/-! ### Flits (R310 to R312) -/

def flitPayload : Nat := 304

/-- The 320 bytes of a flit. -/
def flitBytes (kind seq ack : Nat) (nak : Bool) (cr0 cr1 : Nat) (pay : List Byte) : List Byte :=
  let b := leBytes 2 (kind + 16 * seq) ++ leBytes 2 (ack + 4096 + 8192 * bit nak) ++ leBytes 1 cr0 ++ leBytes 1 cr1 ++ leBytes 2 0 ++
    pad flitPayload pay
  b ++ leBytes 8 (crc64.of b)

/-- A port is up at full or half width. -/
def State.portUp (s : State) (p : Nat) : Bool := s.fld RegF.lnkStsState p == 2 || s.fld RegF.lnkStsState p == 3

def Port.emit (x : Port) (f : List Byte) : Port :=
  { x with flits := x.flits ++ [f], owe0 := x.owe0 - min 255 x.owe0, owe1 := x.owe1 - min 15 x.owe1 }

/-- Send a sequenced flit of a class, or with 2 a control flit: it spends a credit of its class and is kept for replay. -/
def State.sendSeq (s : State) (p cls : Nat) (pay : List Byte) : State :=
  let x := s.lport p
  let f := flitBytes (cls + 1) x.txSeq x.rxSeq x.discard (min 255 x.owe0) (min 15 x.owe1) pay
  let y := { x.emit f with txSeq := (x.txSeq + 1) % 4096, replay := (x.replay ++ [f]).drop (x.replay.length + 1 - 1024),
                           cr0 := if cls = 0 then x.cr0 - 1 else x.cr0, cr1 := if cls = 1 then x.cr1 - 1 else x.cr1,
                           flitCount := x.flitCount + 1 }
  let s := s.setPort p y
  if y.flitCount % 1024 = 0 then s.incFld RegF.lnkCntFlits 1 p else s

/-- Send an IDLE flit, which carries ACK, a NAK and credits owed. -/
def State.sendIdle (s : State) (p : Nat) (nak : Bool) : State :=
  let x := s.lport p
  s.setPort p (x.emit (flitBytes 0 0 x.rxSeq nak (min 255 x.owe0) (min 15 x.owe1) []))

/-- The task whose bytes wait has a send slot on the port, or its program has gone; control and transit traffic uses slots of its own
(R309, R315; log 99). -/
def State.waitSlot (s : State) (p : Nat) (o : Option (Nat × Nat)) : Bool :=
  match o with
  | some (c, t) => (s.prog c).isNone || s.hasSlot (s.asker c t (uPort p)) (.linkSend p)
  | none => true

/-- Bytes join those that wait for flits of their class: they are packed end to end with the last ones of the same task (R310). -/
def joinWait (l : List (Option (Nat × Nat) × List Byte)) (o : Option (Nat × Nat)) (b : List Byte) : List (Option (Nat × Nat) × List Byte) :=
  match l.getLast? with
  | some x => if x.1 = o then l.dropLast ++ [(o, x.2 ++ b)] else l ++ [(o, b)]
  | none => [(o, b)]

def Port.waiting (x : Port) (cls : Nat) : List (Option (Nat × Nat) × List Byte) := if cls = 0 then x.wait0 else x.wait1
def Port.setWaiting (x : Port) (cls : Nat) (l : List (Option (Nat × Nat) × List Byte)) : Port :=
  if cls = 0 then { x with wait0 := l } else { x with wait1 := l }

/-- Send waiting bytes of a class in order, as far as there are credits and slots; the last flit of them is filled with zero bytes (log 17). -/
def State.pumpClass (s : State) (p cls : Nat) : Nat → State
  | 0 => s
  | n + 1 =>
    let x := s.lport p
    match x.waiting cls with
    | [] => s
    | (o, b) :: l =>
      if (if cls = 0 then x.cr0 else x.cr1) = 0 ∨ ¬ s.waitSlot p o then s
      else
        let r := b.drop flitPayload
        ((s.setPort p (x.setWaiting cls (if r.isEmpty then l else (o, r) :: l))).sendSeq p cls (b.take flitPayload)).pumpClass p cls n

/-- Flits that the waiting bytes of a class may need. -/
def Port.waitFlits (x : Port) (cls : Nat) : Nat := ((x.waiting cls).map (fun y => y.2.length / flitPayload + 1)).sum

/-- Send what waits on a port: first the flits to be replayed, then each class. While a lane is being replaced flits are held (R306). -/
def State.pump (s : State) (p : Nat) : State :=
  let x := s.lport p
  if ¬ x.replacing.isEmpty then s
  else
    let s := if x.resend.isEmpty then s else s.setPort p { x with flits := x.flits ++ x.resend, resend := [] }
    let s := s.pumpClass p 1 (x.waitFlits 1)
    s.pumpClass p 0 (x.waitFlits 0)

/-- Hand a message to a port that is up, for a task where one sends it; a message for a port that is down goes nowhere (R308). -/
def State.sendMsg (s : State) (p : Nat) (m : Msg) (owner : Option (Nat × Nat) := none) : State :=
  if ¬ s.portUp p then s
  else
    let x := s.lport p
    let k := msgClass m.kind
    (s.setPort p (x.setWaiting k (joinWait (x.waiting k) owner m.bytes))).pump p

/-- Send a message of this device on the first link of its route. -/
def State.originate (s : State) (m : Msg) (owner : Option (Nat × Nat) := none) : State :=
  s.sendMsg (m.port 0) { m with hop := 1, srcDev := s.fld RegF.glbLinkCfgDevId } owner

/-! ### Taking a message -/

/-- Drop the zero bytes that fill a flit after the end of a message. -/
def dropFill : List (List Byte) → Nat → List (List Byte) × Nat
  | [], n => ([], n)
  | f :: r, n => if (field f 0 1) % 16 = 0 then dropFill r (n + 1) else (f :: r, n)

/-- Drop n bytes; the second part counts flits used up. -/
def dropBytes : Nat → List (List Byte) → Nat → List (List Byte) × Nat
  | _, [], k => ([], k)
  | n, f :: r, k => if f.length ≤ n then dropBytes (n - f.length) r (k + 1) else (f.drop n :: r, k)

/-- The next whole message of a stream of flit payloads, the payloads left and the flits used up. -/
def nextMsg (l : List (List Byte)) : Option (Msg × List (List Byte) × Nat) :=
  let a := dropFill l 0
  let b := a.1.flatten
  if b.length < 32 ∨ b.length < 32 + field b 14 2 % 2 ^ 15 then none
  else
    let r := dropBytes (32 + field b 14 2 % 2 ^ 15) a.1 a.2
    some (Msg.ofBytes b, r.1, r.2)

/-- Take the next message of a kind from its class of a port; the credits of its flits are owed to the peer. -/
def State.takeMsg (s : State) (p kind : Nat) : Option (Msg × State) :=
  let x := s.lport p
  let cls := msgClass kind
  match nextMsg (if cls = 0 then x.rx0 else x.rx1) with
  | some (m, l, k) =>
    if m.kind = kind then
      some (m, (s.setPort p (if cls = 0 then { x with rx0 := l, owe0 := x.owe0 + k }
        else { x with rx1 := l, owe1 := x.owe1 + k })).sendIdle p false)
    else none
  | none => none

/-! ### Routes and transit (R315) -/

/-- The route back to a sender over `hops` links: the port of arrival first. The output ports further on are not in the message: a
free value (log 21). -/
def State.backRoute (s : State) (p hops : Nat) : BitVec 20 × State :=
  if hops ≤ 1 then (BitVec.ofNat 20 p, s)
  else
    let f := s.free
    (BitVec.ofNat 20 (p + 16 * (f.1.toNat % 2 ^ 16)), f.2)

/-- Send an ABORT with a status back over the links that a message took. -/
def State.abortBack (s : State) (p : Nat) (m : Msg) (st : Status) : State :=
  let r := s.backRoute p m.hop
  r.2.sendMsg p { kind := kAbort, hops := m.hop, hop := 1, srcDev := s.fld RegF.glbLinkCfgDevId, dstDev := m.srcDev, route := r.1,
                  op := m.op, payload := abortPayload st 0 }

/-- Some admitted program allots transit slots on a port. -/
def State.hasTransit (s : State) (p : Nat) : Bool :=
  s.ctx.any (fun c => match c.2.prog with
    | some g => g.cert.allots.any (fun a => a.res == Resource.linkTransit p)
    | none => false)

/-- A message with links still to take: forwarded, or discarded with an ABORT where the output port has no transit slots. -/
def State.forward (s : State) (p : Nat) (m : Msg) : State :=
  let out := m.port m.hop
  if s.hasTransit out then s.sendMsg out { m with hop := m.hop + 1 } else s.abortBack p m .unitAbsent

/-! ### Senders -/

/-- Tasks that run, by context. -/
def State.runningTasks (s : State) : List (Nat × Nat) :=
  (s.ctx.map (fun c => match c.2.prog with
    | some p => (p.tasks.filter (fun t => t.2.st == .running || t.2.st == .suspended)).map (fun t => (c.1, t.1))
    | none => [])).flatten

/-- The send entries of running tasks that carry an operation. -/
def State.sendsOf (s : State) (op : Nat) : List (Nat × Nat × Nat) :=
  (s.runningTasks.map (fun x => ((List.range (s.task x.1 x.2).sends.length).filter (fun k =>
    (nth {} (s.task x.1 x.2).sends k).op == op)).map (fun k => (x.1, x.2, k)))).flatten

def State.sendSt (s : State) (c t k : Nat) : SendSt := Tbl.get {} (s.rt c t).sends k
def State.setSend (s : State) (c t k : Nat) (x : SendSt) : State := s.updRt c t (fun r => { r with sends := Tbl.set {} r.sends k x })

/-- The receivers of a send entry: its ports for a multicast, else one. -/
def SendEntry.receivers (e : SendEntry) : List Nat :=
  if e.kind = .multicast then (List.range 16).filter (fun p => e.target.testBit p) else [0]

/-- Credits at the start: SLOTS for each receiver (R317). -/
def SendEntry.start (e : SendEntry) : SendSt := { credits := (e.receivers).map (fun p => (p, e.slots)) }

/-- Receivers that are detached. -/
def SendSt.isDetached (x : SendSt) (p : Nat) : Bool := x.detached.any (fun c => c.1 == p)

/-- The route and port of a send entry's messages to a receiver. -/
def SendEntry.out (e : SendEntry) (p : Nat) : Nat := if e.kind = .multicast then p else bits e.route.toNat 0 4

/-- The device at the other end of a port. -/
def State.peer (s : State) (p : Nat) : Nat := s.fld RegF.lnkStsPeerDev p

/-- A message of a send entry to a receiver. -/
def State.sendEntryMsg (s : State) (e : SendEntry) (p kind index : Nat) (pay : List Byte) : Msg :=
  { kind := kind, hops := if e.kind = .multicast then 1 else e.hops, hop := 1, dstWing := e.dstWing,
    srcDev := s.fld RegF.glbLinkCfgDevId, dstDev := if e.kind = .multicast then s.peer p else e.target, queue := e.queue,
    route := if e.kind = .multicast then BitVec.ofNat 20 p else e.route, op := e.op, index := index, payload := pay }

/-- Send a message over the tree of a group to the parent and the children in a set of ports. -/
def State.sendTree (s : State) (ports : List Nat) (m : Msg) : State :=
  overList ports (fun p s => s.sendMsg p { m with hops := 1, hop := 1, route := BitVec.ofNat 20 p, dstDev := s.peer p,
                                                  srcDev := s.fld RegF.glbLinkCfgDevId }) s

def portsOf (m : BitVec 16) : List Nat := (List.range 16).filter (fun p => m.getLsbD p)

/-! ### Receive queues (R316, R317) -/

/-- Credits return to a receiver of a send entry; a recall whose messages are all acknowledged has ended. -/
def State.takeCredit (s : State) (c t k p n : Nat) : State :=
  let e := nth {} (s.task c t).sends k
  let x := s.sendSt c t k
  let cr := min e.slots (Tbl.get 0 x.credits p + n)
  let whole := x.isDetached p && decide (e.slots ≤ cr) && decide (e.count < Tbl.get 0 x.recalling p)
  s.setSend c t k { x with credits := Tbl.set 0 x.credits p cr, recallEnded := if whole then addLine x.recallEnded p else x.recallEnded }

/-- Every message of class TC0 that a port has sent has arrived: none waits, and no flit of them is kept for replay. -/
def Port.delivered (x : Port) : Bool := x.wait0.isEmpty && x.resend.isEmpty && x.replay.all (fun f => field f 0 1 % 16 != 1)

/-- A recall has delivered its last message (R324): every one has been sent, and what the port sent has been acknowledged. -/
def State.recallDone (s : State) (c t k p : Nat) : Bool :=
  let x := s.sendSt c t k
  x.isDetached p && decide ((nth {} (s.task c t).sends k).count < Tbl.get 0 x.recalling p) && (s.lport p).delivered

/-- Return credits for messages of a queue to a sender, given by its device, the port of its messages and their links. The credits of a task of
this device itself come back at once (spec/09 R253). -/
def State.creditTo (s : State) (w q n : Nat) (d : Nat × Nat × Nat) : State :=
  let x := s.rqueue w q
  let own := s.fld RegF.glbLinkCfgDevId
  if n = 0 then s
  else if d.1 = own then
    overList (s.sendsOf x.bind.op) (fun y s =>
      if (nth {} (s.task y.1 y.2.1).sends y.2.2).kind != .multicast && (nth {} (s.task y.1 y.2.1).sends y.2.2).target == own then
        s.takeCredit y.1 y.2.1 y.2.2 0 n
      else s) s
  else
    let r := s.backRoute d.2.1 d.2.2
    r.2.sendMsg d.2.1 { kind := kCredit, hops := d.2.2, hop := 1, srcDev := own, dstDev := d.1, dstWing := w, queue := q, route := r.1,
                        op := x.bind.op, count := n }

/-- Return credits for messages of a queue to the sender of the last one. -/
def State.returnCredit (s : State) (w q n : Nat) : State :=
  let x := s.rqueue w q
  s.creditTo w q n (x.src, x.port, x.hops)

/-- A queue accepts a message. -/
def RQueue.accepts (x : RQueue) (m : Msg) : Bool := x.held && x.bind.op == m.op

/-- A queue notes the sender of a message that it takes by a port. -/
def RQueue.hear (x : RQueue) (p : Nat) (m : Msg) : RQueue :=
  { x with src := m.srcDev, hops := m.hops, port := p, nextIndex := m.index + 1,
           heard := (x.heard.filter (fun y => y.1 != m.srcDev)) ++ [(m.srcDev, p, m.hops)] }

/-- A message for a queue that does not accept it: discarded, with an event record. -/
def State.discardMsg (s : State) (p : Nat) (m : Msg) : State :=
  s.event (uPort p) 0x0108 2 none [(16, 2, m.op), (18, 1, m.queue), (20, 2, m.srcDev)]

/-- The network port of a queue's wing writes the message into the ring in the gallery pairs of the queue's task (R157, R18); a message that the
queue does not accept is discarded without a write. -/
def State.mayDeliver (s : State) (m : Msg) : Bool :=
  let x := s.rqueue m.dstWing m.queue
  !x.accepts m || s.slotted (s.asker x.ctx x.bind.task (uWing m.dstWing)) (x.bind.base + tileBytes * x.wr) m.payload.length

/-- Put a data message into the next slot of its queue; a queue bound to an out-stream fills that stream's slot. -/
def State.deliver (s : State) (p : Nat) (m : Msg) : State :=
  let x := s.rqueue m.dstWing m.queue
  if ¬ x.accepts m ∨ x.bind.slots ≤ x.used then s.discardMsg p m
  else
    let s := s.wr (x.bind.base + tileBytes * x.wr) m.payload
    let s := s.setRq m.dstWing m.queue { x.hear p m with wr := (x.wr + 1) % max 1 x.bind.slots, used := x.used + 1,
                                                         froms := x.froms ++ [(m.srcDev, p, m.hops)] }
    let u := 128 * m.dstWing + x.bind.unit
    if x.bind.toStream ∧ (s.stream u).held ∧ (s.stream u).ent.out ∧ (s.stream u).ctx = x.ctx then s.fillOut u x.wr else s

/-- The oldest message of a queue leaves it, and its credit goes back to its own sender (R126, R317). -/
def State.freeMsg (s : State) (w q : Nat) : State :=
  let x := s.rqueue w q
  if x.used = 0 then s
  else (s.setRq w q { x with rd := (x.rd + 1) % max 1 x.bind.slots, used := x.used - 1, taken := x.taken - 1,
                             froms := x.froms.drop 1 }).creditTo w q 1 (x.froms.head?.getD (x.src, x.port, x.hops))

/-- The queue whose ring an out-stream writes out. -/
def State.queueOfStream (s : State) (u : Nat) : Option (Nat × Nat) :=
  (s.rq.find? (fun c => c.2.held && c.2.bind.toStream && c.1 / 64 == u / 128 && c.2.bind.unit == u % 128)).map
    (fun c => (c.1 / 64, c.1 % 64))

end Sys2Proof.Machine
end

