-- ==== Sys2Proof/Machine/ProductOps.lean ====
section
/-! DEFINITION. The reduction of products between devices at its owner (spec/03_exact_path.md R78, R79,
spec/09_ledger_reduction_update.md R264). -/

namespace Sys2Proof.Machine

/-! ### Products (spec/03_exact_path.md R78, R79, spec/09 R264) -/

/-- Elements of a chunk of a reduction: 2,048 of LI64, or the 1,365 of LI96 that a tile holds. -/
def RedGroup.chunkLen (g : RedGroup) : Nat := if g.wide then 1365 else 2048
def RedGroup.elemLen (g : RedGroup) : Nat := if g.wide then 12 else 8

/-- The contributions that complete a chunk at its owner. -/
def RedGroup.full (g : RedGroup) : Nat := if g.wide then g.expects else g.members

/-- The product whose LOW or HIGH buffer a group reduces. -/
def Cert.productOf (k : Cert) (g : Nat) : Option RedGroup :=
  k.groups.find? (fun x => match x.product with | some p => x.number == g || p.high == some g | none => false)

/-- A reduction of a product is complete: every chunk of its output is reduced. -/
def State.groupReduced (s : State) (c g n : Nat) : Bool :=
  (List.range n).all (fun j => (Tbl.get {} ((s.prog c).getD {}).products (accKey g j)).reduced)

/-- The value of output element f of a product: NaN where its chunk is poisoned. A split-form product has the scale that its LOW parts carry,
−32 + eA + eB (R78); a list of segments that of the certificate (R79). -/
def State.productValue (s : State) (c : Nat) (r : RedGroup) (o : ProdOut) (f : Nat) : XVal :=
  let get := fun (g : Nat) => Tbl.get {} ((s.prog c).getD {}).products (accKey g (f / r.chunkLen))
  let num := fun (a : ChunkAcc) => signed (8 * r.elemLen) (nth 0 a.elems (f % r.chunkLen))
  let bad := fun (a : ChunkAcc) => decide (0 < a.hdr.nfcount) || a.hdr.cbreach
  let lo := get r.number
  let e := if o.high.isSome then lo.scale else o.scale
  let dy := fun (x : Int) => XVal.fin { neg := decide (x < 0), m := x.natAbs, e := e }
  match o.high with
  | none => if bad lo then .nan else dy (num lo)
  | some g =>
    let hi := get g
    if bad lo || bad hi then .nan
    else match splitJoin (num lo) (num hi) with
      | some x => dy x
      | none => .nan

/-- The output tiles of a product, and where tile i goes: the next slot of an out-stream's ring, or its place by index. -/
def ProdOut.across (o : ProdOut) : Nat := ceilDiv o.cols (max 1 o.tileCols)
def ProdOut.tiles (o : ProdOut) : Nat := ceilDiv o.rows (max 1 o.tileRows) * o.across
def State.productPlace (s : State) (w : Nat) (o : ProdOut) (i : Nat) : Nat × Option (Nat × Nat) :=
  match s.ringAt w o.base true with
  | some (u, _) => let x := s.stream u; (x.slotAddr (x.outSlot 0), some (u, x.outSlot 0))
  | none => (o.base + tileBytes * i, none)

/-- The place of the next output tile is free: a ring's slot is EMPTY (R167). -/
def State.productFree (s : State) (w : Nat) (o : ProdOut) (i : Nat) : Bool :=
  match (s.productPlace w o i).2 with
  | some (u, k) => decide ((s.stream u).slot k = .empty)
  | none => true

/-- Convert output tile i of a product, report its elements, write it, and fill its ring slot. -/
def State.productTile (s : State) (c t w : Nat) (r : RedGroup) (o : ProdOut) (i : Nat) : State :=
  let tg := s.target c o.smEntry o.fmt o.rnd 0
  let ti := i / max 1 o.across
  let tj := i % max 1 o.across
  let rows := min o.tileRows (o.rows - ti * o.tileRows)
  let cols := min o.tileCols (o.cols - tj * o.tileCols)
  let conv := (List.range (rows * cols)).map (fun k =>
    let f := (ti * o.tileRows + k / max 1 cols) * o.cols + tj * o.tileCols + k % max 1 cols
    let v := s.productValue c r o f
    (v, tg.conv v f, f))
  let s := s.report c t o.smEntry (conv.foldl (fun (q : SmRep) v => q.add v.1 v.2.1 v.2.2) {})
  let h : Hdr := { fmt := o.fmt, rows := rows, cols := cols, scale := if fmtManaged o.fmt then tg.e else 0, home := 2, tensor := tg.tensor,
                   rowO := ti * o.tileRows, colO := tj * o.tileCols, producer := uRed }
  let q := s.productPlace w o i
  let s := s.wr q.1 (tileImage h (packCodes o.fmt (conv.map (fun v => v.2.1.code))))
  match q.2 with
  | some (u, k) => s.fillOut u k
  | none => s

/-- Convert the output tiles of a reduced product as far as their places are free; with the last its sums go. -/
def State.convertProduct (s : State) (c t w : Nat) (r : RedGroup) (o : ProdOut) : Nat → State
  | 0 => s
  | n + 1 =>
    let i := (s.rt c t).prodTile
    if o.tiles ≤ i then
      let mine := fun (k : Nat) => k / 2 ^ 32 == r.number || o.high == some (k / 2 ^ 32)
      (s.updProg c (fun p => { p with products := p.products.filter (fun x => !mine x.1) })).updRt c t (fun x =>
        { x with prods := addLine x.prods r.number, prodTile := 0 })
    else if ¬ s.productFree w o i then s
    else ((s.productTile c t w r o i).updRt c t (fun x => { x with prodTile := i + 1 })).convertProduct c t w r o n

/-- The next product that a running task converts: one that a receive queue of its own takes, with every chunk reduced and a place free. -/
def State.productAdvance (s : State) (c t : Nat) : Option State :=
  let due := ((s.cert c).queues.filter (fun b => b.task == t)).filterMap (fun b =>
    match (s.cert c).productOf b.op with
    | none => none
    | some r =>
      match r.product with
      | none => none
      | some o =>
        let n := ceilDiv (o.rows * o.cols) r.chunkLen
        let high := match o.high with | some h => s.groupReduced c h n | none => true
        if s.running c t && !(s.rt c t).prods.contains r.number && s.groupReduced c r.number n && high then some (b.wing, r, o) else none)
  match due.head? with
  | some x => if s.productFree x.1 x.2.2 (s.rt c t).prodTile then some (s.convertProduct c t x.1 x.2.1 x.2.2 (x.2.2.tiles + 1)) else none
  | none => none

end Sys2Proof.Machine
end

