-- ==== Sys2Proof/Machine/Operands.lean ====
section
/-! DEFINITION. The operand forms of the vector instructions (spec/05_vector_engines.md R115, R116, R121 to R123, R146): elements that
lie across registers, scalar operands, active lanes, the four windows of update mode, and writing a result under a predicate. -/

namespace Sys2Proof

open Machine

/-! ### Instruction words (R121, R122) -/

/-- The 64-bit word of an instruction. -/
def VOp.word (op : Nat) (o : VOp) : W64 :=
  BitVec.ofNat 64 (o.imm.toNat + o.fmt.toNat * 2 ^ 24 + o.pred.toNat * 2 ^ 29 + o.vc.toNat * 2 ^ 32 + o.vb.toNat * 2 ^ 38 +
    o.va.toNat * 2 ^ 44 + o.vd.toNat * 2 ^ 50 + op * 2 ^ 56)

def VOp.negp (o : VOp) : Bool := o.imm.toNat.testBit 23
def VOp.zm (o : VOp) : Bool := o.imm.toNat.testBit 22
def VOp.rm (o : VOp) : Nat := bits o.imm.toNat 20 2
def VOp.sb (o : VOp) : Bool := o.imm.toNat.testBit 19
def VOp.sc (o : VOp) : Bool := o.imm.toNat.testBit 18
def VOp.imm16 (o : VOp) : Nat := bits o.imm.toNat 0 16
def VOp.f (o : VOp) : Nat := o.fmt.toNat

/-- The number of 32-bit words of an element of a format. -/
def fmtWords (f : Nat) : Nat := if fmtWidth f ≤ 32 then 1 else if fmtWidth f ≤ 64 then 2 else 3

/-- The floating layout of an instruction's format: F64, otherwise F32. -/
def VOp.float (o : VOp) : FloatFmt := if o.f = 0 then f64 else f32
def VOp.words (o : VOp) : Nat := fmtWords o.f

end Sys2Proof

namespace Sys2Proof.Machine

/-- The opcode of a word. -/
def opcodeOf (w : W64) : Nat := bits w.toNat 56 8

/-- The fields of a word. -/
def fieldsOf (w : W64) : VOp :=
  { vd := BitVec.ofNat 6 (bits w.toNat 50 6), va := BitVec.ofNat 6 (bits w.toNat 44 6),
    vb := BitVec.ofNat 6 (bits w.toNat 38 6), vc := BitVec.ofNat 6 (bits w.toNat 32 6),
    pred := BitVec.ofNat 3 (bits w.toNat 29 3), fmt := BitVec.ofNat 5 (bits w.toNat 24 5),
    imm := BitVec.ofNat 24 (bits w.toNat 0 24) }

/-! ### Registers (R115, R116) -/

def Engine.word (e : Engine) (r lane : Nat) : W32 := Tbl.get 0 e.v (64 * r + lane)

/-- The element of n words in lane `lane` of the registers from r, lowest word first. -/
def Engine.elem (e : Engine) : Nat → Nat → Nat → Nat
  | 0, _, _ => 0
  | n + 1, r, lane => (e.word r lane).toNat + 2 ^ 32 * e.elem n (r + 1) lane

def Engine.scalar (e : Engine) (r : Nat) : W32 := Tbl.get 0 e.s (r % 32)

/-- A scalar element of n words. -/
def Engine.selem (e : Engine) : Nat → Nat → Nat
  | 0, _ => 0
  | n + 1, r => (e.scalar r).toNat + 2 ^ 32 * e.selem n (r + 1)

def Engine.setScalar (e : Engine) (r : Nat) (x : W32) : Engine := { e with s := Tbl.set 0 e.s (r % 32) x }

/-- Write a scalar element of n words. -/
def Engine.setSelem (e : Engine) : Nat → Nat → Nat → Engine
  | 0, _, _ => e
  | n + 1, r, x => (e.setScalar r (BitVec.ofNat 32 x)).setSelem n (r + 1) (x / 2 ^ 32)

/-- A predicate register; p0 reads as all ones and writes to it are ignored. -/
def Engine.pred (e : Engine) (p : Nat) : W64 := if p % 8 = 0 then BitVec.allOnes 64 else Tbl.get 0 e.p (p % 8)
def Engine.setPred (e : Engine) (p : Nat) (x : W64) : Engine :=
  if p % 8 = 0 then e else { e with p := Tbl.set 0 e.p (p % 8) x }

/-- Replace all 64 lanes of a vector register. -/
def Engine.putReg (e : Engine) (r : Nat) (xs : List W32) : Engine := { e with v := Tbl.setRun 0 e.v (64 * r) xs }

/-- Write the n words of 64 elements into the registers from r. -/
def Engine.putElems (e : Engine) : Nat → Nat → List Nat → Engine
  | 0, _, _ => e
  | n + 1, r, xs => (e.putReg r (xs.map (BitVec.ofNat 32))).putElems n (r + 1) (xs.map (fun x => x / 2 ^ 32))

def lanes : List Nat := List.range 64

/-! ### Windows and active lanes (R123, R145, R146) -/

/-- The register windows that an instruction acts on, each with its present lanes: one in general mode, four in update mode. -/
def Engine.windows (e : Engine) : List (Nat × W64) :=
  if e.update then [(0, nth 0 e.present 0), (16, nth 0 e.present 1), (32, nth 0 e.present 2), (48, nth 0 e.present 3)]
  else [(0, BitVec.allOnes 64)]

/-- Lane i is active for the instruction in a window. -/
def Engine.active (e : Engine) (o : VOp) (present : W64) (i : Nat) : Bool :=
  ((e.pred o.pred.toNat).getLsbD i != o.negp) && present.getLsbD i

/-! ### Operand reads -/

/-- The raw element of operand va, vb or vc of n words in a window. -/
def Engine.opA (e : Engine) (o : VOp) (n base lane : Nat) : Nat := e.elem n (base + o.va.toNat) lane
def Engine.opB (e : Engine) (o : VOp) (n base lane : Nat) : Nat :=
  if o.sb then e.selem n (o.vb.toNat % 32) else e.elem n (base + o.vb.toNat) lane
def Engine.opC (e : Engine) (o : VOp) (n base lane : Nat) : Nat :=
  if o.sc then e.selem n (o.vc.toNat % 32) else e.elem n (base + o.vc.toNat) lane
def Engine.opD (e : Engine) (o : VOp) (n base lane : Nat) : Nat := e.elem n (base + o.vd.toNat) lane

/-! ### Results -/

/-- Write one window's result elements of n words into vd: active lanes take the result, inactive ones are kept, or zeroed by ZM.
The flags of the active lanes are set in the flag word. -/
def Engine.writeLanes (e : Engine) (o : VOp) (n : Nat) (w : Nat × W64) (f : Nat → LaneRes) : Engine :=
  let act := lanes.filter (fun i => e.active o w.2 i)
  let vals := lanes.map (fun i =>
    if e.active o w.2 i then (f i).val else if o.zm then 0 else e.elem n (w.1 + o.vd.toNat) i)
  { e.putElems n (w.1 + o.vd.toNat) vals with flags := e.flags ||| flagsOf (act.map f) }

/-- Apply a lane function in every window. `f e base i` reads the operands of lane i of the window at `base`. -/
def Engine.lanesOp (e : Engine) (o : VOp) (n : Nat) (f : Engine → Nat → Nat → LaneRes) : Engine :=
  e.windows.foldl (fun x w => x.writeLanes o n w (f x w.1)) e

/-- A floating result: the rounded code, and NONFINITE where a source or the result is NaN or infinite (R142). -/
def floatRes (t : FloatFmt) (rm : Nat) (srcs : List XVal) (r : Exact) : LaneRes :=
  let c := r.pack t rm
  { val := c, nonfin := srcs.any XVal.special || t.special c }

/-- One, two and three operand floating instructions. -/
def Engine.float1 (e : Engine) (o : VOp) (f : XVal → Exact) : Engine :=
  e.lanesOp o o.words (fun x b i =>
    let a := o.float.value (x.opA o o.words b i)
    floatRes o.float o.rm [a] (f a))

def Engine.float2 (e : Engine) (o : VOp) (f : XVal → XVal → Exact) : Engine :=
  e.lanesOp o o.words (fun x b i =>
    let a := o.float.value (x.opA o o.words b i)
    let c := o.float.value (x.opB o o.words b i)
    floatRes o.float o.rm [a, c] (f a c))

def Engine.float3 (e : Engine) (o : VOp) (f : XVal → XVal → XVal → Exact) : Engine :=
  e.lanesOp o o.words (fun x b i =>
    let a := o.float.value (x.opA o o.words b i)
    let c := o.float.value (x.opB o o.words b i)
    let d := o.float.value (x.opC o o.words b i)
    floatRes o.float o.rm [a, c, d] (f a c d))

/-! ### E8M39 masters (R146, R149) -/

/-- The E8M39 code of the master in v0 and v1 of a window: bits [63:16] of the pair. -/
def Engine.master (e : Engine) (base i : Nat) : Nat := e.elem 2 base i / 2 ^ 16

/-- The E8M39 layout. -/
def e8m39 : FloatFmt := ⟨8, 39, 127, .infNan⟩

/-- The master update: ADD and SUB take the master as va, FMA takes it as vc, and every other operand is F32. The result is rounded
once into E8M39 and written to v0 and v1 with zero low bits. -/
def Engine.masterUpdate (e : Engine) (o : VOp) (isFma : Bool) (f : XVal → XVal → XVal → Exact) : Engine :=
  e.lanesOp o 2 (fun x b i =>
    let m := e8m39.value (x.master b i)
    let v := fun (r : BitVec 6) => f32.value (x.elem 1 (b + r.toNat) i)
    let a := if isFma then v o.va else m
    let c := v o.vb
    let r := floatRes e8m39 o.rm (if isFma then [a, c, m] else [a, c]) (f a c m)
    { r with val := r.val * 2 ^ 16 })

/-! ### Integer operands -/

/-- One and two operand integer instructions on elements of n words. -/
def Engine.int1 (e : Engine) (o : VOp) (n : Nat) (f : Nat → Nat) : Engine :=
  e.lanesOp o n (fun x b i => { val := f (x.opA o n b i) })
def Engine.int2 (e : Engine) (o : VOp) (n : Nat) (f : Nat → Nat → Nat) : Engine :=
  e.lanesOp o n (fun x b i => { val := f (x.opA o n b i) (x.opB o n b i) })

/-- The active lanes' elements of va in lane order, in the general window. -/
def Engine.actives (e : Engine) (o : VOp) (n : Nat) : List (Nat × Nat) :=
  (lanes.filter (fun i => e.active o (BitVec.allOnes 64) i)).map (fun i => (i, e.opA o n 0 i))

/-! ### Issue -/

/-- The engine runs, with its batches loaded in update mode, and the instruction at its place in the program is this one (R120, R124,
R146). -/
def Engine.at (e : Engine) (op : Nat) (o : VOp) : Bool :=
  (e.run == .running) && (!e.update || e.loaded) && (e.prog[e.pc]? == some (o.word op))

/-- Go to the next instruction. -/
def Engine.advance (e : Engine) : Engine := { e with pc := e.pc + 1 }

end Sys2Proof.Machine
end

