-- ==== Sys2Proof/Machine/VectorOps.lean ====
section
/-! DEFINITION. What each vector instruction that acts on registers alone does to its engine (spec/05_vector_engines.md R126 to R138). -/

namespace Sys2Proof.Machine

/-! ### Floating arithmetic (R129, R149) -/

def Engine.fAddI (o : VOp) (e : Engine) : Engine :=
  if o.f = 5 then e.masterUpdate o false (fun a b _ => fAdd a b) else e.float2 o fAdd
def Engine.fSubI (o : VOp) (e : Engine) : Engine :=
  if o.f = 5 then e.masterUpdate o false (fun a b _ => fAdd a b.negate) else e.float2 o (fun a b => fAdd a b.negate)
def Engine.fMulI (o : VOp) (e : Engine) : Engine := e.float2 o (fun a b => (fMulX a b).exact)
def Engine.fFmaI (o : VOp) (e : Engine) : Engine :=
  if o.f = 5 then e.masterUpdate o true fFma else e.float3 o fFma
def Engine.fFmsI (o : VOp) (e : Engine) : Engine := e.float3 o (fun a b c => fFma a b c.negate)
def Engine.fFnmaI (o : VOp) (e : Engine) : Engine := e.float3 o (fun a b c => fFma a.negate b c)
def Engine.fDivI (o : VOp) (e : Engine) : Engine := e.float2 o fDiv
def Engine.fSqrtI (o : VOp) (e : Engine) : Engine := e.float1 o fSqrt
def Engine.fRsqrtI (o : VOp) (e : Engine) : Engine := e.float1 o fRsqrt
def Engine.fRcpI (o : VOp) (e : Engine) : Engine := e.float1 o fRcp
def Engine.fMinI (o : VOp) (e : Engine) : Engine := e.float2 o (fun a b => (fMin a b).exact)
def Engine.fMaxI (o : VOp) (e : Engine) : Engine := e.float2 o (fun a b => (fMax a b).exact)
def Engine.fAbsI (o : VOp) (e : Engine) : Engine := e.float1 o (fun a => a.absolute.exact)
def Engine.fNegI (o : VOp) (e : Engine) : Engine := e.float1 o (fun a => a.negate.exact)
def Engine.fSelectI (o : VOp) (e : Engine) : Engine := e.float3 o (fun a b c => (fSelect a b c).exact)
def Engine.fClipI (o : VOp) (e : Engine) : Engine := e.float3 o (fun a b c => (fClip a b c).exact)

/-- SCALEB: the INT32 value of vb; an exponent beyond every format's range acts as one of magnitude 5,000. -/
def Engine.fScalebI (o : VOp) (e : Engine) : Engine :=
  e.lanesOp o o.words (fun x b i =>
    let a := o.float.value (x.opA o o.words b i)
    let n := signed 32 (x.opB o 1 b i)
    floatRes o.float o.rm [a] (fScaleb a (max (-5000) (min 5000 n))).exact)

/-! ### Compare, predicates and moves (R129, R130) -/

/-- CMP of one lane: floating formats by the quiet comparisons, integer and ledger formats signed. -/
def cmpCode (fmt op a b : Nat) : Bool :=
  match floatFmt fmt with
  | some t => fCmp op (t.value a) (t.value b)
  | none => iCmp op (signed (fmtWidth fmt) a) (signed (fmtWidth fmt) b)

/-- A predicate whose lane i is `f i`. -/
def predOf (f : Nat → Bool) : W64 :=
  BitVec.ofNat 64 ((lanes.map (fun i => if f i then 2 ^ i else 0)).sum)

def Engine.cmpI (o : VOp) (e : Engine) : Engine :=
  e.setPred o.vd.toNat (predOf (fun i => e.active o (BitVec.allOnes 64) i &&
    cmpCode o.f (bits o.imm.toNat 0 3) (e.opA o o.words 0 i) (e.opB o o.words 0 i)))

def Engine.predI (o : VOp) (f : W64 → W64 → W64) (e : Engine) : Engine :=
  e.setPred o.vd.toNat (f (e.pred o.va.toNat) (e.pred o.vb.toNat))

def Engine.pfirstI (o : VOp) (e : Engine) : Engine :=
  e.setPred o.vd.toNat (predOf (fun i => decide (i < (e.scalar o.va.toNat).toNat)))

def Engine.pcntI (o : VOp) (e : Engine) : Engine :=
  e.setScalar o.vd.toNat (BitVec.ofNat 32 (lanes.filter (fun i => (e.pred o.va.toNat).getLsbD i)).length)

def Engine.movI (o : VOp) (e : Engine) : Engine := e.int1 o o.words id
def Engine.bcastI (o : VOp) (e : Engine) : Engine :=
  e.lanesOp o o.words (fun x _ _ => { val := x.selem o.words (o.va.toNat % 32) })
def Engine.laneI (o : VOp) (e : Engine) : Engine :=
  e.setSelem o.words o.vd.toNat (e.elem o.words o.va.toNat (bits o.imm.toNat 0 6))
def Engine.permI (o : VOp) (e : Engine) : Engine :=
  e.lanesOp o o.words (fun x b i => { val := x.elem o.words (b + o.va.toNat) (x.opB o 1 b i % 64) })
def Engine.rotI (o : VOp) (e : Engine) : Engine :=
  e.lanesOp o o.words (fun x b i => { val := x.elem o.words (b + o.va.toNat) ((i + bits o.imm.toNat 0 6) % 64) })
def Engine.iotaI (o : VOp) (e : Engine) : Engine :=
  e.lanesOp o 1 (fun x _ i => { val := ((x.scalar o.va.toNat).toNat + i) % 2 ^ 32 })

/-! ### Conversion (R131) -/

/-- The scale exponent of CVT: for a ledger target the low 12 bits of the scalar, else the INT32 value; 0 with SCL clear. -/
def cvtScale (o : VOp) (x : W32) : Int :=
  if ¬ o.imm.toNat.testBit 5 then 0
  else if (ledFmt o.f).isSome then signed 12 x.toNat
  else if -32768 ≤ x.toInt ∧ x.toInt ≤ 32767 then x.toInt
  else (Config.scaleOutside x).toInt

/-- CVT of one code: source format, target format, mode, scale exponent, and whether it is the source's scale. -/
def cvtCode (src dst rm : Nat) (e : Int) (ofSource : Bool) (c : Nat) : LaneRes :=
  let x := scaledValue src (if ofSource then e else 0) c
  let r := convert dst rm 0 (if ofSource then 0 else e) x
  { val := r.code, nonfin := r.nonfin || x.special, sat := r.sat, breach := r.breach }

def Engine.cvtI (o : VOp) (e : Engine) : Engine :=
  let src := bits o.imm.toNat 0 5
  e.lanesOp o o.words (fun x b i =>
    cvtCode src o.f o.rm (cvtScale o (x.scalar o.vb.toNat)) (o.imm.toNat.testBit 6) (x.opA o (fmtWords src) b i))

def Engine.exp2I (o : VOp) (e : Engine) : Engine := e.float1 o fExp2
def Engine.log2I (o : VOp) (e : Engine) : Engine := e.float1 o fLog2

/-! ### Reductions (R133, R134) -/

/-- One step of the tree: position i takes the sum of positions i and i + h. -/
def treeStep {α : Type} (f : α → α → α) (l : List (Option α)) : List (Option α) :=
  let h := l.length / 2
  List.zipWith (fun a b => match a, b with
    | some x, some y => some (f x y)
    | some x, none => some x
    | none, y => y) (l.take h) (l.drop h)

/-- The six steps of RSUM over 64 positions. -/
def treeSum {α : Type} (f : α → α → α) (l : List (Option α)) : Option α := nth none (times 6 (treeStep f) l) 0

/-- RSUM in a floating layout: the codes of the active lanes at their positions, absent elsewhere; absent gives +0. -/
def rsumCode (t : FloatFmt) (rm : Nat) (l : List (Option Nat)) : Nat :=
  match treeSum (fun a b => (fAdd (t.value a) (t.value b)).pack t rm) l with
  | some c => (t.value c).exact.pack t rm
  | none => 0

/-- The flags of a floating reduction: NONFINITE where an active source or the result is not finite. -/
def Engine.markSpecial (e : Engine) (b : Bool) : Engine := { e with flags := e.flags ||| (if b then 1 else 0) }

def Engine.rsumI (o : VOp) (e : Engine) : Engine :=
  let l := lanes.map (fun i => if e.active o (BitVec.allOnes 64) i then some (e.opA o o.words 0 i) else none)
  let r := rsumCode o.float o.rm l
  (e.setSelem o.words o.vd.toNat r).markSpecial
    ((e.actives o o.words).any (fun x => o.float.special x.2) || (!(e.actives o o.words).isEmpty && o.float.special r))

/-- Maximum (or minimum) of codes of a format, from the value for no active lane. -/
def rmaxCode (fmt : Nat) (isMax : Bool) (l : List Nat) : Nat :=
  match floatFmt fmt with
  | some t =>
    let f := if isMax then fMax else fMin
    ((l.map t.value).foldl f (.inf isMax)).exact.pack t 0
  | none =>
    let w := fmtWidth fmt
    let start : Int := if isMax then -(2 : Int) ^ (w - 1) else (2 : Int) ^ (w - 1) - 1
    unsigned w ((l.map (signed w)).foldl (fun a b => if isMax then max a b else min a b) start)

def Engine.rminmaxI (isMax : Bool) (o : VOp) (e : Engine) : Engine :=
  let l := (e.actives o o.words).map (fun x => x.2)
  (e.setSelem o.words o.vd.toNat (rmaxCode o.f isMax l)).markSpecial
    ((floatFmt o.f).isSome && l.any (fun c => o.float.special c))

/-- RSUMX: INT32 lanes give an LI64 sum; LI64 and LI96 sums wrap in their own width. -/
def Engine.rsumxI (o : VOp) (e : Engine) : Engine :=
  let w := fmtWidth o.f
  let r : Int := ((e.actives o o.words).map (fun x => signed w x.2)).sum
  if w = 32 then e.setSelem 2 o.vd.toNat (unsigned 64 r) else e.setSelem o.words o.vd.toNat (unsigned w r)

/-! ### INT32 and scalar (R126) -/

def Engine.iaddI (o : VOp) (e : Engine) : Engine := e.int2 o 1 (fun a b => (a + b) % 2 ^ 32)
def Engine.isubI (o : VOp) (e : Engine) : Engine := e.int2 o 1 (fun a b => (a + 2 ^ 32 - b) % 2 ^ 32)
def Engine.imulI (o : VOp) (e : Engine) : Engine := e.int2 o 1 (fun a b => a * b % 2 ^ 32)
def Engine.andI (o : VOp) (e : Engine) : Engine := e.int2 o 1 (fun a b => a &&& b)
def Engine.orI (o : VOp) (e : Engine) : Engine := e.int2 o 1 (fun a b => a ||| b)
def Engine.xorI (o : VOp) (e : Engine) : Engine := e.int2 o 1 (fun a b => a ^^^ b)
def Engine.shlI (o : VOp) (e : Engine) : Engine := e.int2 o 1 (fun a b => a * 2 ^ (b % 32) % 2 ^ 32)
def Engine.shrI (o : VOp) (e : Engine) : Engine := e.int2 o 1 (fun a b => a / 2 ^ (b % 32))
def Engine.sarI (o : VOp) (e : Engine) : Engine := e.int2 o 1 (fun a b => unsigned 32 (signed 32 a / 2 ^ (b % 32)))
def Engine.iminI (o : VOp) (e : Engine) : Engine := e.int2 o 1 (fun a b => unsigned 32 (min (signed 32 a) (signed 32 b)))
def Engine.imaxI (o : VOp) (e : Engine) : Engine := e.int2 o 1 (fun a b => unsigned 32 (max (signed 32 a) (signed 32 b)))

/-- The second operand of SADD and SSUB: scalar sb with SB set, else IMM[15:0] sign-extended. -/
def Engine.sopB (e : Engine) (o : VOp) : W32 :=
  if o.sb then e.scalar o.vb.toNat else BitVec.ofInt 32 (signed 16 o.imm16)

def Engine.saddI (o : VOp) (e : Engine) : Engine := e.setScalar o.vd.toNat (e.scalar o.va.toNat + e.sopB o)
def Engine.ssubI (o : VOp) (e : Engine) : Engine := e.setScalar o.vd.toNat (e.scalar o.va.toNat - e.sopB o)
def Engine.smulI (o : VOp) (e : Engine) : Engine := e.setScalar o.vd.toNat (e.scalar o.va.toNat * e.scalar o.vb.toNat)
def Engine.smoviI (o : VOp) (e : Engine) : Engine := e.setScalar o.vd.toNat (BitVec.ofInt 32 (signed 24 o.imm.toNat))
def Engine.sluiI (o : VOp) (e : Engine) : Engine :=
  e.setScalar o.vd.toNat (BitVec.ofNat 32 (o.imm16 * 2 ^ 16 + (e.scalar o.vd.toNat).toNat % 2 ^ 16))
def Engine.sgetI (o : VOp) (e : Engine) : Engine :=
  e.setScalar o.vd.toNat (sgetItem e.led e.flags (bits o.imm.toNat 0 4))
def Engine.sclrI (o : VOp) (e : Engine) : Engine :=
  { e with flags := sclrFlags o.imm.toNat e.flags, led := sclrStat o.imm.toNat e.led }

/-! ### Wide integers (R126, R136, R138) -/

def Engine.laddI (o : VOp) (e : Engine) : Engine := e.int2 o o.words (fun a b => (a + b) % 2 ^ fmtWidth o.f)
def Engine.lsubI (o : VOp) (e : Engine) : Engine :=
  e.int2 o o.words (fun a b => (a + 2 ^ fmtWidth o.f - b) % 2 ^ fmtWidth o.f)
def Engine.lnegI (o : VOp) (e : Engine) : Engine :=
  e.int1 o o.words (fun a => (2 ^ fmtWidth o.f - a) % 2 ^ fmtWidth o.f)
def Engine.lshlI (o : VOp) (e : Engine) : Engine :=
  e.int1 o o.words (fun a => a * 2 ^ bits o.imm.toNat 0 7 % 2 ^ fmtWidth o.f)
def Engine.lsarI (o : VOp) (e : Engine) : Engine :=
  e.int1 o o.words (fun a => unsigned (fmtWidth o.f) (signed (fmtWidth o.f) a / 2 ^ bits o.imm.toNat 0 7))
def Engine.lmaxI (o : VOp) (e : Engine) : Engine :=
  e.int2 o o.words (fun a b => unsigned (fmtWidth o.f) (max (signed (fmtWidth o.f) a) (signed (fmtWidth o.f) b)))
def Engine.lminI (o : VOp) (e : Engine) : Engine :=
  e.int2 o o.words (fun a b => unsigned (fmtWidth o.f) (min (signed (fmtWidth o.f) a) (signed (fmtWidth o.f) b)))

/-- The flat index base of LQ: the low 48 bits of the scalar pair that vc names (R136). -/
def Engine.lqBase (e : Engine) (o : VOp) : Nat := e.selem 2 (o.vc.toNat % 32) % 2 ^ 48

/-- The source value of LQ in a lane. -/
def Engine.lqSource (e : Engine) (o : VOp) (i : Nat) : XVal :=
  let src := bits o.imm.toNat 0 5
  (if src = 0 then f64 else f32).value (e.opA o (fmtWords src) 0 i)

/-- The exact integer that LQ gives a lane: 0 where the source is not finite. -/
def lqInt (x : XVal) (s : Int) : Int :=
  match x with
  | .fin d => ledgerInt d s
  | _ => 0

def Engine.lqI (o : VOp) (e : Engine) : Engine :=
  let s := signed 12 (e.scalar o.vb.toNat).toNat
  let w := fmtWidth o.f
  let L := if w = 96 then 63 else 51
  let b := e.lqBase o
  let led := (lanes.filter (fun i => e.active o (BitVec.allOnes 64) i)).foldl
    (fun l i => l.quantise (e.lqSource o i) (lqInt (e.lqSource o i) s) L ((b + i) % 2 ^ 48)) e.led
  { e.lanesOp o o.words (fun x _ i =>
      let v := x.lqSource o i
      let q := lqInt v s
      { val := unsigned w q, nonfin := v.special, breach := decide (2 ^ L ≤ q.natAbs) }) with led := led }

def Engine.lwidenI (o : VOp) (e : Engine) : Engine :=
  e.lanesOp o 3 (fun x b i => { val := unsigned 96 (signed 64 (x.opA o 2 b i)) })
def Engine.lsqaI (o : VOp) (e : Engine) : Engine :=
  e.lanesOp o 6 (fun x b i =>
    let a := signed 64 (x.opA o 2 b i)
    { val := (x.opD o 6 b i + (a * a).natAbs) % 2 ^ 192 })
/-- LADDA. With SB = 1 its 192 bits come from six consecutive scalars, the lowest first (R138; DESIGN CHOICE, log 136). -/
def Engine.laddaI (o : VOp) (e : Engine) : Engine := e.int2 o 6 (fun a b => (a + b) % 2 ^ 192)
def Engine.lsumaI (o : VOp) (e : Engine) : Engine :=
  let r := ((e.actives o 6).map (fun x => x.2)).sum % 2 ^ 192
  e.putElems 6 o.vd.toNat (r :: List.replicate 63 0)
def Engine.lsh64I (o : VOp) (e : Engine) : Engine :=
  e.lanesOp o 3 (fun x b i =>
    let r := signed 192 (x.opA o 6 b i) / 2 ^ 64
    if (2 : Int) ^ 95 - 1 < r then { val := 2 ^ 95 - 1, ovf := true }
    else if r < -(2 : Int) ^ 95 then { val := 2 ^ 95, ovf := true }
    else { val := unsigned 96 r })
def Engine.lclraI (o : VOp) (e : Engine) : Engine := e.lanesOp o 6 (fun _ _ _ => { val := 0 })

/-! ### The instructions by opcode, for score hooks and program checks -/

/-- The effect of an instruction that acts on registers alone, by opcode; any other opcode leaves the engine as it is. -/
def Engine.byOpcode (op : Nat) (o : VOp) (e : Engine) : Engine :=
  match op with
  | 0x10 => e.fAddI o | 0x11 => e.fSubI o | 0x12 => e.fMulI o | 0x13 => e.fFmaI o | 0x14 => e.fFmsI o | 0x15 => e.fFnmaI o
  | 0x16 => e.fDivI o | 0x17 => e.fSqrtI o | 0x18 => e.fRsqrtI o | 0x19 => e.fRcpI o | 0x1A => e.fMinI o | 0x1B => e.fMaxI o
  | 0x1C => e.fAbsI o | 0x1D => e.fNegI o | 0x1E => e.fSelectI o | 0x1F => e.fClipI o | 0x20 => e.fScalebI o
  | 0x30 => e.cmpI o | 0x31 => e.predI o (· &&& ·) | 0x32 => e.predI o (· ||| ·) | 0x33 => e.predI o (· ^^^ ·)
  | 0x34 => e.predI o (fun a _ => ~~~a) | 0x35 => e.pfirstI o | 0x36 => e.pcntI o | 0x38 => e.movI o | 0x39 => e.bcastI o
  | 0x3A => e.laneI o | 0x3B => e.permI o | 0x3C => e.rotI o | 0x3D => e.iotaI o | 0x40 => e.cvtI o
  | 0x50 => e.exp2I o | 0x51 => e.log2I o | 0x60 => e.rsumI o | 0x61 => e.rminmaxI true o | 0x62 => e.rminmaxI false o
  | 0x63 => e.rsumxI o | 0x90 => e.iaddI o | 0x91 => e.isubI o | 0x92 => e.imulI o | 0x93 => e.andI o | 0x94 => e.orI o
  | 0x95 => e.xorI o | 0x96 => e.shlI o | 0x97 => e.shrI o | 0x98 => e.sarI o | 0x99 => e.iminI o | 0x9A => e.imaxI o
  | 0xA0 => e.saddI o | 0xA1 => e.ssubI o | 0xA2 => e.smulI o | 0xA3 => e.smoviI o | 0xA4 => e.sluiI o | 0xA5 => e.sgetI o
  | 0xA6 => e.sclrI o | _ => e

end Sys2Proof.Machine
end

