-- ==== Sys2Proof/Machine/EngineOps.lean ====
section
/-! DEFINITION. What a vector engine needs of the gallery (spec/05_vector_engines.md R119, R140, R141, R144): its wing, windows and slots, the
address that an instruction forms, and the tile that a TOUT writes, which an abort may leave half written. -/

namespace Sys2Proof.Machine

/-- The wing of an engine, the job it works for, and an address range inside that job's windows. -/
def engWing (e : Nat) : Nat := e / 64
def State.jobOfEngine (s : State) (e : Nat) : VecJob :=
  let x := s.engine e
  nth {} (s.task x.ctx x.task).vecJobs x.job
def inWindows (l : List (Nat × Nat)) (a n : Nat) : Bool := l.any (fun w => decide (w.1 ≤ a ∧ a + n ≤ w.1 + w.2))

/-- An engine reaches bytes a to a + n − 1 in the slots of its task (spec/01_module_and_one_step.md R18). -/
def State.engReach (s : State) (e a n : Nat) : Bool := s.slotted (s.asker (s.engine e).ctx (s.engine e).task (uEngine e)) a n

/-- The gallery address that an instruction forms: scalar va + IMM16 × unit. -/
def Engine.galleryAddr (x : Engine) (o : VOp) (unit : Nat) : Nat := (x.scalar o.va.toNat).toNat + o.imm16 * unit

/-- An access of n bytes is misaligned or outside the job's windows. -/
def State.accessBad (s : State) (e a n unit : Nat) : Bool := a % unit != 0 || !(inWindows (s.jobOfEngine e).windows a n)

/-- The active lanes of an access of 256 bytes. -/
def Engine.lanesOn (x : Engine) (o : VOp) : List Nat := lanes.filter (fun i => x.active o (BitVec.allOnes 64) i)

/-- Where an access of the 4-byte words of some lanes at address a fails with PROT_FAULT: a misaligned address, else the first word outside the
job's windows. An inactive lane reaches no memory (R123). -/
def State.laneFault (s : State) (e a : Nat) (act : List Nat) : Option Nat :=
  if a % 256 ≠ 0 then some a
  else (act.find? (fun i => !(inWindows (s.jobOfEngine e).windows (a + 4 * i) 4))).map (fun i => a + 4 * i)

/-- The lines of a 256-byte access, by address, that some lane of a list reaches. -/
def laneLines (a : Nat) (act : List Nat) : List Nat :=
  ((List.range 4).filter (fun k => act.any (fun i => i / 16 == k))).map (fun k => a + 64 * k)

/-! ### TOUT (R140) -/

/-- The four scalar registers of TOUT that give a tile's header: ROWS, COLS, ROW_ORIGIN, COL_ORIGIN and the slot. -/
def Engine.toutHdr (x : Engine) (o : VOp) : Hdr × Nat :=
  let r := o.vc.toNat % 32
  let z := (x.scalar r).toNat
  ({ rows := z % 2 ^ 16, cols := z / 2 ^ 16, rowO := (x.scalar (r + 1)).toNat, colO := (x.scalar (r + 2)).toNat },
    (x.scalar (r + 3)).toNat % 4)

/-- The ring slot of a stream that is to go out that lies at a tile's address. -/
def State.toutRing (s : State) (e a : Nat) : Option (Nat × Nat) :=
  (s.ringAt (engWing e) a true).filter (fun r => (s.stream r.1).slotAddr r.2 == a)

/-- A TOUT at address a can begin: the engine reaches the tile in its slots, and in the ring of an out-stream its slot is EMPTY. -/
def State.toutFree (s : State) (e a : Nat) : Bool :=
  s.engReach e a tileBytes && !((s.toutRing e a).any (fun r => (s.stream r.1).slot r.2 != .empty))

/-- The tile image that a TOUT writes. -/
def State.toutImage (s : State) (e : Nat) (o : VOp) : List Byte :=
  let x := s.engine e
  let b := Tbl.get {} x.tb (o.vb.toNat % 4)
  let h := x.toutHdr o
  let sl := nth {} (s.jobOfEngine e).slots h.2
  let t := s.target x.ctx sl.sm sl.fmt sl.rnd 0
  let old := Hdr.ofBytes b.hdr
  let hd := { h.1 with fmt := sl.fmt, scale := if (s.smEnt x.ctx sl.sm).isSome then t.e else 0, tensor := t.tensor,
                       bscale := b.asRead && old.bscale, kaxis := b.asRead && old.kaxis, transposed := b.asRead && old.transposed,
                       home := 2, producer := uEngine e }
  let n := spanBytes hd.fmt (hd.rows * hd.cols) + hd.blocks
  tileImage hd (Tbl.getRun 0 b.pay 0 (min n payloadBytes))

/-- A TOUT that has begun as the engine's task aborts leaves the old header over some lines of the new payload (R144). How many lines it has
written, with none where it has not begun, is a free value (log 113). -/
def State.tornTout (s : State) (e : Nat) : State :=
  let x := s.engine e
  match x.prog[x.pc]? with
  | none => s
  | some w =>
    let o := fieldsOf w
    let a := x.galleryAddr o 64
    if x.run = .running ∧ opcodeOf w = 0xB3 ∧ ¬ s.accessBad e a tileBytes 64 ∧ s.toutFree e a then
      let f := s.free
      f.2.wr (a + 64) (((s.toutImage e o).drop 64).take (64 * (f.1.toNat % 257)))
    else s

end Sys2Proof.Machine
end

