-- ==== Sys2Proof/Machine/KvOps.lean ====
section
/-! DEFINITION. The KV unit (spec/10_attention_kv.md R286 to R298): sequences and their geometry, the page pool, the vestibule, placing
tokens, flushing a page, and reading a page with its CRC. -/

namespace Sys2Proof.Machine

/-! ### Geometry (R286, R287, R155) -/

def Seq.d (x : Seq) : Nat := 32 * 2 ^ x.dcode
/-- Bytes of the D elements of one head. -/
def Seq.headBytes (x : Seq) : Nat := spanBytes x.fmt x.d
def pageBytes : Nat := 8192

/-- Tokens in a page: 8,192 ÷ (2 · H · D · b). -/
def seqTokens (fmt h dcode : Nat) : Nat := pageBytes / max 1 (2 * h * spanBytes fmt (32 * 2 ^ dcode))

/-- The geometry of R287. -/
def seqGeometry (fmt h dcode : Nat) : Bool :=
  decide (h = 2 ^ Nat.log2 h ∧ 1 ≤ h ∧ h ≤ 64 ∧ dcode < 4) && fmtValid fmt && decide (elemBytes fmt ∈ [0, 1, 2, 4]) &&
    decide (2 * h * spanBytes fmt (32 * 2 ^ dcode) ≤ pageBytes)

/-- Byte of head `hd` of kind `c` (0 K, 1 V) of the token at index i of a page. -/
def Seq.off (x : Seq) (c hd i : Nat) : Nat := ((c * x.h + hd) * x.t + i) * x.headBytes

/-- Gallery address of vestibule slot i of a wing. -/
def vestibule (w i : Nat) : Nat := w * 0x6000000 + 0x5000000 + pageBytes * i

def SeqState.code : SeqState → Nat
  | .free => 0 | .open => 1 | .waiting => 2 | .releasing => 3

/-- The 32 bytes of a sequence table entry; all zero while it is FREE (R290). -/
def Seq.bytes (x : Seq) : List Byte :=
  if x.state = .free then List.replicate 32 0
  else leBytes 1 (x.state.code + 4 * x.wing) ++ leBytes 1 x.fmt ++ leBytes 1 x.h ++ leBytes 1 x.dcode ++ leBytes 2 x.ctx ++
    leBytes 2 x.vslot ++ leBytes 2 (unsigned 16 x.scale) ++ leBytes 2 x.t ++ leBytes 4 x.len ++ leBytes 8 x.rootBase ++
    leBytes 4 x.pages ++ leBytes 1 (bit x.vfull) ++ leBytes 3 0

/-- FREE_SLOTS and WAITING of a wing. -/
def State.syncKva (s : State) (w : Nat) : State :=
  let mine := s.seqs.filter (fun c => c.2.state != .free && c.2.wing == w)
  (s.setFld RegF.kvaStsFreeSlots (2048 - mine.length) w).setFld RegF.kvaStsWaiting
    (mine.filter (fun c => c.2.state == .waiting)).length w

/-- The lowest free vestibule slot of a wing. -/
def State.freeVslot (s : State) (w : Nat) : Option Nat :=
  indexFrom (fun i => !(s.seqs.any (fun c => c.2.state != .free && c.2.wing == w && c.2.vslot == i))) (List.range 2048) 0

/-- The range of sequence numbers of a context in force, within the table's 65,536 entries, and its pool record (R286, R291, R299). -/
def State.seqInRange (s : State) (c n : Nat) : Bool :=
  decide (n < 65536 ∧ s.eff RegF.kvaCtxSeqSeqFirst c ≤ n ∧ n < s.eff RegF.kvaCtxSeqSeqFirst c + s.eff RegF.kvaCtxSeqSeqCount c)
/-- The pool of a context: that of the set before the last rehang while an append that started under it still runs (R299, spec/13
R375). -/
def State.poolBase (s : State) (c : Nat) : Nat :=
  let old := (List.range (s.cert c).tasks.length).any (fun t => (s.task c t).append.isSome &&
    ((s.rt c t).st == .running || (s.rt c t).st == .suspended) && decide (nth 0 (s.rt c t).gens 4 < (s.scp 4).gen))
  if old then bits (setWord (s.scp 4).prev .kvaCtxPool c 0) 0 48 else s.eff RegF.kvaCtxPoolPoolBase c

/-- The number of a sequence reference: itself, or an entry of the RUN's list (R286). -/
def State.seqRef (s : State) (c r : Nat) : Option Nat :=
  if r < 2 ^ 31 then some r else ((((s.prog c).getD {}).run.map (fun x => x.seqList)).getD [])[r % 32]?

/-! ### What a KV unit reaches (spec/07_memory_tiers.md R187, spec/01_module_and_one_step.md R18) -/

/-- The KV unit works in the near tier alone, under the protection table that the work started with. -/
def State.kvMay (s : State) (c : Nat) (old write : Bool) (a n : Nat) : Bool :=
  (match homeOf a with | .near _ => true | _ => false) && s.allows c old write a n
def State.reachAs (s : State) (c : Nat) (old : Bool) (a n : Nat) : Bool := s.kvMay c old false a n && s.kvMay c old true a n

/-- The KV unit of wing w reaches bytes a to a + n − 1 in the slots of a task. -/
def State.kvSlotted (s : State) (c t w a n : Nat) : Bool := s.slotted (s.asker c t (uKv w)) a n

/-! ### The pool (R291) -/

def State.poolCount (s : State) (c : Nat) : Nat := leNat (s.rd (s.poolBase c + 12) 4)
def State.poolHeld (s : State) (c : Nat) : Nat := leNat (s.rd (s.poolBase c + 16) 4)
def State.poolWanted (s : State) (c : Nat) : Nat := leNat (s.rd (s.poolBase c + 20) 4)
def State.poolCapacity (s : State) (c : Nat) : Nat := leNat (s.rd (s.poolBase c + 8) 4)
def State.poolList (s : State) (c : Nat) : Nat := leNat (s.rd (s.poolBase c) 8)
def State.setPool (s : State) (c o v : Nat) : State := s.wr (s.poolBase c + o) (leBytes 4 v)

/-- What taking a page comes to: `stuck` where the KV unit has no slot for the transfer. -/
inductive PoolRes where
  | page (addr : Nat) (s : State)
  | empty
  | stuck
  | prot (addr : Nat)

/-- Take a page from the top of the pool for a task. A page that the context may not reach stays there. -/
def State.takePage (s : State) (c t w : Nat) : PoolRes :=
  let old := (s.rt c t).epochOld
  let n := s.poolCount c
  let a := s.poolList c + 8 * (n - 1)
  let p := leNat (s.rd a 8)
  if ¬ s.reachAs c old (s.poolBase c) 64 then .prot (s.poolBase c)
  else if n = 0 then .empty
  else if ¬ s.reachAs c old a 8 then .prot a
  else if ¬ s.reachAs c old p pageBytes then .prot p
  else if ¬ (s.kvSlotted c t w (s.poolBase c) 64 && s.kvSlotted c t w a 8 && s.kvSlotted c t w p pageBytes) then .stuck
  else .page p ((s.setPool c 12 (n - 1)).setPool c 16 (s.poolHeld c + 1))

/-- Push a page onto the pool. `back` tells a returned page, which leaves HELD, from a granted one. -/
def State.pushPage (s : State) (c page : Nat) (back : Bool) : State :=
  let n := s.poolCount c
  let s := (s.wr (s.poolList c + 8 * n) (leBytes 8 page)).setPool c 12 (n + 1)
  if back then s.setPool c 16 (s.poolHeld c - 1) else s

/-! ### The page table (R288) -/

def Seq.rootEntry (x : Seq) (lp : Nat) : Nat := x.rootBase + 8 * (lp / 512)
def State.rootValid (s : State) (x : Seq) (lp : Nat) : Bool := decide (leNat (s.rd (x.rootEntry lp) 8) % 2 = 1)
def State.leafBase (s : State) (x : Seq) (lp : Nat) : Nat := leNat (s.rd (x.rootEntry lp) 8) / 8192 * 8192
def State.leafEntry (s : State) (x : Seq) (lp : Nat) : Nat := s.leafBase x lp + 16 * (lp % 512)

/-- The logical page that a full vestibule becomes. -/
def Seq.flushLp (x : Seq) : Nat := x.len / max 1 x.t - 1

/-- Pages that the flush of a sequence needs: a leaf page first where the root entry is not VALID, then the data page (R293). -/
def State.flushNeeds (s : State) (x : Seq) : Nat := if s.rootValid x x.flushLp then 1 else 2

/-- Step 1 of a flush: a page of zeros becomes the leaf table. -/
def State.setLeaf (s : State) (n page : Nat) : State :=
  let x := s.seqOf n
  let s := (s.wr page (List.replicate pageBytes 0)).wr (x.rootEntry x.flushLp) (leBytes 8 (page + 1))
  s.setSeq n { x with pages := x.pages + 1 }

/-- Steps 2 to 4 of a flush: the page, its leaf entry with CRC and VALID, and an empty vestibule. -/
def State.setData (s : State) (n page : Nat) : State :=
  let x := s.seqOf n
  let va := vestibule x.wing x.vslot
  let bs := s.rd va pageBytes
  let s := ((s.galleryCorrected va pageBytes).wr page bs).wr (s.leafEntry x x.flushLp)
    (leBytes 8 (page + 1) ++ leBytes 4 (crc32c.of bs) ++ leBytes 4 0)
  (s.setSeq n { x with pages := x.pages + 1, vfull := false, flushed := x.flushLp + 1 }).incFld RegF.kvaCntFlushes 1 x.wing

/-- Write the pages that a flush has taken, leaf page first. -/
def State.writePages (s : State) (n : Nat) : List Nat → State
  | [] => s
  | p :: l => (if s.rootValid (s.seqOf n) (s.seqOf n).flushLp then s.setData n p else s.setLeaf n p).writePages n l

/-- The outcome of a flush: `wait` for pages that the pool lacks, `stuck` for want of a slot. -/
inductive FlushRes where
  | done (s : State)
  | wait (s : State) (taken : List Nat)
  | stuck (s : State)
  | fail (s : State) (f : Fail)

/-- A flush of a task that stops keeps a leaf page that it has taken: the page goes into the table, its root entry VALID (R291, R296). -/
def State.keepLeaf (s : State) (c t n : Nat) (taken : List Nat) : State :=
  let x := s.seqOf n
  if s.rootValid x x.flushLp || !(s.reachAs c (s.rt c t).epochOld (x.rootEntry x.flushLp) 8) then s else s.writePages n (taken.take 1)

/-- Take the pages that the flush of sequence n still needs beside those taken; `k` bounds the pages. -/
def State.takePages (s : State) (c t n : Nat) : Nat → List Nat → FlushRes
  | 0, l => .wait s l
  | k + 1, l =>
    if s.flushNeeds (s.seqOf n) ≤ l.length then .wait s l
    else
      match s.takePage c t (s.seqOf n).wing with
      | .page p s => s.takePages c t n k (l ++ [p])
      | .empty => .wait s l
      | .stuck => .stuck (s.keepLeaf c t n l)
      | .prot a => .fail (s.keepLeaf c t n l) (Fail.addr .protFault a)

/-- The flush of the vestibule of sequence n for a task, with pages already taken: written, or waiting for pages, or refused (R291, R293,
R296). The root entry is checked and the vestibule read before any page is taken (log 123). While it waits, pages taken are written where the
leaf page is among them. -/
def State.flush (s : State) (c t n : Nat) (taken : List Nat) : FlushRes :=
  let x := s.seqOf n
  let root := x.rootEntry x.flushLp
  let va := vestibule x.wing x.vslot
  if ¬ s.reachAs c (s.rt c t).epochOld root 8 then .fail s (Fail.addr .protFault root)
  else if ¬ (s.kvSlotted c t x.wing root 8 && s.kvSlotted c t x.wing va pageBytes) then .stuck s
  else if s.poisoned va pageBytes then .fail (s.galleryFail c va pageBytes).2 (s.galleryFail c va pageBytes).1
  else
    match s.takePages c t n 3 taken with
    | .wait s l =>
      if s.flushNeeds (s.seqOf n) ≤ l.length then .done (s.writePages n l) else .wait (s.writePages n l) []
    | r => r

/-! ### Appending (R292, R293) -/

/-- Place one token of a tile row in the vestibule. -/
def State.placeToken (s : State) (n : Nat) (img : List Byte) (row : Nat) : State :=
  let x := s.seqOf n
  let i := x.len % max 1 x.t
  let base := vestibule x.wing x.vslot
  let src := (img.drop 64).drop (spanBytes x.fmt (row * (2 * x.h * x.d)))
  let s := overList (List.range (2 * x.h)) (fun k s =>
    s.wr (base + x.off (k / max 1 x.h) (k % max 1 x.h) i) ((src.drop (k * x.headBytes)).take x.headBytes)) s
  s.setSeq n { x with len := x.len + 1, vfull := decide ((x.len + 1) % max 1 x.t = 0) }

/-- A token tile passes the checks of R163, R164 and R292 for a sequence. -/
def Seq.tileOk (x : Seq) (img : List Byte) : Bool :=
  let h := Hdr.ofBytes img
  tileGood img (some x.fmt) && (h.cols == 2 * x.h * x.d) && (h.scale == x.scale)

/-- Run an append from its place: tokens in tile order and row order, flushing each full page at once. The place counts tiles by
65,536 and rows. Without a slot for a transfer it goes no further (spec/01_module_and_one_step.md R18). -/
def State.appendRun (s : State) (c t n : Nat) (a : AppendEntry) : Nat → FlushRes
  | 0 => .done s
  | k + 1 =>
    let x := s.seqOf n
    if x.vfull then
      match s.flush c t n [] with
      | .done s => s.appendRun c t n a k
      | r => r
    else
      let place := (s.rt c t).place
      let tile := place / 65536
      let row := place % 65536
      if a.tiles ≤ tile then .done s
      else
        let addr := a.src + tileBytes * tile
        let img := s.rd addr tileBytes
        if ¬ (s.kvSlotted c t x.wing addr tileBytes && s.kvSlotted c t x.wing (vestibule x.wing x.vslot) pageBytes) then .stuck s
        else if row = 0 ∧ s.poisoned addr tileBytes then .fail (s.galleryFail c addr tileBytes).2 (s.galleryFail c addr tileBytes).1
        else if row = 0 ∧ ¬ x.tileOk img then .fail (s.evSeal (uKv x.wing) c addr img) (Fail.addr .tileSeal addr)
        else if x.t * 2 ^ 20 ≤ x.len then .fail s (Fail.addr .streamFault 0)
        else
          let next := if (Hdr.ofBytes img).rows ≤ row + 1 then (tile + 1) * 65536 else place + 1
          let s := if row = 0 then s.galleryCorrected addr tileBytes else s
          ((s.placeToken n img row).updRt c t (fun r => { r with place := next })).appendRun c t n a k

/-- Enough turns for every token and flush of an append. -/
def State.appendFuel (s : State) (a : AppendEntry) : Nat :=
  2 * ((List.range a.tiles).map (fun i => field (s.rd (a.src + tileBytes * i) 4) 2 2)).sum + 2 * a.tiles + 4

/-! ### Reading a page (R289, R294) -/

/-- What reading a page comes to: `stuck` where the KV unit has no slot for a transfer. -/
inductive PageRes where
  | bytes (s : State) (b : List Byte)
  | stuck
  | fail (s : State) (f : Fail)
  deriving DecidableEq, Repr

/-- Bytes of logical page lp for an attend task: from the vestibule, with the gallery's own protection, or a flushed page with its CRC
checked. -/
def State.readPage (s : State) (c t n lp : Nat) : PageRes :=
  let old := (s.rt c t).epochOld
  let x := s.seqOf n
  let va := vestibule x.wing x.vslot
  if lp = x.flushed then
    if ¬ s.kvSlotted c t x.wing va pageBytes then .stuck
    else if s.poisoned va pageBytes then .fail (s.galleryFail c va pageBytes).2 (s.galleryFail c va pageBytes).1
    else .bytes (s.galleryCorrected va pageBytes) (s.rd va pageBytes)
  else if ¬ s.kvMay c old false (x.rootEntry lp) 8 then .fail s (Fail.addr .protFault (x.rootEntry lp))
  else if ¬ s.rootValid x lp then .fail s (Fail.addr .streamFault (x.rootEntry lp))
  else
    let le := s.leafEntry x lp
    if ¬ s.kvMay c old false le 16 then .fail s (Fail.addr .protFault le)
    else
      let e := s.rd le 16
      let page := field e 0 8 / 8192 * 8192
      if field e 0 8 % 2 = 0 then .fail s (Fail.addr .streamFault le)
      else if ¬ s.kvMay c old false page pageBytes then .fail s (Fail.addr .protFault page)
      else if ¬ (s.kvSlotted c t x.wing (x.rootEntry lp) 8 && s.kvSlotted c t x.wing le 16 && s.kvSlotted c t x.wing page pageBytes) then .stuck
      else
        let bs := s.rd page pageBytes
        let crc := crc32c.of bs
        if crc = field e 8 4 then .bytes s bs
        else .fail (s.event (uKv x.wing) 0x0101 3 (some c) [(16, 4, n), (20, 4, lp), (24, 4, field e 8 4), (28, 4, crc)])
          (Fail.addr .tileSeal page)

/-- Free a sequence without returning its pages (R350), or after they were returned. -/
def State.freeSeq (s : State) (n : Nat) : State :=
  let w := (s.seqOf n).wing
  (s.setSeq n {}).syncKva w

end Sys2Proof.Machine
end

