-- ==== Sys2Proof/Machine/TaskOps.lean ====
section
/-! DEFINITION. How a task ends: completion, and abort with everything its units leave behind (spec/03_exact_path.md R81,
spec/04_matrix_arrays.md R108, spec/05_vector_engines.md R144, spec/06_gallery_streams_tiles.md R183, spec/08_backward_and_deposit.md
R240, spec/09_ledger_reduction_update.md R256, R269, spec/11_ralda_link.md R321), and the end of a RUN (spec/12_rings_contexts_rota.md
R340, R347). -/

namespace Sys2Proof.Machine

def TaskState.ended : TaskState → Bool
  | .completed => true | .aborted => true | .cancelled => true | _ => false
def TaskState.fresh : TaskState → Bool
  | .idle => true | .armed => true | _ => false
def TaskState.live : TaskState → Bool
  | .armed => true | .running => true | .suspended => true | _ => false

/-! ### Units of a task -/

/-- Arrays that work for a task. -/
def State.arraysOf (s : State) (c t : Nat) : List Nat :=
  (List.range 8).filter (fun a => (s.array a).busy && (s.array a).ctx == c && (s.array a).task == t)

/-- Engines that work for a task. -/
def State.enginesOf (s : State) (c t : Nat) : List Nat :=
  (s.eng.filter (fun x => x.2.run != .idle && x.2.ctx == c && x.2.task == t)).map (fun x => x.1)

/-- An array is free. One that ramps goes on ramping (R110). -/
def ArrayU.freed (x : ArrayU) : ArrayU :=
  { x with busy := false, started := false, lastOut := false, doneJobs := [], shadow := [], load := none, loaded := false }
def State.freeArray (s : State) (a : Nat) : State := (s.putArray a (s.array a).freed).setStalled a 0

/-- An aborting array drains, discards its chain states and invalidates its shadow registers; where it aborts a job, the next job begins by
moving front (R94, R108). -/
def ArrayU.aborted (x : ArrayU) : ArrayU :=
  { x.freed with store := [], active := [], front := x.front || x.started, skidIn := List.replicate 24 0, skidOut := List.replicate 16 0,
                 nOrg := none, mOrg := none }
def State.abortArray (s : State) (a : Nat) : State :=
  let s := { s with starts := (s.starts.map (fun (g : StartGroup) => { g with queue := g.queue.filter (fun q => q.1 != a) })).filter
                     (fun g => !g.queue.isEmpty) }
  (s.putArray a (s.array a).aborted).setStalled a 0

/-- An engine is free; its registers are cleared when the next job starts. The flag word of a job that aborts goes to no register (R142 ORs it
at a job's end; DESIGN CHOICE, log 113). -/
def State.freeEngine (s : State) (e : Nat) : State := s.updEngine e (fun x => { x with run := .idle })

/-! ### The ledger step of a task (R256, R269) -/

/-- The groups that a task updates: those of its update-mode jobs, and the one that its role names (log 117). -/
def Task.updGroups (k : Task) : List Nat :=
  let jobs : List Nat := (k.vecJobs.filter (fun j => j.mode == 1 && j.group != 0xFFFF)).map (fun j => j.group)
  let own : List Nat := match k.role with | .update g => [g] | _ => []
  (jobs ++ own).eraseDups

/-- The groups whose update a job of a task is: its own, else the one that the task's role names. -/
def Task.jobGroups (k : Task) (j : VecJob) : List Nat :=
  if j.group != 0xFFFF then [j.group] else (match k.role with | .update g => [g] | _ => [])

/-- The groups that a task updates or packs. -/
def Task.stepGroups (k : Task) : List Nat := k.updGroups ++ (match k.role with | .pack g => [g] | _ => [])

/-- The ledger entries of the groups that a task updates or packs, that of its ledger task, and those of the chunks that its jobs are bound to. -/
def State.ownLedgers (s : State) (c t : Nat) : List Nat :=
  let k := s.task c t
  k.ledger.toList ++ k.stepGroups.filterMap (s.ledgerOf c) ++ k.vecJobs.filterMap (fun j => j.chunk.map (fun x => x.1))

/-- The tasks that a task depends on, directly or through others, within its step: what lies behind a step-end mark is another step's. -/
def Cert.stepDeps (k : Cert) (t : Nat) : List Nat :=
  times k.tasks.length (fun l => (l ++ (l.map (fun x => if (nth {} k.tasks x).stepEnd then [] else (nth {} k.tasks x).deps)).flatten).eraseDups)
    (nth {} k.tasks t).deps

/-- The ledger entries whose steps a task belongs to: an all-gather task's are those of the tasks that it depends on, directly or through
others (R262). -/
def State.ledgersOfTask (s : State) (c t : Nat) : List Nat :=
  match (s.task c t).role with
  | .allGather => (s.ownLedgers c t ++ (((s.cert c).stepDeps t).map (s.ownLedgers c)).flatten).eraseDups
  | _ => (s.ownLedgers c t).eraseDups

/-- The ports of a group's small-traffic tree. -/
def RedGroup.treePorts (g : RedGroup) : List Nat := (if g.rank = 0 then [] else [g.parent]) ++ portsOf g.children

/-- Send an abort mark over LGROUP, leaving out the port it came by. -/
def State.sendMark (s : State) (c le : Nat) (st : Status) (rank : Nat) (but : Option Nat) : State :=
  let g := (s.cert c).redGroup (s.ledgerEnt c le).lgroup
  s.sendTree (g.treePorts.filter (fun p => but != some p)) { kind := kAbort, op := g.number, payload := abortPayload st rank true }

/-- The marks that an aborting task of ledger steps makes (R256); one from a lower rank stands. The other tasks of the steps on this device abort
by them too (`State.markedBy`). -/
def State.ledgerAbortMark (s : State) (c t : Nat) (st : Status) : State :=
  overList (s.ledgersOfTask c t) (fun le s =>
    let l := s.ledgerEnt c le
    let x := s.ledger c le
    if l.devices ≤ 1 ∨ x.mark.any (fun m => decide (m.2 ≤ l.rank)) then s
    else (((s.setLedger c le { x with mark := some (st.code, l.rank) }).undoUpdates c le st.code).sendMark c le st l.rank none)) s

/-! ### Aborts over the transport (R321) -/

/-- The tree ports of the small traffic that a task runs beside ledger steps (R320). -/
def State.smallPorts (s : State) (c t : Nat) : List Nat :=
  match (s.task c t).small with
  | some g => ((s.cert c).redGroup g).treePorts
  | none => []

/-- A reduction that this device sends to itself (spec/09_ledger_reduction_update.md R253). -/
def State.ownReduce (s : State) (e : SendEntry) : Bool := e.kind == .reduce && e.target == s.fld RegF.glbLinkCfgDevId

/-- A combiner that aborts is a sender in its reduction: the devices to which it sends what it has merged hear of it (R319, R321, spec/03 R81). -/
def State.abortOnward (s : State) (c op : Nat) (st : Status) : State :=
  let g := (s.cert c).redGroup op
  if g.number = op ∧ g.combiner then
    overList g.dests (fun d s => s.originate { kind := kAbort, hops := d.hops, dstWing := d.dstWing, dstDev := d.dstDev, queue := d.queue,
                                               route := d.route, op := op, payload := abortPayload st 0 }) s
  else s

/-- Tell the receivers of an aborting sender on other devices, a combiner's destinations among them, the senders there of an aborting
receiver (those that it has heard, and those that the certificate names), and the tree of its small traffic. -/
def State.transportAborts (s : State) (c t : Nat) (st : Status) : State :=
  let s := s.sendTree (s.smallPorts c t) { kind := kAbort, op := (s.task c t).small.getD 0, payload := abortPayload st 0 }
  let s := overList ((s.task c t).sends.filter (fun e => !s.ownReduce e)) (fun e s =>
    overList e.receivers (fun p s =>
      s.sendMsg (e.out p) { s.sendEntryMsg e p kAbort 0 (abortPayload st 0) with hop := 1 }) s) s
  overList ((s.cert c).queues.filter (fun b => b.task == t)) (fun b s =>
    let x := s.rqueue b.wing b.queue
    if x.held && x.ctx == c then
      let named := x.heard ++ b.senders.filter (fun y => !(x.heard.any (fun z => z.1 == y.1)))
      let s := overList (named.filter (fun y => y.1 != s.fld RegF.glbLinkCfgDevId)) (fun y s =>
        s.abortBack y.2.1 { hop := y.2.2, srcDev := y.1, op := b.op } st) s
      s.abortOnward c b.op st
    else s) s

/-- The other tasks of the context at the other end of the reductions that a task sends to this device itself or takes from it. -/
def State.ownPeers (s : State) (c t : Nat) : List Nat :=
  let qs := (s.cert c).queues
  let takes : List Nat := (((s.task c t).sends.filter s.ownReduce).map (fun e => (qs.filter (fun b => b.op == e.op)).map (fun b => b.task))).flatten
  let ops : List Nat := (qs.filter (fun b => b.task == t)).map (fun b => b.op)
  let gives : List Nat := (s.cert c).tasks.zipIdx.filterMap (fun k =>
    if k.1.sends.any (fun e => s.ownReduce e && ops.contains e.op) then some k.2 else none)
  (takes ++ gives).filter (fun y => y != t)

/-- An aborted task adds nothing more to a reduction: the sums of the products that its queues own go, and so do the status items of what it
converted into their buffers (spec/03_exact_path.md R81). -/
def State.dropProducts (s : State) (c t : Nat) : State :=
  let ops : List Nat := ((s.cert c).queues.filter (fun b => b.task == t)).map (fun b => b.op)
  s.updProg c (fun p => { p with products := p.products.filter (fun x => !ops.contains (x.1 / 2 ^ 32)),
                                 prodHdr := p.prodHdr.filter (fun x => x.1 / 2 ^ 64 != t) })

/-! ### Abort and completion of a task -/

/-- The stream units by which a task's multicasts read their sources again (R323). -/
def Task.recallUnits (k : Task) : List Nat := (k.sends.filter (fun e => e.kind == .multicast)).map (fun e => 128 * k.wing + e.recallUnit)

/-- A waiting sequence returns to OPEN; one in RELEASING stays so. -/
def State.reopenSeq (s : State) (n : Nat) : State :=
  let x := s.seqOf n
  if x.state = .waiting then s.setSeq n { x with state := .open } else s

/-- The append entry of a task names a sequence that waits: it returns to OPEN, with a leaf page that its flush has taken in the table (R296).
Other pages that it has taken go back to the pool (DESIGN CHOICE, log 123). -/
def State.stopAppend (s : State) (c t : Nat) : State :=
  match s.kvWait.find? (fun k => k.ctx == c && k.task == t) with
  | none => s
  | some k =>
    let x := s.seqOf k.seq
    let s := s.keepLeaf c t k.seq k.pages
    let s := overList (k.pages.filter (fun p => !(s.rootValid x x.flushLp && p == s.leafBase x x.flushLp))) (fun p s => s.pushPage c p true) s
    let s := s.reopenSeq k.seq
    let s := { s with kvWait := s.kvWait.filter (fun k => !(k.ctx == c && k.task == t)) }
    (s.setPool c 20 (s.poolWanted c - 1)).syncKva x.wing

/-- The receive queues of an aborted task are empty: the operation has ended with it (log 121). -/
def State.emptyQueues (s : State) (c t : Nat) : State :=
  overList ((s.cert c).queues.filter (fun b => b.task == t)) (fun b s =>
    let x := s.rqueue b.wing b.queue
    if x.held && x.ctx == c then s.setRq b.wing b.queue { x with rd := x.wr, used := 0, taken := 0, froms := [] } else s) s

/-- One task ends with a status and detail: its reports are discarded; its units, streams, movers, queues and shelves end by their rules; the
groups that it updates take the status (R269), and the other devices of its operations and of its ledger step hear of it. -/
def State.abortOne (s : State) (c t : Nat) (st : Status) (detail : W64) (remote : Bool) : State :=
  let s := s.updRt c t (fun x => { x with st := .aborted, status := st, detail := detail, remote := remote, rep := [], att := none })
  let s := overList (s.arraysOf c t) (fun a s => s.abortArray a) s
  let s := overList (s.enginesOf c t) (fun e s => (s.tornTout e).freeEngine e) s
  let s := (s.stopStreams c t).dropStreamReads (s.task c t).recallUnits.contains
  let s := s.stopMovers c t
  let s := s.stopCouriers c t
  let s := s.breakShelves c t
  let s := s.stopAppend c t
  let s := s.dropProducts c t
  let s := overList (s.task c t).updGroups (fun g s => s.setLastStatus c g st.code) s
  ((if remote then s else s.ledgerAbortMark c t st).transportAborts c t st).emptyQueues c t

/-- Abort tasks of a list that have not ended, and those at the other end of their reductions within this device, as tasks that a transport abort
of this device ends (R321). -/
def State.abortPeers (c : Nat) (st : Status) : Nat → List Nat → State → State
  | 0, _, s => s
  | _, [], s => s
  | n + 1, t :: l, s =>
    if (s.rt c t).st.ended ∨ ¬ (s.rt c t).inRun then abortPeers c st n l s
    else abortPeers c st n (l ++ s.ownPeers c t) (s.abortOne c t st (BitVec.ofNat 64 (s.fld RegF.glbLinkCfgDevId)) true)

/-- Abort a task with a status and detail. The first status stands. -/
def State.abortTask (s : State) (c t : Nat) (st : Status) (detail : W64) (remote : Bool := false) : State :=
  let x := s.rt c t
  if x.st.ended ∨ ¬ x.inRun then s
  else
    let n := (s.cert c).tasks.length
    abortPeers c st (n * n + n) (s.ownPeers c t) (s.abortOne c t st detail remote)

/-- Complete a running task: its reports go to the scale manager, its arrays and engines are free. -/
def State.completeTask (s : State) (c t : Nat) (st : Status) (detail : W64) : State :=
  let s := s.handReports c t
  let s := s.updRt c t (fun x => { x with st := .completed, status := st, detail := detail })
  let s := overList (s.arraysOf c t) (fun a s => s.freeArray a) s
  let s := overList (s.enginesOf c t) (fun e s => s.freeEngine e) s
  overList s.cour (fun k s =>
    let x := s.courier k.1
    if x.held && x.ctx == c && x.task == t then (s.endChans true k.1).putCourier k.1 { x with held := false } else s) s

/-! ### The end of a RUN (R340, R347) -/

/-- The tasks of the RUN in progress. -/
def State.runTasks (s : State) (c : Nat) : List Nat :=
  match s.prog c with
  | some p => match p.run with
    | some r => (nth ⟨[], 0⟩ p.cert.entries r.entry).tasks
    | none => []
  | none => []

/-- The aborted task with the lowest certificate index. -/
def State.firstAborted (s : State) (c : Nat) : Option Nat :=
  ((s.runTasks c).filter (fun t => (s.rt c t).st == .aborted)).foldl
    (fun a t => match a with | some b => some (min b t) | none => some t) none

/-- The task of the lowest-numbered ledger entry whose verdict skipped. -/
def State.firstSkipped (s : State) (c : Nat) : Option Nat :=
  let l := (s.runTasks c).filter (fun t => (s.task c t).ledger.isSome && (s.rt c t).status != .ok)
  l.foldl (fun a t => match a with
    | some b => if (s.task c t).ledger.getD 0 < (s.task c b).ledger.getD 0 then some t else some b
    | none => some t) none

/-- The RUN is over: every task of its entry has ended. -/
def State.runOver (s : State) (c : Nat) : Bool :=
  match (s.prog c).bind (fun p => p.run) with
  | some _ => (s.runTasks c).all (fun t => (s.rt c t).st.ended)
  | none => false

/-- Complete the RUN with its final status. -/
def State.endRun (s : State) (c : Nat) : State :=
  match (s.prog c).bind (fun p => p.run) with
  | none => s
  | some r =>
    let s := match s.firstAborted c with
      | some t => s.finish c r.desc (s.rt c t).status (s.rt c t).detail t (s.rt c t).remote
      | none => match s.firstSkipped c with
        | some t => s.finish c r.desc (s.rt c t).status (s.rt c t).detail t
        | none => s.finish c r.desc .ok (BitVec.ofNat 64 (min 65535 r.detached))
    s.updProg c (fun p => { p with run := none, tasks := Tbl.mapAll {} p.tasks (fun _ x => { x with inRun := false }) })

end Sys2Proof.Machine
end

