-- ==== Sys2Proof/Machine/Sched.lean ====
section
/-! DEFINITION. The ready-pick scheduler and what follows each event: cancelling, arming, starting, the ledger's rounds and verdicts,
barriers and the end of a RUN (spec/08_backward_and_deposit.md R226 to R244, spec/09_ledger_reduction_update.md R253 to R263,
spec/11_ralda_link.md R320, R327, spec/12_rings_contexts_rota.md R351, R354). `settle` applies them until none applies. -/

namespace Sys2Proof.Machine

/-! ### Ready lists (R241, R243) -/

/-- Wings of a context. -/
def State.wingsOf (s : State) (c : Nat) : List Nat := (List.range 4).filter (fun w => (s.fld RegF.ctxCfgWings c).testBit w)

/-- The ready list of a context on a wing, as far as the RUN in progress has its tasks. -/
def State.wlist (s : State) (c w : Nat) : List ReadyEntry := (nth [] (s.cert c).lists w).filter (fun e => (s.rt c e.task).inRun)

/-- Entries that have not started. -/
def State.notStarted (s : State) (c w : Nat) : List ReadyEntry := (s.wlist c w).filter (fun e => (s.rt c e.task).st.fresh)

/-- The list entry of a task on its wing. -/
def State.entryOf (s : State) (c t : Nat) : ReadyEntry :=
  ((nth [] (s.cert c).lists (s.task c t).wing).find? (fun e => e.task == t)).getD { task := t }

/-- Every step-end mark before a task in its list has finished. -/
def State.marksBefore (s : State) (c t : Nat) : Bool :=
  ((s.wlist c (s.task c t).wing).takeWhile (fun e => e.task != t)).all (fun e => !(s.task c e.task).stepEnd || (s.rt c e.task).st.ended)

/-- The tasks of a RUN that a task depends on. -/
def State.deps (s : State) (c t : Nat) : List Nat := (s.task c t).deps.filter (fun d => (s.rt c d).inRun)

def State.canArm (s : State) (c t : Nat) : Bool :=
  let x := s.rt c t
  x.inRun && x.st == .idle && s.marksBefore c t &&
    (s.deps c t).all (fun d => if (s.task c t).stepEnd then (s.rt c d).st.ended else (s.rt c d).st == .completed)

/-- A task that an aborted task precedes can no longer start (spec/03 R81). -/
def State.canCancel (s : State) (c t : Nat) : Bool :=
  let x := s.rt c t
  x.inRun && x.st.fresh && !(s.task c t).stepEnd &&
    (s.deps c t).any (fun d => (s.rt c d).st == .aborted || (s.rt c d).st == .cancelled)

/-- A task of a ledger step with an abort mark, of this device or of another: it aborts with the mark's status and rank, so that the step ends
in the same way on every device (R256, log 118). The third part tells a mark of another device. -/
def State.markedBy (s : State) (c t : Nat) : Option (Status × Nat × Bool) :=
  if (s.rt c t).st.ended ∨ ¬ (s.rt c t).inRun then none
  else ((s.ledgersOfTask c t).filterMap (fun le => (s.ledger c le).mark.map (fun m =>
    (Status.ofCode m.1, m.2, m.2 != (s.ledgerEnt c le).rank)))).head?

/-- A task is void: its guard group, or the group it updates or packs, was frozen at the last mark (R226, R268). -/
def State.voidTask (s : State) (c t : Nat) : Bool :=
  let fr := ((s.prog c).getD {}).frozen
  fr.contains (s.entryOf c t).guard || (s.task c t).stepGroups.any fr.contains

/-! ### Arming (R227, R232 to R235, R240, R243) -/

/-- An out-stream that writes out a receive queue's ring takes it over as it stands: the messages that have come are in their slots (spec/11
R316). -/
def State.takeRing (s : State) (u : Nat) (x : Stream) : Stream :=
  match s.queueOfStream u with
  | none => x
  | some (w, q) =>
    let y := s.rqueue w q
    let n := max 1 x.slots.length
    { x with ring := y.rd % n, first := y.rd % n, writer := y.wr % n,
             slots := (List.range x.slots.length).map (fun i => if (i + n - y.rd % n) % n < y.used then .full 0 else .empty) }

/-- A standing loan that a task re-arms has ended, or its unit holds none of the context (R182). -/
def State.loanGone (s : State) (c t : Nat) (e : StreamEntry) : Bool :=
  let x := s.stream (128 * (s.task c t).wing + e.unit)
  e.rearm && !(x.held && x.ent.standing && x.ctx == c)

/-- Bind a stream unit to a task. A re-arm whose list the loan has taken already only names the task. -/
def State.bindStream (s : State) (c t : Nat) (e : StreamEntry) (isVoid : Bool) : State :=
  let w := (s.task c t).wing
  let u := 128 * w + e.unit
  if e.rearm then
    let x := s.stream u
    if s.loanGone c t e then s
    else if x.rearmed = some t then s.putStream u { x with task := t, rearmed := none }
    else s.putStream u ({ x with task := t, rearm := some (e.listBase, e.listCount) }).takeRearm
  else
    let b := (s.task c t).binds.find? (fun b => b.unit == e.unit)
    let pos := Tbl.get 0 (s.rt c t).depPos e.unit
    let x : Stream := { held := true, ctx := c, task := t, ent := e, listBase := e.listBase,
                        listCount := (match b with | some b => b.tiles | none => e.listCount),
                        slots := List.replicate e.slots .empty, dep := b.map (fun b => (b.shelf, pos)),
                        depVoid := isVoid, depUses := (match b with | some b => b.uses | none => 1) }
    s.putStream u (if e.out then s.takeRing u x else x)

/-- The near slots of a push lie in the context's deposit reservation. -/
def State.depFits (s : State) (c : Nat) (t : ShelfEntry) (first n : Nat) : Bool :=
  let lo := s.fld RegF.ctxDepBase64k c * 65536
  let hi := lo + s.fld RegF.ctxDepSize64k c * 65536
  (List.range (min n t.nearTiles)).all (fun i => decide (lo ≤ t.nearSlot (first + i) ∧ t.nearSlot (first + i) + tileBytes ≤ hi))

/-- Make one deposit reservation at arming; a fault gives the status and detail of the abort. -/
def State.reserve (s : State) (c t : Nat) (b : DepBind) (isVoid : Bool) : State × Option Fail :=
  let w := (s.task c t).wing
  let x := s.shelfOf w b.shelf
  if ¬ x.held ∨ x.broken then (s, some (Fail.addr .streamFault 0))
  else if b.pop then
    if x.top < b.tiles then (s, some (Fail.addr .streamFault 0))
    else
      let y := { x with top := x.top - b.tiles,
                        homes := if isVoid then x.homes.filter (fun h => decide (h.1 < x.top - b.tiles)) else x.homes,
                        marked := x.marked.filter (fun p => decide (p < x.top - b.tiles)) }
      ((s.putShelf w b.shelf y).updRt c t (fun r => { r with depPos := Tbl.set 0 r.depPos b.unit (x.top - b.tiles) }), none)
  else if x.ent.depthTiles < x.top + b.tiles ∨ ¬ s.depFits c x.ent x.top b.tiles then
    let s := s.event (uWing w) 0x0107 2 (some c) [(16, 1, b.shelf), (17, 1, w), (20, 4, x.top)]
    (s, some ⟨.depositFull, BitVec.ofNat 64 (b.shelf + 16 * w + 2 ^ 32 * (s.evr.last % 2 ^ 32))⟩)
  else
    let h : DepHome := if isVoid then .void else .waiting
    let y := (List.range b.tiles).foldl (fun (y : Shelf) i => y.setHome (x.top + i) h) x
    let y := { y with top := x.top + b.tiles }
    ((s.putShelf w b.shelf { y with marked := y.marked ++ y.toMark (y.top - 1) }).updRt c t (fun r =>
      { r with depPos := Tbl.set 0 r.depPos b.unit x.top }), none)

/-- The start of an attend task: its sequence and its number of keys, which KEY_END 0 takes from LEN at arming (spec/10 R276). -/
def State.attendStart (s : State) (c : Nat) (a : AttendEntry) : AttendSt :=
  let n := (s.seqRef c a.seq).getD 0
  { keyEnd := if a.fromStreams ∨ a.keyEnd ≠ 0 then a.keyEnd else (s.seqOf n).len, seq := n }

/-- Sequences that a task names. -/
def Task.seqRefs (k : Task) : List Nat :=
  (match k.attend with | some a => if a.fromStreams then [] else [a.seq] | none => []) ++
    (match k.append with | some a => [a.seq] | none => [])

/-- A task names a sequence that a KV_RELEASE has put in RELEASING (spec/10 R298). -/
def State.namesReleasing (s : State) (c t : Nat) : Bool :=
  (s.task c t).seqRefs.any (fun r => match s.seqRef c r with | some n => (s.seqOf n).state == .releasing | none => false)

/-- Arm a task: deposit reservations, then its in-streams; a void task starts no stream. -/
def State.armTask (s : State) (c t : Nat) : State :=
  let v := s.voidTask c t
  let fr := ((s.prog c).getD {}).frozen
  let s := s.updRt c t (fun x => { x with st := .armed, isVoid := v, att := (s.task c t).attend.map (s.attendStart c),
                                          bar := (s.task c t).barrier.map (fun _ => ({} : BarrierSt)) })
  let r := (s.task c t).binds.foldl (fun (a : State × Option Fail) b =>
    match a.2 with
    | some _ => a
    | none => a.1.reserve c t b (v || fr.contains b.guard)) (s, none)
  match r.2 with
  | some f => r.1.abortTask c t f.st f.detail
  | none =>
    if !v && s.namesReleasing c t then r.1.abortTask c t .streamFault 0
    else if v then r.1
    else overList ((s.task c t).streams.filter (fun e => !e.out)) (fun e s =>
      s.bindStream c t e ((s.task c t).binds.any (fun b => b.unit == e.unit && fr.contains b.guard))) r.1

/-! ### Readiness (R170, R220, R243, R295) -/

/-- The first slot that an in-stream delivers to a task is FULL; a re-armed loan delivers entry 0 of its new list first, once the re-arm
has taken effect (R171). A task whose loan has ended waits for none of its tiles: it aborts when it starts (R183). -/
def State.inputHere (s : State) (c t : Nat) (e : StreamEntry) : Bool :=
  let x := s.stream (128 * (s.task c t).wing + e.unit)
  s.loanGone c t e || x.depVoid || (x.rearm.isNone && decide (1 ≤ x.next) && (x.slot x.first).isFull)

/-- The prefetch entries that name the task as DUE have completed. -/
def State.prefetched (s : State) (c t : Nat) : Bool :=
  (List.range 4).all (fun w => (nth [] (s.cert c).prefetch w).zipIdx.all (fun x =>
    x.1.due != t || ((s.prog c).getD {}).prefetchDone.contains (w, x.2)))

/-- Another task's running or suspended append names a sequence of the task. -/
def State.seqHeld (s : State) (c t : Nat) : Bool :=
  (s.task c t).seqRefs.any (fun r => match s.seqRef c r with
    | none => false
    | some n => s.runningTasks.any (fun y => y != (c, t) && (match (s.task y.1 y.2).append with
      | some a => s.seqRef y.1 a.seq == some n
      | none => false)))

def State.isReady (s : State) (c t : Nat) : Bool :=
  let x := s.rt c t
  x.st == .armed && (x.isVoid ||
    (((s.task c t).streams.filter (fun e => !e.out)).all (fun e => s.inputHere c t e) && s.prefetched c t &&
      !s.seqHeld c t))

/-- An address lies in the board tier or legacy flash. -/
def lateTier (a : Nat) : Bool := match homeOf a with | .board _ => true | .flash _ => true | _ => false

/-- The tile that an in-stream still owes a task comes from the board tier or legacy flash, whether it is on its way or waits for its mark
(R170). -/
def State.lateStream (s : State) (c t : Nat) (e : StreamEntry) : Bool :=
  let u := 128 * (s.task c t).wing + e.unit
  let x := s.stream u
  match x.slot x.first with
  | .filling a _ _ => lateTier a
  | _ => x.held && decide (x.next < x.listCount) && lateTier (s.nextEntry u).addr

/-- A move brings its tiles from the board tier or legacy flash. -/
def MoveItem.late (m : MoveItem) : Bool := m.kind != .move || m.srcHome == 1 || m.srcHome == 3

/-- The prefetch entries that name a task as DUE and have not completed come from the board tier or legacy flash. -/
def State.latePrefetch (s : State) (c t : Nat) : Bool :=
  (List.range 4).all (fun w => (nth [] (s.cert c).prefetch w).zipIdx.all (fun x =>
    x.1.due != t || ((s.prog c).getD {}).prefetchDone.contains (w, x.2) || (nth {} (s.cert c).moves x.1.move).late))

/-- An armed task is not ready only because of tiles from the board tier or legacy flash (R221). -/
def State.lateOnly (s : State) (c t : Nat) : Bool :=
  (s.rt c t).st == .armed && !s.isReady c t && !s.seqHeld c t && s.latePrefetch c t &&
    ((s.task c t).streams.filter (fun e => !e.out && !s.inputHere c t e)).all (fun e => s.lateStream c t e)

/-- Tasks that run on a wing, with their contexts; a suspended append holds no unit, and a step-end mark holds every wing of its
context (spec/01_module_and_one_step.md R13). -/
def State.onWing (s : State) (w : Nat) : List (Nat × Nat) :=
  s.runningTasks.filter (fun y => (s.rt y.1 y.2).st == .running &&
    (if (s.task y.1 y.2).stepEnd then (s.wingsOf y.1).contains w else (s.task y.1 y.2).wing == w))

/-- The arrays and engine groups of an entry are idle on its wing. -/
def State.unitsIdle (s : State) (w : Nat) (e : ReadyEntry) : Bool :=
  (s.onWing w).all (fun y => let f := s.entryOf y.1 y.2; (f.arrays &&& e.arrays == 0) && (f.groups &&& e.groups == 0))

/-! ### Slots of the rota (R351, R353, R354) -/

def State.rotaSlot (s : State) (w : Nat) : RotaSlot := nth {} (s.wrota w).rota.slots (s.wrota w).cur
def State.slotOwner (s : State) (w : Nat) : Option Nat := (s.rotaSlot w).owner

/-- Nanoseconds of the present slot that have passed. -/
def State.elapsedNs (s : State) (w : Nat) : Nat := 4 * (s.time - (s.wrota w).began)
def State.slotLeft (s : State) (w : Nat) : Nat := 1000 * (s.rotaSlot w).len - s.elapsedNs w

/-- Nanoseconds to the end of the present slot run; none where its owner owns every slot. -/
def State.runLeft (s : State) (w : Nat) : Option Nat :=
  let l := (s.wrota w).rota.slots
  let o := s.slotOwner w
  if l.all (fun x => x.owner == o) then none
  else
    let ring := (l.drop (s.wrota w).cur) ++ (l.take (s.wrota w).cur)
    some (1000 * (((ring.takeWhile (fun x => x.owner == o)).map (fun x => x.len)).sum) - s.elapsedNs w)

/-- The task's nominal time ends within a number of nanoseconds (R351). -/
def State.fits (s : State) (c t limit : Nat) : Bool :=
  let k := s.task c t
  fitsIn k.nomIssue k.nomCpll k.nomNs s.cpllMhz (levelDuty s.level) limit

/-! ### Starting a task (R351) -/

/-- The ports of a queue's operation: those by which its messages come, by the certificate and by what has come, and a combiner's way on. -/
def State.queuePorts (s : State) (c : Nat) (b : QueueBind) : List Nat :=
  let q := s.rqueue b.wing b.queue
  let g := (s.cert c).redGroup b.op
  b.ports ++ (if q.held && q.ctx == c then q.heard.map (fun y => y.2.1) else []) ++
    (if g.number = b.op ∧ g.combiner then g.dests.map (fun d => bits d.route.toNat 0 4) else [])

/-- The ports on which a task has operations: its sends, with or without its multicasts, its queues, its barrier, its ledger's tree and that of
its small traffic. -/
def State.opPorts (s : State) (c t : Nat) (mcast : Bool) : List Nat :=
  let k := s.task c t
  ((k.sends.filter (fun e => (mcast || e.kind != .multicast) && !s.ownReduce e)).map (fun e => e.receivers.map (fun p => e.out p))).flatten ++
    (((s.cert c).queues.filter (fun b => b.task == t)).map (s.queuePorts c)).flatten ++
    (match k.barrier with | some b => (if b.root then [] else [b.parent]) ++ portsOf b.children | none => []) ++
    (match k.ledger with
      | some le =>
        let l := s.ledgerEnt c le
        if l.devices ≤ 1 then [] else ((s.cert c).redGroup l.lgroup).treePorts
      | none => []) ++ s.smallPorts c t

/-- The status of a port for a certificate: down, or below the width that it names. -/
def State.portFail (s : State) (c p : Nat) : Option Status :=
  if ¬ s.portUp p then some .linkDown
  else if s.fld RegF.lnkStsState p = 3 ∧ ¬ (s.cert c).halfPorts.contains p then some .linkDegraded
  else none

def State.portDetail (s : State) (p : Nat) : W64 := BitVec.ofNat 64 (p + 2 ^ 16 * s.peer p)

/-- Why a sequence lets a task not start: out of range, or not OPEN. -/
def State.seqFail (s : State) (c r : Nat) : Option Fail :=
  match s.seqRef c r with
  | none => some (Fail.addr .protFault 0)
  | some n =>
    if ¬ s.seqInRange c n then some (Fail.addr .protFault 0)
    else if (s.seqOf n).state = .open ∨ (s.seqOf n).state = .releasing then none else some (Fail.addr .streamFault 0)

/-- Why a task aborts when it starts: an ended standing loan, whose record names its unit at list position 0 (R182), a lost port, a sequence
that is out of range or not OPEN, a range of its ledger that the context may not reach (R367, log 132). -/
def State.startFails (s : State) (c t : Nat) : List (Fail × State) :=
  ((s.task c t).streams.filter (s.loanGone c t)).map (fun e =>
      (Fail.addr .streamFault 0, s.evStream (uStream (128 * (s.task c t).wing + e.unit)) c 0 0)) ++
    (s.opPorts c t true).filterMap (fun p => (s.portFail c p).map (fun st => (⟨st, s.portDetail p⟩, s))) ++
    (s.task c t).seqRefs.filterMap (fun r => (s.seqFail c r).map (fun f => (f, s))) ++
    ((s.task c t).ledger.bind (fun le => s.ledgerFail c le (s.rt c t).epochOld)).toList.map (fun a => (Fail.addr .protFault a, s))

/-- Of several failures in one cycle, the one with the lowest status code (spec/15_integrity_records_guarantees.md R432). -/
def lowestFail (l : List (Fail × State)) : Option (Fail × State) :=
  l.foldl (fun (a : Option (Fail × State)) f => match a with
    | some b => if f.1.st.code < b.1.st.code then some f else some b
    | none => some f) none

def State.startFail (s : State) (c t : Nat) : Option (Fail × State) := lowestFail (s.startFails c t)

/-- The index of a context's list among those the wing holds, in order of context number. -/
def State.listIndex (s : State) (c w : Nat) : Nat :=
  (s.ctx.filter (fun x => decide (x.1 < c) && x.2.prog.isSome && (s.fld RegF.ctxCfgWings x.1).testBit w)).length

/-- Show a ready list in WING_RP_STS. -/
def State.syncList (s : State) (c w : Nat) : State :=
  let i := s.listIndex c w
  let all := nth [] (s.cert c).lists w
  let s := s.setFld RegF.wingRpStsHead
    ((indexFrom (fun (e : ReadyEntry) => (s.rt c e.task).inRun && (s.rt c e.task).st.fresh) all 0).getD all.length) w i
  (s.setFld RegF.wingRpStsCtx c w i).setFld RegF.wingRpStsRunning
    ((s.onWing w).filter (fun y => y.1 == c)).length w i

/-- Run an append as far as it goes: done, suspended with PAGE_WANTED, or ended by a fault (spec/10 R293, R296). -/
def State.appendGo (s : State) (c t : Nat) : State :=
  match (s.task c t).append with
  | none => s
  | some a =>
    match s.seqRef c a.seq with
    | none => s
    | some n =>
      match s.appendRun c t n a (s.appendFuel a) with
      | .done s => s
      | .stuck s => s
      | .fail s f => s.abortTask c t f.st f.detail
      | .wait s _ =>
        let s := s.setSeq n { s.seqOf n with state := if (s.seqOf n).state = .open then .waiting else (s.seqOf n).state }
        let s := s.updRt c t (fun x => { x with st := .suspended, flushing := true })
        let s : State := { s with kvWait := s.kvWait ++ [{ seq := n, ctx := c, task := t }] }
        let s := s.setPool c 20 (s.poolWanted c + 1)
        let s := (s.syncKva (s.seqOf n).wing).incFld RegF.kvaCntWanted 1 (s.seqOf n).wing
        match (s.prog c).bind (fun p => p.run) with
        | some r => match s.desc c r.desc with
          | some d => s.complete c { tag := d.tag, status := .pageWanted, opcode := d.opcode, detail := BitVec.ofNat 64 n,
                                     task := t, interim := true }
          | none => s
        | none => s

/-! ### Resuming a suspended append (R296, R354) -/

/-- The pages that a waiting append has taken beside those it has written. -/
def State.setWaitPages (s : State) (k : KvWait) (l : List Nat) : State :=
  { s with kvWait := s.kvWait.map (fun x => if x.seq = k.seq ∧ x.ctx = k.ctx ∧ x.task = k.task then { x with pages := l } else x) }

/-- A waiting append has flushed its page: the sequence is OPEN again and the task runs. -/
def State.resumeDone (s : State) (k : KvWait) : State :=
  let s := s.reopenSeq k.seq
  let s : State := { s with kvWait := s.kvWait.filter (fun x => !(x.seq == k.seq && x.ctx == k.ctx && x.task == k.task)) }
  let s := (s.setPool k.ctx 20 (s.poolWanted k.ctx - 1)).syncKva (s.seqOf k.seq).wing
  s.updRt k.ctx k.task (fun x => { x with st := .running, flushing := false })

/-- The flush of a waiting append goes on inside its context's run: written and resumed, or still short of pages. -/
def State.resumeWait (s : State) (k : KvWait) : State :=
  match s.flush k.ctx k.task k.seq k.pages with
  | .done s => s.resumeDone k
  | .wait s l => s.setWaitPages k l
  | .stuck s => s.setWaitPages k []
  | .fail s f => s.abortTask k.ctx k.task f.st f.detail

/-- A waiting append has taken every page it needs. -/
def State.waitFull (s : State) (k : KvWait) : Bool := decide (s.flushNeeds (s.seqOf k.seq) ≤ k.pages.length)

/-- A context's waiting append goes on only in its own run of the wing, with no task of another context there: one that overhangs, or fills,
holds the owner's work (spec/01_module_and_one_step.md R13, R354). -/
def State.mayResume (s : State) (k : KvWait) : Bool :=
  let w := (s.seqOf k.seq).wing
  s.slotOwner w == some k.ctx && (s.onWing w).all (fun y => y.1 == k.ctx)

/-- The next waiting append that has every page and may go on. -/
def State.resumeAdvance (s : State) : Option State :=
  (s.kvWait.find? (fun k => s.mayResume k && s.waitFull k)).map (fun k =>
    let s := s.resumeWait k
    if (s.rt k.ctx k.task).st = .running then s.appendGo k.ctx k.task else s)

/-- Start a task: its out-streams, courier queues, arrays and sends; a void task completes at once (R227). -/
def State.startTask (s : State) (c t : Nat) : State :=
  let k := s.task c t
  let w := k.wing
  let ahead := decide (((s.notStarted c w).head?.map (fun e => e.task)) ≠ some t)
  let s := when ahead (fun s => s.incFld RegF.wingRpCntAhead 1 w (s.listIndex c w)) s
  let s := s.setFld RegF.wingRotaStsCurCtx c w
  if (s.rt c t).isVoid then s.completeTask c t .ok 0
  else
    match s.startFail c t with
    | some f => f.2.abortTask c t f.1.st f.1.detail
    | none =>
      let s := s.updRt c t (fun x => { x with movesDone := [], jobs := [] })
      let fr := ((s.prog c).getD {}).frozen
      let s := s.updRt c t (fun x => { x with st := .running, gens := s.nowGens })
      let s := overList (k.streams.filter (fun e => e.out)) (fun e s =>
        s.bindStream c t e (k.binds.any (fun b => b.unit == e.unit && fr.contains b.guard))) s
      let s := overList ((s.cert c).couriers.filter (fun b => b.task == t)) (fun b s =>
        s.putCourier (16 * w + b.queue) { held := true, ctx := c, task := t, bind := b, posted := (s.evGet w b.postEvt).toNat }) s
      let s := overList ((List.range 2).filter (fun j => (s.entryOf c t).arrays.getLsbD j)) (fun j s =>
        let a := 2 * w + j
        s.setArray a { s.array a with busy := true, ctx := c, task := t, job := 0, started := false, doneJobs := [],
                                      cfg := some (s.eff RegF.wingMaCfgForceFront w j, s.eff RegF.wingMaCfgGateIdle w j) }) s
      let s := overList (k.sends.zipIdx) (fun x s => s.setSend c t x.2 x.1.start) s
      let s := match k.ledger with
        | some le =>
          let x := s.ledger c le
          (s.setLedger c le { x with round := 0, roundScale := x.lscale, sentUp := false, verdict := none,
                                     chunks := x.chunks.filter (fun y => decide (4 * x.step ≤ y.1 / 2 ^ 32)) }).ownContributions c le
        | none => s
      (s.appendGo c t).syncList c w

/-! ### Step-end marks (R51, R239, R244) -/

/-- The context's mark may start: every held wing has reached it, in a slot that the context owns, nothing before it still runs, and no
other context holds one of the wings on (R354). -/
def State.markReady (s : State) (c t : Nat) : Bool :=
  (s.task c t).stepEnd && (s.rt c t).st == .armed && !s.holdFull c &&
    (s.wingsOf c).all (fun w => ((s.notStarted c w).head?.map (fun e => e.task)) == some t && s.slotOwner w == some c &&
      (s.onWing w).all (fun y => y.1 == c)) &&
    (s.runningTasks.filter (fun y => y.1 == c)).isEmpty

def State.startMark (s : State) (c t : Nat) : State :=
  (s.updRt c t (fun x => { x with st := .running, gens := s.nowGens })).updProg c (fun p => { p with markRunning := some t })

/-! ### The pick (R244, R354) -/

/-- An entry that a context may start now on a wing within a limit of nanoseconds. -/
def State.startable (s : State) (c w : Nat) (limit : Option Nat) (e : ReadyEntry) : Bool :=
  s.isReady c e.task && ((s.rt c e.task).isVoid || s.unitsIdle w e) &&
    (match limit with | some n => s.fits c e.task n | none => true)

/-- The first entry among the 64 that the scheduler looks at which may start. -/
def State.pickIn (s : State) (c w : Nat) (limit : Option Nat) : Option Nat :=
  if s.holdFull c ∨ s.cstate c ≠ 3 ∨ ¬ s.pwr.computeOn then none
  else ((((s.notStarted c w).takeWhile (fun e => !(s.task c e.task).stepEnd)).take 64).find? (fun e => s.startable c w limit e)).map
    (fun e => e.task)

/-- A task to start on a wing: of the slot's owner, else of its fill context. -/
def State.pickOn (s : State) (w : Nat) : Option (Nat × Nat) :=
  match s.slotOwner w with
  | none => none
  | some c =>
    if (s.onWing w).any (fun y => y.1 != c) then none
    else
      match s.pickIn c w (s.runLeft w) with
      | some t => some (c, t)
      | none =>
        match (s.rotaSlot w).fill with
        | some f =>
          if f = c ∨ (s.wrota w).rota.fillMax = 0 ∨ ¬ (s.onWing w).isEmpty then none
          else (s.pickIn f w (some (min (1000 * (s.wrota w).rota.fillMax) (s.slotLeft w)))).map (fun t => (f, t))
        | none => none

/-! ### The ledger's rounds (spec/09 R258 to R263, spec/11 R320) -/

/-- Tasks that a skip verdict of a ledger completes without running (R262). -/
def State.skippedTasks (s : State) (c le : Nat) : List Nat :=
  (s.runTasks c).filter (fun t => (s.rt c t).st.fresh && (s.ledgersOfTask c t).contains le && (s.task c t).ledger.isNone &&
    (!(s.task c t).stepGroups.isEmpty || (s.task c t).role == .allGather))

/-- The detail of a verdict (R348). -/
def verdictDetail (st : Status) (t : Summary) : W64 :=
  match st with
  | .ok => 0
  | .skippedNonfinite => BitVec.ofNat 64 (t.nfindex + 2 ^ 48 * t.nfdev)
  | _ => BitVec.ofNat 64 (t.excess + 2 ^ 8 * t.cexcess + 2 ^ 16 * t.nexcess + 2 ^ 24 * t.round)

/-- The UPDATE_SKIPPED record (R262). -/
def State.evSkipped (s : State) (c le : Nat) (st : Status) (t : Summary) : State :=
  if st = .skippedNonfinite then
    let g := ((s.ledgerEnt c le).groups.find? (fun g =>
      let b := s.groupBytes c g
      decide (field b 16 8 ≤ t.nfindex ∧ t.nfindex < field b 16 8 + field b 24 8))).getD 0xFFFF
    s.event uRed 0x0300 2 (some c) [(16, 2, le), (18, 1, st.code), (20, 4, t.nfcount), (24, 6, t.nfindex), (30, 2, t.nfdev), (32, 2, g)]
  else s.event uRed 0x0300 2 (some c) [(16, 2, le), (18, 1, st.code), (32, 2, 0xFFFF), (36, 1, t.excess), (37, 1, t.cexcess), (38, 1, t.nexcess)]

/-- The ledger task of a ledger entry in the RUN. -/
def State.ledgerTask (s : State) (c le : Nat) : Option Nat := (s.runTasks c).find? (fun t => (s.task c t).ledger == some le)

/-- Show a verdict in RED_VERDICT. -/
def State.showVerdict (s : State) (c : Nat) (outcome round : Nat) (again : Bool) (scale : Int) : State :=
  let s := (s.setFld RegF.redVerdictOutcome outcome).setFld RegF.redVerdictRound round
  let s := (s.setFld RegF.redVerdictRepeat (bit again)).setFld RegF.redVerdictCtx c
  s.setFld RegF.redVerdictScale (unsigned 12 scale)

/-- A verdict that ends the ledger step: the record, the ledger task's completion, and after a skip the tasks it voids. -/
def State.endLedger (s : State) (c le : Nat) (st : Status) (t : Summary) : State :=
  let l := s.ledgerEnt c le
  let x := s.ledger c le
  let x := { x with sum := t, kids := {}, heard := 0, outcome := st.code, step := (x.step + 1) % 2 ^ 32, lscaleNext := l.nextScale t.expmax x.lscale,
                    rscale := x.roundScale, norm := t.norm x.roundScale, round := 0, verdict := some st,
                    clip := if st = .ok then l.clip t x.roundScale else x.clip,
                    chunks := x.chunks.filter (fun y => !decide (y.1 / 2 ^ 32 = x.turn)) }
  let s := s.putLedger c le x
  let s := match s.ledgerTask c le with
    | some k => s.completeTask c k st (verdictDetail st t)
    | none => s
  if st = .ok then
    let fr := ((s.prog c).getD {}).frozen
    let s := overList (l.groups.filter (fun g => fr.contains g)) (fun g s => s.setLastStatus c g 0) s
    if (s.runTasks c).any (fun k => (s.task c k).updGroups.any l.covers) then
      s.setLedger c le { s.ledger c le with telDue := true }
    else s.telemetry c le
  else
    let s := overList (s.skippedTasks c le) (fun k s => s.updRt c k (fun r =>
      { r with st := .completed, status := st, detail := verdictDetail st t })) s
    let s := overList l.groups (fun g s => s.setLastStatus c g st.code) s
    (s.evSkipped c le st t).telemetry c le

/-- The final summary gives the verdict: an end of the step, or a further round (R259, R260). -/
def State.judge (s : State) (c le : Nat) (t : Summary) : State :=
  let l := s.ledgerEnt c le
  let x := s.ledger c le
  match l.verdict t x.roundScale with
  | .update => (s.showVerdict c 0 t.round false x.roundScale).endLedger c le .ok t
  | .skip st =>
    let s := s.incFld (if st = .skippedNonfinite then RegF.redLdgCntSkipNf else if st = .skippedBreach then RegF.redLdgCntSkipBr
      else RegF.redLdgCntLimit) 1
    (s.showVerdict c st.code t.round false x.roundScale).endLedger c le st t
  | .again sc =>
    let s := (s.incFld RegF.redLdgCntRepeats 1).showVerdict c 0 t.round true x.roundScale
    let s := s.putLedger c le { x with round := x.round + 1, roundScale := sc, rscale := sc, sum := t, kids := {}, heard := 0, sentUp := false,
                                       norm := t.norm x.roundScale,
                                       chunks := x.chunks.filter (fun y => !decide (y.1 / 2 ^ 32 = x.turn)) }
    let s := match s.ledgerTask c le with
      | some k => overList ((s.task c k).sends.zipIdx) (fun e s =>
          s.setSend c k e.2 { s.sendSt c k e.2 with nexts := [] }) s
      | none => s
    s.ownContributions c le

/-- A task reaches the ports of a tree: those of another wing through network slots (spec/01_module_and_one_step.md R14). -/
def State.treeOk (s : State) (c t : Nat) (ports : List Nat) : Bool := ports.all (fun p => s.netOk (s.asker c t (uPort p)) (portWing p))

/-- The next advance of a running ledger task: its summary goes up once its chunks are reduced and its children heard; at rank 0 it is
final and goes down (R320). -/
def State.ledgerAdvance (s : State) (c t : Nat) : Option State :=
  match (s.task c t).ledger with
  | none => none
  | some le =>
    let l := s.ledgerEnt c le
    let x := s.ledger c le
    let g := (s.cert c).redGroup l.lgroup
    if (s.rt c t).st ≠ .running ∨ x.sentUp ∨ x.verdict.isSome ∨ ¬ s.allReduced c le ∨
      (l.devices > 1 ∧ (x.heard &&& g.children ≠ g.children ∨ ¬ s.treeOk c t g.treePorts)) then none
    else
      let own := s.ownSummary c le
      let s := s.setLedger c le { x with sentUp := true }
      if l.devices ≤ 1 ∨ l.rank = 0 then
        let s := if l.devices ≤ 1 then s else s.sendTree (portsOf g.children) { kind := kSmall, op := g.number, payload := own.bytes }
        some (s.judge c le own)
      else some (s.sendTree [g.parent] { kind := kSmall, op := g.number, payload := own.bytes })

/-! ### Barriers (spec/11 R327) -/

/-- The use number of a barrier task, and the children whose ARRIVE of a use has come. -/
def State.barUse (s : State) (c t : Nat) : Nat := Tbl.get 0 ((s.prog c).getD {}).uses t
def State.barHeard (s : State) (c t use : Nat) : BitVec 16 := BitVec.ofNat 16 (Tbl.get 0 ((s.prog c).getD {}).arrived (t * 2 ^ 32 + use))

/-- A barrier task that is armed or runs, with every child's ARRIVE, sends its own, or at the root sets the release time and sends the token. -/
def State.barrierAdvance (s : State) (c t : Nat) : Option State :=
  match (s.task c t).barrier, (s.rt c t).bar with
  | some b, some x =>
    let use := s.barUse c t
    if ((s.rt c t).st ≠ .running ∧ (s.rt c t).st ≠ .armed) ∨ (s.rt c t).isVoid ∨ x.sentUp ∨ ¬ s.treeOk c t b.ports ∨ s.barHeard c t use &&& b.children ≠ b.children then none
    else
      let s := s.updRt c t (fun r => { r with bar := some { x with sentUp := true, release := if b.root then some (s.time + b.lead) else x.release } })
      if b.root then some (s.sendTree (portsOf b.children) { kind := kToken, op := b.barrier, index := use, time := s.time + b.lead })
      else some (s.sendTree [b.parent] { kind := kArrive, op := b.barrier, index := use })
  | _, _ => none

/-! ### Small traffic beside ledger steps (spec/02 R56, spec/11 R320) -/

/-- What a member's children and itself have given to the small traffic of a group. -/
def State.smallRt (s : State) (c op : Nat) : SmallRt := Tbl.get {} ((s.prog c).getD {}).smalls op
def State.setSmall (s : State) (c op : Nat) (x : SmallRt) : State := s.updProg c (fun p => { p with smalls := Tbl.set {} p.smalls op x })

/-- Two lists of maxima, entry by entry. -/
def maxWords (a b : List Nat) : List Nat := (List.range (max a.length b.length)).map (fun i => max (nth 0 a i) (nth 0 b i))

/-- The step maxima so far of the entries that a group's small traffic combines. -/
def State.ownMaxima (s : State) (c : Nat) (g : RedGroup) : List Nat := g.maxima.map (fun sm => (Tbl.get {} ((s.prog c).getD {}).merged sm).maxAbs)

def smallPayload (l : List Nat) : List Byte := (l.map (leBytes 4)).flatten
def smallWords (b : List Byte) : List Nat := (List.range (b.length / 4)).map (fun i => field b (4 * i) 4)

/-- The final maxima have come: the task reports each to its entry and completes. -/
def State.smallEnd (s : State) (c t : Nat) (g : RedGroup) (l : List Nat) : State :=
  let s := s.updProg c (fun p => { p with smalls := p.smalls.filter (fun x => x.1 != g.number) })
  let s := s.updRt c t (fun x => { x with rep := g.maxima.zipIdx.map (fun y => (y.1, ({ made := true, maxAbs := nth 0 l y.2 } : SmRep))) })
  s.completeTask c t .ok 0

/-- A running task of small traffic that has every child's words: they go up with its own, or at rank 0 they are final and go down. -/
def State.smallAdvance (s : State) (c t : Nat) : Option State :=
  match (s.task c t).small with
  | none => none
  | some op =>
    let g := (s.cert c).redGroup op
    let x := s.smallRt c op
    if (s.rt c t).st ≠ .running ∨ x.sentUp ∨ x.heard &&& g.children ≠ g.children ∨ ¬ s.treeOk c t g.treePorts then none
    else
      let l := maxWords (s.ownMaxima c g) x.vals
      let m : Msg := { kind := kSmall, op := op, payload := smallPayload l }
      if g.rank = 0 then some ((s.sendTree (portsOf g.children) m).smallEnd c t g l)
      else some ((s.setSmall c op { x with sentUp := true }).sendTree [g.parent] m)

/-! ### The end of a ledger step's updates (spec/09 R268, R273) -/

/-- A ledger step whose telemetry waits for its updates: every update task of its groups in the RUN has ended. -/
def State.telemetryAdvance (s : State) (c : Nat) : Option State :=
  ((List.range (s.cert c).ledgers.length).find? (fun le => (s.ledger c le).telDue &&
    (s.runTasks c).all (fun k => !((s.task c k).updGroups.any (s.ledgerEnt c le).covers) || (s.rt c k).st.ended))).map
      (fun le => s.telemetry c le)

/-! ### Settling -/

/-- The next move of a running task starts once its mover is free. -/
def State.moveAdvance (s : State) (c t : Nat) : Option State :=
  let w := (s.task c t).wing
  let at' := fun i => 16 * w + (nth {} (s.cert c).moves i).mover
  if (s.rt c t).st ≠ .running then none
  else ((s.task c t).moves.find? (fun i => !(s.rt c t).movesDone.contains i && s.moverFree (at' i))).map (fun i =>
    s.putMover (at' i) { held := true, ctx := c, task := t, wing := w, item := i })

/-- The contexts with a RUN in progress. -/
def State.runContexts (s : State) : List Nat := (s.ctx.filter (fun x => (x.2.prog.bind (fun p => p.run)).isSome)).map (fun x => x.1)

/-- The first change that a context's RUN makes by itself, if any: an abort by a mark, a cancelling, an arming, a ledger, barrier, small-traffic or product advance, a move's or a
mark's start, or the end of the RUN. -/
def State.advanceRun (s : State) (c : Nat) : Option State :=
  let ts := s.runTasks c
  match (ts.filterMap (fun t => (s.markedBy c t).map (fun m => s.abortTask c t m.1 (BitVec.ofNat 64 m.2.1) m.2.2)) ++
      ts.filterMap (fun t => if s.canCancel c t then some (s.updRt c t (fun x => { x with st := .cancelled })) else none)).head? with
  | some s => some s
  | none =>
    match ts.find? (fun t => s.canArm c t) with
    | some t => some (s.armTask c t)
    | none =>
      match (ts.filterMap (fun t => s.ledgerAdvance c t)).head? with
      | some s => some s
      | none =>
        match (ts.filterMap (fun t => s.barrierAdvance c t) ++ ts.filterMap (fun t => s.smallAdvance c t) ++ ts.filterMap (fun t => s.productAdvance c t) ++
            ts.filterMap (fun t => s.moveAdvance c t)).head? with
        | some s => some s
        | none =>
          match s.telemetryAdvance c with
          | some s => some s
          | none =>
            match ts.find? (fun t => s.markReady c t) with
            | some t => some (s.startMark c t)
            | none => if s.runOver c then some (s.endRun c) else none

/-- One change that follows by itself: of a RUN, a suspended append that goes on, or a task that the scheduler starts. -/
def State.advance (s : State) : Option State :=
  match (s.runContexts.filterMap (fun c => s.advanceRun c)).head? with
  | some s => some s
  | none =>
    match s.resumeAdvance with
    | some s => some s
    | none =>
      match ((List.range 4).filterMap (fun w => s.pickOn w)).head? with
      | some (c, t) => some (s.startTask c t)
      | none => none

def State.settleN : Nat → State → State
  | 0, s => s
  | n + 1, s => match s.advance with
    | some s => s.settleN n
    | none => s

/-- Enough turns: each task is armed, started, ended or cancelled at most once, each of its moves starts at most once between two commands,
each append goes on at most once, and a ledger runs at most four rounds. -/
def State.settleFuel (s : State) : Nat := (s.runContexts.map (fun c => ((s.runTasks c).map (fun t => (s.task c t).moves.length)).sum)).sum +
  (s.runContexts.map (fun c => (s.cert c).groups.length)).sum + 14 * ((s.runContexts.map (fun c => (s.runTasks c).length)).sum) + 2 * s.runContexts.length +
  s.kvWait.length

/-- A task that held a wing past its run has ended: OVERHANGS counts, and MAX_OVH keeps the longest in µs (spec/12 R354). -/
def State.endOverhangs (s : State) : State :=
  overList (List.range 4) (fun w s =>
    match (s.wrota w).overrun with
    | none => s
    | some t0 =>
      if (s.onWing w).all (fun y => s.slotOwner w == some y.1) then
        let s := (s.setWrota w { s.wrota w with overrun := none }).incFld RegF.wingRotaStsOverhangs 1 w
        s.setFld RegF.wingRotaStsMaxOvh (max (s.fld RegF.wingRotaStsMaxOvh w) (min 65535 ((s.time - t0) / 250))) w
      else s) s

/-- Show the ready lists that a wing holds. -/
def State.syncLists (s : State) (w : Nat) : State :=
  overList ((s.ctx.filter (fun x => x.2.prog.isSome)).map (fun x => x.1)) (fun c s =>
    when ((s.wingsOf c).contains w) (fun s => s.syncList c w) s) s

/-- Ready tasks of a context that have not started on a wing. -/
def State.readyOn (s : State) (c w : Nat) : List (Nat × Nat) :=
  ((s.notStarted c w).filter (fun e => s.isReady c e.task)).map (fun e => (c, e.task))

/-- A task of `b`'s list that had not started there has started since. -/
def State.startedOn (s b : State) (c w : Nat) : Bool :=
  (b.notStarted c w).any (fun e => !(s.rt c e.task).st.fresh && (s.rt c e.task).st != .cancelled)

/-- A task of `b`'s list that had not started there has completed since: a void one, or one that a verdict completed. -/
def State.passedOn (s b : State) (c w : Nat) : Bool := (b.notStarted c w).any (fun e => (s.rt c e.task).st == .completed)

/-- What the scheduler's look at a wing counts (R221, R245). `b` is the state before the look. A task that ran at the last look has
ended, a task has started and ended at once, a task has become ready, or the slot has begun: that is a pick point (R244). Where none starts
there while an entry waits, NONE_READY counts; where a task has ended and the first entry then, before which no other has started and goes on, is
late, EVENTS counts. -/
def State.noteLook (s b : State) (w : Nat) : State :=
  match s.slotOwner w with
  | none => s.setWrota w { s.wrota w with looked := true, ran := s.onWing w, waited := [] }
  | some c =>
    let x := s.wrota w
    let ended := x.looked && (x.ran.any (fun y => (s.rt y.1 y.2).st.ended) || s.passedOn b c w)
    let ready := s.readyOn c w
    let point := !x.looked || ended || ready.any (fun y => !x.waited.contains y)
    let first := (s.notStarted c w).head?
    let s := match first with
      | none => s
      | some e =>
        let s := when (point && !s.startedOn b c w) (fun s => s.incFld RegF.wingRpCntNoneReady 1 w (s.listIndex c w)) s
        when (ended && ((b.notStarted c w).takeWhile (fun (f : ReadyEntry) => f.task != e.task)).all (fun (f : ReadyEntry) => (s.rt c f.task).st.ended) && s.lateOnly c e.task) (fun s => s.incFld RegF.wingLateTileEvents 1 w) s
    s.setWrota w { s.wrota w with looked := true, ran := s.onWing w, waited := ready }

/-- Everything that follows by itself, and what the scheduler's look at each wing counts and shows. -/
def State.settle (s : State) : State :=
  let b := s.endOverhangs
  overList (List.range 4) (fun w s => (s.noteLook b w).syncLists w) (b.settleN b.settleFuel)

/-- Abort a task for a failure of one of its units, and let the rest settle. -/
def State.failTask (s : State) (c t : Nat) (f : Fail) : State := (s.abortTask c t f.st f.detail).settle

end Sys2Proof.Machine
end

