-- ==== Sys2Proof/Machine/Array.lean ====
section
/-! DEFINITION. The matrix arrays (spec/04_matrix_arrays.md R84 to R114): starting a job, issuing, the end of a pass and of a job, gating
and ramping, and the barrier start group. The cycles between the commands are outside the model. -/

namespace Sys2Proof.Machine

/-- The service options of an array: those that its latest task took as it started, which hold until a later task starts (R114). Before the
first task they are FORCE_FRONT 0 and the firmware's GATE_IDLE. -/
def State.forceFront (s : State) (a : Nat) : Bool := ((s.array a).cfg.getD (0, 0x05E)).1 == 1
def State.gateIdle (s : State) (a : Nat) : Nat := ((s.array a).cfg.getD (0, 0x05E)).2

/-- The array may start a job. -/
def State.jobReady (s : State) (a : Nat) : Bool :=
  let x := s.array a
  x.busy && !x.started && s.running x.ctx x.task && (s.nextJob a).isSome

/-- A start of the array is due in a barrier start group. -/
def State.inStarts (s : State) (a : Nat) : Bool := s.starts.any (fun g => g.queue.any (fun q => q.1 == a))

/-- The load of the array goes on; where a tile fails, its task ends. -/
def State.loadOn (s : State) (a : Nat) : State :=
  let x := s.array a
  let r := s.loadStep a
  match r.2 with
  | some f => r.1.failTask x.ctx x.task f
  | none => r.1

/-- A load by moving front begins (R94). -/
def State.countFront (s : State) (a : Nat) (front : Bool) : State :=
  when front (fun s => s.incFld RegF.wingMaEvtFrontLoads 1 (arrWing a) (a % 2)) s

/-- A job as it starts: its first stationary operand loads by moving front, or goes on loading into the shadow registers where an earlier job
began that, and it ramps where it belongs to a barrier start group or some column group is gated (R94, R100, R110, R111). -/
def ArrayU.startJob (x : ArrayU) (i : Nat) (force group : Bool) : ArrayU :=
  let front := x.front || force
  let pre := x.load.filter (fun l => l.job == i && !front)
  { x with started := true, job := i, block := 0, pass := 0, vec := 0, emitted := 0, lastOut := false, active := [],
           shadow := if pre.isSome then x.shadow else [], load := some (pre.getD { job := i, pass := 0, front := front }),
           loaded := false, statFrom := 0, statSlot := none, store := [], skidIn := List.replicate 24 0,
           skidOut := List.replicate 16 0, groupsOn := if group then 1 else x.groupsOn ||| 1, front := false, force := force,
           nOrg := none, mOrg := none, eS := 0, eM := 0, spans := [], statSeen := [], movSeen := [], ramp := group || x.groupsOn != 0xFFFF }

/-- Start the next job: a weight-gradient job of a frozen group completes at once, with the streams that only it would use (R106); any other is set up and its first stationary
operand loads. -/
def State.jobStart (s : State) (a : Nat) (group : Bool) : State :=
  let x := s.array a
  let w := arrWing a
  match s.nextJob a with
  | none => s
  | some i =>
    let j := s.jobAt a i
    if s.frozenJob x.ctx j then
      ((s.setArray a { x with job := i, doneJobs := x.doneJobs ++ [i] }).incFld RegF.wingMaEvtFrozenSkips 1 w (a % 2)).endIdleRings x.ctx x.task
    else
      let force := s.forceFront a
      let s := s.putArray a (x.startJob i force group)
      let s := ((s.setFld RegF.wingMaStsForm j.form w (a % 2)).setFld RegF.wingMaStsCtx x.ctx w (a % 2)).countFront a (x.front || force)
      s.loadOn a

/-- The array's task belongs to a barrier start group that had begun before the task started: its first job ramps (R111). -/
def State.lateStart (s : State) (a : Nat) : Bool :=
  let x := s.array a
  (s.rt x.ctx x.task).grouped && x.doneJobs.isEmpty

/-- ARRAY_JOB_START. -/
def execArrayJobStart (a : Nat) (s : State) : Host.Outcome State Fault Refusal :=
  ok (if s.jobReady a ∧ ¬ s.inStarts a then s.jobStart a (s.lateStart a) else s)

/-- BARRIER_GROUP_JOB_START: the next start in the order of R112. -/
def execBarrierGroupJobStart (a : Nat) (s : State) : Host.Outcome State Fault Refusal :=
  match s.starts with
  | [] => ok s
  | g :: rest =>
    match g.queue with
    | [] => ok { s with starts := rest }
    | q :: l =>
      if q.1 = a ∧ s.jobReady a then
        let s : State := { s with starts := if l.isEmpty then rest else { g with queue := l, begun := true } :: rest }
        ok (s.jobStart a true)
      else ok s

/-! ### Issue (R84, R90, R96, R102 to R104) -/

/-- A tile with a header holds elements that rows m to m + n − 1 of the moving tensor use in a pass. -/
def ArrayJob.hdrUses (j : ArrayJob) (p m n : Nat) (h : Hdr) : Bool :=
  decide (h.rowO < m + n ∧ m < h.rowO + h.rows ∧ h.colO < j.passHi p ∧ j.passLo p < h.colO + h.cols)

/-- The moving tiles that rows m to m + n − 1 of the tensor use in a pass. -/
def ArrayJob.movUses (j : ArrayJob) (p m n : Nat) (t : OpTile) : Bool := j.hdrUses p m n (Hdr.ofBytes t.img)

/-- Every element that rows m to m + n − 1 take in a pass is in a tile that is there. -/
def ArrayJob.movHere (j : ArrayJob) (p m n : Nat) (l : List OpTile) : Bool :=
  (List.range n).all (fun i => (List.range (j.passHi p - j.passLo p)).all (fun q =>
    !j.inPart (j.passLo p + q) || (findTile l (m + i) (j.passLo p + q)).isSome))

/-- A tile's first row among those that a block takes from it is among rows m to m + n − 1. -/
def movFirst (lo m n : Nat) (t : OpTile) : Bool := decide (m ≤ max lo (Hdr.ofBytes t.img).rowO ∧ max lo (Hdr.ofBytes t.img).rowO < m + n)

/-- The read of a moving tile is whole when its last row issues in the pass that takes its last column. -/
def ArrayJob.movLast (j : ArrayJob) (p m n mOrg : Nat) (t : OpTile) : Bool :=
  let h := Hdr.ofBytes t.img
  let last := min (h.rowO + h.rows) (mOrg + j.mCount)
  decide (m < last ∧ last ≤ m + n ∧ (h.colO + h.cols ≤ j.passHi p ∨ p + 1 = j.passes))

/-- The ports move their slices and outputs in this cycle, each between its skid buffer and the gallery, where its group is in use and it has
slots. -/
def State.ports (s : State) (a : Nat) (arrived : BitVec 24) (drained : BitVec 16) : State :=
  let x := s.array a
  let j := s.jobOf a
  let comes := fun (g : Nat) => arrived.getLsbD g && (j.rowGroups 0).contains g && s.portSlot a g
  let goes := fun (g : Nat) => drained.getLsbD g && s.portSlot a (24 + g)
  let full := (List.range 24).filter (fun g => comes g && decide (8 ≤ nth 0 x.skidIn g))
  let s := s.incFld RegF.wingMaEvtSkidFull full.length (arrWing a) (a % 2)
  s.setArray a { x with skidIn := (List.range 24).map (fun g => if comes g then min 8 (nth 0 x.skidIn g + 1) else nth 0 x.skidIn g),
                        skidOut := (List.range 16).map (fun g => if goes g then nth 0 x.skidOut g - 1 else nth 0 x.skidOut g) }

/-- A cycle in which the array stalls: the counter, and STALLED (R104). -/
def State.stallCycle (s : State) (a : Nat) (f : Fld) : State := (s.incFld f 1 (arrWing a) (a % 2)).setStalled a 1

/-- The vectors that the next issue takes. -/
def State.issueCount (s : State) (a : Nat) : Nat :=
  let x := s.array a
  let j := s.jobOf a
  min j.perIssue (j.blockRows x.block - x.vec)

/-- The first tensor row of the next issue, where the operand's first tile is the head of a list. -/
def State.issueRow (s : State) (a : Nat) (l : List OpTile) : Nat :=
  let x := s.array a
  x.mOrg.getD ((l.head?.map (fun t => (Hdr.ofBytes t.img).rowO)).getD 0) + x.block * (s.jobOf a).blockSize + x.vec

/-- Tiles in order, each checked, up to the first with which everything needed is there; the second part is the tile that ended the walk
because the array does not reach it in its slots or it fails its check. -/
def walkTiles (sound : OpTile → Bool) (enough : List OpTile → Bool) : List OpTile → List OpTile → List OpTile × Option OpTile
  | acc, [] => (acc, none)
  | acc, t :: l => if enough acc then (acc, none) else if sound t then walkTiles sound enough (acc ++ [t]) l else (acc, some t)

/-- The moving tiles of the next issue hold every element that it takes. -/
def State.issueHere (s : State) (a : Nat) (l : List OpTile) : Bool :=
  !l.isEmpty && (s.jobOf a).movHere (s.array a).pass (s.issueRow a l) (s.issueCount a) l

/-- The moving tiles that a port may read at the next issue, in order: of fixed tiles that the job has read before, those that the issue
uses (R107, log 109). The second part is the number of these. -/
def State.issueScan (s : State) (a : Nat) : List OpTile × Nat :=
  let x := s.array a
  let j := s.jobOf a
  let all := s.opTiles (arrWing a) j.movBase j.movTiles
  let old := (all.zip x.movSeen).filter (fun t => j.hdrUses x.pass (s.issueRow a all) (s.issueCount a) (Hdr.ofBytes t.2))
  (old.map (fun t => t.1) ++ all.drop x.movSeen.length, old.length)

/-- The moving tiles that the next issue reads, in order. -/
def State.issueTiles (s : State) (a : Nat) : List OpTile × Option OpTile :=
  let j := s.jobOf a
  walkTiles (fun t => s.arrayReach a t.addr tileBytes && s.tileSound j j.fmtM false t) (s.issueHere a) [] (s.issueScan a).1

/-- The headers of the fixed moving tiles that the job has read, with those that this issue reads for the first time. -/
def State.issueSeen (s : State) (a : Nat) (tiles : List OpTile) : List (List Byte) :=
  let x := s.array a
  if (s.ringAt (arrWing a) (s.jobOf a).movBase false).isSome then x.movSeen
  else x.movSeen ++ (tiles.drop (s.issueScan a).2).map (fun t => t.img.take 64)

/-- Issue the next moving vectors with their tiles: every chain advances, and the ring slots read whole are spent. A block's first issue begins
its chains, from the records at HAND_IN where the job has CHAIN_IN; the output tiles of those that another array took into aligned mode count
then in SPAN_COUNT (R82, log 115). -/
def State.issueVec (s : State) (a : Nat) (tiles : List OpTile) : State :=
  let x := s.array a
  let j := s.jobOf a
  let n := s.issueCount a
  let first := tiles.head?.map (fun t => Hdr.ofBytes t.img)
  let mOrg := x.mOrg.getD ((first.map (fun h => h.rowO)).getD 0)
  let eM := if x.mOrg.isSome then x.eM else (first.map (fun h => h.scale)).getD 0
  let m := s.issueRow a tiles
  let begins := x.pass = 0 ∧ x.vec = 0
  let old := if begins then s.chainIn j x.block else x.store
  let new := (List.range n).foldl (fun st i => j.issueRow x.pass x.active tiles (m + i) (x.vec + i) st) old
  let rg := j.rowGroups x.pass
  let cg := if x.pass + 1 < j.passes then [] else j.colGroups
  let s := overList (tiles.filter (fun t => j.movUses x.pass m n t && movFirst (mOrg + x.block * j.blockSize) m n t))
    (fun t s => s.galleryCorrected t.addr tileBytes) s
  let s := if begins ∧ j.chainIn then s.galleryCorrected (j.inRange x.block).1 (j.inRange x.block).2 else s
  let s := s.setArray a { x with store := new, mOrg := some mOrg, eM := eM, vec := x.vec + n, movSeen := s.issueSeen a tiles,
                                 skidIn := x.skidIn.zipIdx.map (fun y => if rg.contains y.2 then y.1 - n else y.1),
                                 skidOut := x.skidOut.zipIdx.map (fun y => if cg.contains y.2 then y.1 + 1 else y.1) }
  let s := if begins ∧ ¬ j.chainOut then s.countSpans a (j.tilesOf x.block old (fun _ c => c.span)) else s
  ((s.issueFlags a old new).setStalled a 0).spendTiles (tiles.filter (j.movLast x.pass m n mOrg))

/-- The chain-state records that the next issue reads, at the first issue of a block with CHAIN_IN. -/
def State.handRange (s : State) (a : Nat) : Option (Nat × Nat) :=
  let x := s.array a
  let j := s.jobOf a
  if j.chainIn ∧ x.pass = 0 ∧ x.vec = 0 then some (j.inRange x.block) else none

/-- Issue, or end the task for a tile or a record that fails, or stall (R103). -/
def State.tryIssue (s : State) (a : Nat) : State :=
  let x := s.array a
  let j := s.jobOf a
  let row := s.stallCycle a RegF.wingMaStallRowStall
  if ¬ x.loaded ∨ (j.rowGroups x.pass).any (fun g => decide (nth 0 x.skidIn g < s.issueCount a)) then row
  else
    let k := s.issueTiles a
    match k.2 with
    | some t =>
      if ¬ s.arrayReach a t.addr tileBytes then row
      else
        let f := s.tileFail a t
        f.2.failTask x.ctx x.task f.1
    | none =>
      if (s.ringAt (arrWing a) j.movBase false).isSome ∧ ¬ s.issueHere a k.1 ∨ (s.handRange a).any (fun r => !s.arrayReach a r.1 r.2) then row
      else if j.colGroups.any (fun g => decide (8 ≤ nth 0 x.skidOut g)) then s.stallCycle a RegF.wingMaStallColStall
      else
        match (s.handRange a).filter (fun r => s.poisoned r.1 r.2) with
        | some r =>
          let f := s.galleryFail x.ctx r.1 r.2
          f.2.failTask x.ctx x.task f.1
        | none => s.issueVec a k.1

/-- ARRAY_ISSUE: one cycle of an array that works. `arrived` tells the row groups whose input port has its slice from the gallery in
this cycle, `drained` the column groups whose output port writes an entry. While a pass waits for its end the ports and the load go on, and
nothing issues (R103). -/
def execArrayIssue (a : Nat) (arrived : BitVec 24) (drained : BitVec 16) (s : State) : Host.Outcome State Fault Refusal :=
  let x := s.array a
  let j := s.jobOf a
  if ¬ x.started ∨ ¬ s.running x.ctx x.task ∨ x.lastOut then ok s
  else
    let s := (s.ports a arrived drained).loadOn a
    ok (if j.blockRows x.block ≤ x.vec ∨ ¬ (s.array a).started ∨ (s.array a).ramp then s else s.tryIssue a)

/-! ### The end of a pass and of a job (R89, R91, R93, R100) -/

/-- Go to the next pass or block: the operand moves from the shadow registers, or loads by moving front, or stays. -/
def State.nextPass (s : State) (a : Nat) : State :=
  let x := s.array a
  let j := s.jobOf a
  let last := decide (j.passes ≤ x.pass + 1)
  let b := if last then x.block + 1 else x.block
  let p := if last then 0 else x.pass + 1
  let s := s.setStalled a 0
  if j.blocks ≤ b then s.putArray a { x with lastOut := true, vec := 0, skidIn := List.replicate 24 0, skidOut := List.replicate 16 0 }
  else
    let y := { x with block := b, pass := p, vec := 0, emitted := 0 }
    if j.passes ≤ 1 then s.putArray a y
    else if x.force then ((s.putArray a { y with loaded := false, active := [], load := some (s.passLoad a p true) }).countFront a true).loadOn a
    else (s.putArray a { y with loaded := false }).loadOn a

/-- ARRAY_PASS_END: after the last issue of a pass. In the last pass of a block the outputs, or the chain-state records, leave; where
an output port has no slot or the ring of an out-stream no EMPTY slot the array waits, and COL_STALL counts one (log 109). -/
def execArrayPassEnd (a : Nat) (s : State) : Host.Outcome State Fault Refusal :=
  let x := s.array a
  let j := s.jobOf a
  if ¬ x.started ∨ ¬ s.running x.ctx x.task ∨ x.lastOut ∨ x.vec < j.blockRows x.block then ok s
  else if x.pass + 1 < j.passes then ok (s.nextPass a)
  else
    let n := j.blockRows x.block
    let r := s.emitFrom a (n - x.emitted) x.emitted
    let s := r.1.setArray a { r.1.array a with emitted := r.2 }
    if r.2 < n then ok (s.stallCycle a RegF.wingMaStallColStall) else ok ((s.blockFlags a).nextPass a)

/-- ARRAY_JOB_END: the last output row has reached the gallery, and the array is ready for its next job. -/
def execArrayJobEnd (a : Nat) (s : State) : Host.Outcome State Fault Refusal :=
  let x := s.array a
  ok (if x.started ∧ x.lastOut then
    (s.putArray a { x with started := false, lastOut := false, loaded := false, store := [], active := [], doneJobs := x.doneJobs ++ [x.job] }
      ).endIdleRings x.ctx x.task
  else s)

/-- ARRAY_PARITY_ERROR: `part` is 1 for the stationary registers, 2 for the column store and 3 for a skid buffer (R109). A running job aborts
with its task; with none, the record stands alone. The next pass of the array loads by moving front. -/
def execArrayParityError (a part : Nat) (s : State) : Host.Outcome State Fault Refusal :=
  let x := s.array a
  if ¬ s.hasArray a then ok s
  else
    let job := x.started && s.running x.ctx x.task
    let s := s.event (uArray a) 0x0106 3 (if job then some x.ctx else none) [(16, 1, part)]
    ok (if job then s.failTask x.ctx x.task (s.unitFail .internal (uArray a))
      else s.putArray a { x with front := true, shadow := [], load := none })

/-! ### Gating (R110) -/

/-- COLUMN_GROUP_GATE: GATE_IDLE × 16 cycles have passed without an issue. A GATE_IDLE of 0 disables gating. A job in progress ramps
again before it issues. -/
def execColumnGroupGate (a : Nat) (s : State) : Host.Outcome State Fault Refusal :=
  let x := s.array a
  ok (if ¬ s.hasArray a ∨ s.gateIdle a = 0 ∨ x.groupsOn = 0 then s else s.putArray a { x with groupsOn := 0, ramp := x.started })

/-- COLUMN_GROUP_UNGATE: the next column group of a ramping array is ungated; after the last the array may issue. A ramp goes on where its job
has aborted. -/
def execColumnGroupUngate (a i : Nat) (s : State) : Host.Outcome State Fault Refusal :=
  let x := s.array a
  ok (if ¬ x.ramp ∨ ¬ (List.range 16).all (fun k => x.groupsOn.getLsbD k == decide (k < i)) ∨ 16 ≤ i then s
    else s.putArray a { x with groupsOn := x.groupsOn ||| BitVec.ofNat 16 (2 ^ i), ramp := decide (i ≠ 15) })

/-- WING_MA_CNT_CLR. -/
def execWingMaCntClr (a : Nat) (s : State) : Host.Outcome State Fault Refusal :=
  if ¬ s.ready then ok s else ok ((s.setReg .wingMaStall (arrWing a) (a % 2) 0).setReg .wingMaEvt (arrWing a) (a % 2) 0)

end Sys2Proof.Machine
end

