-- ==== Sys2Proof/Machine/CtxOps.lean ====
section
/-! DEFINITION. Shared operations of contexts and descriptors: malformed descriptors, when a descriptor may start, copies and scans in
part, the context abort, the unload of a program, and resets of contexts (spec/12_rings_contexts_rota.md R334 to R350,
spec/15_integrity_records_guarantees.md R406 to R413). -/

namespace Sys2Proof.Machine

/-! ### Descriptors (R338, R339) -/

/-- Contexts whose STATE is not 0. -/
def State.liveCtx (s : State) : List Nat :=
  s.regs.filterMap (fun x => if x.1 / 2 ^ 40 = Reg.index .ctxSts ∧ bits x.2 0 3 ≠ 0 then some (x.1 / 2 ^ 20 % 2 ^ 20) else none)

/-- The context that a VF sees at index j: the lowest-numbered of its function and slot (spec/12 R333). -/
def State.vfContext (s : State) (fn j : Nat) : Option Nat :=
  ((s.regs.filter (fun x => x.1 / 2 ^ 40 == Reg.index .ctxCfg && bits x.2 0 6 == fn && bits x.2 32 8 == j)).map
    (fun x => x.1 / 2 ^ 20 % 2 ^ 20)).head?

/-- The bits of body byte i that an opcode uses; every other bit is reserved (R297, R339 to R342, spec/15 R406, R410, R413). -/
def bodyBits (op i : Nat) : Nat :=
  let whole := fun (l : List (Nat × Nat)) => l.any (fun r => decide (r.1 ≤ i ∧ i ≤ r.2))
  let one := fun (l : List (Nat × Nat)) => (l.find? (fun r => r.1 == i)).map (fun r => r.2)
  let pick := fun (l : List (Nat × Nat)) (m : List (Nat × Nat)) => if whole l then 0xFF else (one m).getD 0
  match op with
  | 0x01 => pick [(8, 19), (24, 31)] [(32, 1)]
  | 0x03 => pick [(8, 9), (16, 55)] [(10, 0x3F)]
  | 0x05 => pick [(8, 26)] [(27, 1), (28, 1)]
  | 0x10 => pick [(8, 20), (24, 31), (40, 47)] [(32, 7)]
  | 0x11 => pick [(8, 20), (32, 39)] [(24, 1), (25, 0x3F)]
  | 0x12 => pick [(8, 55)] []
  | 0x21 => pick [(8, 12), (16, 63)] []
  | 0x22 => pick [(8, 11), (16, 17), (24, 31)] [(12, 0x7F), (13, 0x7F), (14, 3)]
  | 0x23 => pick [(8, 11)] []
  | _ => 0

def opcodes : List Nat := [0x00, 0x01, 0x02, 0x03, 0x04, 0x05, 0x10, 0x11, 0x12, 0x21, 0x22, 0x23]

def Desc.f (d : Desc) (o n : Nat) : Nat := field d.bytes o n

/-- The fields of a descriptor outside the range or alignment that its body states, by first byte. -/
def Desc.outOfRange (d : Desc) : List Nat :=
  let bad := fun (l : List (Nat × Bool)) => (l.filter (fun x => x.2)).map (fun x => x.1)
  match d.opcode with
  | 0x01 => bad [(8, d.f 8 8 % 4096 != 0), (16, decide (d.f 16 4 < 64 ∨ 2 ^ 28 < d.f 16 4)), (24, d.f 24 8 % 65536 != 0)]
  | 0x03 => bad [(10, decide (32 < d.f 10 1)), (16, d.f 16 8 % 8 != 0)]
  | 0x05 => bad [(24, decide (d.f 24 4 = 0 ∨ 2 ^ 24 < d.f 24 4))]
  | 0x10 => bad [(16, d.f 16 5 == 0), (40, d.f 40 8 % 32 != 0)]
  | 0x11 => bad [(8, d.f 24 1 == 1 && d.f 8 8 % 8 != 0), (16, decide (d.f 16 5 = 0 ∨ (d.f 24 1 = 1 ∧ 2 ^ 24 < d.f 16 5))),
      (32, d.f 32 8 % 64 != 0)]
  | 0x12 => bad [(8, d.f 8 8 % 64 != 0)]
  | 0x21 => bad [(12, decide (d.f 12 1 = 0 ∨ 6 < d.f 12 1))]
  | _ => []

/-- The first offending field of a malformed descriptor, by its first byte (log 27). -/
def Desc.malformed (d : Desc) : Option Nat :=
  if d.opcode ∉ opcodes then some 0
  else if 8 ≤ d.flags then some 1
  else if d.f 6 2 ≠ 0 then some 6
  else
    match (List.range 56).find? (fun i => d.f (8 + i) 1 &&& bodyBits d.opcode (8 + i) != d.f (8 + i) 1) with
    | some i => some (8 + i)
    | none => d.outOfRange.head?

/-- The descriptors fetched before one. -/
def State.earlier (s : State) (c i : Nat) : List Desc := (s.cx c).descs.takeWhile (fun d => d.idx != i)

/-- The host controller runs: the rails are on and FPLL, the source of HCLK, is locked (spec/14 R378, R380, spec/15 R426). -/
def State.hostOn (s : State) : Bool := s.rail == .on && s.pwr.fpll

/-- A descriptor waits, the clocks of its unit run (the check-value and provenance engines and the KV units run on ECLK, of the compute
family, spec/14 R378), and everything that R338 and R339 make it wait for is done. -/
def State.canStart (s : State) (c i op : Nat) : Bool :=
  match s.desc c i with
  | none => false
  | some d =>
    let l := s.earlier c i
    let all := l.all (fun e => e.st == .done)
    d.st == .waiting && d.opcode == op && decide (1 ≤ s.cstate c ∧ s.cstate c ≤ 4) && s.hostOn &&
      (s.pwr.computeOn || decide (op < 0x10)) &&
      (!(d.flags).testBit 0 || all) &&
      (!(d.flags).testBit 1 || (match (l.reverse.find? (fun e => e.tag == d.waitTag)) with
        | some e => e.st == .done
        | none => true)) &&
      l.all (fun e => e.st == .done || (e.opcode != 0x01 && e.opcode != 0x02)) &&
      ((op != 0x01 && op != 0x02) || all) &&
      (op != 0x03 || l.all (fun e => e.st == .done || e.opcode != 0x03))

/-- The present slot of every wing that a context holds is its own (R339, R354). -/
def State.inSlot (s : State) (c : Nat) : Bool := (s.wingsOf c).all (fun w => s.slotOwner w == some c)

/-- A descriptor has started to act. -/
def State.started (s : State) (c i op : Nat) : Option Desc :=
  (s.desc c i).filter (fun d => d.st == .started && d.opcode == op)

def State.startDesc (s : State) (c i : Nat) : State := s.updDesc c i (fun d => { d with st := .started })

/-- End a descriptor with CERT_REJECT. -/
def State.reject (s : State) (c i reason item : Nat) : State := s.finish c i .certReject (rejectDetail reason item)

/-! ### Copies (R342) -/

/-- Bytes of a range, in units of 64 KiB, that a context may read or write before the first that it may not. -/
def State.allowedPrefix (s : State) (c : Nat) (old write : Bool) : Nat → Nat → Nat → Nat
  | 0, _, _ => 0
  | k + 1, a, n =>
    let m := min n (65536 - a % 65536)
    if n = 0 ∨ ¬ s.allows c old write a m then 0 else m + s.allowedPrefix c old write k (a + m) (n - m)

/-- The tiers that a COPY, SCAN or DIGEST may name. -/
def tierAddr (a : Nat) : Bool := match homeOf a with | .near _ => true | .board _ => true | _ => false

/-- An address of the near tier. -/
def nearAddr (a : Nat) : Bool := match homeOf a with | .near _ => true | _ => false

/-- Bytes of a range before the first stack or board-tier port on which the admitted program has no host-copy share. -/
def State.sharedPrefix (s : State) (c a n : Nat) : Nat :=
  let l := (s.cert c).allots
  let lacks := fun (base size : Nat) (r : Resource) => if a < base + size ∧ base < a + n ∧ !l.any (fun x => x.res == r) then some (base - a) else none
  ((List.range 20).filterMap (fun k => lacks (nearBase + 2 ^ 37 * k) (2 ^ 37) (.hostShareStack k)) ++
    (List.range 4).filterMap (fun b => lacks (boardBase + 2 ^ 42 * b) (2 ^ 42) (.hostSharePort b))).foldl min n

/-- The admitted program has a host-copy share on each stack and board-tier port that a range of n bytes lies in (spec/15 R407). -/
def State.hostShares (s : State) (c a n : Nat) : Bool := s.sharedPrefix c a n == n

/-- How far a unit of a context gets through a range of a tier: the bytes, and what stops it. -/
def State.rangeReach (s : State) (c : Nat) (old write : Bool) (a n : Nat) : Nat × Option Fail :=
  let k := if tierAddr a then s.allowedPrefix c old write (n / 65536 + 2) a n else 0
  let bad := if write then none else
    (s.poison.filter (fun x => decide (a < x * 64 + 64 ∧ x * 64 < a + k))).foldl (fun (m : Option Nat) x =>
      some (match m with | some y => min x y | none => x)) none
  match bad with
  | some x => (x * 64 - a, some (s.poisonFail (max a (x * 64))))
  | none => if k = n then (n, none) else (k, some (Fail.addr .protFault (a + k)))

/-- Copy the first n bytes of a COPY. -/
def State.copyBytes (s : State) (d : Desc) (n : Nat) : State :=
  if d.f 28 1 = 0 then s.wr (d.f 16 8) (s.hrd (d.f 8 8) n) else s.hwr (d.f 8 8) (s.rd (d.f 16 8) n)

/-! ### Scans (spec/15 R406, R408) -/

/-- The running value that a SCAN starts from. -/
def Desc.scanStart (d : Desc) : Nat :=
  let f := crcFn (d.f 32 1 % 4)
  if (d.f 32 1).testBit 2 then d.f 24 8 % 2 ^ f.width else f.init

/-- The 32 bytes of a result record after `done` bytes. -/
def State.scanRecord (s : State) (d : Desc) (done : Nat) : List Byte :=
  let f := crcFn (d.f 32 1 % 4)
  let r := f.run d.scanStart (s.rd (d.f 8 8) done)
  leBytes 8 r ++ leBytes 8 (r ^^^ f.xorOut) ++ leBytes 8 done ++ leBytes 8 0

def State.writeScan (s : State) (d : Desc) (done : Nat) : State := s.hwr (d.f 40 8) (s.scanRecord d done)

/-- Show the busy scan engines. -/
def State.syncScans (s : State) : State :=
  s.setFld RegF.chkStsScanBusy ((s.scans.map (fun x => 2 ^ x.unit)).sum)

/-- The units that served a descriptor are free. -/
def State.freeEngaged (s : State) (c i : Nat) : State :=
  ({ s with scans := s.scans.filter (fun x => !(x.ctx == c && x.desc == i)), digs := s.digs.filter (fun x => !(x.ctx == c && x.desc == i)),
            atts := s.atts.filter (fun x => !(x.ctx == c && x.desc == i)) } : State).syncScans

/-- Store a digest slot and show it in PRV_SLOT and PRV_SLOT_DIG (spec/15 R412). -/
def State.putSlot (s : State) (k : Nat) (x : DigSlot) : State :=
  let s : State := { s with slots := Tbl.set {} s.slots k x }
  let s := ((s.setFld RegF.prvSlotValid (bit x.valid) k).setFld RegF.prvSlotMode (bit x.mode) k).setFld RegF.prvSlotCtx x.ctx k
  overList (List.range 6) (fun i s => s.setFld RegF.prvSlotDigDigest (field x.digest (8 * i) 8) k i) s

/-! ### The context abort (R349) -/

/-- A scan stops on a 32-byte boundary of its address range. -/
def scanStop (n : Nat) : Nat := n / 32 * 32

/-- The bytes that a COPY or SCAN has done when an abort reaches it: a free value (log 7), no further than the context may reach, the tier
gives its bytes and the program has host-copy shares. -/
def State.partDone (s : State) (c : Nat) (d : Desc) (write : Bool) (a n : Nat) : Nat × State :=
  let f := s.free
  let m := min (s.rangeReach c d.epochOld write a n).1 (s.sharedPrefix c a n)
  (f.1.toNat % (m + 1), f.2)

/-- A started LOAD, UNLOAD, ATTEST or KV descriptor that a thermal trip or a loss of FPLL ends with INTERNAL (spec/14 R380, R390). -/
def State.giveUp (s : State) (c : Nat) (d : Desc) : State :=
  match d.opcode with
  | 0x01 => (s.updCx c (fun x => { x with loading := none })).setFld RegF.ctxStsState 1 c
  | 0x02 => (s.updCx c (fun x => { x with unloading := none })).setFld RegF.ctxStsState 3 c
  | _ => s.freeEngaged c d.idx

/-- End one descriptor by an abort: one that has not started, and a started RUN, COPY, SCAN or DIGEST; any other that has started goes on,
but for an end with INTERNAL. -/
def State.abortDesc (s : State) (c : Nat) (d : Desc) (st : Status) (detail : W64) : State :=
  if d.st = .done then s
  else
    match d.opcode, d.st with
    | 0x05, .started =>
      let p := s.partDone c d (d.f 28 1 == 0) (d.f 16 8) (d.f 24 4)
      (p.2.copyBytes d p.1).finish c d.idx st detail
    | 0x10, .started =>
      let p := s.partDone c d false (d.f 8 8) (d.f 16 5)
      ((p.2.writeScan d (scanStop p.1)).finish c d.idx st detail).freeEngaged c d.idx
    | 0x10, .waiting => (s.writeScan d 0).finish c d.idx st detail
    | 0x11, .started => (s.finish c d.idx st detail).freeEngaged c d.idx
    | 0x03, _ => s.finish c d.idx st detail
    | _, .waiting => s.finish c d.idx st detail
    | _, _ => if st = .internal then (s.giveUp c d).finish c d.idx st detail else s

/-- The RUN in progress was fetched before descriptor `upto`, where there is one. -/
def State.runBefore (s : State) (c : Nat) (upto : Option Nat) : Bool :=
  match upto, (s.prog c).bind (fun p => p.run) with
  | some i, some r => (s.earlier c i).any (fun d => d.idx == r.desc)
  | _, _ => true

/-- The RUN in progress ends by an abort: its tasks abort, and those that have not started are given up. -/
def State.abortRun (s : State) (c : Nat) (st : Status) (detail : W64) : State :=
  let s := overList ((s.runTasks c).filter (fun t => (s.rt c t).st.live)) (fun t s => s.abortTask c t st detail) s
  match (s.prog c).bind (fun p => p.run) with
  | none => s
  | some r =>
    (s.finish c r.desc st detail).updProg c (fun p =>
      { p with run := none, markRunning := none, tasks := Tbl.mapAll {} p.tasks (fun _ x => { x with inRun := false }) })

/-- Abort the work of a context that was fetched before descriptor `upto` (all of it where there is none). -/
def State.contextAbort (s : State) (c : Nat) (upto : Option Nat) (st : Status) (detail : W64) : State :=
  let s := when (s.runBefore c upto) (fun s => s.abortRun c st detail) s
  let l := match upto with | some i => s.earlier c i | none => (s.cx c).descs
  (overList l (fun d s => s.abortDesc c d st detail) s).settle

/-- Abort every context. -/
def State.abortContexts (s : State) (l : List Nat) (st : Status) (detail : W64) : State :=
  overList l (fun c s => if s.cstate c = 5 then s else s.contextAbort c none st detail) s

/-! ### Unloading (R343, R55, R128) -/

/-- Show a check-value channel. -/
def State.syncChan (s : State) (k : Nat) : State :=
  let x := s.ch k
  let s := (s.setFld RegF.chkChanBound (bit x.held) k).setFld RegF.chkChanPoly x.bind.poly k
  (s.setFld RegF.chkChanCtx x.ctx k).setFld RegF.chkStsBound (s.chan.filter (fun c => c.2.held)).length

/-- The program of a context is released: its standing loans end, its commands are discarded, its shelves are empty, its event
counters, queues and channels are free. -/
def State.releaseProgram (s : State) (c : Nat) : State :=
  let s := overList s.strm (fun k s =>
    let x := s.stream k.1
    if x.held && x.ctx == c then
      (s.endChans false k.1).putStream k.1 { x with held := false, writing := none, dep := none, rearm := none, rearmed := none,
                                                     slots := x.slots.map (fun _ => .empty) }
    else s) s
  let s := overList s.mov (fun k s => let x := s.mover k.1; if x.held && x.ctx == c then (s.restoreCat k.1).putMover k.1 { x with held := false, saved := none } else s) s
  let s := overList s.cour (fun k s => let x := s.courier k.1; if x.ctx == c then s.putCourier k.1 {} else s) s
  let s := s.dropSmq c
  let s := overList s.shelf (fun k s => let x := s.shelfOf (k.1 / 16) (k.1 % 16)
                                        if x.held && x.ctx == c then s.putShelf (k.1 / 16) (k.1 % 16) {} else s) s
  let own := (s.evOwn.filter (fun x => x.2 == c + 1)).map (fun x => x.1)
  let s : State := { s with ev := s.ev.filter (fun x => !own.contains x.1), evOwn := s.evOwn.filter (fun x => x.2 != c + 1) }
  let s : State := { s with rq := s.rq.filter (fun x => !(x.2.held && x.2.ctx == c)) }
  let s := overList s.chan (fun k s => let x := s.ch k.1; if x.held && x.ctx == c then (s.setCh k.1 {}).syncChan k.1 else s) s
  (s.updCx c (fun x => { x with prog := none, loading := none })).setFld RegF.ctxStsOpen 0 c

/-- A context is disabled: its STATE is 0, what the completion ring could not take is dropped, and its digest slots are free. -/
def State.disableDone (s : State) (c : Nat) : State :=
  let s := s.releaseProgram c
  let s := overList s.slots (fun k s => if k.2.valid && k.2.ctx == c then s.putSlot k.1 {} else s) s
  let s := s.updCx c (fun _ => { dropRecs := true })
  ((s.setFld RegF.ctxStsState 0 c).setFld RegF.ctxStsRingErr 0 c).setFld RegF.ctxStsCqFull 0 c

/-- The open sequences of a context are FREE, without returning pages. -/
def State.freeSeqs (s : State) (c : Nat) : State :=
  let s := overList s.seqs (fun k s => if k.2.state != .free && k.2.ctx == c then s.freeSeq k.1 else s) s
  { s with kvWait := s.kvWait.filter (fun k => k.ctx != c) }

/-- A reset of a context (R350): aborted without records, unloaded, its open sequences FREE, disabled. -/
def State.resetCtx (s : State) (c : Nat) : State :=
  let s := s.updCx c (fun x => { x with dropRecs := true })
  let s := s.contextAbort c none .revoked s.abortDetail
  ((s.freeSeqs c).setFld RegF.ctxCtlEnable 0 c).disableDone c

/-- Reset every context of a function, and its interrupts: a masked vector (log 5). The contexts that are disabled keep no open sequence. -/
def State.resetFunction (s : State) (all : Bool) (fn : Nat) : State :=
  let mine := fun (c : Nat) => all || s.fld RegF.ctxCfgFunc c == fn
  let s := overList (s.liveCtx.filter mine) (fun c s => s.resetCtx c) s
  let s := overList ((s.seqs.filter (fun k => k.2.state != .free && mine k.2.ctx)).map (fun k => k.2.ctx)) (fun c s => s.freeSeqs c) s
  { s with msixOpen := if all then [] else s.msixOpen.filter (fun v => v.1 != fn),
           msixPend := if all then [] else s.msixPend.filter (fun v => v.1 != fn) }

end Sys2Proof.Machine
end

