-- ==== Sys2Proof/Machine/FlashOps.lean ====
section
/-! DEFINITION. The legacy flash tier (spec/07_memory_tiers.md R207 to R212): the namespace table, Read commands into landing buffers and
their ends, and K4 tiles. The layout of an NVMe Read command is not the specification's (PRESUMED, log 26). -/

namespace Sys2Proof.Machine

def landBuffers : Nat := 716
def recordBytes : Nat := 20480
def k4Bytes : Nat := 16416

/-- Tile `i` of a move: its key, source and destination. A K4 fetch's source lies in its namespace. -/
def MoveItem.keyAt (x : MoveItem) (i : Nat) : Nat := x.key + i
def MoveItem.srcAt (x : MoveItem) (i : Nat) : Nat :=
  if x.kind = .k4 then flashBase + 2 ^ 44 * x.ns + (x.src + recordBytes * i) else x.src + tileBytes * i
def MoveItem.dstAt (x : MoveItem) (i : Nat) : Nat := x.dst + tileBytes * i
def MoveItem.home (x : MoveItem) : Nat := if x.kind = .k4 then 3 else x.srcHome

/-- The move that a mover runs. -/
def State.moveItem (s : State) (m : Nat) : MoveItem := nth {} (s.cert (s.mover m).ctx).moves (s.mover m).item

/-- Namespace and offset of a legacy flash address. -/
def flashNs (a : Nat) : Nat := (a - flashBase) / 2 ^ 44
def flashOff (a : Nat) : Nat := (a - flashBase) % 2 ^ 44

/-- Read the namespace table in host memory at the admission of a compatibility context's program (R209): a namespace beyond COUNT is no
longer in use; queue positions stay. -/
def State.readFlashTable (s : State) : State :=
  let s : State := { s with lf := s.lf.map (fun n => if n.1 < s.fld RegF.glbLfTableCount then n else (n.1, { n.2 with valid := false })) }
  overList (List.range (s.fld RegF.glbLfTableCount)) (fun n s =>
    let b := s.hrd (s.fld RegF.glbLfTableBase + 64 * n) 64
    let x := s.flash n
    s.setFlash n { x with sqDb := field b 0 8, cqDb := field b 8 8, nsid := field b 16 4, qdepth := max 2 (min 1024 (field b 20 2)),
                          lbaShift := field b 22 1, valid := (field b 23 1).testBit 0, blocks := field b 24 8 }) s

/-- A landing buffer that no read uses. -/
def State.freeBuffer (s : State) : Option Nat :=
  indexFrom (fun i => !(s.lf.any (fun n => n.2.reads.any (fun r => r.buffer == i)))) (List.range landBuffers) 0

/-- The 64 bytes of a Read of one record; the bus addresses of the landing buffer are free values. -/
def FlashNs.readCommand (x : FlashNs) (off : Nat) (prp1 prp2 : W64) : List Byte :=
  leBytes 4 (2 + 65536 * x.nextCid) ++ leBytes 4 x.nsid ++ leBytes 16 0 ++ leBytes 8 prp1.toNat ++ leBytes 8 prp2.toNat ++
    leBytes 8 (off / 2 ^ x.lbaShift) ++ leBytes 4 ((if x.lbaShift = 9 then 33 else 5) - 1) ++ leBytes 12 0

/-- Issue the Read of the record at a flash address for a stream slot or a mover; none where the queue is full or no buffer is free. -/
def State.flashRead (s : State) (a : Nat) (stream : Option (Nat × Nat)) (mover : Option Nat) : Option State :=
  let n := flashNs a
  let x := s.flash n
  match s.freeBuffer with
  | none => none
  | some b =>
    if x.qdepth - 1 ≤ x.reads.length then none
    else
      let f := s.free
      let g := f.2.free
      let tail := (x.sqTail + 1) % x.qdepth
      let s := g.2
      let s : State := { s with land := Tbl.setRun 0 s.land (n * 0x10000 + 64 * x.sqTail) (x.readCommand (flashOff a) f.1 g.1) }
      let s := s.hwr x.sqDb (leBytes 4 tail)
      some (s.setFlash n { x with sqTail := tail, nextCid := (x.nextCid + 1) % 65536,
                                  reads := x.reads ++ [{ cid := x.nextCid, buffer := b, addr := a, stream := stream, mover := mover }] })

/-- The read for a stream slot or a mover, with its namespace. -/
def State.readFor (s : State) (f : LfRead → Bool) : Option (Nat × LfRead) :=
  (s.lf.filterMap (fun n => (n.2.reads.find? f).map (fun r => (n.1, r)))).head?

/-- Drop a read of a namespace. -/
def State.dropRead (s : State) (n cid : Nat) : State :=
  let x := s.flash n
  s.setFlash n { x with reads := x.reads.filter (fun r => r.cid != cid) }

/-- A recall stands at the entry whose record a read brings, which it names by its recall unit and the entry's index. -/
def State.recallWants (s : State) (u i : Nat) : Bool :=
  s.runningTasks.any (fun y => (s.task y.1 y.2).wing == u / 128 && (s.task y.1 y.2).sends.zipIdx.any (fun e => e.1.kind == .multicast &&
    e.1.recallUnit == u % 128 && e.1.receivers.any (fun p => Tbl.get 0 (s.sendSt y.1 y.2 e.2).recalling p == i + 1)))

/-- A read serves a slot that still fills from its address, a recall, or the tile that a mover is at. -/
def State.readWanted (s : State) (r : LfRead) : Bool :=
  match r.stream, r.mover with
  | some (u, i), _ => ((s.stream u).held && (match (s.stream u).slot i with | .filling a _ _ => a == r.addr | _ => false)) || s.recallWants u i
  | none, some m => (s.mover m).held && (s.moveItem m).srcAt (s.mover m).tile == r.addr
  | none, none => false

/-- The drive's completion of a read: it writes an entry of 16 bytes into the completion queue (R208), of which the command identifier, the
phase and the status are the model's and the rest free values (PRESUMED, log 26); the queue position moves on and the doorbell is rung. -/
def State.cqAdvance (s : State) (n cid status : Nat) : State :=
  let x := s.flash n
  let h := (x.cqHead + 1) % max 1 x.qdepth
  let f := s.free
  let g := f.2.free
  let e := leBytes 8 f.1.toNat ++ leBytes 4 g.1.toNat ++ leBytes 2 cid ++ leBytes 2 (bit x.phase + 2 * status)
  let s := g.2
  let s : State := { s with land := Tbl.setRun 0 s.land (0x100000 + 0x4000 * n + 16 * x.cqHead) e }
  (s.hwr x.cqDb (leBytes 4 h)).setFlash n { x with cqHead := h, phase := if h = 0 then !x.phase else x.phase }

/-! ### K4 tiles (R212) -/

/-- The S8 format of a K4 format code. -/
def k4Format (k : Nat) : Option Nat :=
  if k = 1 then some 0x01 else if k = 2 then some 0x02 else if k = 3 then some 0x0C else if k = 4 then some 0x03 else none

/-- The header that a K4 tile gets, if its check passes: format, shape and CRC. -/
def k4Header (b : List Byte) : Option Hdr :=
  match k4Format (field b 0 1) with
  | none => none
  | some f =>
    let r := field b 2 2
    let c := field b 4 2
    if r = 0 ∨ c = 0 ∨ payloadBytes < spanBytes f (r * c) ∨ crc32c.of ((b.drop 32).take payloadBytes) ≠ field b 28 4 then none
    else some { fmt := f, rows := r, cols := c, scale := signed 16 (field b 6 2), rowO := field b 8 4, colO := field b 12 4 }

/-- A standing loan whose task has ended ends by itself: its slots are EMPTY, and a task that names it aborts (R182). -/
def State.dropLoan (s : State) (u : Nat) : State :=
  let x := s.stream u
  if x.held then s.putStream u x.stopped else s

/-- A read that ends with an error aborts the task it serves, or the DUE task of its prefetch entry. -/
def State.readFailed (s : State) (r : LfRead) (status : Option Nat) : State :=
  let ev := fun (unit c : Nat) => match status with
    | some n => s.evTier unit (some c) r.addr n
    | none => s.evTierOpen unit (some c) r.addr
  match r.stream, r.mover with
  | some (u, _), _ =>
    let x := s.stream u
    ((ev (uStream u) x.ctx).failTask x.ctx x.task (Fail.addr .tierError r.addr)).dropLoan u
  | none, some m =>
    let x := s.mover m
    let s := ((ev (uMover m) x.ctx).restoreCat m).putMover m { x with held := false, saved := none }
    s.failTask x.ctx (x.due.getD x.task) (Fail.addr .tierError r.addr)
  | none, none => s

/-- NVME_READ_COMPLETION: a success lands the record; any other status ends its stream or move with TIER_ERROR. Data of a read that
nothing waits for is discarded. -/
def execNvmeReadCompletion (n cid status : Nat) (data : List Byte) (s : State) : Host.Outcome State Fault Refusal :=
  match (s.flash n).reads.find? (fun r => r.cid == cid && !r.ready) with
  | none => ok s
  | some r =>
    let s := s.cqAdvance n cid status
    if ¬ s.readWanted r then ok (s.dropRead n cid)
    else if status = 0 then
      let d := pad recordBytes data
      let x := s.flash n
      let s := s.setFlash n { x with reads := x.reads.map (fun y => if y.cid = cid then { y with data := d, ready := true } else y) }
      ok { s with land := Tbl.setRun 0 s.land (0x200000 + recordBytes * r.buffer) d }
    else ok ((s.dropRead n cid).readFailed r (some (status % 256)))

/-- LEGACY_FLASH_TIMEOUT: a read not completed in time ends with TIER_ERROR. -/
def execLegacyFlashTimeout (n cid : Nat) (s : State) : Host.Outcome State Fault Refusal :=
  match (s.flash n).reads.find? (fun r => r.cid == cid && !r.ready) with
  | none => ok s
  | some r =>
    let s' := s.dropRead n cid
    ok (if s.readWanted r then s'.readFailed r none else s')

end Sys2Proof.Machine
end

