-- ==== Sys2Proof/Machine/Attend.lean ====
section
/-! DEFINITION. Attention (spec/10_attention_kv.md R276 to R285): masks, key and value blocks, scores, weights and the score hook, the
row states, and the outputs. -/

namespace Sys2Proof.Machine

/-! ### F32 codes (R129, R132, R279) -/

def w32 (e : Exact) : W32 := BitVec.ofNat 32 (e.pack f32 0)
def W32.val (x : W32) : XVal := f32.value x.toNat
def fadd32 (a b : W32) : W32 := w32 (fAdd (W32.val a) (W32.val b))
def fsub32 (a b : W32) : W32 := w32 (fAdd (W32.val a) (W32.val b).negate)
def fmul32 (a b : W32) : W32 := w32 (fMulX (W32.val a) (W32.val b)).exact
def ffma32 (a b c : W32) : W32 := w32 (fFma (W32.val a) (W32.val b) (W32.val c))
def fdiv32 (a b : W32) : W32 := w32 (fDiv (W32.val a) (W32.val b))
def fexp32 (a : W32) : W32 := w32 (fExp2 (W32.val a))
def fmax32 (a b : W32) : W32 := w32 (fMax (W32.val a) (W32.val b)).exact

def negInf32 : W32 := 0xFF800000
/-- log2 e rounded to nearest. -/
def log2e : W32 := 0x3FB8AA3B

/-! ### Geometry and masks (R276, R278, R283, R285) -/

def AttendEntry.blockKeys (a : AttendEntry) : Nat := 32 * 2 ^ a.bk
/-- The KV head of a query head. -/
def AttendEntry.kvHead (a : AttendEntry) (i h : Nat) : Nat := i * h / max 1 a.qHeads
/-- Keys of block j below a number of keys. -/
def AttendEntry.keysOf (a : AttendEntry) (j keyEnd : Nat) : List Nat :=
  (List.range (min a.blockKeys (keyEnd - j * a.blockKeys))).map (fun i => j * a.blockKeys + i)

/-- What the mask tile of block j says. -/
inductive MaskRes where
  | code (n : Nat)
  | stuck
  | fail (f : Fail)
  deriving DecidableEq, Repr

/-- The summary code of the mask tile of block j for a task's KV unit, which reads the near tier alone; a fault where the tile lies outside the
mask, its code is reserved or the context may not read it. -/
def State.maskCode (s : State) (c t w : Nat) (a : AttendEntry) (j : Nat) : MaskRes :=
  let old := (s.rt c t).epochOld
  let kt := j * a.blockKeys / 128
  let i := a.qFirst / 128 * a.maskKt + kt
  let sum := a.sumBase + i / 4
  let map := a.maskBase + 2048 * i
  if a.maskMode ≠ 1 then .code 1
  else if a.maskKt ≤ kt then .fail (Fail.addr .streamFault 0)
  else if ¬ s.kvMay c old false sum 1 then .fail (Fail.addr .protFault sum)
  else if ¬ s.kvSlotted c t w sum 1 then .stuck
  else
    let code := bits (leNat (s.rd sum 1)) (2 * (i % 4)) 2
    if code = 3 then .fail (Fail.addr .streamFault sum)
    else if code = 2 ∧ ¬ s.kvMay c old false map 2048 then .fail (Fail.addr .protFault map)
    else if code = 2 ∧ ¬ s.kvSlotted c t w map 2048 then .stuck
    else .code code

/-- The mask makes key k visible to query q, under the summary code of its tile. -/
def State.maskSees (s : State) (a : AttendEntry) (code q k : Nat) : Bool :=
  match a.maskMode with
  | 1 =>
    if code = 2 then
      let i := q / 128 * a.maskKt + k / 128
      let b := q % 128 * 128 + k % 128
      (leNat (s.rd (a.maskBase + 2048 * i + b / 8) 1)).testBit (b % 8)
    else code == 1
  | 2 => decide (k ≤ q)
  | _ => true

/-- No key of block j is visible by the mask alone (R283). -/
def AttendEntry.skips (a : AttendEntry) (code j : Nat) : Bool :=
  match a.maskMode with
  | 1 => code == 0
  | 2 => decide (a.qFirst + a.mQ - 1 < j * a.blockKeys)
  | _ => false

/-! ### Operands -/

/-- Keys or values of a block: one list of elements for each key, and their scale exponent. -/
structure KvBlock where
  rows : List (List XVal)
  scale : Int

/-- The outcome of reading several pages. -/
inductive PagesRes where
  | pages (s : State) (l : List (Nat × List Byte))
  | stuck
  | fail (s : State) (f : Fail)
  deriving DecidableEq, Repr

/-- The pages that hold some tokens of a sequence, read and checked for a task. -/
def State.readPages (s : State) (c t n : Nat) : List Nat → PagesRes
  | [] => .pages s []
  | lp :: l =>
    match s.readPage c t n lp with
    | .fail s f => .fail s f
    | .stuck => .stuck
    | .bytes s b =>
      match s.readPages c t n l with
      | .pages s r => .pages s ((lp, b) :: r)
      | r => r

/-- The elements of one head of one kind of the tokens in pages that were read. -/
def Seq.block (x : Seq) (pages : List (Nat × List Byte)) (kind head : Nat) (keys : List Nat) : KvBlock :=
  { rows := keys.map (fun k =>
      let page := ((pages.find? (fun p => p.1 == k / max 1 x.t)).map (fun p => p.2)).getD []
      let bs := (page.drop (x.off kind head (k % max 1 x.t))).take x.headBytes
      (List.range x.d).map (fun d => valueOf x.fmt (elemCode x.fmt bs d))),
    scale := x.scale }

/-- The elements of a tile image for some rows. -/
def tileBlock (img : List Byte) (n d : Nat) : KvBlock :=
  let h := Hdr.ofBytes img
  { rows := (List.range n).map (fun r => (List.range d).map (fun k => valueOf h.fmt (tileCode img r k))), scale := h.scale }

/-- The ring slot that holds the query tile of head i, where the tiles come through an in-stream: the slots in order from the consumer's place
(spec/06_gallery_streams_tiles.md R167). -/
def State.qSlot (s : State) (w : Nat) (a : AttendEntry) (i : Nat) : Option (Nat × Nat) :=
  (s.ringAt w a.qBase false).map (fun r => (r.1, ((s.stream r.1).reader + i) % max 1 (s.stream r.1).slots.length))

/-- The address of the query tile of head i. -/
def State.qAddr (s : State) (w : Nat) (a : AttendEntry) (i : Nat) : Nat :=
  match s.qSlot w a i with
  | some (u, k) => (s.stream u).slotAddr k
  | none => a.qBase + tileBytes * i

/-- The query rows of a head. -/
def State.qBlock (s : State) (w : Nat) (a : AttendEntry) (i : Nat) : KvBlock := tileBlock (s.rd (s.qAddr w a i) tileBytes) a.mQ a.d

/-- One output of an array job in F32 with RNE (R278), with its chain. -/
def attendProduct (fa fb : Nat) (as bs : List XVal) (eA eB : Int) : ChainSt × W32 :=
  let cls := (classOf fa fb false).getD .exact
  let st := ChainSt.pass cls {} as bs []
  (st, BitVec.ofNat 32 (convert 1 0 0 0 (st.result cls eA eB)).code)

/-! ### The score hook (R281) -/

/-- Run the hook over 64 scores of a row. -/
def runHook (hook : List W64) (q k0 head : Nat) (xs : List W32) : List W32 :=
  let e : Engine := { v := Tbl.cells 0 0 xs }
  let e := ((e.setScalar 0 (BitVec.ofNat 32 q)).setScalar 1 (BitVec.ofNat 32 k0)).setScalar 2 (BitVec.ofNat 32 head)
  let e := hook.foldl (fun e w => e.byOpcode (opcodeOf w) (fieldsOf w)) e
  (List.range 64).map (fun i => e.word 0 i)

/-- Apply the hook to the scores of a block, group by group of 64 keys. -/
def AttendEntry.hooked (a : AttendEntry) (q k0 head : Nat) (xs : List W32) : List W32 :=
  if a.hookLen = 0 then xs
  else (((List.range (ceilDiv xs.length 64)).map (fun g =>
    let l := (xs.drop (64 * g)).take 64
    (runHook a.hook q (k0 + 64 * g) head (l ++ List.replicate (64 - l.length) 0)).take l.length))).flatten

/-! ### One row and one block (R279, R280, R282) -/

/-- The block sum: groups of 64 keys by the tree of R133, then the groups in ascending order. -/
def blockSum (pv : List W32) : W32 :=
  let sums := (List.range (ceilDiv pv.length 64)).map (fun g =>
    let l := ((pv.drop (64 * g)).take 64).map (fun x => some x.toNat)
    BitVec.ofNat 32 (rsumCode f32 0 (l ++ List.replicate (64 - l.length) none)))
  match sums with
  | [] => 0
  | x :: l => l.foldl fadd32 x

/-- The weights of a block: the codes in FMT_P of the visible keys, +0 elsewhere. -/
def AttendEntry.weights (a : AttendEntry) (xs : List W32) (vis : List Bool) (mNew : W32) : List Nat :=
  List.zipWith (fun x v => if v then (convert a.fmtP 0 0 0 (W32.val (fexp32 (fmul32 (fsub32 x mNew) log2e)))).code
    else (convert a.fmtP 0 0 0 (.fin {})).code) xs vis

/-- A row's state takes in a block of scores x, visible keys, and the block's values. Once the row's maximum is infinite or NaN every later
operation gives NaN, whatever the weights' format can hold (R282; log 124). -/
def AttendEntry.rowStep (a : AttendEntry) (r : RowSt) (xs : List W32) (vis : List Bool) (v : KvBlock) : RowSt × List ChainSt :=
  let seen := (List.zip xs vis).filter (fun y => y.2)
  match seen with
  | [] => (r, [])
  | y :: l =>
    let b := l.foldl (fun m z => fmax32 m z.1) (fmax32 negInf32 y.1)
    let mNew := fmax32 r.m b
    let codes := a.weights xs vis mNew
    let vals := codes.map (valueOf a.fmtP)
    let sum := blockSum (vals.map (fun x => w32 x.exact))
    let outs := (List.range a.d).map (fun d =>
      attendProduct a.fmtP a.fmtKv vals (v.rows.map (fun row => nth (.fin {}) row d)) 0 v.scale)
    let o := outs.map (fun x => x.2)
    let acc := if r.acc.isEmpty then List.replicate a.d 0 else r.acc
    let nan := w32 .nan
    let st := if (W32.val mNew).special then { r with l := nan, acc := List.replicate a.d nan }
      else if r.m = negInf32 then { r with l := sum, acc := o }
      else if fCmp 4 (W32.val mNew) (W32.val r.m) then
        let k := fexp32 (fmul32 (fsub32 r.m mNew) log2e)
        { r with l := ffma32 r.l k sum, acc := List.zipWith (fun x y => ffma32 x k y) acc o }
      else { r with l := fadd32 r.l sum, acc := List.zipWith fadd32 acc o }
    ({ st with m := mNew, seen := true }, outs.map (fun x => x.1))

/-- All rows of a query head take in a block. -/
def State.headStep (s : State) (w : Nat) (a : AttendEntry) (rows : Tbl RowSt) (i : Nat) (keys : List Nat) (code : Nat) (k v : KvBlock) :
    Tbl RowSt × List ChainSt :=
  let q := s.qBlock w a i
  q.rows.zipIdx.foldl (fun (t : Tbl RowSt × List ChainSt) y =>
    let pos := a.qFirst + y.2
    let sc := k.rows.map (fun row => attendProduct a.fmtQ a.fmtKv y.1 row q.scale k.scale)
    let xs := a.hooked pos (keys.headD 0) i (sc.map (fun x => fmul32 x.2 a.scl))
    let vis := List.zipWith (fun key x => s.maskSees a code pos key && x != negInf32) keys xs
    let r := a.rowStep (Tbl.get {} t.1 (128 * i + y.2)) xs vis v
    (Tbl.set {} t.1 (128 * i + y.2) r.1, t.2 ++ sc.map (fun x => x.1) ++ r.2)) (rows, [])

/-! ### Outputs -/

/-- The output element of a row: DIV, or +0 where no key was ever visible. -/
def RowSt.out (r : RowSt) (d : Nat) : XVal := if r.seen then W32.val (fdiv32 (nth 0 r.acc d) r.l) else .fin {}

/-- Where the output tile of head i goes: the next slot of an out-stream's ring in ring order, or its place by index (R167). -/
def State.attendPlace (s : State) (w : Nat) (a : AttendEntry) (i : Nat) : Nat × Option (Nat × Nat) :=
  match s.ringAt w a.oBase true with
  | some (u, _) => let x := s.stream u; (x.slotAddr (x.outSlot 0), some (u, x.outSlot 0))
  | none => (a.oBase + tileBytes * i, none)

/-- The engine that writes an entry's outputs, its statistics with them, reaches bytes b to b + n − 1 in the slots of its task. -/
def State.attendReach (s : State) (c t w : Nat) (a : AttendEntry) (b n : Nat) : Bool :=
  s.slotted (s.asker c t (uEngine (64 * w + a.engFirst))) b n

/-- The output of head i can be written: its ring slot is EMPTY, and the engine reaches the tile and the statistics. -/
def State.attendFree (s : State) (c t w : Nat) (a : AttendEntry) (i : Nat) : Bool :=
  let q := s.attendPlace w a i
  s.attendReach c t w a q.1 tileBytes && (!a.stats || s.attendReach c t w a (a.statsBase + 8 * (i * a.mQ)) (8 * a.mQ)) &&
    (match q.2 with | some (u, k) => decide ((s.stream u).slot k = .empty) | none => true)

/-- Write the output of head i: its tile, its report, its statistics and its empty rows. -/
def State.attendOut (s : State) (c t w : Nat) (a : AttendEntry) (rows : Tbl RowSt) (i : Nat) : State :=
  let q := Hdr.ofBytes (s.rd (s.qAddr w a i) 64)
  let tg := s.target c a.smEntry a.fmtO a.rnd 0
  let cells := ((List.range a.mQ).map (fun r => (List.range a.d).map (fun d =>
    let x := (Tbl.get {} rows (128 * i + r)).out d
    let idx := (q.rowO + r) * a.tensorCols + q.colO + d
    (x, tg.conv x idx, idx)))).flatten
  let rep := cells.foldl (fun (m : SmRep) y => m.add y.1 y.2.1 y.2.2) {}
  let s := s.report c t a.smEntry rep
  let h : Hdr := { fmt := a.fmtO, rows := a.mQ, cols := a.d, scale := if fmtManaged a.fmtO then tg.e else 0, home := 2, tensor := tg.tensor,
                   rowO := q.rowO, colO := q.colO, producer := uEngine (64 * w + a.engFirst) }
  let p := s.attendPlace w a i
  let s := s.wr p.1 (tileImage h (packCodes a.fmtO (cells.map (fun y => y.2.1.code))))
  let s := match p.2 with | some (u, k) => s.fillOut u k | none => s
  let s := if a.stats then overList (List.range a.mQ) (fun r s =>
    let x := Tbl.get {} rows (128 * i + r)
    s.wr (a.statsBase + 8 * (i * a.mQ + r)) (leBytes 4 x.m.toNat ++ leBytes 4 x.l.toNat)) s else s
  let empty := ((List.range a.mQ).filter (fun r => !(Tbl.get {} rows (128 * i + r)).seen)).length
  if empty = 0 then s else s.incFld RegF.kvaSkipEmptyRows empty w

/-- Write outputs in the order of their heads as far as their places are free. With the last, the query tiles that came through a ring are
spent, and the task's attention is done. -/
def State.attendFinish (s : State) (c t w : Nat) (a : AttendEntry) (x : AttendSt) : Nat → State
  | 0 => s
  | n + 1 =>
    if a.qHeads ≤ x.outs then
      let s := overList ((List.range a.qHeads).filterMap (s.qSlot w a)) (fun q s => s.spendSlot q.1 q.2) s
      s.updRt c t (fun r => { r with att := some { x with done := true } })
    else if ¬ s.attendFree c t w a x.outs then s
    else
      let y := { x with outs := x.outs + 1 }
      ((s.attendOut c t w a x.rows x.outs).updRt c t (fun r => { r with att := some y })).attendFinish c t w a y n

/-! ### One block of a task -/

/-- The array that names itself where an operand tile of an attend task fails its check: the first of its entry (R241). -/
def State.attendArray (s : State) (c t w : Nat) : Nat := 2 * w + (if (s.entryOf c t).arrays.getLsbD 0 then 0 else 1)

/-- What an operand tile of an attend task fails with: a poisoned line, or a header or seal that does not agree with the product, whose block
scales are 0 (R163, spec/04_matrix_arrays.md R107). -/
def State.attendTileFail (s : State) (c t w fmt rows cols ad : Nat) : Option (State × Fail) :=
  let img := s.rd ad tileBytes
  let h := Hdr.ofBytes img
  if s.poisoned ad tileBytes then some ((s.galleryFail c ad tileBytes).2, (s.galleryFail c ad tileBytes).1)
  else if tileGood img (some fmt) && !h.bscale && decide (rows ≤ h.rows ∧ h.cols = cols) then none
  else some (s.evSeal (uArray (s.attendArray c t w)) c ad img, Fail.addr .tileSeal ad)

/-- Every array of an attend task reaches a tile in the task's slots. -/
def State.attendArrays (s : State) (c t w b : Nat) : Bool :=
  (List.range 2).all (fun j => !((s.entryOf c t).arrays.getLsbD j) || s.slotted (s.asker c t (uArray (2 * w + j))) b tileBytes)

/-- The first query tile that fails its check. -/
def State.qFail (s : State) (c t w : Nat) (a : AttendEntry) : Option (State × Fail) :=
  ((List.range a.qHeads).filterMap (fun i => s.attendTileFail c t w a.fmtQ a.mQ a.d (s.qAddr w a i))).head?

/-- Every query tile is there, FULL where it comes through a ring, and in reach of the arrays. -/
def State.qReady (s : State) (c t w : Nat) (a : AttendEntry) : Bool :=
  (List.range a.qHeads).all (fun i => s.attendArrays c t w (s.qAddr w a i) &&
    (match s.qSlot w a i with | some (u, k) => ((s.stream u).slot k).isFull | none => true))

/-- The hook of an entry, read from the gallery at its HOOK_BASE (R276, R281; log 125). -/
def State.readHook (s : State) (a : AttendEntry) : List W64 :=
  (List.range a.hookLen).map (fun i => BitVec.ofNat 64 (leNat (s.rd (a.hookBase + 8 * i) 8)))

/-- Every engine of an entry reaches the hook. -/
def State.hookReach (s : State) (c t w : Nat) (a : AttendEntry) : Bool :=
  a.hookLen == 0 || (List.range a.engCount).all (fun r => s.slotted (s.asker c t (uEngine (64 * w + a.engFirst + r))) a.hookBase (8 * a.hookLen))

/-- Take in a block for some query heads, with the hook as the gallery holds it and the arrays' flags (R82). -/
def State.takeBlock (s : State) (c t w : Nat) (a : AttendEntry) (x : AttendSt) (heads : List Nat) (keys : List Nat) (code : Nat)
    (kv : Nat → KvBlock × KvBlock) : State × AttendSt :=
  let b := { a with hook := s.readHook a }
  let r := heads.foldl (fun (y : Tbl RowSt × List ChainSt) i =>
    let v := kv i
    let z := s.headStep w b y.1 i keys code v.1 v.2
    (z.1, y.2 ++ z.2)) (x.rows, [])
  let s := overList heads (fun i s => s.galleryCorrected (s.qAddr w a i) tileBytes) s
  let s := if a.hookLen = 0 then s else s.galleryCorrected a.hookBase (8 * a.hookLen)
  let x := { x with rows := r.1 }
  ((s.arithFlags w r.2).updRt c t (fun y => { y with att := some x }), x)

/-- What a block comes to: `stuck` while an operand is missing or a slot is wanting. -/
inductive BlockRes where
  | next (s : State)
  | stuck
  | fail (s : State) (f : Fail)

/-- The K tile that the KV unit stages from a sequence, as the array's input port sees it. -/
def Seq.staged (x : Seq) (rows : Nat) : List Byte :=
  tileImage { fmt := x.fmt, rows := rows, cols := x.d, scale := x.scale, home := 2, producer := uKv x.wing } []

/-- The next block from a sequence, for every query head. Where the sequence's format or D is not the entry's, the staged tile fails the
input port's check. -/
def State.blockFromSeq (s : State) (c t w : Nat) (a : AttendEntry) (x : AttendSt) (code : Nat) : BlockRes :=
  let keys := a.keysOf x.block x.keyEnd
  let q := s.seqOf x.seq
  match s.readPages c t x.seq ((keys.map (fun k => k / max 1 q.t)).eraseDups) with
  | .fail s f => .fail s f
  | .stuck => .stuck
  | .pages s pages =>
    if q.fmt ≠ a.fmtKv ∨ q.d ≠ a.d then
      .fail (s.evSeal (uArray (s.attendArray c t w)) c 0 (q.staged keys.length)) (Fail.addr .tileSeal 0)
    else
      let r := s.takeBlock c t w a x (List.range a.qHeads) keys code (fun i =>
        (q.block pages 0 (a.kvHead i q.h) keys, q.block pages 1 (a.kvHead i q.h) keys))
      .next (r.1.updRt c t (fun y => { y with att := some { r.2 with block := x.block + 1 } }))

/-- The K or V tile that comes next from in-streams: the streams give the tiles in turn (log 30). -/
def State.streamTile (s : State) (w : Nat) (a : AttendEntry) (n : Nat) : Option (Nat × Nat × List Byte) :=
  let u := 128 * w + nth 0 a.kvTiles (n % max 1 a.kvTiles.length)
  let x := s.stream u
  if x.held && (x.slot x.reader).isFull then some (u, x.slotAddr x.reader, s.rd (x.slotAddr x.reader) tileBytes) else none

/-- Spend the tile at a stream's place. -/
def State.spendReader (s : State) (u : Nat) : State := s.spendSlot u (s.stream u).reader

/-- The next (block, KV head) from in-streams. -/
def State.blockFromStreams (s : State) (c t w : Nat) (a : AttendEntry) (x : AttendSt) (code : Nat) : BlockRes :=
  let keys := a.keysOf x.block x.keyEnd
  match s.streamTile w a 0 with
  | none => .stuck
  | some (u, ka, ki) =>
    if ¬ s.attendArrays c t w ka then .stuck
    else match s.attendTileFail c t w a.fmtKv keys.length a.d ka with
    | some f => .fail f.1 f.2
    | none =>
      let s1 := (s.galleryCorrected ka tileBytes).spendReader u
      match s1.streamTile w a 1 with
      | none => .stuck
      | some (v, va, vi) =>
        if ¬ s1.attendArrays c t w va then .stuck
        else match s1.attendTileFail c t w a.fmtKv keys.length a.d va with
        | some f => .fail f.1 f.2
        | none =>
          let s := (s1.galleryCorrected va tileBytes).spendReader v
          let heads := (List.range a.qHeads).filter (fun i => a.kvHead i a.h == x.head)
          let r := s.takeBlock c t w a x heads keys code (fun _ => (tileBlock ki keys.length a.d, tileBlock vi keys.length a.d))
          let last := decide (a.h ≤ x.head + 1)
          .next (r.1.updRt c t (fun y => { y with att := some { r.2 with
            block := if last then x.block + 1 else x.block, head := if last then 0 else x.head + 1 } }))

/-- After the last block the outputs are written, as their places become free; they take their places in the tensor from the query tiles,
which are checked first. -/
def State.attendEnd (s : State) (c t w : Nat) (a : AttendEntry) : State :=
  match (s.rt c t).att with
  | some x =>
    if ¬ (x.keyEnd ≤ x.block * a.blockKeys) ∨ ¬ s.qReady c t w a then s
    else match s.qFail c t w a with
      | some f => f.1.failTask c t f.2
      | none => s.attendFinish c t w a x (a.qHeads + 1)
  | none => s

/-- ATTEND_BLOCK: the next block of a running attend task, for all its query heads, or with keys from streams for one KV head. Every unit waits
until it reaches its operands in the task's slots (spec/01_module_and_one_step.md R18). -/
def execAttendBlock (c t : Nat) (s : State) : Host.Outcome State Fault Refusal :=
  match (s.task c t).attend, (s.rt c t).att with
  | some a, some x =>
    let w := (s.task c t).wing
    if ¬ s.running c t ∨ x.done then ok s
    else if x.keyEnd ≤ x.block * a.blockKeys then ok (s.attendEnd c t w a)
    else
      match s.maskCode c t w a x.block with
      | .fail f => ok (s.failTask c t f)
      | .stuck => ok s
      | .code code =>
        if a.skips code x.block then
          ok (((s.incFld RegF.kvaSkipBlocks 1 w).updRt c t (fun y => { y with att := some { x with block := x.block + 1, head := 0 } })).attendEnd
            c t w a)
        else if ¬ s.qReady c t w a ∨ ¬ s.hookReach c t w a then ok s
        else match s.qFail c t w a with
          | some f => ok (f.1.failTask c t f.2)
          | none =>
            if a.hookLen ≠ 0 ∧ s.poisoned a.hookBase (8 * a.hookLen) then
              let f := s.galleryFail c a.hookBase (8 * a.hookLen)
              ok (f.2.failTask c t f.1)
            else
              match (if a.fromStreams then s.blockFromStreams c t w a x code else s.blockFromSeq c t w a x code) with
              | .stuck => ok s
              | .next s => ok (s.attendEnd c t w a)
              | .fail s f => ok (s.failTask c t f)
  | _, _ => ok s

end Sys2Proof.Machine
end

