-- ==== Sys2Proof/Machine/Vector.lean ====
section
/-! DEFINITION. The vector instructions that act on an engine's registers alone. An instruction comes about when the engine runs and
the word at its place in the program is this instruction; otherwise nothing changes (log 10). -/

namespace Sys2Proof.Machine

/-- Issue an instruction of the engine: its effect, and the next instruction. -/
def vecStep (s : State) (e op : Nat) (o : VOp) (f : Engine → Engine) : State :=
  if (s.engine e).at op o then s.setEngine e (f (s.engine e)).advance else s

/-! ### Floating arithmetic (R129, R149) -/

/-- ADD. -/
def execAdd (e : Nat) (o : VOp) (s : State) : Host.Outcome State Fault Refusal :=
  .next (vecStep s e 0x10 o (Engine.fAddI o))

/-- SUB. -/
def execSub (e : Nat) (o : VOp) (s : State) : Host.Outcome State Fault Refusal :=
  .next (vecStep s e 0x11 o (Engine.fSubI o))

/-- MUL. -/
def execMul (e : Nat) (o : VOp) (s : State) : Host.Outcome State Fault Refusal :=
  .next (vecStep s e 0x12 o (Engine.fMulI o))

/-- FMA. -/
def execFma (e : Nat) (o : VOp) (s : State) : Host.Outcome State Fault Refusal :=
  .next (vecStep s e 0x13 o (Engine.fFmaI o))

/-- FMS. -/
def execFms (e : Nat) (o : VOp) (s : State) : Host.Outcome State Fault Refusal :=
  .next (vecStep s e 0x14 o (Engine.fFmsI o))

/-- FNMA. -/
def execFnma (e : Nat) (o : VOp) (s : State) : Host.Outcome State Fault Refusal :=
  .next (vecStep s e 0x15 o (Engine.fFnmaI o))

/-- DIV. -/
def execDiv (e : Nat) (o : VOp) (s : State) : Host.Outcome State Fault Refusal :=
  .next (vecStep s e 0x16 o (Engine.fDivI o))

/-- SQRT. -/
def execSqrt (e : Nat) (o : VOp) (s : State) : Host.Outcome State Fault Refusal :=
  .next (vecStep s e 0x17 o (Engine.fSqrtI o))

/-- RSQRT. -/
def execRsqrt (e : Nat) (o : VOp) (s : State) : Host.Outcome State Fault Refusal :=
  .next (vecStep s e 0x18 o (Engine.fRsqrtI o))

/-- RCP. -/
def execRcp (e : Nat) (o : VOp) (s : State) : Host.Outcome State Fault Refusal :=
  .next (vecStep s e 0x19 o (Engine.fRcpI o))

/-- MIN. -/
def execMin (e : Nat) (o : VOp) (s : State) : Host.Outcome State Fault Refusal :=
  .next (vecStep s e 0x1A o (Engine.fMinI o))

/-- MAX. -/
def execMax (e : Nat) (o : VOp) (s : State) : Host.Outcome State Fault Refusal :=
  .next (vecStep s e 0x1B o (Engine.fMaxI o))

/-- ABS. -/
def execAbs (e : Nat) (o : VOp) (s : State) : Host.Outcome State Fault Refusal :=
  .next (vecStep s e 0x1C o (Engine.fAbsI o))

/-- NEG. -/
def execNeg (e : Nat) (o : VOp) (s : State) : Host.Outcome State Fault Refusal :=
  .next (vecStep s e 0x1D o (Engine.fNegI o))

/-- SELECT. -/
def execSelect (e : Nat) (o : VOp) (s : State) : Host.Outcome State Fault Refusal :=
  .next (vecStep s e 0x1E o (Engine.fSelectI o))

/-- CLIP. -/
def execClip (e : Nat) (o : VOp) (s : State) : Host.Outcome State Fault Refusal :=
  .next (vecStep s e 0x1F o (Engine.fClipI o))

/-- SCALEB. -/
def execScaleb (e : Nat) (o : VOp) (s : State) : Host.Outcome State Fault Refusal :=
  .next (vecStep s e 0x20 o (Engine.fScalebI o))

/-! ### Compare, predicates and moves (R129, R130) -/

/-- CMP. -/
def execCmp (e : Nat) (o : VOp) (s : State) : Host.Outcome State Fault Refusal :=
  .next (vecStep s e 0x30 o (Engine.cmpI o))

/-- PAND. -/
def execPand (e : Nat) (o : VOp) (s : State) : Host.Outcome State Fault Refusal :=
  .next (vecStep s e 0x31 o (Engine.predI o (· &&& ·)))

/-- POR. -/
def execPor (e : Nat) (o : VOp) (s : State) : Host.Outcome State Fault Refusal :=
  .next (vecStep s e 0x32 o (Engine.predI o (· ||| ·)))

/-- PXOR. -/
def execPxor (e : Nat) (o : VOp) (s : State) : Host.Outcome State Fault Refusal :=
  .next (vecStep s e 0x33 o (Engine.predI o (· ^^^ ·)))

/-- PNOT. -/
def execPnot (e : Nat) (o : VOp) (s : State) : Host.Outcome State Fault Refusal :=
  .next (vecStep s e 0x34 o (Engine.predI o (fun a _ => ~~~a)))

/-- PFIRST. -/
def execPfirst (e : Nat) (o : VOp) (s : State) : Host.Outcome State Fault Refusal :=
  .next (vecStep s e 0x35 o (Engine.pfirstI o))

/-- PCNT. -/
def execPcnt (e : Nat) (o : VOp) (s : State) : Host.Outcome State Fault Refusal :=
  .next (vecStep s e 0x36 o (Engine.pcntI o))

/-- MOV. -/
def execMov (e : Nat) (o : VOp) (s : State) : Host.Outcome State Fault Refusal :=
  .next (vecStep s e 0x38 o (Engine.movI o))

/-- BCAST. -/
def execBcast (e : Nat) (o : VOp) (s : State) : Host.Outcome State Fault Refusal :=
  .next (vecStep s e 0x39 o (Engine.bcastI o))

/-- LANE. -/
def execLane (e : Nat) (o : VOp) (s : State) : Host.Outcome State Fault Refusal :=
  .next (vecStep s e 0x3A o (Engine.laneI o))

/-- PERM. -/
def execPerm (e : Nat) (o : VOp) (s : State) : Host.Outcome State Fault Refusal :=
  .next (vecStep s e 0x3B o (Engine.permI o))

/-- ROT. -/
def execRot (e : Nat) (o : VOp) (s : State) : Host.Outcome State Fault Refusal :=
  .next (vecStep s e 0x3C o (Engine.rotI o))

/-- IOTA. -/
def execIota (e : Nat) (o : VOp) (s : State) : Host.Outcome State Fault Refusal :=
  .next (vecStep s e 0x3D o (Engine.iotaI o))

/-! ### Conversion, exp2 and log2 (R131, R132) -/

/-- CVT. -/
def execCvt (e : Nat) (o : VOp) (s : State) : Host.Outcome State Fault Refusal :=
  .next (vecStep s e 0x40 o (Engine.cvtI o))

/-- EXP2. -/
def execExp2 (e : Nat) (o : VOp) (s : State) : Host.Outcome State Fault Refusal :=
  .next (vecStep s e 0x50 o (Engine.exp2I o))

/-- LOG2. -/
def execLog2 (e : Nat) (o : VOp) (s : State) : Host.Outcome State Fault Refusal :=
  .next (vecStep s e 0x51 o (Engine.log2I o))

/-! ### Reductions (R133, R134) -/

/-- RSUM. -/
def execRsum (e : Nat) (o : VOp) (s : State) : Host.Outcome State Fault Refusal :=
  .next (vecStep s e 0x60 o (Engine.rsumI o))

/-- RMAX. -/
def execRmax (e : Nat) (o : VOp) (s : State) : Host.Outcome State Fault Refusal :=
  .next (vecStep s e 0x61 o (Engine.rminmaxI true o))

/-- RMIN. -/
def execRmin (e : Nat) (o : VOp) (s : State) : Host.Outcome State Fault Refusal :=
  .next (vecStep s e 0x62 o (Engine.rminmaxI false o))

/-- RSUMX. -/
def execRsumx (e : Nat) (o : VOp) (s : State) : Host.Outcome State Fault Refusal :=
  .next (vecStep s e 0x63 o (Engine.rsumxI o))

/-! ### INT32 and scalar (R126) -/

/-- IADD. -/
def execIadd (e : Nat) (o : VOp) (s : State) : Host.Outcome State Fault Refusal :=
  .next (vecStep s e 0x90 o (Engine.iaddI o))

/-- ISUB. -/
def execIsub (e : Nat) (o : VOp) (s : State) : Host.Outcome State Fault Refusal :=
  .next (vecStep s e 0x91 o (Engine.isubI o))

/-- IMUL. -/
def execImul (e : Nat) (o : VOp) (s : State) : Host.Outcome State Fault Refusal :=
  .next (vecStep s e 0x92 o (Engine.imulI o))

/-- AND. -/
def execAnd (e : Nat) (o : VOp) (s : State) : Host.Outcome State Fault Refusal :=
  .next (vecStep s e 0x93 o (Engine.andI o))

/-- OR. -/
def execOr (e : Nat) (o : VOp) (s : State) : Host.Outcome State Fault Refusal :=
  .next (vecStep s e 0x94 o (Engine.orI o))

/-- XOR. -/
def execXor (e : Nat) (o : VOp) (s : State) : Host.Outcome State Fault Refusal :=
  .next (vecStep s e 0x95 o (Engine.xorI o))

/-- SHL. -/
def execShl (e : Nat) (o : VOp) (s : State) : Host.Outcome State Fault Refusal :=
  .next (vecStep s e 0x96 o (Engine.shlI o))

/-- SHR. -/
def execShr (e : Nat) (o : VOp) (s : State) : Host.Outcome State Fault Refusal :=
  .next (vecStep s e 0x97 o (Engine.shrI o))

/-- SAR. -/
def execSar (e : Nat) (o : VOp) (s : State) : Host.Outcome State Fault Refusal :=
  .next (vecStep s e 0x98 o (Engine.sarI o))

/-- IMIN. -/
def execImin (e : Nat) (o : VOp) (s : State) : Host.Outcome State Fault Refusal :=
  .next (vecStep s e 0x99 o (Engine.iminI o))

/-- IMAX. -/
def execImax (e : Nat) (o : VOp) (s : State) : Host.Outcome State Fault Refusal :=
  .next (vecStep s e 0x9A o (Engine.imaxI o))

/-- SADD. -/
def execSadd (e : Nat) (o : VOp) (s : State) : Host.Outcome State Fault Refusal :=
  .next (vecStep s e 0xA0 o (Engine.saddI o))

/-- SSUB. -/
def execSsub (e : Nat) (o : VOp) (s : State) : Host.Outcome State Fault Refusal :=
  .next (vecStep s e 0xA1 o (Engine.ssubI o))

/-- SMUL. -/
def execSmul (e : Nat) (o : VOp) (s : State) : Host.Outcome State Fault Refusal :=
  .next (vecStep s e 0xA2 o (Engine.smulI o))

/-- SMOVI. -/
def execSmovi (e : Nat) (o : VOp) (s : State) : Host.Outcome State Fault Refusal :=
  .next (vecStep s e 0xA3 o (Engine.smoviI o))

/-- SLUI. -/
def execSlui (e : Nat) (o : VOp) (s : State) : Host.Outcome State Fault Refusal :=
  .next (vecStep s e 0xA4 o (Engine.sluiI o))

/-- SGET. -/
def execSget (e : Nat) (o : VOp) (s : State) : Host.Outcome State Fault Refusal :=
  .next (vecStep s e 0xA5 o (Engine.sgetI o))

/-- SCLR. -/
def execSclr (e : Nat) (o : VOp) (s : State) : Host.Outcome State Fault Refusal :=
  .next (vecStep s e 0xA6 o (Engine.sclrI o))

/-! ### Wide integers and the ledger status (R136, R138) -/

/-- LADD. -/
def execLadd (e : Nat) (o : VOp) (s : State) : Host.Outcome State Fault Refusal :=
  .next (vecStep s e 0x70 o (Engine.laddI o))

/-- LSUB. -/
def execLsub (e : Nat) (o : VOp) (s : State) : Host.Outcome State Fault Refusal :=
  .next (vecStep s e 0x71 o (Engine.lsubI o))

/-- LNEG. -/
def execLneg (e : Nat) (o : VOp) (s : State) : Host.Outcome State Fault Refusal :=
  .next (vecStep s e 0x72 o (Engine.lnegI o))

/-- LSHL. -/
def execLshl (e : Nat) (o : VOp) (s : State) : Host.Outcome State Fault Refusal :=
  .next (vecStep s e 0x73 o (Engine.lshlI o))

/-- LSAR. -/
def execLsar (e : Nat) (o : VOp) (s : State) : Host.Outcome State Fault Refusal :=
  .next (vecStep s e 0x74 o (Engine.lsarI o))

/-- LMAX. -/
def execLmax (e : Nat) (o : VOp) (s : State) : Host.Outcome State Fault Refusal :=
  .next (vecStep s e 0x75 o (Engine.lmaxI o))

/-- LMIN. -/
def execLmin (e : Nat) (o : VOp) (s : State) : Host.Outcome State Fault Refusal :=
  .next (vecStep s e 0x76 o (Engine.lminI o))

/-- LQ. -/
def execLq (e : Nat) (o : VOp) (s : State) : Host.Outcome State Fault Refusal :=
  .next (vecStep s e 0x77 o (Engine.lqI o))

/-- LWIDEN. -/
def execLwiden (e : Nat) (o : VOp) (s : State) : Host.Outcome State Fault Refusal :=
  .next (vecStep s e 0x78 o (Engine.lwidenI o))

/-- LSQA. -/
def execLsqa (e : Nat) (o : VOp) (s : State) : Host.Outcome State Fault Refusal :=
  .next (vecStep s e 0x79 o (Engine.lsqaI o))

/-- LADDA. -/
def execLadda (e : Nat) (o : VOp) (s : State) : Host.Outcome State Fault Refusal :=
  .next (vecStep s e 0x7A o (Engine.laddaI o))

/-- LSUMA. -/
def execLsuma (e : Nat) (o : VOp) (s : State) : Host.Outcome State Fault Refusal :=
  .next (vecStep s e 0x7B o (Engine.lsumaI o))

/-- LSH64. -/
def execLsh64 (e : Nat) (o : VOp) (s : State) : Host.Outcome State Fault Refusal :=
  .next (vecStep s e 0x7C o (Engine.lsh64I o))

/-- LCLRA. -/
def execLclra (e : Nat) (o : VOp) (s : State) : Host.Outcome State Fault Refusal :=
  .next (vecStep s e 0x7D o (Engine.lclraI o))

end Sys2Proof.Machine
end

