-- ==== Sys2Proof/Machine/VectorCtl.lean ====
section
/-! DEFINITION. The vector engines beside register arithmetic (spec/05_vector_engines.md): jobs, control and synchronisation, gallery
and tile buffers, and update mode. A gallery write lands with its instruction (log 23). -/

namespace Sys2Proof.Machine

/-! ### Event counters (R128) -/

/-! ### Jobs (R117, R119, R120, R142) -/

/-- The engines of a vector job. -/
def VecJob.engines (j : VecJob) (w : Nat) : List Nat := (List.range j.engCount).map (fun r => 64 * w + j.engFirst + r)

/-- The engines of a job have started for it. -/
def State.jobOn (s : State) (c t j : Nat) : Bool :=
  s.eng.any (fun x => x.2.run != .idle && x.2.ctx == c && x.2.task == t && x.2.job == j)

/-- The sets of four batches that the engine of rank r runs (R145, R146). -/
def VecJob.sets (j : VecJob) (r : Nat) : Nat :=
  ceilDiv ((List.range (ceilDiv j.recordCount 64)).filter (fun b => b % max 1 j.engCount == r)).length 4

/-- The fixed starting state of an engine (R117); the program is read from the gallery. In an update-mode job, where ARG_BASE is ignored, s0 to
s30 hold zero (DESIGN CHOICE, log 113). -/
def State.startEngine (s : State) (c t j : Nat) (x : VecJob) (r e : Nat) : State :=
  let prog := (List.range x.progLen).map (fun i => BitVec.ofNat 64 (leNat (s.rd (x.progBase + 8 * i) 8)))
  let args := (List.range 31).map (fun i => BitVec.ofNat 32 (leNat (s.rd (x.argBase + 4 * i) 4)))
  s.setEngine e { run := .running, ctx := c, task := t, job := j, rank := r, prog := prog,
                  s := if x.mode = 1 then Tbl.set 0 [] 31 (BitVec.ofNat 32 r) else Tbl.setRun 0 [] 0 (args ++ [BitVec.ofNat 32 r]),
                  update := x.mode == 1 }

/-- The gallery blocks that a job's start reads: its program, and in general mode its argument block. -/
def VecJob.blocks (x : VecJob) : List (Nat × Nat) := [(x.progBase, 8 * x.progLen)] ++ (if x.mode = 0 then [(x.argBase, 128)] else [])

/-- VECTOR_JOB_START, once each engine's slots reach them. A program or argument block in a gallery line that cannot be corrected ends the task with INTERNAL. -/
def execVectorJobStart (c t j : Nat) (s : State) : Host.Outcome State Fault Refusal :=
  let k := s.task c t
  let x := nth {} k.vecJobs j
  let es := x.engines k.wing
  if ¬ s.running c t ∨ k.vecJobs.length ≤ j ∨ (s.rt c t).jobs.contains j ∨ s.jobOn c t j ∨
      es.any (fun e => (s.engine e).run != .idle || !(s.hasEngine e)) then ok s
  else if es.any (fun e => x.blocks.any (fun b => !(s.slotted (s.asker c t (uEngine e)) b.1 b.2))) then ok s
  else match (x.blocks).find? (fun b => s.poisoned b.1 b.2) with
    | some b =>
      let f := s.galleryFail c b.1 b.2
      ok (f.2.failTask c t f.1)
    | none => ok (overList es.zipIdx (fun e s => s.startEngine c t j x e.2 e.1) s)

/-- OR a job's flag word into WING_VE_FLAGS; CTX takes the context that sets a flag while all are clear (R142). -/
def State.gatherFlags (s : State) (w c : Nat) (f : BitVec 4) : State :=
  if f = 0 then s
  else
    let old := s.reg .wingVeFlags w 0 % 16
    let s := if old = 0 then s.setFld RegF.wingVeFlagsCtx c w else s
    let s := when (f.getLsbD 0) (fun s => s.setFld RegF.wingVeFlagsNonfinite 1 w) s
    let s := when (f.getLsbD 1) (fun s => s.setFld RegF.wingVeFlagsSat 1 w) s
    let s := when (f.getLsbD 2) (fun s => s.setFld RegF.wingVeFlagsWideOvf 1 w) s
    when (f.getLsbD 3) (fun s => s.setFld RegF.wingVeFlagsBreach 1 w) s

/-- Every update job of a group in the RUN has completed with OK (R268). -/
def State.groupDone (s : State) (c g : Nat) : Bool :=
  (s.runTasks c).all (fun t => !(s.task c t).updGroups.contains g ||
    ((s.rt c t).st != .aborted && (s.task c t).vecJobs.zipIdx.all (fun j =>
      j.1.mode != 1 || !((s.task c t).jobGroups j.1).contains g || (s.rt c t).jobs.contains j.2)))

/-- What a job writes at its end for the reduction control (R367): the status record of its chunk, which it also reads, and the descriptors of
the groups whose update it ends. The first address that the context's domain does not allow. -/
def State.endFail (s : State) (c t : Nat) (x : VecJob) (groups : List Nat) : Option Nat :=
  let old := (s.rt c t).epochOld
  let chunk : List Nat := (x.chunk.map (fun y => (s.ledgerEnt c y.1).cstatAddr y.2)).toList
  let bad : List Nat := chunk.filter (fun a => !(s.allows c old false a 16 && s.allows c old true a 16)) ++
    (groups.map (s.groupAddr c)).filter (fun a => !(s.allows c old false a 128 && s.allows c old true a 64))
  bad.head?

/-- VECTOR_JOB_COMPLETE: every engine of the job has ended. `issued` and `stalled` count in the units of WING_VE_CNT. -/
def execVectorJobComplete (c t j issued stalled : Nat) (s : State) : Host.Outcome State Fault Refusal :=
  let k := s.task c t
  let x := nth {} k.vecJobs j
  let es := x.engines k.wing
  if ¬ s.running c t ∨ k.vecJobs.length ≤ j ∨ es.any (fun e =>
      let g := s.engine e
      g.run != .ended || g.ctx != c || g.task != t || g.job != j || !g.sigs.isEmpty) then ok s
  else
    let s := overList es (fun e s => s.gatherFlags k.wing c (s.engine e).flags) s
    let done := s.updRt c t (fun r => { r with jobs := r.jobs ++ [j] })
    match s.endFail c t x ((k.jobGroups x).filter (fun g => x.mode == 1 && done.groupDone c g)) with
    | some a => ok (s.failTask c t (Fail.addr .protFault a))
    | none =>
    let s := match x.chunk with
      | some (le, n) => overList es (fun e s => s.mergeCstat (s.ledgerEnt c le) n ((s.engine e).led.hdr (s.engine e).flags)) s
      | none => s
    let s := overList es (fun e s => s.freeEngine e) s
    let s := s.updRt c t (fun r => { r with jobs := r.jobs ++ [j] })
    let s := (s.incFld RegF.wingVeCntIssued issued k.wing).incFld RegF.wingVeCntStalled stalled k.wing
    let due := ((k.jobGroups x).filter (fun g => x.mode == 1 && s.groupDone c g))
    ok (if due.isEmpty then s else (overList due (fun g s => s.groupUpdated c g) s).settle)

/-- The engine's task ends with a failure. -/
def State.failEngine (s : State) (e : Nat) (f : Fail) : State := s.failTask (s.engine e).ctx (s.engine e).task f

/-- VECTOR_PARITY_ERROR (R143). -/
def execVectorParityError (e : Nat) (s : State) : Host.Outcome State Fault Refusal :=
  let x := s.engine e
  if ¬ s.hasEngine e then ok s
  else if x.run = .idle then ok (s.event (uEngine e) 0x0106 3 none [(16, 1, 4)])
  else
    let s := s.event (uEngine e) 0x0106 3 (some x.ctx) [(16, 1, 4)]
    ok (s.failEngine e (s.unitFail .internal (uEngine e)))

/-- WING_VE_CNT_CLR (R153). -/
def execWingVeCntClr (w : Nat) (s : State) : Host.Outcome State Fault Refusal :=
  ok (if s.ready then s.setReg .wingVeCnt w 0 0 else s)

/-! ### Control and synchronisation (R126, R127) -/

/-- NOP. -/
def execNop (e : Nat) (o : VOp) (s : State) : Host.Outcome State Fault Refusal := ok (vecStep s e 0x00 o id)

/-- Let an engine act at an instruction: the change says where it goes on. -/
def vecAt (s : State) (e op : Nat) (o : VOp) (f : Engine → Engine) : State :=
  if (s.engine e).at op o then s.setEngine e (f (s.engine e)) else s

/-- HALT. -/
def execHalt (e : Nat) (o : VOp) (s : State) : Host.Outcome State Fault Refusal :=
  ok (vecAt s e 0x01 o (fun x => { x with run := .ended }))

/-- LOOP: the body, up to the matching ENDL, runs IMM24 + 1 times. -/
def execLoop (e : Nat) (o : VOp) (s : State) : Host.Outcome State Fault Refusal :=
  ok (vecAt s e 0x02 o (fun x => { x with pc := x.pc + 1, loops := (x.pc + 1, o.imm.toNat) :: x.loops }))

/-- ENDL. -/
def execEndl (e : Nat) (o : VOp) (s : State) : Host.Outcome State Fault Refusal :=
  ok (vecAt s e 0x03 o (fun x =>
    match x.loops with
    | [] => x.advance
    | (p, n) :: l => if n = 0 then { x with pc := x.pc + 1, loops := l } else { x with pc := p, loops := (p, n - 1) :: l }))

/-- SKIP. -/
def execSkip (e : Nat) (o : VOp) (s : State) : Host.Outcome State Fault Refusal :=
  ok (vecAt s e 0x04 o (fun x =>
    if lanes.any (fun i => x.active o (BitVec.allOnes 64) i) then x.advance
    else { x with pc := x.pc + 1 + bits o.imm.toNat 0 12 }))

/-- BAR. -/
def execBar (e : Nat) (o : VOp) (s : State) : Host.Outcome State Fault Refusal :=
  ok (vecAt s e 0x05 o (fun x => { x with run := .atBar }))

/-- BAR_MET: every engine of the job waits at the same BAR, and each goes on. -/
def execBarMet (e : Nat) (s : State) : Host.Outcome State Fault Refusal :=
  let x := s.engine e
  let es := (s.jobOfEngine e).engines (engWing e)
  if x.run = .atBar ∧ es.contains e ∧ es.all (fun g =>
      let y := s.engine g
      y.run == .atBar && y.pc == x.pc && y.ctx == x.ctx && y.task == x.task && y.job == x.job) then
    ok (overList es (fun g s => s.updEngine g (fun y => { y with run := .running, pc := y.pc + 1 })) s)
  else ok s

/-- SIG: the increment is requested; it comes once the engine's earlier gallery writes have landed. -/
def execSig (e : Nat) (o : VOp) (s : State) : Host.Outcome State Fault Refusal :=
  ok (vecAt s e 0x06 o (fun x => { x with pc := x.pc + 1, sigs := x.sigs ++ [bits o.imm.toNat 0 6] }))

/-- SIG_INCREMENT: a counter counts SIG only from engines that run tasks of the context that holds it (R128). A SIG issued before its engine's
task aborted still counts, until the engine's next job starts (DESIGN CHOICE, log 113). -/
def execSigIncrement (e : Nat) (s : State) : Host.Outcome State Fault Refusal :=
  let x := s.engine e
  match x.sigs with
  | [] => ok s
  | v :: l =>
    let s := s.setEngine e { x with sigs := l }
    ok (if s.evOwner (engWing e) v = some x.ctx then (s.evCount x.ctx (engWing e) v).seePosts (engWing e) else s)

/-- WAIT. -/
def execWait (e : Nat) (o : VOp) (s : State) : Host.Outcome State Fault Refusal :=
  ok (vecAt s e 0x07 o (fun x => { x with run := .atWait (bits o.imm.toNat 0 6) (x.scalar o.va.toNat).toNat }))

/-- WAIT_MET. -/
def execWaitMet (e : Nat) (s : State) : Host.Outcome State Fault Refusal :=
  let x := s.engine e
  match x.run with
  | .atWait v n => ok (if n ≤ (s.evGet (engWing e) v).toNat then s.setEngine e { x with run := .running, pc := x.pc + 1 } else s)
  | _ => ok s

/-- CWAIT. -/
def execCwait (e : Nat) (o : VOp) (s : State) : Host.Outcome State Fault Refusal :=
  ok (vecAt s e 0x08 o (fun x => { x with run := .atChunk (bits o.imm.toNat 0 6) o.vd.toNat }))

/-- CWAIT_MET: a message of the queue that no CWAIT has taken is whole in its slot (spec/11 R316; log 24). -/
def execCwaitMet (e : Nat) (s : State) : Host.Outcome State Fault Refusal :=
  let x := s.engine e
  let w := engWing e
  match x.run with
  | .atChunk q r =>
    let y := s.rqueue w q
    if y.held ∧ y.ctx = x.ctx ∧ y.taken < y.used then
      let a := y.bind.base + tileBytes * ((y.rd + y.taken) % max 1 y.bind.slots)
      let s := s.setEngine e ({ x with run := .running, pc := x.pc + 1 }.setScalar r (BitVec.ofNat 32 a))
      ok (s.setRq w q { y with taken := y.taken + 1 })
    else ok s
  | _ => ok s

/-- CREL: the oldest message of the queue goes back to the transport, and its credit to the sender (R317). -/
def execCrel (e : Nat) (o : VOp) (s : State) : Host.Outcome State Fault Refusal :=
  let x := s.engine e
  if x.at 0x09 o then
    let s := s.setEngine e x.advance
    let q := bits o.imm.toNat 0 6
    ok (if (s.rqueue (engWing e) q).held ∧ (s.rqueue (engWing e) q).ctx = x.ctx then s.freeMsg (engWing e) q else s)
  else ok s

/-- FENCE. -/
def execFence (e : Nat) (o : VOp) (s : State) : Host.Outcome State Fault Refusal :=
  ok (vecAt s e 0x0A o (fun x => { x with run := .atFence }))

/-- FENCE_MET. -/
def execFenceMet (e : Nat) (s : State) : Host.Outcome State Fault Refusal :=
  let x := s.engine e
  ok (if x.run = .atFence then s.setEngine e { x with run := .running, pc := x.pc + 1 } else s)

/-! ### Gallery and tile buffers (R139 to R141, R463) -/

/-- GLD. Active lanes alone read memory (R123), and with none a misaligned address is no fault (DESIGN CHOICE, log 136); it waits until the engine's slots reach their lines. -/
def execGld (e : Nat) (o : VOp) (s : State) : Host.Outcome State Fault Refusal :=
  let x := s.engine e
  if ¬ x.at 0xB0 o then ok s
  else
    let a := x.galleryAddr o 256
    let act := x.lanesOn o
    let ls := laneLines a act
    if act.isEmpty then ok (s.setEngine e (x.lanesOp o 1 (fun _ _ _ => { val := 0 })).advance)
    else match s.laneFault e a act with
      | some f => ok (s.failEngine e (Fail.addr .protFault f))
      | none =>
        if ls.any (fun l => !(s.engReach e l 64)) then ok s
        else match ls.find? (fun l => s.poisoned l 64) with
          | some l =>
            let f := s.galleryFail x.ctx l 64
            ok (f.2.failEngine e f.1)
          | none =>
            let s := overList ls (fun l s => s.galleryCorrected l 64) s
            let b := s.rd a 256
            ok (s.setEngine e (x.lanesOp o 1 (fun _ _ i => { val := field b (4 * i) 4 })).advance)

/-- The lines of a 256-byte store that active lanes write whole are no longer poisoned and hold no word to correct (R158). -/
def State.wholeLines (s : State) (a : Nat) (act : List Nat) : State :=
  overList ((List.range 4).filter (fun k => (List.range 16).all (fun i => act.contains (16 * k + i))))
    (fun k s => { s with poison := clearLines s.poison (a + 64 * k) 64, corrected := clearLines s.corrected (a + 64 * k) 64 }) s

/-- GST. Active lanes alone write memory (R123), and with none a misaligned address is no fault (DESIGN CHOICE, log 136); it waits until the engine's slots reach their lines. -/
def execGst (e : Nat) (o : VOp) (s : State) : Host.Outcome State Fault Refusal :=
  let x := s.engine e
  if ¬ x.at 0xB1 o then ok s
  else
    let a := x.galleryAddr o 256
    let act := x.lanesOn o
    if act.isEmpty then ok (s.setEngine e x.advance)
    else match s.laneFault e a act with
      | some f => ok (s.failEngine e (Fail.addr .protFault f))
      | none =>
        if (laneLines a act).any (fun l => !(s.engReach e l 64)) then ok s
        else ok (((overList act (fun i s => s.wr (a + 4 * i) (leBytes 4 (x.opB o 1 0 i))) s).wholeLines a act).setEngine e x.advance)

/-- TIN: a whole read, in the slots of the engine (R139). In the ring of an in-stream the slot must be FULL, and the read spends one use (spec/06 R167). -/
def execTin (e : Nat) (o : VOp) (s : State) : Host.Outcome State Fault Refusal :=
  let x := s.engine e
  if ¬ x.at 0xB2 o then ok s
  else
    let a := x.galleryAddr o 64
    let ring := (s.ringAt (engWing e) a false).filter (fun r => (s.stream r.1).slotAddr r.2 == a)
    if s.accessBad e a tileBytes 64 then ok (s.failEngine e (Fail.addr .protFault a))
    else if ¬ s.engReach e a tileBytes ∨ ring.any (fun r => match (s.stream r.1).slot r.2 with | .full _ => false | _ => true) then ok s
    else if s.poisoned a tileBytes then
      let f := s.galleryFail x.ctx a tileBytes
      ok (f.2.failEngine e f.1)
    else
      let img := s.rd a tileBytes
      if ¬ tileGood img none then ok ((s.evSeal (uEngine e) x.ctx a img).failEngine e (Fail.addr .tileSeal a))
      else
        let s := s.galleryCorrected a tileBytes
        let b : TileBuf := { filled := true, fmt := (Hdr.ofBytes img).fmt, hdr := img.take 64,
                             pay := Tbl.setRun 0 [] 0 (img.drop 64), asRead := true }
        let s := s.setEngine e { x with pc := x.pc + 1, tb := Tbl.set {} x.tb (o.vd.toNat % 4) b }
        ok (match ring with | some r => s.spendSlot r.1 r.2 | none => s)

/-- TOUT: the payload, then the header with its seal, in the slots of the engine. In the ring of an out-stream the slot must be EMPTY, and
becomes FULL. -/
def execTout (e : Nat) (o : VOp) (s : State) : Host.Outcome State Fault Refusal :=
  let x := s.engine e
  if ¬ x.at 0xB3 o then ok s
  else
    let a := x.galleryAddr o 64
    if s.accessBad e a tileBytes 64 then ok (s.failEngine e (Fail.addr .protFault a))
    else if ¬ s.toutFree e a then ok s
    else
      let t := (s.wr a (s.toutImage e o)).setEngine e x.advance
      ok (match s.toutRing e a with | some r => t.fillOut r.1 r.2 | none => t)

/-- Element i of a payload lies within its 16,384 bytes. -/
def elemFits (fmt i : Nat) : Bool :=
  if elemBytes fmt = 0 then decide (i / 2 < payloadBytes) else decide ((i + 1) * elemBytes fmt ≤ payloadBytes)

/-- The code of element i of a tile buffer. -/
def TileBuf.code (b : TileBuf) (i : Nat) : Nat :=
  if elemBytes b.fmt = 0 then
    let x := (Tbl.get 0 b.pay (i / 2)).toNat
    if i % 2 = 0 then x % 16 else x / 16
  else leNat (Tbl.getRun 0 b.pay (i * elemBytes b.fmt) (elemBytes b.fmt)) % 2 ^ fmtWidth b.fmt

/-- Put the code of element i into a tile buffer. -/
def TileBuf.put (b : TileBuf) (i c : Nat) : TileBuf :=
  if elemBytes b.fmt = 0 then
    let x := (Tbl.get 0 b.pay (i / 2)).toNat
    { b with pay := Tbl.set 0 b.pay (i / 2) (BitVec.ofNat 8 (if i % 2 = 0 then x / 16 * 16 + c % 16 else x % 16 + 16 * (c % 16))) }
  else { b with pay := Tbl.setRun 0 b.pay (i * elemBytes b.fmt) (leBytes (elemBytes b.fmt) (c % 2 ^ fmtWidth b.fmt)) }

/-- TLD of one element: a ledger tile's own code, else the value at the tile's scale converted with RM (R139). A format that R139 does not name
for the tile's, which only the run shows, is converted to all the same (DESIGN CHOICE, log 113). The codes of a block-scaled tile are read
without its block scales (DESIGN CHOICE, log 136). -/
def tldCode (b : TileBuf) (dst rm i : Nat) : Nat :=
  if ¬ b.filled then 0
  else if (ledFmt b.fmt).isSome ∧ b.fmt = dst then b.code i
  else (convert dst rm 0 0 (scaledValue b.fmt (Hdr.ofBytes b.hdr).scale (b.code i))).code

/-- TLD. -/
def execTld (e : Nat) (o : VOp) (s : State) : Host.Outcome State Fault Refusal :=
  let x := s.engine e
  if ¬ x.at 0xB4 o then ok s
  else
    let b := Tbl.get {} x.tb (o.vb.toNat % 4)
    let n := (x.scalar o.va.toNat).toNat
    let act := lanes.filter (fun i => x.active o (BitVec.allOnes 64) i)
    if b.filled ∧ act.any (fun i => !(elemFits b.fmt (n + i))) then ok (s.failEngine e ⟨.protFault, 0⟩)
    else ok (s.setEngine e (x.lanesOp o o.words (fun _ _ i => { val := tldCode b o.f o.rm (n + i) })).advance)

/-- The header of the tile that a tile buffer becomes: the registers of the TOUT of that buffer that comes next in the program, as
they stand (log 25). -/
def Engine.nextTout (x : Engine) (k : Nat) : Option Hdr :=
  ((x.prog.drop x.pc ++ x.prog.take x.pc).find? (fun w => opcodeOf w == 0xB3 && (fieldsOf w).vb.toNat % 4 == k)).map
    (fun w => (x.toutHdr (fieldsOf w)).1)

/-- The flat index of element i of a tile in a tensor of a logical width (R140). -/
def Hdr.flat (h : Hdr) (width i : Nat) : Nat := (h.rowO + i / max 1 h.cols) * width + h.colO + i % max 1 h.cols

/-- TST. With no active lane it changes no buffer (DESIGN CHOICE, log 136). The header of a buffer that it fills takes the SCALE of the slot's entry, at which a TLD of that buffer reads (R463; DESIGN CHOICE,
log 113). -/
def execTst (e : Nat) (o : VOp) (s : State) : Host.Outcome State Fault Refusal :=
  let x := s.engine e
  if ¬ x.at 0xB5 o then ok s
  else
    let k := o.vb.toNat % 4
    let sn := bits o.imm.toNat 0 2
    let sl := nth {} (s.jobOfEngine e).slots sn
    let n := (x.scalar o.vc.toNat).toNat
    let act := lanes.filter (fun i => x.active o (BitVec.allOnes 64) i)
    if act.isEmpty then ok (s.setEngine e x.advance)
    else if act.any (fun i => !(elemFits sl.fmt (n + i))) then ok (s.failEngine e ⟨.protFault, 0⟩)
    else
      let t := s.target x.ctx sl.sm sl.fmt sl.rnd 0
      let old := Tbl.get {} x.tb k
      let b : TileBuf := if old.filled ∧ old.fmt = sl.fmt then old
        else { filled := true, fmt := sl.fmt, hdr := ({ fmt := sl.fmt, scale := t.e } : Hdr).bytes ++ leBytes 4 0 }
      let base := s.free
      let hdr := x.nextTout k
      let s := if hdr.isSome then s else base.2
      let conv := act.map (fun i =>
        let v := valueOf o.f (x.opA o o.words 0 i)
        let ix := match hdr with | some h => h.flat sl.tensorCols (n + i) | none => (base.1.toNat + n + i) % 2 ^ 48
        (n + i, v, t.conv v ix, ix))
      let s := s.report x.ctx x.task sl.sm (conv.foldl (fun (r : SmRep) v => r.add v.2.1 v.2.2.1 v.2.2.2) {})
      ok (s.setEngine e { x with pc := x.pc + 1, tb := Tbl.set {} x.tb k (conv.foldl (fun b v => b.put v.1 v.2.2.1.code) b) })

/-! ### Update mode (R145 to R152) -/

/-- The value of a group constant for an update of group g (R150, R268). -/
def State.groupConst (s : State) (c g k : Nat) : Nat :=
  let u := s.updConst c g ((s.ledgerOf c g).getD 0)
  if k < 10 then field (s.groupBytes c g) (64 + 4 * k) 4
  else if k = 10 then u.step else if k = 11 then u.bc1 else if k = 12 then u.bc2 else if k = 13 then u.clip else 0

/-- GCL. -/
def execGcl (e : Nat) (o : VOp) (s : State) : Host.Outcome State Fault Refusal :=
  let x := s.engine e
  if x.update then
    ok (vecStep s e 0xC0 o (fun x => x.lanesOp o 1 (fun _ _ _ =>
      { val := s.groupConst x.ctx (s.jobOfEngine e).group (bits o.imm.toNat 0 4) })))
  else ok s

/-- The batch that window b of the engine's present set holds. -/
def Engine.batchNo (x : Engine) (j : VecJob) (b : Nat) : Nat := x.rank + j.engCount * (4 * x.batch + b)

/-- The records of a batch: lane and record number. -/
def VecJob.records (j : VecJob) (n : Nat) : List (Nat × Nat) :=
  (lanes.map (fun i => (i, 64 * n + i))).filter (fun r => r.2 < j.recordCount)

/-- Why the stream of an update job cannot read bytes a to a + n − 1. -/
def State.streamReadFail (s : State) (c t a n : Nat) : Option Fail :=
  if ¬ s.allows c (s.rt c t).epochOld false a n then some (Fail.addr .protFault a)
  else if s.poisoned a n then some (s.poisonFail a)
  else none

/-- The byte ranges of some batches: of the records, and of the gradients. -/
def VecJob.recordRanges (j : VecJob) (bs : List Nat) : List (Nat × Nat) :=
  bs.map (fun n => (j.recordBase + 1024 * n, 16 * (min 64 (j.recordCount - 64 * n))))
def VecJob.gradRanges (j : VecJob) (bs : List Nat) : List (Nat × Nat) :=
  bs.map (fun n => (j.gradBase + 512 * n, 8 * (min 64 (j.recordCount - 64 * n))))

/-- An engine reaches some ranges in its slots. -/
def State.engReachAll (s : State) (e : Nat) (l : List (Nat × Nat)) : Bool := l.all (fun b => s.engReach e b.1 b.2)

/-- Fill window b from the records and gradients of its batch. -/
def State.fillWindow (s : State) (e : Nat) (j : VecJob) (sc : Int) (b : Nat) : State :=
  let x := s.engine e
  let rs := j.records (x.batchNo j b)
  let col := fun (f : Nat → Nat) => lanes.map (fun i =>
    match rs.find? (fun r => r.1 == i) with | some r => BitVec.ofNat 32 (f r.2) | none => (0 : W32))
  let rec' := fun (n : Nat) => leNat (s.rd (j.recordBase + 16 * n) 16)
  let master := fun n => rec' n / 2 ^ 80 * 2 ^ 16
  let grad := fun n => (f32.pack 0 0 (Dy.ofInt (li64 (leNat (s.rd (j.gradBase + 8 * n) 8))) sc)).1
  let y := ((((x.putReg (16 * b) (col master)).putReg (16 * b + 1) (col (fun n => master n / 2 ^ 32))).putReg (16 * b + 2)
    (col (fun n => rec' n / 2 ^ 48))).putReg (16 * b + 3) (col (fun n => rec' n / 2 ^ 16))).putReg (16 * b + 4) (col grad)
  let y := y.putReg (16 * b + 5) (col (fun n => f32.ofX 0 (e8m39.value (rec' n / 2 ^ 80))))
  let y := (List.range 10).foldl (fun y k => y.putReg (16 * b + 6 + k) (List.replicate 64 0)) y
  s.setEngine e { y with present := y.present ++ [predOf (fun i => rs.any (fun r => r.1 == i))] }

/-- UPDATE_BATCH_LOAD: the next set of four batches of an engine in update mode, once its slots reach their records and gradients. -/
def execUpdateBatchLoad (e : Nat) (s : State) : Host.Outcome State Fault Refusal :=
  let x := s.engine e
  let j := s.jobOfEngine e
  if ¬ x.update ∨ x.run ≠ .running ∨ x.loaded then ok s
  else if j.sets x.rank ≤ x.batch then ok (s.setEngine e { x with run := .ended })
  else
    let rs := ((List.range 4).map (fun b => j.records (x.batchNo j b))).flatten
    let bs := (List.range 4).map (x.batchNo j)
    if ¬ s.engReachAll e (j.recordRanges bs ++ j.gradRanges bs) then ok s
    else match (rs.filterMap (fun r => (s.streamReadFail x.ctx x.task (j.recordBase + 16 * r.2) 16).or
        (s.streamReadFail x.ctx x.task (j.gradBase + 8 * r.2) 8))).head? with
    | some f => ok (s.failEngine e f)
    | none =>
      let sc := (s.ledger x.ctx ((s.ledgerOf x.ctx j.group).getD 0)).rscale
      let s := s.setEngine e { x with loaded := true, present := [], pc := 0 }
      ok (overList (List.range 4) (fun b s => s.fillWindow e j sc b) s)

/-- Write one record of a window whole, report its forward copy, and its telemetry (R151, R272). The forward copy is converted with RNE, as R151
says, also where its entry has SR set (R38, R49; DESIGN CHOICE, log 135). -/
def State.writeRecord (s : State) (e : Nat) (j : VecJob) (t : Target) (sm b lane n : Nat) : State :=
  let x := s.engine e
  let a := j.recordBase + 16 * n
  let old := e8m39.value (leNat (s.rd a 16) / 2 ^ 80)
  let m := x.master (16 * b) lane
  let v := e8m39.value m
  let wide := t.fmt = 0 ∨ t.fmt = 1
  let cv := ({ t with sr := false } : Target).conv v (j.flatFirst + n)
  let s := if wide then s else s.report x.ctx x.task sm (SmRep.add {} v cv (j.flatFirst + n))
  let w := (if wide then 0 else cv.code % 2 ^ 16) + (x.word (16 * b + 3) lane).toNat * 2 ^ 16 +
    (x.word (16 * b + 2) lane).toNat * 2 ^ 48 + m * 2 ^ 80
  (s.wr a (leBytes 16 w)).telAdd x.ctx j.group old v

/-- UPDATE_RECORD_WRITE: after the last instruction each active record is written, once the engine's slots reach it; then the engine takes its
next set. -/
def execUpdateRecordWrite (e : Nat) (s : State) : Host.Outcome State Fault Refusal :=
  let x := s.engine e
  let j := s.jobOfEngine e
  if ¬ x.update ∨ ¬ x.loaded ∨ x.run ≠ .running ∨ x.pc < x.prog.length then ok s
  else
    let d := s.groupBytes x.ctx j.group
    let sm := field d 6 2
    let t := s.target x.ctx sm (field d 4 1 % 32) 0 0
    let rs := ((List.range 4).map (fun b => (j.records (x.batchNo j b)).map (fun r => (b, r.1, r.2)))).flatten
    if ¬ s.engReachAll e (j.recordRanges ((List.range 4).map (x.batchNo j))) then ok s
    else match rs.find? (fun r => !(s.allows x.ctx (s.rt x.ctx x.task).epochOld true (j.recordBase + 16 * r.2.2) 16)) with
    | some r => ok (s.failEngine e (Fail.addr .protFault (j.recordBase + 16 * r.2.2)))
    | none =>
      let s := overList rs (fun r s => s.writeRecord e j t sm r.1 r.2.1 r.2.2) s
      ok (s.updEngine e (fun y => { y with loaded := false, batch := y.batch + 1, pc := 0, present := [],
                                           run := if j.sets y.rank ≤ y.batch + 1 then .ended else .running }))

end Sys2Proof.Machine
end

