-- ==== Sys2Proof/Machine/Movers.lean ====
section
/-! DEFINITION. Tile movers, prefetch lists, courier queues and the spills and returns of the deposit (spec/06_gallery_streams_tiles.md
R175 to R182, spec/07_memory_tiers.md R211 to R222, spec/08_backward_and_deposit.md R235 to R240). A tile's move takes two commands: the first
makes its catalogue entry MOVING, the second moves it (log 104). -/

namespace Sys2Proof.Machine

/-! ### The catalogue (R213 to R216) -/

/-- A catalogue entry. -/
structure CatEntry where
  addr : Nat
  home : Nat
  state : Nat
  epoch : Nat
  deriving DecidableEq, Repr

def State.catEntry (s : State) (c key : Nat) : CatEntry :=
  let b := s.rd (s.catAddr c key) 32
  { addr := field b 0 8, home := bits (field b 8 1) 0 2, state := bits (field b 8 1) 4 3, epoch := field b 12 4 }

/-- Step 1 names the key: the entry is MOVING, with its source, its destination, and EPOCH 0 where it was VACANT (R215). -/
def State.catMoving (s : State) (c : Nat) (x : MoveItem) (i : Nat) : State :=
  let e := s.catEntry c (x.keyAt i)
  s.wr (s.catAddr c (x.keyAt i)) (leBytes 8 (x.srcAt i) ++ leBytes 1 (x.home + 4 * x.dstHome + 32) ++ leBytes 3 0 ++
    leBytes 4 (if e.state = 0 then 0 else e.epoch) ++ leBytes 8 (x.dstAt i) ++ leBytes 8 0)

/-- Record a new home: state HOME, one move more (R177 step 4). -/
def State.catMoved (s : State) (c key addr home epoch : Nat) : State :=
  s.wr (s.catAddr c key) (leBytes 8 addr ++ leBytes 1 (home + 16) ++ leBytes 3 0 ++ leBytes 4 epoch ++ leBytes 8 0 ++ leBytes 8 0)

/-- What step 1 of a tile's move finds wrong with its key and catalogue entry (R216); the entry lies in the context's reach. -/
def State.catFail (s : State) (c : Nat) (x : MoveItem) (i : Nat) : Option Fail :=
  let k := x.keyAt i
  let a := s.catAddr c k
  let e := s.catEntry c k
  if k = 0 ∨ (s.cert c).catCount ≤ k then some (Fail.addr .streamFault (x.srcAt i))
  else if ¬ s.reach c a 32 then some (Fail.addr .protFault a)
  else if e.state = 0 then none
  else if e.state = 1 ∧ e.home = x.home ∧ e.addr = x.srcAt i then none
  else some (Fail.addr .streamFault (x.srcAt i))

/-- The number of moves that an entry counts once the tile has moved. -/
def CatEntry.next (e : CatEntry) : Nat := (e.epoch + 1) % 2 ^ 32

/-! ### The ends of a run of tiles (R177, R222) -/

/-- The place of a mover's prefetch entry in its wing's list: the first one started and not complete that names the move and DUE. -/
def State.prefetchPlace (s : State) (m : Nat) : Option Nat :=
  let x := s.mover m
  let p := (s.prog x.ctx).getD {}
  ((nth [] p.cert.prefetch x.wing).zipIdx.find? (fun e => e.1.move == x.item && some e.1.due == x.due &&
    decide (e.2 < nth 0 p.prefetchAt x.wing) && !p.prefetchDone.contains (x.wing, e.2))).map (fun e => e.2)

/-- A run of tiles is over: its mover is free, and its prefetch entry or its task's move is done. -/
def State.moveOver (s : State) (m : Nat) : State :=
  let x := s.mover m
  let place := s.prefetchPlace m
  let s := s.putMover m { x with held := false }
  (match x.due with
    | some _ => s.updProg x.ctx (fun p => { p with prefetchDone := p.prefetchDone ++ (place.map (fun k => (x.wing, k))).toList })
    | none => s.updRt x.ctx x.task (fun r => { r with movesDone := r.movesDone ++ [x.item] })).settle

/-- One more tile of a run is done. -/
def State.moveNext (s : State) (m : Nat) (count : Nat) : State :=
  let x := s.mover m
  let s := s.putMover m { x with tile := x.tile + 1, saved := none }
  if count ≤ x.tile + 1 then s.moveOver m else s

/-- A run of tiles fails: its mover is free, and the task it serves, or the DUE task of its prefetch entry, aborts. -/
def State.moveFail (s : State) (m : Nat) (f : Fail) : State :=
  let s := s.restoreCat m
  let x := s.mover m
  (s.putMover m { x with held := false }).failTask x.ctx (x.due.getD x.task) f

/-- The task whose protection epoch a mover's accesses use. -/
def State.moverOld (s : State) (m : Nat) : Bool :=
  let x := s.mover m
  (s.rt x.ctx (x.due.getD x.task)).epochOld

/-- A mover reaches an address of a tier for a read or a write, of legacy flash a whole record; the gallery's were checked at admission (R460). -/
def State.moverAllows (s : State) (m : Nat) (write : Bool) (a n : Nat) : Bool :=
  match homeOf a with
  | .gallery => true
  | .flash _ => !write && s.flag RegF.ctxCfgCompat (s.mover m).ctx && s.allows (s.mover m).ctx (s.moverOld m) false a (max n recordBytes)
  | _ => s.allows (s.mover m).ctx (s.moverOld m) write a n

/-- A poisoned source and its record. -/
def State.moverPoison (s : State) (m a pos : Nat) : Fail × State :=
  let c := (s.mover m).ctx
  match homeOf a with
  | .gallery => s.galleryFail c a tileBytes
  | .board _ => (s.poisonFail a, s.evTier (uMover m) (some c) a 1)
  | _ => (s.poisonFail a, s.evStream (uMover m) c a pos)

/-- Steps 2 to 5 of a tile's move: the image with its home, epoch and key, the catalogue, the counters. -/
def State.moveTileTo (s : State) (m : Nat) (x : MoveItem) (i : Nat) (h : Hdr) (pay : List Byte) : State :=
  let c := (s.mover m).ctx
  let k := x.keyAt i
  let ep := (s.catEntry c k).next
  let s := s.wr (x.dstAt i) (tileImage { h with home := x.dstHome, epoch := ep, key := k } pay)
  let s := s.catMoved c k (x.dstAt i) x.dstHome ep
  let s := s.incFld RegF.wingTmStsTiles 1 (m / 16) (m % 16)
  let s := if x.doneEn then s.evCount c (m / 16) x.doneEvt else s
  s.moveNext m x.count

/-- The header and payload of a moved S8 tile: the mover writes the header (R160, R175). -/
def MoveItem.moved (x : MoveItem) (m : Nat) (img : List Byte) : Hdr × List Byte :=
  let b := if x.xpose then transposeTile img (uMover m) else img
  ({ Hdr.ofBytes b with producer := uMover m }, b.drop 64)

/-- A mover at work, with the allotment of its item (R176, R211). -/
def State.moverAsker (s : State) (m : Nat) : Requester :=
  let x := s.mover m
  { ctx := x.ctx, task := some (x.due.getD x.task), num := some (s.moveItem m).allot, wing := m / 16, unit := uMover m }

/-- The mover's allotment reaches the source and the destination of a tile. -/
def State.moveSlots (s : State) (m : Nat) (x : MoveItem) (i : Nat) : Bool :=
  s.slotted (s.moverAsker m) (x.srcAt i) tileBytes && s.slotted (s.moverAsker m) (x.dstAt i) tileBytes

/-- Step 1 of the next tile, as far as the catalogue goes: its failure, or the entry MOVING and the mover that keeps what it was. -/
def State.moveBegin (s : State) (m : Nat) : State :=
  let y := s.mover m
  let x := s.moveItem m
  let src := x.srcAt y.tile
  match s.catFail y.ctx x y.tile with
  | some f => (if f.st = .streamFault then s.evStream (uMover m) y.ctx src y.tile else s).moveFail m f
  | none =>
    let b := s.rd (s.catAddr y.ctx (x.keyAt y.tile)) 32
    (s.catMoving y.ctx x y.tile).setMover m { y with saved := some b }

/-- Ask for the flash record of a tile, or give its bytes once they have landed. -/
def State.flashTile (s : State) (m a : Nat) : (Option State) ⊕ (List Byte × State) :=
  match s.readFor (fun r => r.mover == some m && r.addr == a) with
  | some (n, r) => if r.ready then .inr (r.data, s.dropRead n r.cid) else .inl none
  | none => .inl (s.flashRead a none (some m))

/-- Finish the move of one S8 tile from its image: check, then steps 2 to 5. -/
def State.moveImage (s : State) (m : Nat) (x : MoveItem) (i : Nat) (img : List Byte) : State :=
  if ¬ tileGood img none then
    (s.evSeal (uMover m) (s.mover m).ctx (x.srcAt i) img).moveFail m (Fail.addr .tileSeal (x.srcAt i))
  else
    let b := x.moved m img
    s.moveTileTo m x i b.1 b.2

/-- MOVE_TILE: the next tile of a mover's run moves, in the slots of the move's allotment, or fails with its home unchanged. The first
command for a tile makes its entry MOVING; from legacy flash the record is then read before the tile moves. -/
def execMoveTile (m : Nat) (how : Ending) (s : State) : Host.Outcome State Fault Refusal :=
  let y := s.mover m
  let x := s.moveItem m
  if ¬ y.held ∨ x.kind ≠ .move ∨ ¬ s.moveSlots m x y.tile then ok s
  else if y.saved.isNone then ok (s.moveBegin m)
  else
    let src := x.srcAt y.tile
    if ¬ s.moverAllows m false src tileBytes then ok (s.moveFail m (Fail.addr .protFault src))
    else if ¬ s.moverAllows m true (x.dstAt y.tile) tileBytes then ok (s.moveFail m (Fail.addr .protFault (x.dstAt y.tile)))
    else
      match s.endingFail (uMover m) y.ctx y.tile how with
      | some r => ok (r.2.moveFail m r.1)
      | none =>
        match homeOf src with
        | .flash _ =>
          if flashOff src % 4096 ≠ 0 then ok ((s.evStream (uMover m) y.ctx src y.tile).moveFail m (Fail.addr .streamFault src))
          else
            match s.flashTile m src with
            | .inl (some s) => ok s
            | .inl none => ok s
            | .inr (d, s) => ok (s.moveImage m x y.tile (d.take tileBytes))
        | _ =>
          if s.poisoned src tileBytes then
            let r := s.moverPoison m src y.tile
            ok (r.2.moveFail m r.1)
          else ok ((s.galleryCorrected src tileBytes).moveImage m x y.tile (s.rd src tileBytes))

/-- K4_FETCH_TILE: the first command for a tile makes its entry MOVING; then the record is read, and once it has landed its tile gets an S8
header and moves, in the slots of the fetch's allotment. -/
def execK4FetchTile (m : Nat) (how : Ending) (s : State) : Host.Outcome State Fault Refusal :=
  let y := s.mover m
  let x := s.moveItem m
  if ¬ y.held ∨ x.kind ≠ .k4 ∨ ¬ s.moveSlots m x y.tile then ok s
  else if y.saved.isNone then ok (s.moveBegin m)
  else
    let src := x.srcAt y.tile
    if flashOff src % 4096 ≠ 0 then ok ((s.evStream (uMover m) y.ctx src y.tile).moveFail m (Fail.addr .streamFault src))
    else if ¬ s.moverAllows m false src recordBytes then ok (s.moveFail m (Fail.addr .protFault src))
    else if ¬ s.moverAllows m true (x.dstAt y.tile) tileBytes then ok (s.moveFail m (Fail.addr .protFault (x.dstAt y.tile)))
    else
      match s.endingFail (uMover m) y.ctx y.tile how with
      | some r => ok (r.2.moveFail m r.1)
      | none =>
        match s.flashTile m src with
        | .inl (some s) => ok s
        | .inl none => ok s
        | .inr (d, s) =>
          match k4Header d with
          | some h => ok (s.moveTileTo m x y.tile { h with producer := uMover m } ((d.drop 32).take payloadBytes))
          | none =>
            let s := s.event (uMover m) 0x0100 3 (some y.ctx) [(16, 8, src), (24, 4, field d 28 4),
              (28, 4, crc32c.of ((d.drop 32).take payloadBytes)), (32, 8, x.keyAt y.tile), (40, 2, uMover m)]
            ok (s.moveFail m (Fail.addr .tileSeal src))

/-! ### Prefetch (R219, R220) -/

/-- PREFETCH_ENTRY_START: the next entry of a context's list on a wing starts once its counter and its mover allow. An entry whose DUE
task is not in the RUN, or has ended, is passed over. -/
def execPrefetchEntryStart (w c : Nat) (s : State) : Host.Outcome State Fault Refusal :=
  match s.prog c with
  | none => ok s
  | some p =>
    let k := nth 0 p.prefetchAt w
    match (nth [] p.cert.prefetch w)[k]? with
    | none => ok s
    | some e =>
      let x := nth {} p.cert.moves e.move
      let m := 16 * w + x.mover
      let next := fun (p : Prog) => { p with prefetchAt := (p.prefetchAt ++ List.replicate (4 - p.prefetchAt.length) 0).set w (k + 1) }
      if p.run.isNone then ok s
      else if ¬ (s.rt c e.due).inRun ∨ (s.rt c e.due).st.ended then ok (s.updProg c next)
      else if (s.evGet w e.afterEvt).toNat < e.afterVal ∨ ¬ s.moverFree m then ok s
      else ok ((s.updProg c next).putMover m { held := true, ctx := c, task := e.due, wing := w, item := e.move, due := some e.due })

/-! ### Courier queues (R178 to R181) -/

/-- Bytes a to a + n − 1 cross a 4 KiB boundary. -/
def crosses4k (a n : Nat) : Bool := a / 4096 != (a + n - 1) / 4096

/-- A courier address: gallery windows of the task, or a tier that the context may reach. -/
def State.courierAllows (s : State) (x : Courier) (write : Bool) (a n : Nat) : Bool :=
  match homeOf a with
  | .gallery => inWindows (s.task x.ctx x.task).windows a n
  | .flash _ => false
  | _ => s.allows x.ctx (s.rt x.ctx x.task).epochOld write a n

def Courier.op (x : Courier) : Nat := field x.entry 0 1
def Courier.len (x : Courier) : Nat := field x.entry 2 2
def Courier.src (x : Courier) : Nat := field x.entry 8 8
def Courier.dst (x : Courier) : Nat := field x.entry 16 8

/-- An entry has a reserved value, or a transfer that crosses 4 KiB. -/
def Courier.malformed (x : Courier) : Bool :=
  decide (2 ≤ x.op) || field x.entry 1 1 != 0 || x.len == 0 || decide ((if x.op = 1 then 8 else 256) < x.len) || field x.entry 4 4 != 0 ||
    crosses4k x.dst x.len || (x.op == 0 && crosses4k x.src x.len)

/-- Why an entry cannot be carried out. -/
def State.courierFail (s : State) (q : Nat) (x : Courier) : Option (Fail × State) :=
  if x.malformed then
    let a := if x.op = 0 ∧ crosses4k x.src x.len then x.src else x.dst
    some (Fail.addr .streamFault a, s.evStream (uCourier q) x.ctx a (x.taken % 64))
  else if x.op = 0 ∧ ¬ s.courierAllows x false x.src x.len then some (Fail.addr .protFault x.src, s)
  else if ¬ s.courierAllows x true x.dst x.len then some (Fail.addr .protFault x.dst, s)
  else if x.op = 0 ∧ s.poisoned x.src x.len then
    match homeOf x.src with
    | .gallery => some (s.galleryFail x.ctx x.src x.len)
    | .board _ => some (s.poisonFail x.src, s.evTier (uCourier q) (some x.ctx) x.src 1)
    | _ => some (s.poisonFail x.src, s.evStream (uCourier q) x.ctx x.src (x.taken % 64))
  else none

/-- A courier queue of a task. -/
def State.courierAsker (s : State) (q : Nat) : Requester :=
  let x := s.courier q
  { ctx := x.ctx, task := some x.task, wing := q / 16, unit := uCourier q }

/-- A courier transfer fails: the queue is free, and its task aborts. -/
def State.failCourier (s : State) (q : Nat) (f : Fail) : State :=
  let x := s.courier q
  (s.putCourier q { x with busy := false, held := false }).failTask x.ctx x.task f

/-- COURIER_ENTRY_TAKE: the queue takes its next posted entry, in its slots. -/
def execCourierEntryTake (q : Nat) (s : State) : Host.Outcome State Fault Refusal :=
  let x := s.capPosts q (s.courier q)
  let a := x.bind.qbase + 256 * (x.taken % 64)
  if ¬ x.held ∨ x.busy ∨ x.stopped ∨ s.postedTo q x ≤ x.taken ∨ ¬ s.slotted (s.courierAsker q) a 32 then ok s
  else
    if s.poisoned a 32 then
      let r := s.galleryFail x.ctx a 32
      ok (r.2.failCourier q r.1)
    else
      let s := s.galleryCorrected a 32
      let y := { x with busy := true, entry := s.rd a 32 }
      match s.courierFail q y with
      | some r => ok (r.2.failCourier q r.1)
      | none => ok (s.putCourier q { y with taken := x.taken + 1 })

/-- COURIER_TRANSFER_COMPLETE: every destination byte has reached its memory. -/
def execCourierTransferComplete (q : Nat) (how : Ending) (s : State) : Host.Outcome State Fault Refusal :=
  let x := s.capPosts q (s.courier q)
  let reach := fun a => s.slotted (s.courierAsker q) a x.len
  if ¬ x.held ∨ ¬ x.busy ∨ ¬ reach x.dst ∨ (x.op = 0 ∧ ¬ reach x.src) then ok s
  else
    match s.endingFail (uCourier q) x.ctx ((x.taken - 1) % 64) how with
    | some r => ok (r.2.failCourier q r.1)
    | none =>
      let bs := if x.op = 1 then (x.entry.drop 24).take x.len else s.rd x.src x.len
      let s := if x.op = 0 then s.galleryCorrected x.src x.len else s
      let s := (s.wr x.dst bs).foldChans true q bs
      let s := s.evCount x.ctx (q / 16) x.bind.doneEvt
      let s := s.wrapFld RegF.wingCourStsDone 1 (q / 16) (q % 16)
      ok ((s.putCourier q { x with busy := false, held := !x.stopped }).settle)

/-! ### Spills and returns (spec/08 R235 to R240) -/

/-- The lowest marked position of a shelf. -/
def Shelf.nextSpill (x : Shelf) : Option Nat :=
  x.marked.foldl (fun a p => match a with | some b => some (min b p) | none => some p) none

/-- Running tasks with a binding on a shelf; one that is armed and has not started is none (R240). -/
def State.boundTasks (s : State) (c w h : Nat) : List Nat :=
  (s.runTasks c).filter (fun t => ((s.rt c t).st == .running || (s.rt c t).st == .suspended) && (s.task c t).wing == w && (s.task c t).binds.any (fun b => b.shelf == h))

/-- A spill fails: the shelf is broken, and the tasks bound to it abort. -/
def State.spillFail (s : State) (w h : Nat) (f : Fail) : State :=
  let c := (s.shelfOf w h).ctx
  let ts := s.boundTasks c w h
  (overList ts (fun t s => s.abortTask c t f.st f.detail) (s.breakShelf w h)).settle

/-- The requester of a shelf's spills: its mover, with the allotment that the shelf names (R235). -/
def Shelf.asker (x : Shelf) (w : Nat) : Requester :=
  { ctx := x.ctx, task := none, num := some x.ent.allot, wing := w, unit := uMover (16 * w + x.ent.spillMover) }

/-- DEPOSIT_SPILL: the lowest marked position whose tile is written goes to its board location, in the slots of the shelf's allotment. What is
marked spills on a broken shelf too. -/
def execDepositSpill (w h : Nat) (how : Ending) (s : State) : Host.Outcome State Fault Refusal :=
  let x := s.shelfOf w h
  match x.nextSpill with
  | none => ok s
  | some p =>
    let m := 16 * w + x.ent.spillMover
    let a := x.ent.nearSlot p
    let b := x.ent.boardSlot p
    if ¬ x.held ∨ x.home p ≠ .near then ok s
    else if ¬ s.allows x.ctx false false a tileBytes then ok (s.spillFail w h (Fail.addr .protFault a))
    else if ¬ s.allows x.ctx false true b tileBytes then ok (s.spillFail w h (Fail.addr .protFault b))
    else if ¬ (s.slotted (x.asker w) a tileBytes && s.slotted (x.asker w) b tileBytes) then ok s
    else
      match s.endingFail (uMover m) x.ctx p how with
      | some r => ok (r.2.spillFail w h r.1)
      | none =>
        let img := s.rd a tileBytes
        if s.poisoned a tileBytes then ok ((s.evStream (uMover m) x.ctx a p).spillFail w h (s.poisonFail a))
        else if ¬ tileGood img none then ok ((s.evSeal (uMover m) x.ctx a img).spillFail w h (Fail.addr .tileSeal a))
        else
          let s := (s.wr b img).putShelf w h { x.setHome p .board with marked := x.marked.filter (fun q => q != p) }
          ok ((s.incFld RegF.wingDepCntSpillTiles 1 w).incFld RegF.wingTmStsTiles 1 w x.ent.spillMover)

/-- A return fails: its shelf is broken, and its DUE task aborts. -/
def State.returnFail (s : State) (m h : Nat) (f : Fail) : State := (s.breakShelf (s.mover m).wing h).moveFail m f

/-- The DUE task of a return has not been armed: positions may still be pushed, or marked for spilling, before it pops them. -/
def State.dueIdle (s : State) (m : Nat) : Bool :=
  let y := s.mover m
  let r := s.rt y.ctx (y.due.getD y.task)
  r.st == .idle && r.inRun

/-- A return passes a position over: a void one; and, once the DUE task has taken its positions, one that is released, or that stays near because
its spill had not started (R235, R237). -/
def State.passesOver (s : State) (m : Nat) (h : Shelf) (p : Nat) : Bool :=
  h.home p == .void || (!s.dueIdle m && (h.home p == .released || (h.home p == .near && !h.marked.contains p)))

/-- DEPOSIT_RETURN: the next position of a return, in descending order, comes back to its near slot, in the slots of its allotment. A position
that has not been pushed, or whose spill has not finished, is waited for, and so is its near slot. -/
def execDepositReturn (m : Nat) (how : Ending) (s : State) : Host.Outcome State Fault Refusal :=
  let y := s.mover m
  let x := s.moveItem m
  if ¬ y.held ∨ x.kind ≠ .ret then ok s
  else
    let h := s.shelfOf y.wing x.shelf
    let p := x.firstPos + (x.count - 1 - y.tile)
    let a := h.ent.boardSlot p
    let b := h.ent.nearSlot p
    if s.passesOver m h p then ok (s.moveNext m x.count)
    else if h.home p ≠ .board ∨ h.slotTaken p then ok s
    else if ¬ s.allows y.ctx (s.moverOld m) false a tileBytes then ok (s.returnFail m x.shelf (Fail.addr .protFault a))
    else if ¬ s.allows y.ctx (s.moverOld m) true b tileBytes then ok (s.returnFail m x.shelf (Fail.addr .protFault b))
    else if ¬ (s.slotted (s.moverAsker m) a tileBytes && s.slotted (s.moverAsker m) b tileBytes) then ok s
    else
      match s.endingFail (uMover m) y.ctx p how with
      | some r => ok (r.2.returnFail m x.shelf r.1)
      | none =>
        if s.poisoned a tileBytes then
          let r := s.moverPoison m a p
          ok (r.2.returnFail m x.shelf r.1)
        else
          let img := s.rd a tileBytes
          if ¬ tileGood img none then ok ((s.evSeal (uMover m) y.ctx a img).returnFail m x.shelf (Fail.addr .tileSeal a))
          else
            let s := (s.wr b img).putShelf y.wing x.shelf (h.setHome p .near)
            let s := (s.incFld RegF.wingDepCntReturnTiles 1 y.wing).incFld RegF.wingTmStsTiles 1 (m / 16) (m % 16)
            ok (s.moveNext m x.count)

/-- WING_DEP_CNT_CLR. -/
def execWingDepCntClr (w : Nat) (s : State) : Host.Outcome State Fault Refusal :=
  if 4 ≤ w ∨ ¬ s.ready then ok s
  else
    let s := s.clrCycles RegF.wingDepWaitPushWait w
    let s := overList [RegF.wingDepCntSpillTiles, RegF.wingDepCntReturnTiles, RegF.wingDepWaitLeftover, RegF.wingDepWaitBreaks] (fun f s =>
      s.setFld f 0 w) s
    let s := overList (List.range 256) (fun i s => (s.setFld RegF.wingRpCntAhead 0 w i).setFld RegF.wingRpCntNoneReady 0 w i) s
    ok (overList (List.range 16) (fun h s => s.setFld RegF.wingDepSplHighWater 0 w h) s)

end Sys2Proof.Machine
end

