-- ==== Sys2Proof/Machine/Stacks.lean ====
section
/-! DEFINITION. The near tier's stacks (spec/07_memory_tiers.md R189 to R197, spec/14_clocks_power_condition.md R402): accesses of the
pseudo-channels in their slots, refresh, probes, patrol scrub, re-training and eye scans. -/

namespace Sys2Proof.Machine

/-! ### Allotted slots (R190, R191) -/

/-- A slot of a pseudo-channel that carries an access: allotted to its task, reached through network slots on a stack of another wing
(R14), or given by a host-copy share. -/
def State.nearSlot (s : State) (slot k pc : Nat) (r : Access) : Bool :=
  decide (8 ≤ slot % 128) && (s.allots r.ctx (.stackPc k pc) slot r.task && s.netOk (s.asker r.ctx r.task (uStack k)) (k / 5) || s.shares r.ctx (.hostShareStack k) slot)

/-- The farthest slot that an access to a bank of a pseudo-channel has taken, as a slot number plus one; 0 for none. -/
def Stack.bankUse (x : Stack) (pc bank : Nat) : Nat := Tbl.get 0 x.banks (64 * pc + bank)

/-- A slot lies fewer than 4 slots from another, given as a slot number plus one; 0 for none. -/
def slotNear (slot u : Nat) : Bool := u != 0 && decide (slot + 1 < u + 4 ∧ u < slot + 5)

/-- A slot keeps the gap of 4 slots from the accesses to a bank: from the latest one, and from the second half of a read-modify-write, which may
be still to come. -/
def Stack.gapOk (x : Stack) (slot pc bank : Nat) : Bool :=
  !slotNear slot (x.bankUse pc bank) && !slotNear slot (Tbl.get 0 x.latest (64 * pc + bank))

/-- The requester's next data slot after one that keeps the bank gap of 4 slots. -/
def State.nextNearSlot (s : State) (slot k pc : Nat) (r : Access) : Nat :=
  ((List.range 4096).find? (fun i => s.nearSlot (slot + 4 + i) k pc r && (s.stack k).gapOk (slot + 4 + i) pc (bankOf r.addr))).map
    (fun i => slot + 4 + i) |>.getD (slot + 4)

/-- The next slot of all comes too soon for the second half of a read-modify-write. -/
def State.nextTooSoon (s : State) (slot k pc : Nat) (r : Access) : Bool :=
  [1, 2, 3].any (fun i => s.nearSlot (slot + i) k pc r)

/-! ### Errors of words (R192, R196, R402) -/

/-- Words corrected in a channel, at bytes a to a + n − 1: counted, kept for the last second, and written back at the next scrub. -/
def State.stackCorrected (s : State) (k ch a n words : Nat) : State :=
  if words = 0 then s
  else
    let x := s.stack k
    let lines := (List.range ((a + n - 1) / 64 - a / 64 + 1)).map (fun i => a / 64 + i)
    let s := s.setStack k { x with recent := x.recent ++ [(ch, s.time, words)] }
    let s : State := { s with corrected := lines.foldl addLine s.corrected }
    s.incFld RegF.stkEccCorrected words k

/-- Words that a channel has corrected within the last second. -/
def State.recentWords (s : State) (k ch : Nat) : Nat :=
  (((s.stack k).recent.filter (fun x => x.1 == ch && decide (s.time < x.2.1 + 250000000))).map (fun x => x.2.2)).sum

/-- Uncorrectable words count in the report; at 16 in a window the stack is retired there. -/
def State.countUe (s : State) (k words : Nat) : State :=
  let r := s.cond.rep
  let m := nth 0 r.stackUe k
  let n := min 65535 (m + words)
  let r := { r with stackUe := setNth r.stackUe k n }
  if m < 16 ∧ 16 ≤ n then s.writeReport { r with stacksOut := r.stacksOut ||| BitVec.ofNat 20 (2 ^ k) }
  else { s with cond := { s.cond with rep := r } }

/-- Uncorrectable words at some addresses of a stack are read, with one word counted for each other line that is poisoned already: every
line that holds one is poisoned, each word counts, the first address is kept and a record is created (R192). -/
def State.stackUe (s : State) (k : Nat) (c : Option Nat) (words : List Nat) (lines a : Nat) : State :=
  let n := words.length + lines
  let s := (overList words (fun w s => s.poisonLine w) s).incFld RegF.stkEccUncorrected n k
  let s := if s.flag RegF.stkUeAddrValid k then s else (s.setFld RegF.stkUeAddrAddr a k).setFld RegF.stkUeAddrValid 1 k
  (s.countUe k n).event (uStack k) 0x0105 3 c [(16, 8, a)]

/-- The words among some addresses that lie in bytes a to a + n − 1. -/
def wordsIn (l : List Nat) (a n : Nat) : List Nat := ((l.filter (fun w => decide (a < w / 8 * 8 + 8 ∧ w / 8 * 8 < a + n))).map (fun w => w / 8 * 8)).eraseDups

/-- The lowest of some addresses. -/
def lowest (l : List Nat) : Option Nat := l.foldl (fun m x => some (match m with | some y => min x y | none => x)) none

/-- A read of bytes a to a + n − 1 in which some words prove uncorrectable: whether it returns poisoned, and the state that has counted. -/
def State.stackRead (s : State) (k : Nat) (c : Option Nat) (a n : Nat) (ue : List Nat) : Bool × State :=
  let w := wordsIn ue a n
  let l := s.poison.filter (fun x => decide (a < x * 64 + 64 ∧ x * 64 < a + n))
  if w.isEmpty ∧ l.isEmpty then (false, s)
  else (true, s.stackUe k c w (l.filter (fun x => !w.any (fun y => y / 64 == x))).length ((lowest (w ++ l.map (fun x => 64 * x))).getD a))

/-! ### Accesses -/

/-- An access lies in one run of a stack (R190). -/
def accInRun (r : Access) : Bool :=
  decide (0 < r.len ∧ r.addr / 512 = (r.addr + r.len - 1) / 512) &&
    (match r.data with | some d => d.length == r.len | none => true)

/-- A write that covers a line in part. -/
def accPartLine (r : Access) : Bool := r.data.isSome && decide (r.addr % 64 ≠ 0 ∨ (r.addr + r.len) % 64 ≠ 0)

/-- Carry out an access in its slot: the slot and the bank are used, a read-modify-write also takes its requester's next slot, a write
reaches memory, a read may correct words or return poisoned. -/
def State.nearDo (s : State) (slot k : Nat) (r : Access) (corrected : Nat) (ue : List Nat) (byShare : Bool) : State :=
  let pc := pcOf r.addr
  let rmw := accPartLine r
  let s := if rmw && s.nextTooSoon slot k pc r then s.incFld RegF.stkEvtBankWait 1 k else s
  let last := if rmw then s.nextNearSlot slot k pc r else slot
  let x := s.stack k
  let s := s.setStack k { x with banks := Tbl.set 0 x.banks (64 * pc + bankOf r.addr) (max (x.bankUse pc (bankOf r.addr)) (last + 1)),
                                 latest := Tbl.set 0 x.latest (64 * pc + bankOf r.addr) (slot + 1), comes := Tbl.set 0 x.comes pc (slot + 1),
                                 second := x.second.filter (fun y => decide (y.1 ≠ pc ∨ slot < y.2)) ++ (if rmw then [(pc, last)] else []) }
  let reads := r.data.isNone || rmw
  let s := if reads then s.stackCorrected k (pc / 2) r.addr r.len corrected else s
  let a := if rmw then r.addr / 64 * 64 else r.addr
  let n := if rmw then (r.addr + r.len + 63) / 64 * 64 - a else r.len
  let p := if reads then s.stackRead k (some r.ctx) a n ue else (false, s)
  if p.1 then (if byShare then p.2 else p.2.failTask r.ctx r.task (Fail.addr .streamFault r.addr))
  else match r.data with
    | some d => p.2.wr r.addr d
    | none => p.2

/-- NEAR_TIER_ACCESS: `slot` counts the slots of the pseudo-channel without end, and `uncorrectable` gives the addresses of the words
that the read cannot correct. A slot carries one access; an access to a re-training channel is held; one that comes too soon after another
access to its bank waits. -/
def execNearTierAccess (slot : Nat) (r : Access) (corrected : Nat) (uncorrectable : List Nat) (s : State) :
    Host.Outcome State Fault Refusal :=
  match homeOf r.addr with
  | .near k =>
    let pc := pcOf r.addr
    let x := s.stack k
    let byShare := !(s.allots r.ctx (.stackPc k pc) slot r.task)
    if ¬ accInRun r ∨ ¬ s.nearSlot slot k pc r ∨ slot < Tbl.get 0 x.comes pc ∨ (pc, slot) ∈ x.second then ok s
    else if ¬ s.allows r.ctx (s.rt r.ctx r.task).epochOld r.data.isSome r.addr r.len then
      ok (if byShare then s else s.failTask r.ctx r.task (Fail.addr .protFault r.addr))
    else if x.retrain = some (pc / 2) then
      ok ((s.setStack k { x with held := x.held ++ [r] }).incFld RegF.stkEvtHeld 1 k)
    else if ¬ x.gapOk slot pc (bankOf r.addr) then ok (s.incFld RegF.stkEvtBankWait 1 k)
    else ok (s.nearDo slot k r corrected uncorrectable byShare)
  | _ => ok s

/-! ### Maintenance (R190, R195) -/

/-- STACK_REFRESH: slot j of a frame, j below 4, refreshes banks 16j to 16j + 15 of a pseudo-channel. -/
def execStackRefresh (k pc slot : Nat) (s : State) : Host.Outcome State Fault Refusal :=
  if ¬ s.hasStack k ∨ 64 ≤ pc ∨ 4 ≤ slot % 128 then ok s
  else
    let x := s.stack k
    ok (s.setStack k { x with refreshed := (List.range 16).foldl (fun m b =>
      Tbl.set 0 m (64 * pc + 16 * (slot % 128) + b) (slot + 1)) x.refreshed })

/-- A probe's place in the pass of 4,096 and a change of the trained point by at most one step. -/
def execMaintenanceProbe (k pc : Nat) (step : Int) (marginLow : Bool) (s : State) : Host.Outcome State Fault Refusal :=
  let x := s.stack k
  let scanned : Bool := match x.eye with
    | some cmd => 2 * (cmd.toNat % 32) + cmd.toNat / 32 % 2 == pc
    | none => false
  if ¬ s.hasStack k ∨ 64 ≤ pc ∨ scanned ∨ step < -1 ∨ 1 < step then ok s
  else
    ok (s.setStack k { x with probe := Tbl.upd 0 x.probe pc (fun n => (n + 1) % 4096), point := Tbl.upd 0 x.point pc (fun p => p + step),
                              low := if marginLow then addLine x.low (pc / 2) else x.low })

/-- The patrol scrub reads the next run of a pseudo-channel, corrects it and writes it back, in slot 5 of its frame. A line that is
poisoned stays so (log 44); a word that proves uncorrectable counts and poisons its line, with no task to abort. -/
def execPatrolScrub (k pc : Nat) (found : ScrubFound) (s : State) : Host.Outcome State Fault Refusal :=
  if ¬ s.hasStack k ∨ 64 ≤ pc then ok s
  else
    let x := s.stack k
    let m := Tbl.get 0 x.scrub pc
    let a := runAddr k pc m
    let s := s.stackCorrected k (pc / 2) a 512 found.corrected
    let s : State := { s with corrected := s.corrected.filter (fun l => !decide (a ≤ l * 64 ∧ l * 64 < a + 512)) }
    let w := wordsIn found.uncorrectable a 512
    let s := if w.isEmpty then s else s.stackUe k none w 0 ((lowest w).getD a)
    let r := Tbl.get 0 x.refreshed (64 * pc)
    let y := s.stack k
    ok (s.setStack k { y with scrub := Tbl.set 0 y.scrub pc ((m + 1) % 2 ^ 22),
                              banks := if r = 0 then y.banks else Tbl.set 0 y.banks (64 * pc + m % 64) ((r - 1) / 128 * 128 + 6) })

/-! ### Re-training (R196) -/

/-- The temperature has moved by more than 10 °C since the channel was last trained. -/
def Stack.tempMoved (x : Stack) (ch temp : Nat) : Bool :=
  match Tbl.get 0 x.trained ch with
  | 0 => false
  | t + 1 => decide (t + 10 < temp ∨ temp + 10 < t)

/-- STACK_CHANNEL_RETRAIN: a channel re-trains when one of the three conditions holds and no other channel of its stack does. -/
def execStackChannelRetrain (k ch temp : Nat) (s : State) : Host.Outcome State Fault Refusal :=
  let x := s.stack k
  if ¬ s.hasStack k ∨ 32 ≤ ch ∨ x.retrain.isSome ∨ ¬ (x.tempMoved ch temp ∨ ch ∈ x.low ∨ 1024 < s.recentWords k ch) then ok s
  else
    let s := s.setStack k { x with retrain := some ch, trained := Tbl.set 0 x.trained ch (temp + 1) }
    let s := (s.setFld RegF.stkStsState 3 k).setFld RegF.stkStsRetrainCh ch k
    ok ((s.setFld RegF.stkStsTemp temp k).incFld RegF.stkStsRetrains 1 k)

/-- STACK_RETRAIN_END: the channel serves again, and each held request comes in its requester's next slot. -/
def execStackRetrainEnd (k : Nat) (s : State) : Host.Outcome State Fault Refusal :=
  let x := s.stack k
  match x.retrain with
  | none => ok s
  | some ch => ok ((s.setStack k { x with retrain := none, held := [], low := x.low.filter (fun c => c != ch) }).setFld RegF.stkStsState 2 k)

/-! ### Eye scans (R197) -/

/-- Start an eye scan of the pin that the fields of STK_EYE_CMD name, unless one runs. -/
def State.startEye (s : State) (k : Nat) : State :=
  if (s.stack k).eye.isSome ∨ ¬ s.hasStack k then s
  else
    (s.setStack k { s.stack k with eye := some (BitVec.ofNat 32 (s.reg .stkEyeCmd k 0 % 2 ^ 12)) }).setFld RegF.stkEyeCmdBusy 1 k

/-- The LV fields of STK_EYE_CMD take a written value. -/
def State.setEyeFields (s : State) (k : Nat) (cmd : BitVec 32) : State :=
  let v := cmd.toNat
  let s := (s.setFld RegF.stkEyeCmdCh (bits v 0 5) k).setFld RegF.stkEyeCmdPc (bits v 5 1) k
  (s.setFld RegF.stkEyeCmdPin (bits v 6 5) k).setFld RegF.stkEyeCmdDir (bits v 11 1) k

/-- EYE_SCAN_GO: a write of STK_EYE_CMD: its fields, DONE cleared by a 1, and a scan started by GO. -/
def execEyeScanGo (k : Nat) (cmd : BitVec 32) (s : State) : Host.Outcome State Fault Refusal :=
  if 20 ≤ k ∨ ¬ s.ready then ok s
  else
    let s := s.setEyeFields k cmd
    let s := if cmd.getLsbD 14 then s.setFld RegF.stkEyeCmdDone 0 k else s
    ok (if cmd.getLsbD 12 then s.startEye k else s)

/-- EYE_SCAN_CORRIDOR_START: from READY on (spec/13 R359), the custodian starts a scan of the pin that `cmd` names. -/
def execEyeScanCorridorStart (k : Nat) (cmd : BitVec 32) (s : State) : Host.Outcome State Fault Refusal :=
  if 20 ≤ k ∨ ¬ s.ready ∨ (s.stack k).eye.isSome then ok s else ok ((s.setEyeFields k cmd).startEye k)

/-- EYE_SCAN_COMPLETE: the map of 64 rows is in STK_EYE_DATA. -/
def execEyeScanComplete (k : Nat) (map : List W64) (s : State) : Host.Outcome State Fault Refusal :=
  match (s.stack k).eye with
  | none => ok s
  | some _ =>
    let s := overList (List.range 64) (fun i s => s.setFld RegF.stkEyeDataPassMap (nth 0 map i).toNat k i) s
    ok (((s.setStack k { s.stack k with eye := none }).setFld RegF.stkEyeCmdBusy 0 k).setFld RegF.stkEyeCmdDone 1 k)

/-- STACK_UE_WINDOW_END: the window has lasted 86,400 s of operating time; every count returns to 0. -/
def execStackUeWindowEnd (s : State) : Host.Outcome State Fault Refusal :=
  let r := s.cond.rep
  if s.opSeconds < r.ueWindow + 86400 then ok s
  else ok { s with cond := { s.cond with rep := { r with stackUe := List.replicate 20 0, ueWindow := r.ueWindow + 86400 } } }

end Sys2Proof.Machine
end

