-- ==== Sys2Proof/Machine/Board.lean ====
section
/-! DEFINITION. The board-tier ports (spec/07_memory_tiers.md R198 to R206): requests in slots, DBM messages, CXL.mem completions,
timeouts, and the loss of a port. The memory behind a port lies in the device memory; a response sets it. -/

namespace Sys2Proof.Machine

/-- A port runs in DBM mode. -/
def State.dbm (s : State) (b : Nat) : Bool := s.flag RegF.btpStsMode b

/-- Store a port and show its tags in use. -/
def State.putBt (s : State) (b : Nat) (x : BtPort) : State :=
  (s.setBt b x).setFld RegF.btpStsOutstanding (x.out.length + x.late.length + x.cfgOut.length) b

/-! ### Requests (R198, R202 to R205) -/

/-- The line of an address within its port, and the lines of an access. -/
def lineOf (a : Nat) : Nat := (a - boardBase) % 2 ^ 42 / 64
def accLines (r : Access) : Nat := r.len / 64

/-- 1 to 8 whole lines within 4 KiB. -/
def accBoardOk (r : Access) : Bool :=
  r.addr % 64 == 0 && r.len % 64 == 0 && decide (1 ≤ accLines r ∧ accLines r ≤ 8) && !crosses4k r.addr r.len &&
    (match r.data with | some d => d.length == r.len | none => true)

/-- The lowest tag that no request holds. -/
def BtPort.freeTag (x : BtPort) : Option Nat :=
  indexFrom (fun t => !(x.out.any (fun r => r.tag == t)) && !x.late.contains t && !x.cfgOut.contains t) (List.range 4096) 0

/-- An outstanding request shares a line with an access, and one of the two is a write. -/
def BtPort.conflict (x : BtPort) (r : Access) : Bool :=
  x.out.any (fun q => decide (q.line < lineOf r.addr + accLines r ∧ lineOf r.addr < q.line + q.lines) && (q.acc.data.isSome || r.data.isSome))

/-- Credits for a request in DBM mode: one header, and one unit for each line written. -/
def BtPort.hasCredit (x : BtPort) (r : Access) : Bool :=
  decide (1 ≤ x.hdrCr) && (r.data.isNone || decide (accLines r ≤ x.dataCr))

/-- A DBM request: the header of R202, and the data of a write. -/
def dbmRequest (r : Access) (tag : Nat) : List Byte :=
  let line := lineOf r.addr
  leBytes 1 ((if r.data.isSome then 2 else 1) + 16 * (accLines r - 1)) ++ leBytes 1 0 ++ leBytes 2 tag ++ leBytes 4 line ++
    leBytes 1 (line / 2 ^ 32 % 16) ++ leBytes 7 0 ++ r.data.getD []

/-- A DBM configuration read or write of firmware (R202): the TB2's configuration offset, and the data of a write. -/
def dbmConfig (write : Bool) (tag off data : Nat) : List Byte :=
  leBytes 1 (if write then 5 else 4) ++ leBytes 1 0 ++ leBytes 2 tag ++ leBytes 4 off ++ leBytes 4 (if write then data else 0) ++ leBytes 4 0

/-- The next configuration request goes out, where there is a header credit for it (R203) and a tag. -/
def BtPort.sendOne (x : BtPort) : BtPort :=
  match x.cfgDue, x.freeTag with
  | m :: l, some t =>
    if x.hdrCr = 0 then x
    else { x with cfgDue := l, cfgOut := x.cfgOut ++ [t], hdrCr := x.hdrCr - 1, sent := x.sent ++ [dbmConfig m.1 t m.2.1 m.2.2] }
  | _, _ => x

/-- Store a port, with the configuration requests that may go out sent. -/
def State.sendConfig (s : State) (b : Nat) (x : BtPort) : State := s.putBt b (times x.cfgDue.length BtPort.sendOne x)

/-- Firmware configures the TB2 of a port: one write and one read under tags of their own, once the TB2 has advertised credits. The specification gives the messages and not
when, or of what, firmware sends them: offsets and data are free values (DESIGN CHOICE, log 105). -/
def State.configureTb2 (s : State) (b : Nat) : State :=
  let f := s.free
  let g := f.2.free
  let x := g.2.btPort b
  g.2.sendConfig b { x with cfgDue := [(true, f.1.toNat, g.1.toNat), (false, f.1.toNat, 0)] }

/-- The CXL.mem messages of a request, one for each line. The layout of a CXL message is not the specification's: the model keeps
operation (1 MemRd, 2 MemWr), tag, line and data (log 45). -/
def cxlRequests (r : Access) (tag : Nat) : List (List Byte) :=
  (List.range (accLines r)).map (fun i => leBytes 1 (if r.data.isSome then 2 else 1) ++ leBytes 2 tag ++ leBytes 5 (lineOf r.addr + i) ++
    ((r.data.getD []).drop (64 * i)).take 64)

/-- The port issues a request under a tag in a slot, which carries no other (R198). -/
def State.btIssue (s : State) (b slot : Nat) (r : Access) (tag : Nat) (share : Bool) : State :=
  let x := s.btPort b
  let m := if s.dbm b then [dbmRequest r tag] else cxlRequests r tag
  s.putBt b { x with comes := slot + 1, out := x.out ++ [{ tag := tag, line := lineOf r.addr, lines := accLines r, acc := r, share := share }],
                     sent := x.sent ++ m, hdrCr := if s.dbm b then x.hdrCr - 1 else x.hdrCr,
                     dataCr := if s.dbm b && r.data.isSome then x.dataCr - accLines r else x.dataCr }

/-- BOARD_TIER_REQUEST: in an allotted slot of the share of the task's wing (R198), within credits and tags; otherwise it waits for its requester's next slot. -/
def execBoardTierRequest (b slot : Nat) (r : Access) (s : State) : Host.Outcome State Fault Refusal :=
  let own := s.allots r.ctx (.boardPort b) slot r.task && s.shareOk (s.task r.ctx r.task).wing b slot
  let x := s.btPort b
  if homeOf r.addr ≠ .board b ∨ ¬ accBoardOk r ∨ slot < x.comes ∨
      ¬ (own ∨ s.shares r.ctx (.hostSharePort b) slot) then ok s
  else if ¬ s.allows r.ctx (s.rt r.ctx r.task).epochOld r.data.isSome r.addr r.len then
    ok (if own then s.failTask r.ctx r.task (Fail.addr .protFault r.addr) else s)
  else if s.fld RegF.btpStsState b ≠ 2 ∨ x.conflict r ∨ (s.dbm b ∧ ¬ x.hasCredit r) then ok s
  else
    match x.freeTag with
    | none => ok s
    | some t => ok (s.btIssue b slot r t (!own))

/-! ### Responses (R205) -/

/-- An outstanding request leaves the ledger. -/
def State.btTake (s : State) (b tag : Nat) : State :=
  let x := s.btPort b
  s.putBt b { x with out := x.out.filter (fun q => q.tag != tag) }

/-- A request ends with TIER_ERROR: its task aborts; one of a host-copy share ends its descriptor by its own rules. -/
def State.btError (s : State) (q : BtReq) : State :=
  if q.share then s else s.failTask q.acc.ctx q.acc.task (Fail.addr .tierError q.acc.addr)

/-- A response to a request: done with the data, or an error with its record. -/
def State.btAnswer (s : State) (b tag status : Nat) (data : List Byte) : State :=
  let x := s.btPort b
  if tag ∈ x.cfgOut then s.putBt b { x with cfgOut := x.cfgOut.filter (fun t => t != tag) }
  else if tag ∈ x.late then s.putBt b { x with late := x.late.filter (fun t => t != tag) }
  else
    match x.out.find? (fun q => q.tag == tag) with
    | none => s
    | some q =>
      let s := s.btTake b tag
      if status = 0 then
        match q.acc.data with
        | some d => s.wr q.acc.addr d
        | none => s.wr q.acc.addr (pad q.acc.len data)
      else
        let st := if status = 1 then 1 else if status = 2 then 2 else 3
        let s := s.incFld (if st = 1 then RegF.btpErrPoisoned else RegF.btpErrFaults) 1 b
        (s.evTier (uBt b) (some q.acc.ctx) q.line st).btError q

/-! ### The loss of a link (R206) -/

/-- The link goes down: every outstanding request ends with TIER_ERROR, tags stay reserved until the link has retrained. -/
def State.btDown (s : State) (b : Nat) : State :=
  if s.fld RegF.btpStsState b ≠ 2 then s
  else
    let x := s.btPort b
    let s := (s.setFld RegF.btpStsState 3 b).incFld RegF.btpErrLinkDowns 1 b
    let s := s.putBt b { x with out := [], late := x.late ++ x.out.map (fun q => q.tag) ++ x.cfgOut, cfgOut := [], hdrCr := 0, dataCr := 0 }
    overList x.out (fun q s => (s.evTierOpen (uBt b) (some q.acc.ctx) q.line).btError q) s

/-- The operation of a DBM message, and whether R202 reserves it. -/
def dbmOp (msg : List Byte) : Nat := field msg 0 1 % 16
def dbmReserved (msg : List Byte) : Bool := !([1, 2, 4, 5, 8, 9, 0xA, 0xC].contains (dbmOp msg))

/-- A message from the TB2 on a port that is up in DBM mode: a reserved OP is a link error; a message of the operation `op` is used. -/
def State.dbmTake (s : State) (b op : Nat) (msg : List Byte) (f : State → State) : State :=
  if s.fld RegF.btpStsState b ≠ 2 ∨ ¬ s.dbm b ∨ msg.length < 16 then s
  else if dbmReserved msg then s.btDown b
  else if dbmOp msg = op then f s
  else s

/-- RDATA. -/
def execRdata (b : Nat) (msg : List Byte) (s : State) : Host.Outcome State Fault Refusal :=
  ok (s.dbmTake b 8 msg (fun s => s.btAnswer b (field msg 2 2 % 4096) (field msg 1 1 % 16) (msg.drop 16)))

/-- WACK. -/
def execWack (b : Nat) (msg : List Byte) (s : State) : Host.Outcome State Fault Refusal :=
  ok (s.dbmTake b 9 msg (fun s => s.btAnswer b (field msg 2 2 % 4096) (field msg 1 1 % 16) []))

/-- CFGDATA: the answer to an outstanding configuration request of firmware, whose tag it carries. -/
def execCfgdata (b : Nat) (msg : List Byte) (s : State) : Host.Outcome State Fault Refusal :=
  ok (s.dbmTake b 0xA msg (fun s =>
    let x := s.btPort b
    let t := field msg 2 2 % 4096
    if t ∈ x.cfgOut then s.putBt b { x with cfg := x.cfg ++ [(msg.drop 8).take 4], cfgOut := x.cfgOut.filter (fun u => u != t) } else s))

/-- EVT: an event of the TB2, bytes 4 to 15. -/
def execEvt (b : Nat) (msg : List Byte) (s : State) : Host.Outcome State Fault Refusal :=
  ok (s.dbmTake b 0xC msg (fun s => let x := s.btPort b; s.setBt b { x with events := x.events ++ [(msg.drop 4).take 12] }))

/-- CXL_MEM_RESPONSE: the completion of a request in CXL mode, with its data. -/
def execCxlMemResponse (b tag : Nat) (poison : Bool) (data : List Byte) (s : State) : Host.Outcome State Fault Refusal :=
  if s.fld RegF.btpStsState b ≠ 2 ∨ s.dbm b then ok s else ok (s.btAnswer b tag (bit poison) data)

/-- BOARD_TIER_CREDIT_RETURN: the TB2 advertises or returns credits, and configuration requests that wait for one go out. -/
def execBoardTierCreditReturn (b hdr data : Nat) (s : State) : Host.Outcome State Fault Refusal :=
  let x := s.btPort b
  if s.fld RegF.btpStsState b ≠ 2 ∨ ¬ s.dbm b then ok s
  else ok (s.sendConfig b { x with hdrCr := x.hdrCr + hdr, dataCr := x.dataCr + data })

/-- CXL_DEVICE_EVENT: firmware stores the event record of the attached device. -/
def execCxlDeviceEvent (b : Nat) (event : List Byte) (s : State) : Host.Outcome State Fault Refusal :=
  if s.fld RegF.btpStsState b ≠ 2 ∨ s.dbm b then ok s
  else ok (s.event (uBt b) 0x010A 1 none [(16, 40, leNat (pad 40 event))])

/-- BTP_REQUEST_TIMEOUT: the tag stays reserved until its late response. -/
def execBtpRequestTimeout (b tag : Nat) (s : State) : Host.Outcome State Fault Refusal :=
  let x := s.btPort b
  match x.out.find? (fun q => q.tag == tag) with
  | none => ok s
  | some q =>
    let s := s.putBt b { x with out := x.out.filter (fun q => q.tag != tag), late := x.late ++ [tag] }
    let s := s.incFld RegF.btpErrTimeouts 1 b
    ok ((s.evTierOpen (uBt b) (some q.acc.ctx) q.line).btError q)

/-- BT_LINK_DOWN. -/
def execBtLinkDown (b : Nat) (s : State) : Host.Outcome State Fault Refusal := ok (s.btDown b)

/-- BT_LINK_RETRAINED: the port continues, with every tag free. -/
def execBtLinkRetrained (b : Nat) (s : State) : Host.Outcome State Fault Refusal :=
  if s.fld RegF.btpStsState b ≠ 3 then ok s
  else ok ((s.putBt b { s.btPort b with late := [] }).setFld RegF.btpStsState 2 b)

/-! ### Withdrawal (R206) -/

/-- The keys of a program's catalogue whose tiles are at home on a port. -/
def State.homedKeys (s : State) (c b : Nat) : List Nat :=
  match (s.cert c).catTable with
  | none => []
  | some _ => ((List.range (s.cert c).catCount).filter (fun k =>
      let e := s.catEntry c k
      0 < k && (e.state == 1 || e.state == 2) && e.home == 1 && homeOf e.addr == .board b))

/-- An entry becomes STRANDED. -/
def State.strand (s : State) (c k : Nat) : State :=
  let a := s.catAddr c k + 8
  s.wr a (leBytes 1 (setBits (leNat (s.rd a 1)) 4 3 3))

/-- A context's program allots slots of a port (spec/12 R462). -/
def State.allotsPort (s : State) (c b : Nat) : Bool :=
  (s.cert c).allots.any (fun a => a.res == .boardPort b || a.res == .hostSharePort b)

/-- Contexts with an admitted program. -/
def State.progContexts (s : State) : List Nat := (s.ctx.filter (fun x => x.2.prog.isSome)).map (fun x => x.1)

/-- Tiles that movers are moving to a port, or from it: the entry is HOME at the source and the move ends with TIER_ERROR, or it is
STRANDED and no longer the mover's (R215). -/
def State.withdrawMoves (s : State) (b : Nat) : State :=
  overList s.mov (fun k s =>
    let m := k.1
    let y := s.mover m
    let x := s.moveItem m
    let key := x.keyAt y.tile
    if ¬ y.held ∨ y.saved.isNone then s
    else if homeOf (x.srcAt y.tile) = .board b then s.setMover m { y with saved := none }
    else if homeOf (x.dstAt y.tile) = .board b then
      let e := s.catEntry y.ctx key
      let s := s.wr (s.catAddr y.ctx key) (leBytes 8 (x.srcAt y.tile) ++ leBytes 1 (x.home + 16) ++ leBytes 3 0 ++ leBytes 4 e.epoch ++
        leBytes 8 0 ++ leBytes 8 0)
      let s := (s.setMover m { y with saved := none }).evTierOpen (uMover m) (some y.ctx) (x.dstAt y.tile)
      s.moveFail m (Fail.addr .tierError (x.dstAt y.tile))
    else s) s

/-- BT_PORT_WITHDRAW: the port leaves the holdings, its catalogue entries are stranded, its contexts are aborted with LINK_DOWN. -/
def execBtPortWithdraw (b : Nat) (s : State) : Host.Outcome State Fault Refusal :=
  if 4 ≤ b ∨ s.fld RegF.btpStsState b ≠ 3 then ok s
  else
    let cs := s.progContexts
    let keys := (cs.map (fun c => (s.homedKeys c b).map (fun k => (c, k)))).flatten
    let s := (s.setFld RegF.btpStsState 4 b).setFld RegF.btpStsCapGib 0 b
    let s := s.setHold 16 1 (setBits (s.holdByte 16) b 1 0)
    let s := s.setHold (20 + 2 * b) 2 0
    let s := (overList keys (fun k s => s.strand k.1 k.2) s).withdrawMoves b
    let s := (s.event (uBt b) 0x0204 3 none [(16, 4, keys.length)]).holdChanged (uBt b) 0
    ok (s.abortContexts (cs.filter (fun c => s.allotsPort c b)) .linkDown (BitVec.ofNat 64 b))

end Sys2Proof.Machine
end

