-- ==== Sys2Proof/Machine/Ports.lean ====
section
/-! DEFINITION. The link ports (spec/11_ralda_link.md R301 to R313): lanes and their replacement, width, going down and coming up, flits
with their sequence numbers and replay. -/

namespace Sys2Proof.Machine

/-! ### Lanes (R302, R304, R306) -/

def State.healthy (s : State) (p l : Nat) : Bool := (s.fld RegF.lnkStsHealthy p).testBit l
def State.healthyLanes (s : State) (p : Nat) : List Nat := (List.range 9).filter (fun l => s.healthy p l)

/-- Healthy lanes without a logical lane. -/
def State.idleLanes (s : State) (p : Nat) : List Nat := (s.healthyLanes p).filter (fun l => !(s.lport p).lanes.contains l)

/-- Show the lanes of a trained port: active with a logical lane, idle and healthy, or failed. -/
def State.syncLanes (s : State) (p : Nat) : State :=
  overList (List.range 9) (fun l s =>
    let at' := indexFrom (fun x => x == l) (s.lport p).lanes 0
    let s := s.setFld RegF.lnkLaneState (if ¬ s.healthy p l then 2 else if at'.isSome then 0 else 1) p l
    s.setFld RegF.lnkLaneLogical (at'.getD 0) p l) s

/-- Logical lanes map afresh to the n lowest-numbered healthy lanes. -/
def State.mapLanes (s : State) (p n : Nat) : State :=
  (s.setPort p { s.lport p with lanes := (s.healthyLanes p).take n, replacing := [] }).syncLanes p

/-- An active lane has failed and no idle healthy lane is left for it. -/
def State.laneShort (s : State) (p : Nat) : Bool :=
  let bad := (s.lport p).lanes.filter (fun l => !s.healthy p l)
  decide ((s.idleLanes p).length < bad.length) || (!bad.isEmpty && !s.flag RegF.lnkCfgSpareEn p)

/-- The port can go on at half width. -/
def State.canHalf (s : State) (p : Nat) : Bool :=
  s.fld RegF.lnkStsState p == 2 && decide (4 ≤ (s.healthyLanes p).length) && s.flag RegF.lnkCfgHalfEn p && s.flag RegF.lnkCfgSpareEn p

/-- The payload of the control flit that reports a failed lane (log 120). -/
def laneReport (l cause : Nat) : List Byte := leBytes 1 1 ++ leBytes 1 l ++ leBytes 1 cause

/-- A lane fails: its cause goes to a record, the end that detects it reports it to the peer in a control flit, and an active lane waits for
its replacement. -/
def State.failLane (s : State) (p l cause : Nat) (report : Bool) : State :=
  if ¬ s.healthy p l then s
  else
    let s := when report (fun s => s.sendSeq p 2 (laneReport l cause)) s
    let s := s.setFld RegF.lnkStsHealthy (setBits (s.fld RegF.lnkStsHealthy p) l 1 0) p
    let s := s.event (uLane p l) 0x0200 2 none [(16, 1, cause)]
    let x := s.lport p
    let s := s.setPort p { x with replacing := if x.lanes.contains l then x.replacing ++ [l] else x.replacing,
                                  badWords := x.badWords.filter (fun b => b.1 != l) }
    s.syncLanes p

/-- The code of a lane failure's cause in its report and its event record. -/
def causeCode : LaneFault → Nat
  | .errorRatio _ => 1 | .codewords => 2 | .lock => 3 | .eye _ => 4

/-- The measurement that makes a lane fail: an error ratio above 10^-4 is a BER code below 4, an eye height is below EYE_MIN; 4 uncorrectable
codewords in 1 ms and a loss of lock have none. -/
def State.laneCause (s : State) (p : Nat) : LaneFault → Bool
  | .errorRatio ber => decide (ber < 4)
  | .codewords => true
  | .lock => true
  | .eye height => decide (height < s.fld RegF.lnkCfgEyeMin p)

/-- What was measured of a failed lane shows in LNK_LANE. -/
def State.showMeasure (s : State) (p lane : Nat) : LaneFault → State
  | .errorRatio ber => s.setFld RegF.lnkLaneBer ber p lane
  | .eye height => s.setFld RegF.lnkLaneEye height p lane
  | .codewords => s
  | .lock => s

/-- LANE_FAILED. -/
def execLaneFailed (p lane : Nat) (cause : LaneFault) (s : State) : Host.Outcome State Fault Refusal :=
  if 16 ≤ p ∨ 9 ≤ lane ∨ ¬ s.portUp p ∨ ¬ s.laneCause p cause then ok s
  else ok ((s.showMeasure p lane cause).failLane p lane (causeCode cause) true)

/-- The equalisers of a healthy lane, trained or adapted on live data, and what they measure (R303): free values, with the eye of a lane that
has not failed at EYE_MIN or above. -/
def State.adaptLane (s : State) (p l : Nat) : State :=
  if ¬ s.healthy p l then s
  else
    let f := s.free
    let v := f.1.toNat
    let m := s.fld RegF.lnkCfgEyeMin p
    ((f.2.setFld RegF.lnkLaneEye (m + v % (256 - m)) p l).setFld RegF.lnkLaneBer (v / 256 % 16) p l).setFld RegF.lnkLaneFfe (v / 4096 % 2 ^ 30) p l
def State.adaptPort (s : State) (p : Nat) : State := overList (List.range 9) (fun l s => s.adaptLane p l) s

/-- LANE_REPLACEMENT_COMPLETE: the lane that failed first hands its logical lane to the lowest-numbered idle healthy lane. -/
def execLaneReplacementComplete (p : Nat) (s : State) : Host.Outcome State Fault Refusal :=
  let x := s.lport p
  match x.replacing, s.idleLanes p with
  | old :: rest, new :: _ =>
    if ¬ s.portUp p ∨ ¬ s.flag RegF.lnkCfgSpareEn p then ok s
    else
      let s := s.setPort p { x with lanes := x.lanes.map (fun l => if l = old then new else l), replacing := rest }
      ok (((s.incFld RegF.lnkErrSpares 1 p).syncLanes p).pump p)
  | _, _ => ok s

/-! ### Going down (R307, R308) -/

/-- Set the holdings code of a port: 0 not held, 1 half width, 2 full width. A change after READY counts (spec/15 R417). -/
def State.setLinks (s : State) (p code : Nat) : State :=
  if ¬ s.ready ∨ s.linkWidth p = code then s
  else (s.setHold 12 4 (setBits (s.holdField 12 4) (2 * p) 2 code)).holdChanged (uPort p) code

/-- Running tasks that have operations on a port, but for multicasts (R308, R324). -/
def State.portTasks (s : State) (p : Nat) : List (Nat × Nat) := s.runningTasks.filter (fun y => (s.opPorts y.1 y.2 false).contains p)

/-- Spend the source slots that every attached receiver has now been sent, from index `before` on; with no receiver attached the
source stream ends. -/
def State.spendSent (s : State) (c t k before : Nat) : State :=
  let e := nth {} (s.task c t).sends k
  let x := s.sendSt c t k
  let u := 128 * (s.task c t).wing + e.srcUnit
  let att := e.receivers.filter (fun p => !x.isDetached p)
  if att.isEmpty then
    let y := s.stream u
    if y.held then (s.putStream u { y with next := y.listCount, slots := y.slots.map (fun _ => .empty), writing := none }).endStream u else s
  else
    let now := att.foldl (fun m p => min m (Tbl.get 0 x.nexts p)) e.count
    overList (List.range (now - before)) (fun i s => s.spendSlot u ((s.stream u).tileSlot (before + i))) s

/-- The least index that some attached receiver of a send entry waits for. -/
def State.leastNext (s : State) (c t k : Nat) : Nat :=
  let e := nth {} (s.task c t).sends k
  let x := s.sendSt c t k
  (e.receivers.filter (fun p => !x.isDetached p)).foldl (fun m p => min m (Tbl.get 0 x.nexts p)) e.count

/-- Detach a receiver of a multicast: D is the first index not sent to it. -/
def State.detachAt (s : State) (c t k p : Nat) (ended : Bool) : State :=
  let before := s.leastNext c t k
  let x := s.sendSt c t k
  let s := s.setSend c t k { x with detached := Tbl.set 0 x.detached p (Tbl.get 0 x.nexts p + 1),
                                    recallEnded := if ended then addLine x.recallEnded p else x.recallEnded }
  let s := s.incFld RegF.lnkCntDetaches 1 p
  let s := if ended then s.incFld RegF.lnkCntRecallFails 1 p else s
  let s := s.updProg c (fun g => { g with run := g.run.map (fun r => { r with detached := r.detached + 1 }) })
  s.spendSent c t k before

/-- A multicast receiver whose port goes down, or that aborts, is detached with its recall ended. -/
def State.dropReceiver (s : State) (c t k p : Nat) : State :=
  let x := s.sendSt c t k
  if ¬ x.isDetached p then s.detachAt c t k p true
  else if x.recallEnded.contains p then s
  else (s.setSend c t k { x with recallEnded := addLine x.recallEnded p }).incFld RegF.lnkCntRecallFails 1 p

/-- Running multicast send entries that name a port. -/
def State.mcastsOn (s : State) (p : Nat) : List (Nat × Nat × Nat) :=
  (s.runningTasks.map (fun y => ((s.task y.1 y.2).sends.zipIdx.filter (fun e => e.1.kind == .multicast && e.1.receivers.contains p)).map
    (fun e => (y.1, y.2, e.2)))).flatten

/-- The port loses what is in flight. -/
def Port.lost (x : Port) : Port :=
  { x with replay := [], wait0 := [], wait1 := [], resend := [], rx0 := [], rx1 := [], cr0 := 0, cr1 := 0, owe0 := 0, owe1 := 0, discard := false, replays := 0,
           replacing := [], badWords := [] }

/-- A port that was up goes down for a reason of LNK_STS: its tasks abort, multicast receivers are detached, it leaves the holdings, and
it trains again, or is isolated. -/
def State.portLost (s : State) (p reason : Nat) (isolated : Bool) : State :=
  let ts := s.portTasks p
  let ms := s.mcastsOn p
  let f : Fail := ⟨.linkDown, s.portDetail p⟩
  let s := s.setPort p { (s.lport p).lost with isolated := isolated }
  let s := (s.setFld RegF.lnkStsState (if isolated then 4 else 1) p).setFld RegF.lnkStsReason reason p
  let s := s.incFld RegF.lnkErrLinkDowns 1 p
  let s := (s.event (uPort p) 0x0202 3 none [(16, 1, reason)]).setLinks p 0
  let s := if s.flag RegF.glbTimeCfgUpValid ∧ s.fld RegF.glbTimeCfgUpstream = p then
      ({ s with syncGood := 0, timeSet := false } : State).setFld RegF.glbTimeStsLocked 0 else s
  let s := overList ms (fun m s => s.dropReceiver m.1 m.2.1 m.2.2 p) s
  (overList ts (fun y s => s.abortTask y.1 y.2 f.st f.detail) s).settle

/-- PORT_DOWN: too few healthy lanes (1), the retry limit (2) or silence (3). -/
def execPortDown (p reason : Nat) (s : State) : Host.Outcome State Fault Refusal :=
  let cause := (reason == 1 && s.laneShort p && !s.canHalf p) ||
    (reason == 2 && decide (max 1 (s.eff RegF.lnkCfgRetryLimit p) ≤ (s.lport p).replays)) || reason == 3
  if 16 ≤ p ∨ ¬ s.portUp p ∨ ¬ cause then ok s else ok (s.portLost p reason false)

/-- LINK_SILENCE_TIMEOUT: no flit has arrived for 10 µs. -/
def execLinkSilenceTimeout (p : Nat) (s : State) : Host.Outcome State Fault Refusal :=
  if 16 ≤ p ∨ ¬ s.portUp p then ok s else ok (s.portLost p 3 false)

/-- LNK_ISOLATE: the port goes down and its lanes stay in electrical idle. -/
def State.isolatePort (s : State) (p : Nat) : State :=
  if 16 ≤ p ∨ (s.lport p).isolated then s
  else if s.portUp p then s.portLost p 6 true
  else ((s.setPort p { s.lport p with isolated := true }).setFld RegF.lnkStsState 4 p).setFld RegF.lnkStsReason 6 p

def execLnkIsolate (p : Nat) (s : State) : Host.Outcome State Fault Refusal := ok (if s.ready then s.isolatePort p else s)

/-- RETRAIN: the port is taken down and trains again; it names no cause, so REASON is 0 (log 46). -/
def execRetrain (p : Nat) (s : State) : Host.Outcome State Fault Refusal :=
  if 16 ≤ p ∨ (s.lport p).isolated ∨ ¬ s.ready then ok s
  else if s.portUp p then ok (s.portLost p 0 false)
  else ok (s.setFld RegF.lnkStsState 1 p)

/-- RELEASE: isolation ends and the port trains. -/
def execRelease (p : Nat) (s : State) : Host.Outcome State Fault Refusal :=
  if 16 ≤ p ∨ ¬ (s.lport p).isolated ∨ ¬ s.ready then ok s
  else ok ((s.setPort p { s.lport p with isolated := false }).setFld RegF.lnkStsState 1 p)

/-- PORT_HALF: the port drops to half width; programs that name it at full width lose it. -/
def execPortHalf (p : Nat) (s : State) : Host.Outcome State Fault Refusal :=
  if 16 ≤ p ∨ ¬ s.laneShort p ∨ ¬ s.canHalf p then ok s
  else
    let s := (s.setFld RegF.lnkStsState 3 p).mapLanes p 4
    let s := (s.event (uPort p) 0x0201 2 none []).setLinks p 1
    let full := fun (y : Nat × Nat) => !((s.cert y.1).halfPorts.contains p)
    let ts := (s.portTasks p ++ (s.mcastsOn p).map (fun m => (m.1, m.2.1))).filter full
    ok ((overList ts (fun y s => s.abortTask y.1 y.2 .linkDegraded (s.portDetail p)) (s.pump p)).settle)

/-! ### Coming up (R302, R305) -/

/-- A trained port that stays down, with its reason. -/
def State.staysDown (s : State) (p reason : Nat) : State := (s.setFld RegF.lnkStsState 0 p).setFld RegF.lnkStsReason reason p

/-- PORT_UP: training ends. `healthy` are the healthy lanes in the weaker direction, `rttNs` the round trip. -/
def execPortUp (p : Nat) (healthy : BitVec 9) (peerDev peerPort peerGen rttNs : Nat) (s : State) : Host.Outcome State Fault Refusal :=
  if 16 ≤ p ∨ s.bootState < 3 ∨ 4 < s.bootState ∨ ¬ s.boot.started ∨ (s.ready ∧ ¬ s.hasWing (p / 4)) ∨ (s.lport p).isolated ∨ s.portUp p then ok s
  else
    let s := (s.setFld RegF.lnkStsHealthy healthy.toNat p).setFld RegF.lnkStsPeerDev peerDev p
    let s := (s.setFld RegF.lnkStsPeerPort peerPort p).setFld RegF.lnkStsPeerValid 1 p
    let n := (s.healthyLanes p).length
    let s := s.setPort p { (s.lport p).lost with lanes := [] }
    if n < 4 ∨ (n < 8 ∧ ¬ s.flag RegF.lnkCfgHalfEn p) then ok ((s.staysDown p 1).syncLanes p)
    else if 700 < rttNs then ok ((s.staysDown p 4).syncLanes p)
    else if peerGen ≠ s.fuse.generation then ok ((s.staysDown p 5).syncLanes p)
    else
      let w := if 8 ≤ n then 8 else 4
      let s := (s.mapLanes p w).adaptPort p
      let s := s.setPort p { s.lport p with txSeq := 0, rxSeq := 4095, cr0 := 512, cr1 := 32 }
      let s := s.setFld RegF.lnkStsState (if w = 8 then 2 else 3) p
      ok (((s.event (uPort p) 0x0203 1 none [(16, 1, w)]).setLinks p (if w = 8 then 2 else 1)).settle)

/-- LNK_CNT_CLR. Before READY the write is ignored (spec/13 R359). -/
def execLnkCntClr (p : Nat) (s : State) : Host.Outcome State Fault Refusal :=
  if 16 ≤ p ∨ ¬ s.ready then ok s else ok ((s.setReg .lnkErr p 0 0).setReg .lnkCnt p 0 0)

/-! ### Flits (R310 to R313) -/

def flitKind (f : List Byte) : Nat := field f 0 1 % 16
def flitSeq (f : List Byte) : Nat := field f 0 2 / 16
def flitAck (f : List Byte) : Nat := field f 2 2 % 4096
def flitAckValid (f : List Byte) : Bool := (field f 2 2).testBit 12
def flitNak (f : List Byte) : Bool := (field f 2 2).testBit 13

/-- The CRC of a flit holds. -/
def flitGood (f : List Byte) : Bool := crc64.of (f.take 312) == field f 312 8

/-- The flits of a replay buffer after sequence number `ack`; all of it where no kept flit has that number. -/
def afterAck (l : List (List Byte)) (ack : Nat) : List (List Byte) :=
  match indexFrom (fun f => flitSeq f == ack) l 0 with
  | some i => l.drop (i + 1)
  | none => l

/-- What a flit that is used says beside its payload: ACK frees the replay buffer, NAK asks for a replay, credits come back. -/
def State.flitControl (s : State) (p : Nat) (f : List Byte) : State :=
  let x := s.lport p
  let rest := if flitAckValid f then afterAck x.replay (flitAck f) else x.replay
  let again := if flitNak f then rest else []
  let s := s.setPort p { x with replay := rest, resend := if again.isEmpty then x.resend else again, cr0 := x.cr0 + field f 4 1, cr1 := x.cr1 + field f 5 1 % 16 }
  (if again.isEmpty then s else s.incFld RegF.lnkErrReplays again.length p).pump p

/-- Ticks of device time in a millisecond. -/
def msTicks : Nat := 250000

/-- The uncorrectable codewords of the last millisecond, with those of this flit. -/
def Port.words (x : Port) (now : Nat) (bad : BitVec 9) : List (Nat × Nat) :=
  x.badWords.filter (fun b => decide (now ≤ b.2 + msTicks)) ++ ((List.range 9).filter (fun l => bad.getLsbD l)).map (fun l => (l, now))

/-- Lanes with 4 or more uncorrectable codewords within 1 ms fail (R304). -/
def State.failWords (s : State) (p : Nat) : State :=
  let w := (s.lport p).badWords
  overList ((List.range 9).filter (fun l => decide (4 ≤ (w.filter (fun b => b.1 == l)).length))) (fun l s => s.failLane p l 2 true) s

/-- A flit that is lost: the receiver asks for a replay. At the retry limit the one lane that accounts for every uncorrectable codeword of the
last millisecond fails, or the port goes down (R313). -/
def State.flitLost (s : State) (p : Nat) (f : List Byte) (badLanes : BitVec 9) : State :=
  let x := s.lport p
  let same := x.discard && flitSeq f == (x.rxSeq + 1) % 4096 && decide (flitKind f ≠ 0)
  let y := { x with discard := true, replays := if same then x.replays + 1 else x.replays, badWords := x.words s.time badLanes }
  let s := s.setPort p y
  if y.replays < max 1 (s.eff RegF.lnkCfgRetryLimit p) then (s.failWords p).sendIdle p true
  else
    match (y.badWords.map (fun b => b.1)).eraseDups with
    | [l] => ((s.setPort p { y with replays := 0 }).failLane p l 2 true).sendIdle p true
    | _ => s.portLost p 2 false

/-- What a control flit tells: a lane that the peer found failed has failed (log 120). -/
def State.takeCtrl (s : State) (p : Nat) (pay : List Byte) : State :=
  if field pay 0 1 = 1 then s.failLane p (field pay 1 1) (field pay 2 1) false else s

/-- FLIT_RECEIVE: `bad` tells that a codeword could not be corrected, `badLanes` on which lanes. A flit is used in SEQ order, exactly
once. -/
def execFlitReceive (p : Nat) (flit : List Byte) (bad : Bool) (badLanes : BitVec 9) (s : State) : Host.Outcome State Fault Refusal :=
  let x := s.lport p
  let k := flitKind flit
  if 16 ≤ p ∨ ¬ s.portUp p ∨ flit.length ≠ 320 then ok s
  else if bad ∨ ¬ flitGood flit then ok (s.flitLost p flit badLanes)
  else if 3 < k then ok s
  else if k = 0 then ok (s.flitControl p flit)
  else
    let d := (flitSeq flit + 4096 - x.rxSeq) % 4096
    if d = 1 then
      let pay := (flit.drop 8).take flitPayload
      let s := s.setPort p { x with rxSeq := flitSeq flit, discard := false, replays := 0,
                                    rx0 := if k = 1 then x.rx0 ++ [pay] else x.rx0, rx1 := if k = 2 then x.rx1 ++ [pay] else x.rx1 }
      ok ((when (k == 3) (fun s => s.takeCtrl p pay) s).flitControl p flit)
    else if x.discard ∨ d = 0 ∨ 2048 ≤ d then ok s
    else ok ((s.setPort p { x with discard := true }).sendIdle p true)

end Sys2Proof.Machine
end

