-- ==== Sys2Proof/Machine/Power.lean ====
section
/-! DEFINITION. Power, clocks, heat, droop and ageing in service (spec/14_clocks_power_condition.md R380 to R397). -/

namespace Sys2Proof.Machine

/-- The compute family runs in service. -/
def State.inService (s : State) : Bool := s.rail == .on && s.pwr.computeOn

/-- TCLK runs, and firmware has set the fields of the power block: from boot step 7 on, while FPLL is locked (R381, spec/00_scope.md R10). -/
def State.tclkOn (s : State) : Bool := s.rail == .on && s.timeRun && s.pwr.fpll

/-! ### Levels (R384, R385) -/

/-- LEVEL_STEP_COMPLETE: the level moves by one towards the level that is asked for. -/
def execLevelStepComplete (s : State) : Host.Outcome State Fault Refusal :=
  let l := s.level
  if ¬ s.inService then ok s
  else if l < s.pwr.target then ok (s.setLevel (l + 1))
  else if s.pwr.target < l then ok (s.setLevel (l - 1))
  else ok s

/-- A forced hold begins or ends. -/
def State.force (s : State) (reg corr : Bool) : State :=
  let starts := bit (reg && !s.pwr.forceReg) + bit (corr && !s.pwr.forceCorr)
  ({ s with pwr := { s.pwr with forceReg := reg, forceCorr := corr } } : State).incFld RegF.pwrEvtForced starts |>.syncPower

/-- PWR_FORCE_LOW: a write of PWR_CTL.FORCE_LOW. -/
def execPwrForceLow (on : Bool) (s : State) : Host.Outcome State Fault Refusal :=
  if ¬ s.ready then ok s else ok ((s.setFld RegF.pwrCtlForceLow (bit on)).force on s.pwr.forceCorr)

/-- The power counters and the kept maxima are zero. -/
def State.clearPower (s : State) : State :=
  let s := ((s.setReg .pwrDroop 0 0 0).setReg .pwrDroop 1 0 0).setReg .pwrEvt 0 0 0
  let s := overList (List.range 96) (fun i s => s.setFld RegF.pwrTsensMax 0 i) (s.setFld RegF.pwrAvgPeakW 0)
  { s with pwr := { s.pwr with stretched := [0, 0] } }

/-- PWR_CNT_CLR. -/
def execPwrCntClr (s : State) : Host.Outcome State Fault Refusal := if ¬ s.ready then ok s else ok s.clearPower

/-! ### The power loop (R386) -/

/-- POWER_SAMPLE: the 1 ms sample; the last ten seconds are kept. The loop measures once firmware has set PWR_CFG. -/
def execPowerSample (watts : Nat) (s : State) : Host.Outcome State Fault Refusal :=
  if ¬ s.tclkOn then ok s
  else
    let w := min watts 4095
    let l := (w :: s.pwr.samples).take 10000
    let a := l.take (1000 * s.window)
    let s : State := { s with pwr := { s.pwr with samples := l } }
    let s := (s.setFld RegF.pwrAvgLastW w).setFld RegF.pwrAvgPeakW (max w (s.fld RegF.pwrAvgPeakW))
    ok (s.setFld RegF.pwrAvgAvgW (a.sum / max 1 a.length))

/-- Lp after an evaluation, before its limits: compare the mean A over WINDOW and the mean F of the last ten samples with SETPOINT. -/
def State.loopLp (s : State) : Nat :=
  let a := s.pwr.samples.take (1000 * s.window)
  let f := s.pwr.samples.take 10
  if a.isEmpty then s.pwr.lp
  else if 5 * s.setpoint * f.length < 4 * f.sum then s.pwr.lp + 2
  else if s.setpoint * a.length < a.sum then s.pwr.lp + 1
  else if 100 * a.sum < 98 * s.setpoint * a.length then s.pwr.lp - 1
  else s.pwr.lp

/-- POWER_LOOP_EVALUATION. -/
def execPowerLoopEvaluation (s : State) : Host.Outcome State Fault Refusal :=
  if ¬ s.ready then ok s
  else ok ({ s with pwr := { s.pwr with lp := s.limitLp s.loopLp } } : State).syncPower

/-! ### Heat (R387, R390) -/

/-- The hottest working sensor among those with numbers from lo below hi, the lowest-numbered of equals. -/
def hottest (temps : List (Option Nat)) (lo hi : Nat) : Option (Nat × Nat) :=
  (List.range (hi - lo)).foldl (fun (m : Option (Nat × Nat)) k =>
    match nth none temps (lo + k), m with
    | some t, some b => if b.2 < t then some (lo + k, t) else m
    | some t, none => some (lo + k, t)
    | none, _ => m) none

/-- Sensors of a wing that have failed. -/
def failedIn (temps : List (Option Nat)) (w : Nat) : Nat :=
  ((List.range 24).filter (fun k => (nth none temps (24 * w + k)).isNone)).length

/-- What a sensor reads for the limits: its temperature, or 5 °C above the hottest working sensor of its wing. -/
def limitTemp (temps : List (Option Nat)) (i : Nat) : Option Nat :=
  match nth none temps i with
  | some t => some t
  | none => (hottest temps (24 * (i / 24)) (24 * (i / 24) + 24)).map (fun x => x.2 + 5)

/-- The sensor whose reading trips the module. -/
def tripBy (temps : List (Option Nat)) : Option (Nat × Nat) :=
  let all := (hottest temps 0 96).filter (fun x => decide (110 ≤ x.2))
  match all with
  | some x => some x
  | none => ((List.range 4).filterMap (fun w =>
      if 8 < failedIn temps w then (hottest temps (24 * w) (24 * w + 24)).filter (fun x => decide (105 ≤ x.2)) else none)).head?

/-- A thermal trip: THERM_TRIP_N is latched, the level is 22, every context aborts with INTERNAL, and the compute family stops. -/
def State.tripAt (s : State) (i t : Nat) : State :=
  let s : State := { s with pwr := { s.pwr with trip := true }, pins := { s.pins with thermTrip := true } }
  let s := (s.setLevel 22).event (uThermal i) 0x0304 4 none [(16, 1, i), (17, 1, t)]
  let f := s.unitFail .internal (uThermal i)
  let s := s.abortContexts s.liveCtx f.st f.detail
  { s with pwr := { s.pwr with computeOn := false } }

/-- Store the readings of the die sensors. -/
def State.storeTemps (s : State) (temps : List (Option Nat)) : State :=
  overList (List.range 96) (fun i s =>
    match nth none temps i with
    | some t => ((s.setFld RegF.pwrTsensTemp t i).setFld RegF.pwrTsensFailed 0 i).setFld RegF.pwrTsensMax (max t (s.fld RegF.pwrTsensMax i)) i
    | none => s.setFld RegF.pwrTsensFailed 1 i) s

/-- Stacks whose temperature is read: those of the holdings, and during bring-up those that train. -/
def State.stacksRead (s : State) : List Nat := (List.range 20).filter (fun k => s.hasStack k || s.fld RegF.stkStsState k == 1)

/-- Store the temperatures of the stacks; a channel that has been trained before the first reading counts as trained at it (log 51). -/
def State.storeStackTemps (s : State) (l : List Nat) : State :=
  overList s.stacksRead (fun k s =>
    let t := nth 0 l k
    let x := s.stack k
    let x := { x with trained := (List.range 32).foldl (fun m c => if Tbl.get 0 m c = 0 then Tbl.set 0 m c (t + 1) else m) x.trained }
    (s.setStack k x).setFld RegF.stkStsTemp t k) s

/-- THERMAL_SENSOR_READ: `temps` are the 96 die sensors, none where the self-check failed. -/
def execThermalSensorRead (temps : List (Option Nat)) (stackTemps : List Nat) (s : State) : Host.Outcome State Fault Refusal :=
  if s.rail ≠ .on then ok s
  else
    let st := s.stacksRead.map (fun k => nth 0 stackTemps k)
    let tj := min 95 (s.fld RegF.pwrCfgTjThrottle)
    let lim := (List.range 96).filterMap (fun i => limitTemp temps i)
    let s := (s.storeTemps temps).storeStackTemps stackTemps
    let m := (hottest temps 0 96).getD (s.fld RegF.pwrStsTjSensor, s.fld RegF.pwrStsTjMax)
    let s := ((s.setFld RegF.pwrStsTjMax m.2).setFld RegF.pwrStsTjSensor m.1).setFld RegF.pwrStsStackMax (st.foldl max 0)
    let hot := lim.any (fun t => decide (tj ≤ t)) || st.any (fun t => decide (95 ≤ t))
    let cool := lim.all (fun t => decide (t + 3 < tj)) && st.all (fun t => decide (t < 92))
    let s : State := if s.timeRun then { s with pwr := { s.pwr with hot := hot, cool := cool } } else s
    match tripBy temps with
    | some (i, t) => if s.pwr.trip then ok s else ok (s.tripAt i t)
    | none => ok s

/-- THERMAL_THROTTLE_STEP: Lt rises while hot and falls once cool, after a trip too. -/
def execThermalThrottleStep (s : State) : Host.Outcome State Fault Refusal :=
  if ¬ s.tclkOn then ok s
  else if s.pwr.hot then
    let s := if s.pwr.lt = 0 then s.incFld RegF.pwrEvtThrottles 1 else s
    ok ({ s with pwr := { s.pwr with lt := min 22 (s.pwr.lt + 1) } } : State).syncPower
  else if s.pwr.cool then ok ({ s with pwr := { s.pwr with lt := s.pwr.lt - 1 } } : State).syncPower
  else ok s

/-! ### VR_ALERT_N (R388) -/

/-- VR_ALERT_N_FALL: the level is 22 at once. With the rails off the pin alone is low, and its level acts once they are on; during a
power-down it has no further effect (spec/16 R446, R450). -/
def execVrAlertNFall (s : State) : Host.Outcome State Fault Refusal :=
  let s' : State := { s with pins := { s.pins with vrAlert := true } }
  if s.pins.vrAlert then ok s
  else if s.rail ≠ .on then ok s'
  else
    let s : State := { s' with pwr := { s'.pwr with alertHold := false } }
    ok (((s.incFld RegF.pwrEvtAlerts 1).event uCustodian 0x0306 1 none []).setLevel 22)

/-- VR_ALERT_N_RISE: the hold begins, where the rails are on. -/
def execVrAlertNRise (s : State) : Host.Outcome State Fault Refusal :=
  let s' : State := { s with pins := { s.pins with vrAlert := false } }
  if ¬ s.pins.vrAlert then ok s
  else if s.rail ≠ .on then ok s'
  else ok ({ s' with pwr := { s'.pwr with alertHold := true } } : State).syncPower

/-- ALERT_HOLD_EXPIRY: the alert request ends. -/
def execAlertHoldExpiry (s : State) : Host.Outcome State Fault Refusal :=
  if ¬ s.pwr.alertHold then ok s else ok ({ s with pwr := { s.pwr with alertHold := false } } : State).syncPower

/-! ### Droop (R391) -/

/-- The margin request rises, and PWR_EVT counts it. -/
def State.raiseMargin (s : State) : State :=
  (({ s with pwr := { s.pwr with lm := min 22 (s.pwr.lm + 1) } } : State).incFld RegF.pwrEvtMarginSteps 1).syncPower

def State.stretching (s : State) (d : Nat) : Bool := nth false s.pwr.stretch d

/-- DROOP_DETECT: a stretch begins on a die. -/
def execDroopDetect (d : Nat) (s : State) : Host.Outcome State Fault Refusal :=
  if 2 ≤ d ∨ ¬ s.inService ∨ s.stretching d then ok s
  else ok (({ s with pwr := { s.pwr with stretch := setNth s.pwr.stretch d true } } : State).incFld RegF.pwrDroopEvents 1 d)

/-- DROOP_RECOVERY_END: the stretch ends after `cycles` stretched cycles, which count in units of 1,024. -/
def execDroopRecoveryEnd (d cycles : Nat) (s : State) : Host.Outcome State Fault Refusal :=
  if 2 ≤ d ∨ ¬ s.stretching d then ok s
  else
    let n := nth 0 s.pwr.stretched d + cycles
    let s : State := { s with pwr := { s.pwr with stretch := setNth s.pwr.stretch d false, stretched := setNth s.pwr.stretched d (n % 1024) } }
    ok (s.incFld RegF.pwrDroopStretched (n / 1024) d)

/-- DROOP_LONG: a stretch of more than 10 µs without a break. -/
def execDroopLong (d us : Nat) (s : State) : Host.Outcome State Fault Refusal :=
  if 2 ≤ d ∨ us ≤ 10 ∨ ¬ s.stretching d then ok s
  else ok ((s.event uCustodian 0x0305 2 none [(16, 1, d), (20, 4, us)]).raiseMargin)

/-! ### Voltage (R393, R394) -/

/-- The applied voltage of a die can rise no further. -/
def State.voltTop (s : State) (d : Nat) : Bool := decide (6 ≤ nth 0 s.pwr.trims d) || decide (nth 0 s.fuse.vmax d ≤ s.voltage d)

/-- A monitor works: the last plan has not left it out (R395). -/
def State.monWorks (s : State) (i : Nat) : Bool := s.cond.rep.shifts[i]? != some none

/-- AVS_EVALUATION: `slacks` are the live margins of the die's 128 monitors in 0.1 ps, none where one gives no margin; the working monitors
decide. -/
def execAvsEvaluation (d : Nat) (slacks : List (Option Nat)) (above35For10ms stuckFor1ms : Bool) (s : State) :
    Host.Outcome State Fault Refusal :=
  if 2 ≤ d ∨ ¬ s.inService then ok s
  else
    let l := (slacks.take 128).zipIdx.filterMap (fun x => x.1.map (fun v => (x.2, v)))
    let s := overList l (fun x s => s.setFld RegF.condMonSlack (min 65535 x.2) (128 * d + x.1)) s
    match (l.filter (fun x => s.monWorks (128 * d + x.1))).map (fun x => x.2) with
    | [] => ok s
    | v :: rest =>
      let least := rest.foldl min v
      let t := nth 0 s.pwr.trims d
      let top := s.voltTop d
      let t' := if least < 200 then min 6 (t + 1) else if 350 < least ∧ above35For10ms then t - 1 else t
      let s := ({ s with pwr := { s.pwr with trims := setNth s.pwr.trims d t' } } : State).syncPower
      ok (if least < 200 ∧ stuckFor1ms ∧ top then s.raiseMargin else s)

/-- MARGIN_RELEASE: ten seconds without a cause. -/
def execMarginRelease (s : State) : Host.Outcome State Fault Refusal :=
  if ¬ s.inService then ok s else ok ({ s with pwr := { s.pwr with lm := s.pwr.lm - 1 } } : State).syncPower

/-! ### PLLs (R380) -/

/-- CPLL_UNLOCK of a die whose CPLL is locked: the compute family of both dies goes on from FPLL ÷ 2. -/
def execCpllUnlock (d : Nat) (s : State) : Host.Outcome State Fault Refusal :=
  if 2 ≤ d ∨ ¬ s.inService ∨ nth false s.pwr.cpllLost d then ok s
  else ok (({ s with pwr := { s.pwr with cpll := false, cpllLost := setNth s.pwr.cpllLost d true, onFpll := true } } : State).event
    uCustodian 0x0302 3 none [(16, 1, d)])

/-- CPLL_RELOCK: every CPLL has locked, and the family returns to it at the present level. -/
def execCpllRelock (s : State) : Host.Outcome State Fault Refusal :=
  if s.pwr.cpll ∨ ¬ s.inService then ok s
  else ok ({ s with pwr := { s.pwr with cpll := true, cpllLost := [false, false], onFpll := false } } : State).syncPower

/-- FPLL_UNLOCK: every context aborts with INTERNAL; the module stays so until a fundamental reset. -/
def execFpllUnlock (s : State) : Host.Outcome State Fault Refusal :=
  if ¬ s.tclkOn then ok s
  else
    let s := s.event uCustodian 0x0303 4 none []
    let f := s.unitFail .internal uCustodian
    let s := s.abortContexts s.liveCtx f.st f.detail
    ok { s with pwr := { s.pwr with fpll := false, computeOn := false } }

/-! ### Plans (R395 to R397) -/

/-- A plan starts. -/
def State.startPlan (s : State) : State :=
  ({ s with cond := { s.cond with planning := true } } : State).setFld RegF.condStsPlanning 1

/-- PLAN_NOW: ignored while a plan runs. -/
def execPlanNow (s : State) : Host.Outcome State Fault Refusal :=
  if ¬ s.ready ∨ s.cond.planning then ok s else ok s.startPlan

/-- PLAN_DUE: the operating time reaches NEXT_PLAN. -/
def execPlanDue (s : State) : Host.Outcome State Fault Refusal :=
  if ¬ s.ready ∨ s.cond.planning then ok s
  else ok ((s.comeTo (s.cond.readyAt + (s.reportInUse.nextPlan - s.cond.opBase) * 250000000)).startPlan)

/-- The dies in service. -/
def State.diesOn (s : State) : List Nat := [0, 1].filter (fun d => (s.holdByte 1).testBit (4 + d))

/-- PLAN_COMPLETE: `corrected` are the corrected delays of the 256 monitors. A newly retired state changes the holdings. -/
def execPlanComplete (corrected : List (Option Int)) (s : State) : Host.Outcome State Fault Refusal :=
  if ¬ s.ready ∨ ¬ s.cond.planning then ok s
  else
    let before := s.retired
    let s := s.plan corrected s.diesOn
    if s.retired = before then ok s
    else ok (((s.setHold 3 1 s.topState).setHold 18 2 s.retired).holdChanged 0xFFFF s.topState)

end Sys2Proof.Machine
end

