-- ==== Sys2Proof/Machine/Recorder.lean ====
section
/-! DEFINITION. The event recorder's NOR copy (spec/15_integrity_records_guarantees.md R422 to R426) and the fundamental reset
(spec/13_boot_protection_setup.md R357). -/

namespace Sys2Proof.Machine

/-! ### The mirror (R424, R425) -/

/-- The mirror copies one record to NOR: the accession register's first, then the day book's, in the order of SEQ. NOR keeps the latest 4,096
day-book records copied. -/
def Recorder.mirrorOne (r : Recorder) : Recorder :=
  match r.acc[r.accCopied]? with
  | some e => { r with norAcc := r.norAcc ++ [e], accCopied := r.accCopied + 1 }
  | none =>
    let n := r.copied + 1
    let e := Tbl.get {} r.day (n % 4096)
    if r.last < n then r
    else
      let l := r.norDay ++ [e]
      { r with copied := n, norDay := if e.seq = n then l.drop (l.length - 4096) else r.norDay }

/-- MIRROR_RECORD_WRITE: while the recorder has its records and the mirror may still start a write. -/
def execMirrorRecordWrite (s : State) : Host.Outcome State Fault Refusal :=
  if (s.rail = .on ∨ s.rail = .falling) ∧ s.evr.restored ∧ ¬ s.evr.mirrorOff then ok { s with evr := s.evr.mirrorOne } else ok s

/-- The mirror has copied every record that the recorder holds. -/
def Recorder.mirrored (r : Recorder) : Bool := decide (r.acc.length ≤ r.accCopied ∧ r.last ≤ r.copied)

/-- CLEAR_ACC: the accession register and its NOR copy are empty, and RECORDER_CLEARED is the first record. -/
def execClearAcc (s : State) : Host.Outcome State Fault Refusal :=
  if ¬ s.ready then ok s
  else
    let q := (s.evr.acc.getLast?.map (fun e => e.seq)).getD 0
    let s : State := { s with evr := { s.evr with acc := [], norAcc := [], accCopied := 0 } }
    ok (s.event uRecorder 0x0401 1 none [(16, 8, q)])

/-- The highest SEQ of the records in NOR. -/
def Recorder.highest (r : Recorder) : Nat := (r.norDay.map (fun e => e.seq) ++ r.norAcc.map (fun e => e.seq)).foldl max 0

/-- The day book that NOR restores: each record with its valid mark whose SEQ is the one expected at its place, the greatest there that the
highest SEQ allows (R425). -/
def Recorder.restoredDay (r : Recorder) : Tbl EvRec :=
  (r.norDay.filter (fun e => decide (0 < e.seq ∧ r.highest < e.seq + 4096))).foldl (fun m e => Tbl.set {} m (e.seq % 4096) e) []

/-- Both areas are restored from NOR, and numbering goes on from the highest SEQ. -/
def Recorder.restore (r : Recorder) : Recorder :=
  { r with day := r.restoredDay, acc := r.norAcc, last := r.highest, copied := r.highest, accCopied := r.norAcc.length,
           held := [], restored := true }

/-- The restore of boot step 8: the records that the custodian held are numbered next, then RECORDS_RESTORED is created. -/
def State.restoreRecords (s : State) : State :=
  let held := s.evr.held
  let q := s.evr.highest
  let n := s.evr.norAcc.length
  let s : State := { s with evr := s.evr.restore }
  (overList held (fun e s => s.storeEv e) s).event uRecorder 0x0403 0 none [(16, 8, q), (24, 2, n)]

/-! ### Fundamental reset (R357) -/

/-- The registers that show fuses (spec/13 R362, spec/14 R392). -/
def State.showFuses (s : State) : State :=
  let s := (s.setFld RegF.glbStatusGeneration s.fuse.generation).setFld RegF.bootFuseSvnFloor s.fuse.svnFloor
  let s := s.setFld RegF.bootFuseKeyRevoked s.fuse.keyRevoked.toNat
  overList [0, 1] (fun d s => s.setFld RegF.condDieVmax (nth 0 s.fuse.vmax d) d) s

/-- A fundamental reset: the firmware, contexts, programs, tables, set-up and memories are gone. What lies in NOR and in the fuses, the
host's memory, the pins and the supply stay. -/
def State.fundamental (s : State) : State :=
  ({ hmem := s.hmem, fuse := s.fuse, pins := { s.pins with thermTrip := false, smbAlert := false }, rail := s.rail,
     railTried := s.railTried, certs := s.certs, irqOut := s.irqOut, replies := s.replies, freeCtr := s.freeCtr, pending := s.pending,
     evr := { norDay := s.evr.norDay, norAcc := s.evr.norAcc },
     cond := { copyA := s.cond.copyA, copyB := s.cond.copyB, useB := s.cond.useB, arrayFails := s.cond.arrayFails,
               veFails := s.cond.veFails, opBase := if s.ready then s.opSeconds else s.cond.opBase } } : State).showFuses

/-- Boot step 1: t0. The custodian starts from ROM and samples the straps; the sampled BT_MODE is the mode of every board-tier port
(spec/07_memory_tiers.md R199). -/
def State.startBoot (s : State) : State :=
  let s : State := { s with boot := { s.boot with t0 := true }, pins := { s.pins with slotIdS := s.pins.slotId, btModeS := s.pins.btMode } }
  let s := overList [0, 1, 2, 3] (fun b s => s.setFld RegF.btpCfgMode (bit s.pins.btModeS) b) s
  s.setFld RegF.bootProgressStep 2

/-- A fundamental reset of a module whose rails stay on; boot starts where PERST_N is not asserted. -/
def State.fundamentalReset (s : State) : State := if s.pins.perst then s.fundamental else s.fundamental.startBoot

end Sys2Proof.Machine
end

