-- ==== Sys2Proof/Machine/ScaleCmds.lean ====
section
/-! DEFINITION. The commands of the scale manager and of parameter groups (spec/02_number_formats.md R54, R55,
spec/09_ledger_reduction_update.md R274, R275). Each row is an 8-byte write of the keeper to RED_SM_CMD or RED_GRP_CMD. -/

namespace Sys2Proof.Machine

/-- The last word written to RED_SM_CMD. -/
def State.noteSm (s : State) (c entry op arg : Nat) : State :=
  (((s.setFld RegF.redSmCmdEntry entry).setFld RegF.redSmCmdCtx c).setFld RegF.redSmCmdOp op).setFld RegF.redSmCmdArg arg

/-- The last word written to RED_GRP_CMD. -/
def State.noteGrp (s : State) (c g op : Nat) : State :=
  ((s.setFld RegF.redGrpCmdEntry g).setFld RegF.redGrpCmdCtx c).setFld RegF.redGrpCmdOp op

/-- A write of RED_SM_CMD with an OP: 1 to 4 queue their command, another value is reserved. -/
def State.smCommand (s : State) (c entry op arg : Nat) : State :=
  let s := s.noteSm c entry op arg
  let x := match op with
    | 1 => some SmOp.clearFlags
    | 2 => some (SmOp.setScale (signed 16 arg))
    | 3 => some SmOp.resetHistory
    | 4 => some (SmOp.setHeadroom (arg % 16))
    | _ => none
  match x with
  | some y => s.queueSm (s.smValid c entry) { ctx := c, entry := entry, op := y }
  | none => if op = 0 then s else s.setFld RegF.redSmStsBad 1

/-- A write of RED_GRP_CMD with an OP. -/
def State.grpCommand (s : State) (c g op : Nat) : State :=
  let s := s.noteGrp c g op
  let x := match op with
    | 1 => some SmOp.freeze
    | 2 => some SmOp.thaw
    | 3 => some SmOp.exempt
    | 4 => some SmOp.unexempt
    | _ => none
  match x with
  | some y => s.queueSm (s.grpValid c g) { ctx := c, entry := g, op := y }
  | none => if op = 0 then s else s.setFld RegF.redSmStsBad 1

/-- CLEAR_FLAGS. -/
def execClearFlags (c entry : Nat) (s : State) : Host.Outcome State Fault Refusal :=
  if ¬ s.ready then ok s else ok (s.smCommand c entry 1 0)

/-- SET_SCALE. -/
def execSetScale (c entry : Nat) (arg : BitVec 16) (s : State) : Host.Outcome State Fault Refusal :=
  if ¬ s.ready then ok s else ok (s.smCommand c entry 2 arg.toNat)

/-- RESET_HISTORY. -/
def execResetHistory (c entry : Nat) (s : State) : Host.Outcome State Fault Refusal :=
  if ¬ s.ready then ok s else ok (s.smCommand c entry 3 0)

/-- SET_HEADROOM. -/
def execSetHeadroom (c entry : Nat) (arg : BitVec 16) (s : State) : Host.Outcome State Fault Refusal :=
  if ¬ s.ready then ok s else ok (s.smCommand c entry 4 arg.toNat)

/-- FREEZE. -/
def execFreeze (c g : Nat) (s : State) : Host.Outcome State Fault Refusal :=
  if ¬ s.ready then ok s else ok (s.grpCommand c g 1)

/-- THAW. -/
def execThaw (c g : Nat) (s : State) : Host.Outcome State Fault Refusal :=
  if ¬ s.ready then ok s else ok (s.grpCommand c g 2)

/-- EXEMPT. -/
def execExempt (c g : Nat) (s : State) : Host.Outcome State Fault Refusal :=
  if ¬ s.ready then ok s else ok (s.grpCommand c g 3)

/-- UNEXEMPT. -/
def execUnexempt (c g : Nat) (s : State) : Host.Outcome State Fault Refusal :=
  if ¬ s.ready then ok s else ok (s.grpCommand c g 4)

/-- RED_LDG_CNT_CLR: the verdict counters are zero. -/
def execRedLdgCntClr (s : State) : Host.Outcome State Fault Refusal :=
  ok (if s.ready then s.setReg .redLdgCnt 0 0 0 else s)

end Sys2Proof.Machine
end

