-- ==== Sys2Proof/Machine/Setup.lean ====
section
/-! DEFINITION. Set-up: writes of registers by class, rehangs, the gallery aperture and a hot reset (spec/00_scope.md R9, R11,
spec/12_rings_contexts_rota.md R331, R333, spec/13_boot_protection_setup.md R357, R359, R371 to R377,
spec/17_register_index.md R456, R457). -/

namespace Sys2Proof.Machine

/-! ### Rehangs (R374 to R376) -/

/-- The registers with ST fields that a rehang commits (R377, spec/14 R403). -/
def stRegs : List Reg := [.wingMaCfg, .kvaPageTimeout, .kvaCtxSeq, .kvaCtxPool, .btpTimeout, .lnkCfg, .glbLinkCfg, .pwrCfg]

/-- The staged words of a scope. -/
def State.snapshot (s : State) (k : Nat) : Tbl Nat :=
  s.regs.filter (fun x => stRegs.any (fun r => r.index == x.1 / 2 ^ 40 && scopeOf r (x.1 / 2 ^ 20 % 2 ^ 20) == k))

/-- A running task belongs to a scope: tasks of the wing, appends for KVA, multicast senders for LNK. A unit of another scope adopts a new
set at once (log 49). -/
def State.ofScope (s : State) (k : Nat) (y : Nat × Nat) : Bool :=
  let t := s.task y.1 y.2
  if k < 4 then t.wing == k
  else if k = 4 then t.append.isSome
  else if k = 6 then t.sends.any (fun e => e.kind == .multicast)
  else false

/-- A task of a scope still uses an older set: the scope is not complete (GLB_REHANG_STS.PENDING). -/
def State.scopePending (s : State) (k : Nat) : Bool :=
  s.runningTasks.any (fun y => s.ofScope k y && decide (nth 0 (s.rt y.1 y.2).gens k < (s.scp k).gen))

/-- A snapshot becomes the set in force of a scope. -/
def State.takeSet (s : State) (k : Nat) (t : Tbl Nat) : State :=
  let x := s.scp k
  (s.setScp k { gen := x.gen + 1, cur := t, prev := x.cur, held := none }).setFld RegF.glbRehangStsHeld
    (setBits (s.fld RegF.glbRehangStsHeld) k 1 0)

/-- REHANG: each named scope takes its staged fields, or holds them while older work still uses the set before. -/
def execRehang (scopes : BitVec 14) (s : State) : Host.Outcome State Fault Refusal :=
  if scopes = 0 ∨ ¬ s.ready then ok s
  else
    let s := s.wrapFld RegF.glbRehangStsCommits 1
    ok (overList ((List.range 14).filter (fun k => scopes.getLsbD k)) (fun k s =>
      if s.scopePending k then
        (s.setScp k { s.scp k with held := some (s.snapshot k) }).setFld RegF.glbRehangStsHeld (setBits (s.fld RegF.glbRehangStsHeld) k 1 1)
      else s.takeSet k (s.snapshot k)) s)

/-- HELD_REHANG_EFFECT: the scope is complete and takes the held snapshot. -/
def execHeldRehangEffect (scope : Nat) (s : State) : Host.Outcome State Fault Refusal :=
  match (s.scp scope).held with
  | none => ok s
  | some t => if 14 ≤ scope ∨ s.scopePending scope then ok s else ok (s.takeSet scope t)

/-! ### Enabled units (R377) -/

/-- A program names a link port (spec/12 R462). -/
def Cert.namesLink (k : Cert) : Bool := !k.linkPorts.isEmpty

/-- The unit of an LK field is enabled. -/
def State.lockedFld (s : State) (r : Reg) (i : Nat) (f : Row) : Bool :=
  match r with
  | .btpCfg => if f.lo = 0 then decide (3 ≤ s.bootState) else s.progContexts.any (fun c => s.allotsPort c i)
  | .glbLfTable => s.progContexts.any (fun c => s.flag RegF.ctxCfgCompat c)
  | .lnkCfg => s.portUp i
  | .glbLinkCfg => s.progContexts.any (fun c => (s.cert c).namesLink)
  | _ => s.flag RegF.ctxCtlEnable i || s.cstate i == 5

/-! ### Writes (R9, R373, R457) -/

/-- The bits of a 64-bit word that an access covers: all of them, or the low or the high half. -/
def accessMask (off size : Nat) : Nat := if size = 8 then 2 ^ 64 - 1 else if off % 8 = 0 then 2 ^ 32 - 1 else (2 ^ 32 - 1) * 2 ^ 32

/-- The bits of a field in its word. -/
def Row.mask (f : Row) : Nat := (2 ^ f.w - 1) * 2 ^ f.lo

/-- The word that an access writes, at its place. -/
def accessWord (off size : Nat) (val : W64) : Nat := if size = 8 ∨ off % 8 = 0 then val.toNat else val.toNat * 2 ^ 32 % 2 ^ 64

/-- Clearing SPAN of a wing clears its SPAN_COUNT, and its output tiles count afresh (spec/03_exact_path.md, WING_ARITH_STS). -/
def State.clearSpans (s : State) (w : Nat) : State :=
  overList [2 * w, 2 * w + 1] (fun a s => if (s.array a).spans.isEmpty then s else s.setArray a { s.array a with spans := [] })
    (s.setFld RegF.wingArithStsSpanCount 0 w)

/-- Write the covered bits of one field by its class. Command and control fields have rows of their own. -/
def State.writeRow (s : State) (r : Reg) (i j mask v at' : Nat) (f : Row) (vf : Bool) : State :=
  let m := f.mask &&& mask
  let old := s.reg r i j
  let merged := (old - (old &&& m)) + (v &&& m)
  let closed := vf && (match r with | .ctxCfg => true | .ctxDep => true | _ => false)
  if m = 0 ∨ closed then s
  else
    match f.acc with
    | .st => s.setReg r i j merged
    | .lv => s.setReg r i j merged
    | .lk => if s.lockedFld r i f then s.setupIgnored at' else s.setReg r i j merged
    | .rw1c =>
      let s := s.setReg r i j (old - (old &&& (v &&& m)))
      if r = .wingArithSts ∧ f.lo = 0 ∧ (v &&& m) ≠ 0 then s.clearSpans i else s
    | _ => s

/-- Write a half of an entry of the staged protection table. -/
def State.writeStage (s : State) (i j mask v : Nat) : State :=
  let e : ProtEntry := Tbl.get {} s.protStage (16 * i + j / 2)
  let old := if j % 2 = 0 then bit e.valid + 2 * bit e.read + 4 * bit e.write + e.base * 2 ^ 16 else e.last * 2 ^ 16
  let w := (old - (old &&& mask)) + (v &&& mask)
  let e := if j % 2 = 0 then { e with valid := w.testBit 0, read := w.testBit 1, write := w.testBit 2, base := bits w 16 48 }
           else { e with last := bits w 16 48 }
  { s with protStage := Tbl.set {} s.protStage (16 * i + j / 2) e }

/-- Write a register word by the classes of its fields. RED_SM_CMD and RED_GRP_CMD act on an 8-byte write alone; a write of PWR_CFG may
change the level that is asked for. -/
def State.writeWord (s : State) (r : Reg) (i j off size : Nat) (val : W64) (at' : Nat) (vf : Bool) : State :=
  let m := accessMask off size
  let v := accessWord off size val
  match r with
  | .protStage => s.writeStage i j m v
  | .redSmCmd => if size = 8 then s.smCommand (bits v 16 14) (bits v 0 16) (bits v 32 4) (bits v 48 16) else s
  | .redGrpCmd => if size = 8 then s.grpCommand (bits v 16 14) (bits v 0 16) (bits v 32 4) else s
  | r =>
    let s := r.rows.foldl (fun s f => s.writeRow r i j m v at' f vf) s
    if r = .pwrCfg then s.syncPower else s

/-- BAR0 offers a register (spec/13 R359). -/
def State.offers (s : State) (r : Reg) : Bool :=
  s.ready || (decide (1 ≤ s.bootState) && (match r with
    | .glbStatus => true | .glbSetupIgn => true | .bootCtl => true | .bootSts => true | .bootProgress => true
    | .bootFuse => true | .bootFwDigest => true | .btpCfg => true | _ => false))

/-- SETUP_REGISTER_WRITE: an aligned write of 4 or 8 bytes to BAR0 of the PF, or to the context view of a VF. -/
def execSetupRegisterWrite (fn off size : Nat) (val : W64) (s : State) : Host.Outcome State Fault Refusal :=
  if (size ≠ 4 ∧ size ≠ 8) ∨ off % size ≠ 0 ∨ 63 < fn then ok s
  else if fn = 0 then
    match regAt (off / 8 * 8) with
    | none => ok s
    | some (r, i, j) => if s.offers r then ok (s.writeWord r i j off size val off false) else ok s
  else if 16384 ≤ off ∨ ¬ s.ready then ok s
  else
    match s.vfContext fn (off / 64) with
    | none => ok s
    | some c =>
      let pf := 0x300000 + 64 * c + off % 64
      match regAt (pf / 8 * 8) with
      | none => ok s
      | some (r, i, j) => ok (s.writeWord r i j pf size val pf true)

/-! ### The gallery aperture (spec/12 R331) -/

/-- The gallery address of an aperture offset; none beyond the last gallery address. -/
def State.apertureAddr (s : State) (off : Nat) : Option Nat :=
  let a := min 383 (s.fld RegF.glbBar4WinBase) * 2 ^ 20 + off
  if off < 0x8000000 ∧ a < galleryEnd then some a else none

/-- A gallery pair that reaches the bank of an address is free of every admitted program's allotments (spec/06 R156, R157). -/
def State.pairFree (s : State) (a : Nat) : Bool :=
  let w := galleryWing a
  let bank := a % 0x6000000 / 64 % 1024
  let l := (s.progContexts.map (fun c => (s.cert c).allots.filterMap (fun x => match x.res with
    | .galleryLane v lane => if v = w then some (lane, x.slot, max 1 x.frame) else none
    | _ => none))).flatten
  decide (l.length < 1024) || (List.range (l.foldl (fun m x => max m x.2.2) 1024)).any (fun cyc =>
    !l.any (fun x => x.1 == (bank + 65536 - cyc % 1024) % 1024 && x.2.1 == cyc % x.2.2))

/-- GALLERY_APERTURE_ACCESS: a write of 4 to 64 aligned bytes lands in the gallery; a read changes nothing. Where no pair is free the host's
access waits, and has to be sent again (log 50). -/
def execGalleryApertureAccess (off size : Nat) (data : Option (List Byte)) (s : State) : Host.Outcome State Fault Refusal :=
  if ¬ s.ready ∨ size ∉ [4, 8, 16, 32, 64] ∨ off % size ≠ 0 then ok s
  else
    match data, s.apertureAddr off with
    | some d, some a => if d.length = size ∧ s.pairFree a then ok (s.wr a d) else ok s
    | _, _ => ok s

/-! ### Hot reset (spec/13 R357) -/

/-- HOT_RESET: it acts as a function-level reset of the PF and keeps the firmware. -/
def execHotReset (s : State) : Host.Outcome State Fault Refusal :=
  if s.rail = .on then ok (s.resetFunction true 0) else ok s

end Sys2Proof.Machine
end

