-- ==== Sys2Proof/Machine/Boot.lean ====
section
/-! DEFINITION. Boot from the image window to READY (spec/13_boot_protection_setup.md R358 to R365), with the condition report
(spec/14_clocks_power_condition.md R396 to R402), stack training (spec/07_memory_tiers.md R193, R194) and the holdings
(spec/15_integrity_records_guarantees.md R416). -/

namespace Sys2Proof.Machine

/-! ### The image (R360 to R363) -/

def State.bootStep (s : State) (n : Nat) : State := s.setFld RegF.bootProgressStep n
def State.setBoot (s : State) (n : Nat) : State := s.setFld RegF.bootStsState n

/-- HOST_LINK_TRAINED: WAIT_IMAGE. -/
def execHostLinkTrained (s : State) : Host.Outcome State Fault Refusal :=
  if s.rail = .on ∧ s.boot.t0 ∧ s.bootState = 0 then ok ((s.setBoot 1).bootStep 3) else ok s

/-- IMAGE_WINDOW_WRITE: a write of BAR4 in WAIT_IMAGE; in the other states before READY it is ignored. -/
def execImageWindowWrite (off : Nat) (data : List Byte) (s : State) : Host.Outcome State Fault Refusal :=
  if s.rail = .on ∧ s.bootState = 1 ∧ off + data.length ≤ 2 ^ 28 then ok { s with img := Tbl.setRun 0 s.img off data } else ok s

/-- Bytes of the image window. -/
def State.imgBytes (s : State) (o n : Nat) : List Byte := Tbl.getRun 0 s.img o n
def State.imgLen (s : State) : Nat := leNat (s.imgBytes 8 4)
def State.imgKey (s : State) : Nat := leNat (s.imgBytes 7 1) % 4
def State.imgSvn (s : State) : Nat := leNat (s.imgBytes 12 4)

/-- The first header check that fails (R362); none where all hold. -/
def State.headerFault (s : State) : Option Nat :=
  if leNat (s.imgBytes 0 4) ≠ 0x38534A54 ∨ leNat (s.imgBytes 4 2) ≠ 1 then some 1
  else if s.imgLen % 64 ≠ 0 ∨ s.imgLen < 4096 ∨ 0x0F000000 < s.imgLen then some 2
  else if leNat (s.imgBytes 6 1) ≠ s.fld RegF.glbStatusGeneration then some 3
  else if (s.fld RegF.bootFuseKeyRevoked).testBit s.imgKey then some 4
  else if s.imgSvn < s.fld RegF.bootFuseSvnFloor then some 5
  else if 4 ≤ leNat (s.imgBytes 7 1) ∨ ¬ zeros (s.imgBytes 20 236) then some 6
  else none

/-- A GO ends with FW_REJECT: the window keeps its contents, and STATE is WAIT_IMAGE. -/
def State.fwReject (s : State) (reason : Nat) : State :=
  let s := ((s.setFld RegF.bootStsCode 0x30).setFld RegF.bootStsReason reason).setBoot 1
  let s : State := { s with boot := { s.boot with digest := none } }
  (s.bootStep 3).event uCustodian 0x0003 2 none [(16, 1, reason), (20, 4, s.fld RegF.bootStsAttempts)]

/-- GO: refused outside WAIT_IMAGE; else the header checks run. -/
def execGo (s : State) : Host.Outcome State Fault Refusal :=
  if s.rail ≠ .on then ok s
  else if s.bootState ≠ 1 then ok ((s.setFld RegF.bootStsGoRefused 1).setFld RegF.bootStsCode 0x31)
  else
    let s := s.incFld RegF.bootStsAttempts 1
    match s.headerFault with
    | some r => ok (s.fwReject r)
    | none =>
      let m := [0, 1, 2, 3].map (fun b => s.flag RegF.btpCfgMode b)
      let s : State := { s with boot := { s.boot with digest := none, svn := s.imgSvn, modes := m } }
      ok (((s.setBoot 2).bootStep 5).setFld RegF.bootProgressElapsedMs 0)

/-- IMAGE_DIGEST_COMPLETE: the SHA-384 of bytes 0 to IMAGE_LEN − 97. -/
def execImageDigestComplete (s : State) : Host.Outcome State Fault Refusal :=
  if s.rail = .on ∧ s.bootState = 2 ∧ s.boot.digest.isNone then
    let s : State := { s with boot := { s.boot with digest := some (sha384 (s.imgBytes 0 (s.imgLen - 96))) } }
    ok (s.bootStep 6)
  else ok s

/-- SIGNATURE_VERIFIED: the image is accepted into BRINGUP, or check 0x07 fails. -/
def execSignatureVerified (s : State) : Host.Outcome State Fault Refusal :=
  match s.boot.digest with
  | none => ok s
  | some d =>
    if s.rail ≠ .on ∨ s.bootState ≠ 2 then ok s
    else if ecdsaVerifies (nth [] s.fuse.vendorKeys s.imgKey) d (s.imgBytes (s.imgLen - 96) 96) then
      let s := overList (List.range 6) (fun i s => s.setFld RegF.bootFwDigestDigest (field d (8 * i) 8) i) s
      ok ((s.setBoot 3).bootStep 7)
    else ok (s.fwReject 7)

/-! ### Failure (R364) -/

/-- MSI-X vector 0 of the PF, with BOOT_CTL.IRQ_EN set. -/
def State.bootIrq (s : State) : State := if s.flag RegF.bootCtlIrqEn then s.msix 0 0 else s

/-- Boot fails. A recorder that has not been restored is restored first, so that its record reaches NOR. -/
def State.bootFail (s : State) (reason : Nat) : State :=
  let s := if s.evr.restored then s else s.restoreRecords
  let s := ((s.setFld RegF.bootStsCode 0x3F).setFld RegF.bootStsReason reason).setBoot 5
  let s := (s.setFld RegF.glbStatusFailed 1).event uCustodian 0x0002 4 none [(16, 1, reason)]
  ({ s with pwr := { s.pwr with computeOn := false } } : State).bootIrq

/-- BOOT_READY_TIMEOUT: no READY 6 s after GO. -/
def execBootReadyTimeout (s : State) : Host.Outcome State Fault Refusal :=
  if s.rail = .on ∧ (s.bootState = 2 ∨ s.bootState = 3) then ok ((s.setFld RegF.bootProgressElapsedMs 6000).bootFail 0x12) else ok s

/-! ### The start of the image (R358 steps 7 and 8, spec/14 R396 to R400) -/

/-- The valid copy of the report with the higher SEQ, and whether it is copy B. -/
def State.validReport (s : State) : Option (Report × Bool) :=
  let good := fun (c : Option Report) => c.filter (fun r => r.valid s.fuse.generation s.fuse.idKey)
  match good s.cond.copyA, good s.cond.copyB with
  | some a, some b => if a.seq < b.seq then some (b, true) else some (a, false)
  | some a, none => some (a, false)
  | none, some b => some (b, true)
  | none, none => none

/-- The report is read; where there is none, REPORT_LOST is set and the plan starts from no guard band. -/
def State.readReport (s : State) : State :=
  match s.validReport with
  | some (r, b) =>
    { s with cond := { s.cond with rep := { r with boots := r.boots + 1, lost := false }, useB := b,
                                   opBase := max s.cond.opBase r.opSeconds } }
  | none =>
    let s : State := { s with cond := { s.cond with rep := { boots := 1, lost := true }, useB := true } }
    s.event uCustodian 0x0004 2 none []

/-- A plan would retire all 15 states of a die (R398). -/
def State.allRetired (s : State) (corrected : List (Option Int)) (d : Nat) : Bool :=
  (List.range 15).all (fun k => decide (nth 0 s.fuse.vmax d < nth 0 (s.planDie corrected d).vPlan k))

/-- The dies that boot leaves out. -/
def State.findOutDies (s : State) (corrected : List (Option Int)) : List Nat :=
  [0, 1].filter (fun d => s.cond.rep.eol.getLsbD d || s.allRetired corrected d)

def State.dieOn (s : State) (d : Nat) : Bool := !s.boot.outDies.contains d

/-- The units that train show it. -/
def State.showTraining (s : State) : State :=
  let s := overList ((List.range 16).filter (fun p => s.dieOn (p / 8))) (fun p s => s.setFld RegF.lnkStsState 1 p) s
  let s := overList ((List.range 20).filter (fun k => s.dieOn (k / 10) && !s.cond.rep.stacksOut.getLsbD k)) (fun k s => s.setFld RegF.stkStsState 1 k) s
  overList ([0, 1, 2, 3].filter (fun b => s.dieOn (b / 2))) (fun b s => s.setFld RegF.btpStsState 1 b) s

/-- The fields marked FW take the values that their descriptions state (spec/00_scope.md R10): the image sets them as it starts, and again at READY,
where the holdings are known (log 98). -/
def State.firmwareFields (s : State) : State :=
  let s := overList (List.range 8) (fun a s => s.setFld RegF.wingMaCfgGateIdle 0x5E (a / 2) (a % 2)) s
  let s := overList (List.range 4) (fun w s => s.setFld RegF.wingVeHoldGroupPresent (s.holdByte (4 + w)) w) s
  let s := overList (List.range 4) (fun b s => s.setFld RegF.btpTimeoutTimeout 0x14 b) s
  let s := overList (List.range 16) (fun p s => (s.setFld RegF.lnkCfgRetryLimit 8 p).setFld RegF.lnkCfgEyeMin 0x14 p) s
  let s := (s.setFld RegF.kvaPageTimeoutTimeout 0x14).setFld RegF.glbLinkCfgDetachBound 0x32
  let s := (s.setFld RegF.pwrCfgSetpoint 0xAF0).setFld RegF.pwrCfgWindow 2
  let s := (s.setFld RegF.pwrCfgTjThrottle 0x5F).setFld RegF.pwrCfgDroopMv 0x28
  s.setFld RegF.glbWatchdogPeriod 0x28

/-- The set-up that firmware leaves is in force in every scope. -/
def State.firstSets (s : State) : State :=
  overList (List.range 14) (fun k s => s.setScp k { cur := s.snapshot k, prev := s.snapshot k }) s

/-- IMAGE_START: `corrected` are the corrected delays of the 256 condition monitors. -/
def execImageStart (cpllLock fpllLock : Bool) (corrected : List (Option Int)) (s : State) : Host.Outcome State Fault Refusal :=
  if s.rail ≠ .on ∨ s.bootState ≠ 3 ∨ s.boot.started then ok s
  else
    let s : State := { s with boot := { s.boot with started := true }, pwr := { s.pwr with cpll := cpllLock, fpll := fpllLock } }
    if ¬ (cpllLock ∧ fpllLock) then ok (s.bootFail 0x10)
    else
      let s : State := { s with time := 0, timeRun := true }
      let s := s.readReport
      let s : State := { s with boot := { s.boot with outDies := s.findOutDies corrected } }
      let s := s.plan corrected ([0, 1].filter (fun d => s.dieOn d))
      ok (((s.restoreRecords.bootStep 9).showTraining).firmwareFields.firstSets)

/-! ### Bring-up (R358 steps 9 and 10, R364) -/

/-- The four margins of a channel meet their limits: 0.30 UI in units of 1/128 UI, and 30 mV (spec/07 R194). -/
def marginOk (m : BitVec 32) : Bool :=
  decide (39 ≤ bits m.toNat 0 8 ∧ 39 ≤ bits m.toNat 8 8 ∧ 30 ≤ bits m.toNat 16 8 ∧ 30 ≤ bits m.toNat 24 8)

def chanMargin (l : List (List (BitVec 32))) (k c : Nat) : BitVec 32 := nth 0 (nth [] l k) c
def trainOk (l : List (List (BitVec 32))) (k : Nat) : Bool := (List.range 32).all (fun c => marginOk (chanMargin l k c))

/-- A stack passes at its first or its second training. -/
def stackPasses (f : Bringup) (k : Nat) : Bool := trainOk f.margins1 k || trainOk f.margins2 k

/-- Wings with their controller and their die. -/
def State.upWing (s : State) (f : Bringup) (w : Nat) : Bool := decide (w < 4) && f.wcOk.getLsbD w && s.dieOn (w / 2)

def State.upArray (s : State) (f : Bringup) (a : Nat) : Bool :=
  s.upWing f (a / 2) && f.arrays.getLsbD a && !s.cond.rep.arraysOut.getLsbD a
def State.upGroup (s : State) (f : Bringup) (g : Nat) : Bool :=
  s.upWing f (g / 8) && f.veGroups.getLsbD g && !s.cond.rep.veOut.getLsbD g
def State.upStack (s : State) (f : Bringup) (k : Nat) : Bool :=
  s.upWing f (k / 5) && stackPasses f k && !s.cond.rep.stacksOut.getLsbD k

/-- A board-tier port is present while either of its wings is. -/
def State.upBt (s : State) (f : Bringup) (b : Nat) : Bool :=
  f.btUp.getLsbD b && (s.upWing f (b / 2 * 2) || s.upWing f (b / 2 * 2 + 1))

/-- The mask of the units below n that are up. -/
def maskOf (n : Nat) (f : Nat → Bool) : Nat := ((List.range n).map (fun i => if f i then 2 ^ i else 0)).sum

/-- Some wing has its controller, an array, an engine group and a stack (R364). -/
def State.anyWing (s : State) (f : Bringup) : Bool :=
  (List.range 4).any (fun w => s.upWing f w && (s.upArray f (2 * w) || s.upArray f (2 * w + 1)) &&
    (List.range 8).any (fun g => s.upGroup f (8 * w + g)) && (List.range 5).any (fun k => s.upStack f (5 * w + k)))

/-- Arrays and engine groups that have failed built-in test at this boot, on the dies in service and not retired. -/
def State.arraysFailing (s : State) (f : Bringup) : BitVec 8 :=
  BitVec.ofNat 8 (maskOf 8 (fun a => s.dieOn (a / 4) && !s.cond.rep.arraysOut.getLsbD a && !f.arrays.getLsbD a))
def State.groupsFailing (s : State) (f : Bringup) : BitVec 32 :=
  BitVec.ofNat 32 (maskOf 32 (fun g => s.dieOn (g / 16) && !s.cond.rep.veOut.getLsbD g && !f.veGroups.getLsbD g))

/-- Units that boot leaves out, with the cause that their record gives: 1 built-in test, 2 training, 3 retired, 4 bring-up. -/
def State.unitsOut (s : State) (f : Bringup) : List (Nat × Nat) :=
  let r := s.cond.rep
  let pick := fun (n : Nat) (out bad : Nat → Bool) (unit : Nat → Nat) (cause : Nat) =>
    (List.range n).filterMap (fun i => if out i then some (unit i, 3) else if bad i then some (unit i, cause) else none)
  let no := fun (_ : Nat) => false
  pick 8 (fun a => r.arraysOut.getLsbD a) (fun a => (s.arraysFailing f).getLsbD a) uArray 1 ++
    pick 32 (fun g => r.veOut.getLsbD g) (fun g => (s.groupsFailing f).getLsbD g) (fun g => uEngine (8 * g)) 1 ++
    pick 4 no (fun w => s.dieOn (w / 2) && !f.wcOk.getLsbD w) uWing 1 ++
    pick 20 (fun k => r.stacksOut.getLsbD k) (fun k => s.dieOn (k / 10) && !stackPasses f k) uStack 2 ++
    pick 4 no (fun b => s.dieOn (b / 2) && !f.btUp.getLsbD b) uBt 4

/-- The record of each unit left out, and the retirement of what fails built-in test at two boots in a row (spec/14 R402). -/
def State.recordOut (s : State) (f : Bringup) : State :=
  let ba := s.arraysFailing f
  let bg := s.groupsFailing f
  let ra := ba &&& s.cond.arrayFails
  let rg := bg &&& s.cond.veFails
  let s := overList (s.unitsOut f) (fun u s => s.event uCustodian 0x0010 1 none [(16, 2, u.1), (18, 1, u.2)]) s
  let s : State := { s with cond := { s.cond with arrayFails := ba, veFails := bg } }
  if ra = 0 ∧ rg = 0 then s
  else s.writeReport { s.cond.rep with arraysOut := s.cond.rep.arraysOut ||| ra, veOut := s.cond.rep.veOut ||| rg }

/-- STK_MARGIN and STK_STS after training. -/
def State.showStacks (s : State) (f : Bringup) : State :=
  overList ((List.range 20).filter (fun k => s.dieOn (k / 10) && !s.cond.rep.stacksOut.getLsbD k)) (fun k s =>
    let again := !trainOk f.margins1 k
    let l := if again then f.margins2 else f.margins1
    let s := overList (List.range 32) (fun c s =>
      let m := chanMargin l k c
      s.setReg .stkMargin k c (m.toNat + 2 ^ 32 * bit (marginOk m) + 2 ^ 33 * bit again)) s
    s.setFld RegF.stkStsState (if s.upStack f k then 2 else if stackPasses f k then 0 else 4) k) s

/-- BTP_STS after bring-up, in the modes of BTP_CFG at GO (spec/07 R199). -/
def State.showBts (s : State) (f : Bringup) : State :=
  overList [0, 1, 2, 3] (fun b s =>
    let up := s.upBt f b
    let s := (s.setFld RegF.btpStsState (if up then 2 else 0) b).setFld RegF.btpStsMode (bit (nth false s.boot.modes b)) b
    let s := if up ∧ nth false s.boot.modes b then s.configureTb2 b else s
    s.setFld RegF.btpStsCapGib (if up then min 4096 (nth 0 f.btCap b) else 0) b) s

/-- The holdings code of a link port at READY. -/
def State.linkCode (s : State) (p : Nat) : Nat :=
  if s.fld RegF.lnkStsState p = 2 then 2 else if s.fld RegF.lnkStsState p = 3 then 1 else 0

/-- The holdings table (spec/15 R416). -/
def State.makeHoldings (s : State) (f : Bringup) : List Byte :=
  let near := maskOf 20 (fun k => s.upStack f k)
  let wings := maskOf 4 (fun w => s.upWing f w) + 2 ^ 4 * bit (s.dieOn 0) + 2 ^ 5 * bit (s.dieOn 1)
  let links := ((List.range 16).map (fun p => if s.upWing f (p / 4) then s.linkCode p * 4 ^ p else 0)).sum
  let bts := maskOf 4 (fun b => s.upBt f b) + 2 ^ 4 * maskOf 4 (fun b => nth false s.boot.modes b)
  leBytes 1 s.fuse.generation ++ leBytes 1 wings ++ leBytes 1 (maskOf 8 (fun a => s.upArray f a)) ++ leBytes 1 s.topState ++
    leBytes 4 (maskOf 32 (fun g => s.upGroup f g)) ++ leBytes 4 near ++ leBytes 4 links ++ leBytes 1 bts ++ leBytes 1 0 ++
    leBytes 2 s.retired ++ ([0, 1, 2, 3].map (fun b => leBytes 2 (s.fld RegF.btpStsCapGib b))).flatten ++
    leBytes 4 (128 * ((List.range 20).filter (fun k => s.upStack f k)).length) ++ leBytes 8 0 ++ List.replicate 24 0

/-- The gallery is written with zeros; the image window, which it backed, is empty. -/
def State.zeroGallery (s : State) : State :=
  let low := fun (l : List Nat) => l.filter (fun x => decide (galleryEnd ≤ 64 * x))
  { s with mem := s.mem.filter (fun c => decide (galleryEnd ≤ c.1)), poison := low s.poison, corrected := low s.corrected, img := [] }

/-- The error counts of stacks, board-tier ports and link ports, and the power counters with what the droop units and sensors keep, count from
READY (spec/07 STK_STS, STK_ECC, BTP_ERR, spec/11 LNK_ERR, spec/17_register_index.md R459). -/
def State.countFromReady (s : State) : State :=
  let s := s.clearPower
  let s := overList (List.range 20) (fun k s => (s.setReg .stkEcc k 0 0).setFld RegF.stkStsRetrains 0 k) s
  let s := overList (List.range 4) (fun b s => s.setReg .btpErr b 0 0) s
  overList (List.range 16) (fun p s => s.setReg .lnkErr p 0 0) s

/-- READY: the image's resident parts lie in the private memories (R365), the holdings are published, BTP_CFG.MODE is the mode brought up, firmware's values stand, the compute family runs unless the module
has tripped, and STATE is 4 (spec/17_register_index.md R459). -/
def State.becomeReady (s : State) (f : Bringup) : State :=
  let s := overList ((List.range 16).filter (fun p => !s.upWing f (p / 4))) (fun p s => s.setFld RegF.lnkStsState 0 p) s
  let s := (s.showStacks f).showBts f
  let s : State := { s.zeroGallery with hold := s.makeHoldings f, wcMem := some s.freeCtr, freeCtr := s.freeCtr + 1 }
  let s := overList [0, 1, 2, 3] (fun b s => s.setFld RegF.btpCfgMode (bit (nth false s.boot.modes b)) b) s
  let s := s.firmwareFields.firstSets
  let s : State := { s with pwr := { s.pwr with computeOn := !s.pwr.trip } }
  let s := (s.setBoot 4).setFld RegF.glbStatusReady 1
  let s := (s.bootStep 10).setFld RegF.bootProgressElapsedMs f.ms
  let s : State := { s with cond := { s.cond with readyAt := s.time } }
  let s := s.countFromReady.setLevel s.wanted
  (s.event uCustodian 0x0001 0 none [(16, 4, s.boot.svn), (20, 8, 0), (28, 4, f.ms)]).bootIrq

/-- BRINGUP_COMPLETE: what fails is left out, and boot goes on to READY or fails. -/
def execBringupComplete (f : Bringup) (s : State) : Host.Outcome State Fault Refusal :=
  if s.rail ≠ .on ∨ s.bootState ≠ 3 ∨ ¬ s.boot.started then ok s
  else
    let s : State := { s with cond := { s.cond with readyAt := s.time } }
    let s := s.recordOut f
    if f.fatal then ok ((s.setFld RegF.bootProgressElapsedMs f.ms).bootFail 0x13)
    else if ¬ s.anyWing f then ok ((s.setFld RegF.bootProgressElapsedMs f.ms).bootFail 0x11)
    else ok (s.becomeReady f)

end Sys2Proof.Machine
end

