-- ==== Sys2Proof/Machine/Contexts.lean ====
section
/-! DEFINITION. The commands of rings, descriptors and contexts (spec/12_rings_contexts_rota.md R332 to R350), but for loading and KV. -/

namespace Sys2Proof.Machine

/-! ### Doorbells (R332, R334, R335, R337) -/

/-- A function reaches the doorbell and the CTX_CTL of a context: the PF those of every context, a VF those of the contexts that its views
show (R330, R332, R333). -/
def State.fnReaches (s : State) (fn c : Nat) : Bool := fn == 0 || s.vfContext fn (s.fld RegF.ctxCfgVfSlot c) == some c

/-- Take a CQ_HEAD: held records may drain, and what a full hold kept back may start. -/
def State.takeCqHead (s : State) (c head : Nat) : State := ((s.setFld RegF.ctxCqStsCqHead head c).syncFull c).settle

/-- DOORBELL. -/
def execDoorbell (fn c off size : Nat) (val : W64) (s : State) : Host.Outcome State Fault Refusal :=
  if ¬ s.hostOn ∨ 16384 ≤ c ∨ ¬ s.fnReaches fn c ∨ 8 ≤ off ∨ ¬ s.flag RegF.ctxCtlEnable c ∨ s.cstate c = 5 ∨ s.cstate c = 0 then ok s
  else if off ≠ 0 ∨ size ≠ 8 then ok (s.setFld RegF.ctxStsBadDb 1 c)
  else
    let tail := bits val.toNat 0 32
    let head := bits val.toNat 32 32
    let old := s.fld RegF.ctxCqStsCqHead c
    let badHead := decide (dist32 old (s.fld RegF.ctxCqStsCqTail c) < dist32 old head)
    let badTail := decide (s.sqLen c < dist32 (s.fld RegF.ctxStsSqHead c) tail)
    if s.flag RegF.ctxStsRingErr c then ok (if badHead then s else s.takeCqHead c head)
    else if badHead ∨ badTail then
      ok (((s.setFld RegF.ctxStsRingErr 1 c).event uHost 0x0109 2 (some c) [(16, 4, tail), (20, 4, head)]).irq c)
    else ok ((s.updCx c (fun x => { x with sqTail := tail })).takeCqHead c head)

/-- DESCRIPTOR_FETCH: the next descriptor is fetched once, and a malformed one completes at once. Indices wrap (R335): a done descriptor that
had the same index is forgotten. -/
def execDescriptorFetch (c : Nat) (s : State) : Host.Outcome State Fault Refusal :=
  let i := s.fld RegF.ctxStsSqHead c
  if ¬ s.hostOn ∨ s.cstate c = 0 ∨ s.cstate c = 5 ∨ s.flag RegF.ctxStsRingErr c ∨ i = (s.cx c).sqTail ∨ s.holdFull c then ok s
  else
    let d : Desc := { idx := i, bytes := s.hrd (s.fld RegF.ctxSqBase c * 4096 + 64 * (i % s.sqLen c)) 64 }
    let s := s.setFld RegF.ctxStsSqHead (i + 1) c
    let s := s.updCx c (fun x => { x with descs := x.descs.filter (fun e => !(e.idx == i && e.st == .done)) ++ [d] })
    ok (match d.malformed with
      | some k => s.reject c i 0x80 k
      | none => s)

/-- NOP_DESCRIPTOR. -/
def execNopDescriptor (c i : Nat) (s : State) : Host.Outcome State Fault Refusal :=
  if s.canStart c i 0x00 then ok (s.finish c i .ok) else ok s

/-! ### RUN and ABORT (R340, R349) -/

/-- The tasks of an entry are at the start of their lives, and the prefetch lists at theirs (log 28). -/
def Prog.begin (p : Prog) (r : RunRt) (ts : List Nat) : Prog :=
  { p with run := some r, prefetchAt := [0, 0, 0, 0], prefetchDone := [],
           tasks := ts.foldl (fun m t => Tbl.set {} m t { inRun := true }) p.tasks }

/-- RUN: it acts in the context's own slots (R339). -/
def execRun (c i : Nat) (s : State) : Host.Outcome State Fault Refusal :=
  if ¬ s.canStart c i 0x03 then ok s
  else
    match s.desc c i, s.prog c with
    | some d, some p =>
      match p.cert.entries[d.f 8 2]? with
      | none => ok (s.reject c i 0x81 8)
      | some e =>
        if ¬ s.inSlot c then ok s
        else
        let seqs := (List.range (d.f 10 1 % 64)).map (fun k => leNat (s.hrd (d.f 16 8 + 4 * k) 4))
        let s := (s.startDesc c i).wr e.args ((d.bytes.drop 24).take 32)
        let s := s.updProg c (fun p => p.begin { desc := i, entry := d.f 8 2, seqList := seqs } e.tasks)
        ok s.settle
    | some _, none => ok (s.reject c i 0x09 0)
    | none, _ => ok s

/-- ABORT: on fetch, the context's earlier work ends with REVOKED. -/
def execAbort (c i : Nat) (s : State) : Host.Outcome State Fault Refusal :=
  match (s.desc c i).filter (fun d => d.st == .waiting && d.opcode == 0x04) with
  | none => ok s
  | some _ => ok ((s.contextAbort c (some i) .revoked s.abortDetail).finish c i .ok)

/-! ### COPY (R342, spec/15 R428) -/

/-- COPY: it starts in the context's own slots, under the present epoch. -/
def execCopy (c i : Nat) (s : State) : Host.Outcome State Fault Refusal :=
  if ¬ s.canStart c i 0x05 then ok s
  else if (s.prog c).isNone then ok (s.reject c i 0x09 0)
  else if ¬ s.inSlot c then ok s
  else ok (s.startDesc c i)

/-- COPY_COMPLETE: the bytes are copied as far as the context may reach and the tier gives them, in the context's own slots and through the
host-copy shares of its program. -/
def execCopyComplete (c i : Nat) (how : Ending) (s : State) : Host.Outcome State Fault Refusal :=
  match s.started c i 0x05 with
  | none => ok s
  | some d =>
    let n := d.f 24 4
    let r := s.rangeReach c d.epochOld (d.f 28 1 == 0) (d.f 16 8) n
    if ¬ s.inSlot c ∨ ¬ s.hostShares c (d.f 16 8) r.1 then ok s
    else
      let upTo := fun (f : Fail) (k : Nat) => ok (match r.2 with
        | some g => if r.1 ≤ min k n then (s.copyBytes d r.1).finish c i g.st g.detail
                    else (s.copyBytes d (min k n)).finish c i f.st f.detail
        | none => (s.copyBytes d (min k n)).finish c i f.st f.detail)
      match how with
      | .done => (match r.2 with
        | some f => ok ((s.copyBytes d r.1).finish c i f.st f.detail)
        | none => ok ((s.copyBytes d n).finish c i .ok (BitVec.ofNat 64 n)))
      | .tierError a k => upTo (Fail.addr .tierError a) k
      | .protFault a k => upTo (Fail.addr .protFault a) k
      | .streamFault a k => upTo (Fail.addr .streamFault a) k

/-! ### Completion records and interrupts (R344 to R346) -/

/-- COMPLETION_RECORD_WRITE: the oldest record goes to CQ_TAIL when the ring has space; it may fire an interrupt. -/
def execCompletionRecordWrite (c : Nat) (s : State) : Host.Outcome State Fault Refusal :=
  match (s.cx c).recs with
  | [] => ok s
  | r :: l =>
    if s.cqRingFull c ∨ s.cstate c = 0 then ok s
    else
      let t := s.fld RegF.ctxCqStsCqTail c
      let phase := t / s.cqLen c % 2 == 0
      let s := s.hwr (s.fld RegF.ctxCqBase c * 4096 + 32 * (t % s.cqLen c)) (r.bytes (s.fld RegF.ctxStsSqHead c) phase)
      let s := s.setFld RegF.ctxCqStsCqTail (t + 1) c
      let n := (s.cx c).irqCount + 1
      let now := r.interim || r.status != .ok || r.irqNow || decide (max 1 (s.fld RegF.ctxIrqCount c) ≤ n)
      let s := s.updCx c (fun x => { x with recs := l, irqCount := n, irqArmed := x.irqArmed || n == 1 })
      let s := s.syncFull c
      ok ((if now then s.irq c else s).settle)

/-- IRQ_HOLDOFF_EXPIRY: HOLDOFF µs after the first record that no interrupt covers. -/
def execIrqHoldoffExpiry (c : Nat) (s : State) : Host.Outcome State Fault Refusal :=
  if (s.cx c).irqArmed then ok ((s.updCx c (fun x => { x with irqArmed := false })).irq c) else ok s

/-- MSIX_VECTOR_UNMASK: a pending interrupt of the vector is sent. -/
def execMsixVectorUnmask (fn vector : Nat) (s : State) : Host.Outcome State Fault Refusal :=
  if 63 < fn ∨ (if fn = 0 then 2048 else 256) ≤ vector then ok s
  else
    let v := (fn, vector)
    ok { s with msixOpen := if v ∈ s.msixOpen then s.msixOpen else s.msixOpen ++ [v],
                msixPend := s.msixPend.filter (fun x => x != v),
                irqOut := if v ∈ s.msixPend then s.irqOut ++ [v] else s.irqOut }

/-! ### Enabling, disabling, aborting (R333, R334, R349) -/

/-- What makes a write of ENABLE be ignored. -/
def State.enableBad (s : State) (c : Nat) : Bool :=
  decide (10 < s.fld RegF.ctxSqOrder c ∨ 10 < s.fld RegF.ctxCqOrder c ∨ s.fld RegF.ctxSqBase c = 0 ∨ s.fld RegF.ctxCqBase c = 0) ||
    (s.wingsOf c).isEmpty || (s.wingsOf c).any (fun w => !s.hasWing w) || s.cstate c == 5

/-- CTX_ENABLE: only the PF writes ENABLE; a VF sees it read only. -/
def execCtxEnable (fn c : Nat) (s : State) : Host.Outcome State Fault Refusal :=
  if fn ≠ 0 ∨ 16384 ≤ c ∨ ¬ s.ready ∨ s.flag RegF.ctxCtlEnable c then ok s
  else if s.enableBad c then ok (s.setFld RegF.glbStatusSetupIgnored 1)
  else
    let s := s.setCx c {}
    let s := ((s.setFld RegF.ctxCtlEnable 1 c).setFld RegF.ctxStsSqHead 0 c).setFld RegF.ctxCqStsCqTail 0 c
    let s := ((s.setFld RegF.ctxCqStsCqHead 0 c).setFld RegF.ctxStsRingErr 0 c).setFld RegF.ctxStsCqFull 0 c
    ok ((s.setFld RegF.ctxStsState 1 c).setFld RegF.ctxStsOpen 0 c)

/-- CTX_DISABLE: a context abort, then an unload, with STATE 5 until both are done. -/
def execCtxDisable (fn c : Nat) (s : State) : Host.Outcome State Fault Refusal :=
  if fn ≠ 0 ∨ ¬ s.flag RegF.ctxCtlEnable c then ok s
  else
    let s := (s.setFld RegF.ctxCtlEnable 0 c).setFld RegF.ctxStsState 5 c
    ok (s.contextAbort c none .revoked s.abortDetail)

/-- CTX_DISABLE_DONE: the abort and the unload are done, what had started to act has ended by its own rules (R349), no release of a sequence is
left, and records without space are dropped. -/
def execCtxDisableDone (c : Nat) (s : State) : Host.Outcome State Fault Refusal :=
  if s.cstate c ≠ 5 ∨ (s.cx c).descs.any (fun d => d.st == .started) ∨ s.seqs.any (fun x => x.2.release.isSome && x.2.ctx == c) ∨ (¬ (s.cx c).recs.isEmpty ∧ ¬ s.cqRingFull c) then ok s
  else ok ((s.disableDone c).settle)

/-- CTX_CTL_ABORT. -/
def execCtxCtlAbort (fn c : Nat) (s : State) : Host.Outcome State Fault Refusal :=
  if ¬ s.fnReaches fn c ∨ s.cstate c = 0 ∨ s.cstate c = 5 then ok s
  else ok (s.contextAbort c none .revoked s.abortDetail)

/-! ### Function-level resets (R350) -/

/-- FUNCTION_LEVEL_RESET of a VF. -/
def execFunctionLevelReset (vf : Nat) (s : State) : Host.Outcome State Fault Refusal :=
  if vf = 0 ∨ 63 < vf then ok s else ok ((s.resetFunction false vf).settle)

/-- PF_FUNCTION_LEVEL_RESET: the same for every context; firmware stays. -/
def execPfFunctionLevelReset (s : State) : Host.Outcome State Fault Refusal := ok (s.resetFunction true 0)

end Sys2Proof.Machine
end

