-- ==== Sys2Proof/Machine/Supply.lean ====
section
/-! DEFINITION. The supply and the sideband pins: power-up, PERST_N, the fall of PWR_GOOD and the end of hold-up
(spec/16_module_electrical.md R446 to R450, spec/15_integrity_records_guarantees.md R426). -/

namespace Sys2Proof.Machine

/-! ### PERST_N (spec/13 R357, R358) -/

/-- PERST_N_ASSERT: a fundamental reset while the rails are on; without them, or during a power-down, the pin alone changes (R450). -/
def execPerstNAssert (s : State) : Host.Outcome State Fault Refusal :=
  let s : State := { s with pins := { s.pins with perst := true } }
  if s.rail = .on then ok s.fundamental else ok s

/-- PERST_N_DEASSERT: t0 where the rails are on. -/
def execPerstNDeassert (s : State) : Host.Outcome State Fault Refusal :=
  if ¬ s.pins.perst then ok s
  else
    let s : State := { s with pins := { s.pins with perst := false } }
    if s.rail = .on ∧ s.pins.pwrGood then ok s.startBoot else ok s

/-! ### Power-up (R447) -/

/-- INPUT_REACHES_40V: the hold-up bank charges. -/
def execInputReaches40v (s : State) : Host.Outcome State Fault Refusal :=
  let s : State := { s with pins := { s.pins with input := true } }
  if s.rail = .off then ok { s with rail := .charging, railTried := false } else ok s

/-- POWER_UP_DELAY_EXPIRY: the module honours PWR_EN from now on. -/
def execPowerUpDelayExpiry (s : State) : Host.Outcome State Fault Refusal :=
  if s.rail ≠ .charging then ok s else ok { s with rail := if s.pins.pwrEn then .rising else .ready }

/-- PWR_EN_ASSERT: the rails rise, where the module honours PWR_EN. -/
def execPwrEnAssert (s : State) : Host.Outcome State Fault Refusal :=
  if s.rail = .falling then ok s
  else
    let s : State := { s with pins := { s.pins with pwrEn := true } }
    if s.rail = .ready then ok { s with rail := .rising } else ok s

/-- RAILS_IN_REGULATION: PWR_GOOD is released; where a rail has failed every rail turns off, and the module tries once more. -/
def execRailsInRegulation (good : Bool) (s : State) : Host.Outcome State Fault Refusal :=
  if s.rail ≠ .rising then ok s
  else if good then
    let s : State := { s with rail := .on, railTried := false, pins := { s.pins with pwrGood := true } }
    ok (if s.pins.perst then s else s.startBoot)
  else if s.railTried then ok { s with rail := .off }
  else ok { s with rail := .ready, railTried := true }

/-! ### Power-down (R448, spec/15 R426) -/

/-- A fall of PWR_GOOD: POWER_LOSS is recorded, every context aborts without records, and every unit stops. The fall is a fundamental reset
(spec/13 R357), through which the recorder and its mirror go on. -/
def State.pwrFall (s : State) : State :=
  let s := s.event uRecorder 0x0400 1 none [(16, 8, s.evr.highest)]
  let s : State := { s with rail := .falling, pins := { s.pins with pwrGood := false }, evr := { s.evr with falling := true } }
  let l := s.liveCtx
  let s := overList l (fun c s => s.updCx c (fun x => { x with dropRecs := true })) s
  let s := s.abortContexts l .revoked s.abortDetail
  { s.fundamental with evr := s.evr }

/-- PWR_EN_DEASSERT: PWR_GOOD falls; rails that were still rising turn off. -/
def execPwrEnDeassert (s : State) : Host.Outcome State Fault Refusal :=
  if s.rail = .falling then ok s
  else
    let s : State := { s with pins := { s.pins with pwrEn := false } }
    if s.rail = .on then ok s.pwrFall
    else if s.rail = .rising then ok { s with rail := .ready }
    else ok s

/-- INPUT_UNDERVOLTAGE: the input has stayed below 38.0 V for 10 µs. -/
def execInputUndervoltage (s : State) : Host.Outcome State Fault Refusal :=
  let s : State := { s with pins := { s.pins with input := false } }
  if s.rail = .on then ok s.pwrFall
  else if s.rail = .falling then ok s
  else ok { s with rail := .off }

/-- PWR_GOOD_FALL: the carrier pulls PWR_GOOD low. -/
def execPwrGoodFall (s : State) : Host.Outcome State Fault Refusal := if s.rail = .on then ok s.pwrFall else ok s

/-- RECORDER_CLOSE: the recorder accepts no further record. -/
def execRecorderClose (s : State) : Host.Outcome State Fault Refusal :=
  if s.rail = .falling then ok { s with evr := { s.evr with closed := true } } else ok s

/-- MIRROR_STOP: the mirror starts no further write. It copies more records by then than the recorder can hold (R424, R426), so every record is
in NOR (R427). -/
def execMirrorStop (s : State) : Host.Outcome State Fault Refusal :=
  if s.rail = .falling ∧ s.evr.closed ∧ s.evr.mirrored then ok { s with evr := { s.evr with mirrorOff := true } } else ok s

/-- HOLDUP_END: the rails turn off; the module waits for a new assertion of PWR_EN, with its input, or for its input. -/
def execHoldupEnd (s : State) : Host.Outcome State Fault Refusal :=
  if s.rail = .falling ∧ s.evr.mirrorOff then
    let s := s.fundamental
    ok { s with rail := if s.pins.input then .ready else .off, pins := { s.pins with pwrEn := false } }
  else ok s

end Sys2Proof.Machine
end

