-- ==== Sys2Proof/Machine/Corridor.lean ====
section
/-! DEFINITION. The service corridor (spec/15_integrity_records_guarantees.md R433, R434, spec/16_module_electrical.md R454, spec/13
R359): the commands of the custodian on its three paths. -/

namespace Sys2Proof.Machine

/-- The number of a path in CORRIDOR_OP. -/
def pathNo : Path → Nat
  | .bar0 => 0
  | .pcie => 1
  | .smbus => 2

/-- The custodian answers on a path: from boot step 2, and in BAR0 from READY. -/
def State.answers (s : State) (path : Path) : Bool := s.rail == .on && s.boot.t0 && (path != .bar0 || s.ready)

/-- Send a reply: GLB_CORR_STS and GLB_CORR_DATA in BAR0, a message on the other paths; SMB_ALERT_N shows a message on SMBus. -/
def State.sendReply (s : State) (path : Path) (cmd : Nat) (st : Status) (data : List Byte) : State :=
  match path with
  | .bar0 =>
    let s := (s.setFld RegF.glbCorrStsDone 1).setFld RegF.glbCorrStsResult st.code
    overList (List.range 12) (fun i s => s.setFld RegF.glbCorrDataData (field (pad 96 data) (8 * i) 8) i) s
  | .pcie => { s with replies := s.replies ++ [⟨.pcie, cmd, st, data⟩] }
  | .smbus => { s with replies := s.replies ++ [⟨.smbus, cmd, st, data⟩], pins := { s.pins with smbAlert := true } }

/-- The CORRIDOR_OP record of a command. -/
def State.corridorOp (s : State) (path : Path) (cmd arg : Nat) : State :=
  s.event uCustodian 0x0402 1 none [(16, 1, cmd), (17, 1, pathNo path), (18, 2, arg)]

/-- A command with its record, its effect, and a reply without data. -/
def State.corridorDo (s : State) (path : Path) (cmd arg : Nat) (f : State → State) : State :=
  (f (s.corridorOp path cmd arg)).sendReply path cmd .ok []

/-- A record of an area, where its valid mark and its SEQ are those of its index (R423). -/
def State.recordAt (s : State) (area index : Nat) : Option EvRec :=
  if area = 0 then
    (if index < 4096 then some (Tbl.get {} s.evr.day index) else none).filter (fun e => decide (0 < e.seq ∧ e.seq % 4096 = index))
  else s.evr.acc[index]?

/-- READ_RECORD: the record, or UNIT_ABSENT. -/
def execReadRecord (path : Path) (area index : Nat) (s : State) : Host.Outcome State Fault Refusal :=
  if ¬ s.answers path then ok s
  else
    match s.recordAt area index with
    | some e => ok (s.sendReply path 1 .ok e.bytes)
    | none => ok (s.sendReply path 1 .unitAbsent [])

/-- The data of READ_SENSORS. -/
def State.sensorBytes (s : State) : List Byte :=
  leBytes 8 (s.reg .pwrSts 0 0) ++ leBytes 8 (s.reg .pwrAvg 0 0) ++ leBytes 4 (s.reg .pwrDie 0 0) ++ leBytes 4 (s.reg .pwrDie 1 0)

/-- READ_SENSORS. -/
def execReadSensors (path : Path) (s : State) : Host.Outcome State Fault Refusal :=
  if s.answers path then ok (s.sendReply path 2 .ok s.sensorBytes) else ok s

/-- FORCE_LOW: the module is at level 22. -/
def execForceLow (path : Path) (s : State) : Host.Outcome State Fault Refusal :=
  if s.answers path then ok (s.corridorDo path 3 0 (fun s => (s.force s.pwr.forceReg true).setLevel 22)) else ok s

/-- RELEASE_LOW: the hold of the corridor ends. -/
def execReleaseLow (path : Path) (s : State) : Host.Outcome State Fault Refusal :=
  if s.answers path then ok (s.corridorDo path 4 0 (fun s => s.force s.pwr.forceReg false)) else ok s

/-- ABORT_ALL: every context is aborted; before READY, FW_BUSY. -/
def execAbortAll (path : Path) (s : State) : Host.Outcome State Fault Refusal :=
  if ¬ s.answers path then ok s
  else if ¬ s.ready then ok (s.sendReply path 5 .fwBusy [])
  else ok (s.corridorDo path 5 0 (fun s => s.abortContexts s.liveCtx .revoked s.abortDetail))

/-- ISOLATE: the port is isolated; before READY, FW_BUSY. -/
def execIsolate (path : Path) (p : Nat) (s : State) : Host.Outcome State Fault Refusal :=
  if ¬ s.answers path then ok s
  else if ¬ s.ready then ok (s.sendReply path 6 .fwBusy [])
  else ok (s.corridorDo path 6 p (fun s => s.isolatePort p))

/-- READ_HOLDINGS: the table, all zero before READY. -/
def execReadHoldings (path : Path) (s : State) : Host.Outcome State Fault Refusal :=
  if s.answers path then ok ((s.corridorOp path 7 0).sendReply path 7 .ok (pad 64 s.hold)) else ok s

/-- RESET: the reply goes out, and a fundamental reset begins. -/
def execReset (path : Path) (s : State) : Host.Outcome State Fault Refusal :=
  if s.answers path then ok (s.corridorDo path 8 0 (fun s => s)).fundamentalReset else ok s

/-- READ_IDKEY: x, then y; before READY, FW_BUSY. -/
def execReadIdkey (path : Path) (s : State) : Host.Outcome State Fault Refusal :=
  if ¬ s.answers path then ok s
  else if ¬ s.ready then ok (s.sendReply path 9 .fwBusy [])
  else ok (s.sendReply path 9 .ok (pad 96 s.fuse.idKey))

end Sys2Proof.Machine
end

