-- ==== Sys2Proof/Machine/Kv.lean ====
section
/-! DEFINITION. The descriptors of the KV unit and the end of a page wait (spec/10_attention_kv.md R291, R296 to R298). -/

namespace Sys2Proof.Machine

/-! ### Waiting appends (R296, R354) -/

/-- Serve a waiting append after a grant with the pages that one flush needs: in its context's run the flush goes on; outside it, or
while another context's task holds the wing, the pages are taken and kept. -/
def State.serveWait (s : State) (k : KvWait) : State :=
  match s.kvWait.find? (fun x => x.seq == k.seq && x.ctx == k.ctx && x.task == k.task) with
  | none => s
  | some k =>
    if s.mayResume k then s.resumeWait k
    else
      match s.takePages k.ctx k.task k.seq 3 k.pages with
      | .done s => s
      | .wait s l => s.setWaitPages k l
      | .stuck s => s.setWaitPages k []
      | .fail s f => s.abortTask k.ctx k.task f.st f.detail

/-- Serve waiting appends in order: each takes the pages that one flush needs before the next is served, and then those that have resumed go on
in the same order (R296). -/
def State.serveWaits (s : State) (l : List KvWait) : State :=
  let s := overList l (fun k s => s.serveWait k) s
  overList l (fun k s => if (s.rt k.ctx k.task).st = .running then s.appendGo k.ctx k.task else s) s

/-- Waiting appends of a context: those of the named sequence first, then the others in the order in which they began to wait. -/
def State.waitOrder (s : State) (c n : Nat) : List KvWait :=
  let l := s.kvWait.filter (fun k => k.ctx == c)
  l.filter (fun k => k.seq == n) ++ l.filter (fun k => k.seq != n)

/-! ### KV_GRANT (R297, R298) -/

def Desc.pages (d : Desc) : List Nat := (List.range (d.f 12 1)).map (fun i => d.f (16 + 8 * i) 8)

/-- The first address of a grant that the context may not reach: a page, the pool record, or a list entry. -/
def State.grantRefused (s : State) (c : Nat) (l : List Nat) : Option Nat :=
  match l.find? (fun p => p % pageBytes != 0 || (match homeOf p with | .near _ => false | _ => true) || !s.reach c p pageBytes) with
  | some p => some p
  | none =>
    if ¬ s.reachAs c false (s.poolBase c) 64 then some (s.poolBase c)
    else ((List.range l.length).map (fun i => s.poolList c + 8 * (s.poolCount c + i))).find? (fun a => !s.reachAs c false a 8)

/-- KV_GRANT: the pages go onto the pool in list order, and then waiting sequences resume. -/
def execKvGrant (c i : Nat) (s : State) : Host.Outcome State Fault Refusal :=
  if ¬ s.canStart c i 0x21 then ok s
  else
    match s.desc c i with
    | none => ok s
    | some d =>
      let l := d.pages
      match s.grantRefused c l with
      | some a => ok (s.finish c i .protFault (BitVec.ofNat 64 a))
      | none =>
        if s.poolCapacity c < s.poolCount c + s.poolHeld c + l.length then ok (s.finish c i .streamFault)
        else
          let s := overList l (fun p s => s.pushPage c p false) s
          let s := s.serveWaits (s.waitOrder c (d.f 8 4))
          ok ((s.finish c i .ok).settle)

/-! ### KV_OPEN -/

/-- KV_OPEN: a root table of zeros, the lowest free vestibule slot, LEN 0. -/
def execKvOpen (c i : Nat) (s : State) : Host.Outcome State Fault Refusal :=
  if ¬ s.canStart c i 0x22 then ok s
  else
    match s.desc c i with
    | none => ok s
    | some d =>
      let n := d.f 8 4
      let w := d.f 12 1 % 4
      let fmt := d.f 12 1 / 4 % 32
      let h := d.f 13 1 % 128
      let dc := d.f 14 1 % 4
      let root := d.f 24 8
      if ¬ s.seqInRange c n ∨ ¬ (s.fld RegF.ctxCfgWings c).testBit w then ok (s.finish c i .protFault)
      else if root % pageBytes ≠ 0 ∨ ¬ s.reachAs c false root 16384 then ok (s.finish c i .protFault (BitVec.ofNat 64 root))
      else if (s.seqOf n).state ≠ .free ∨ ¬ seqGeometry fmt h dc then ok (s.finish c i .streamFault)
      else
        match s.freeVslot w with
        | none => ok (s.finish c i .noPage 1)
        | some v =>
          let s := s.wr root (List.replicate 16384 0)
          let s := s.setSeq n { state := .open, wing := w, fmt := fmt, h := h, dcode := dc, ctx := c, vslot := v,
                                scale := signed 16 (d.f 16 2), t := seqTokens fmt h dc, rootBase := root }
          ok (((s.syncKva w).finish c i .ok).settle)

/-! ### KV_RELEASE -/

/-- KV_RELEASE: the sequence is RELEASING until no task names it. -/
def execKvRelease (c i : Nat) (s : State) : Host.Outcome State Fault Refusal :=
  if ¬ s.canStart c i 0x23 then ok s
  else
    match s.desc c i with
    | none => ok s
    | some d =>
      let n := d.f 8 4
      let x := s.seqOf n
      if x.state = .free ∨ x.state = .releasing then ok (s.finish c i .streamFault)
      else if x.ctx ≠ c then ok (s.finish c i .protFault)
      else ok (((s.setSeq n { x with state := .releasing, release := some i }).startDesc c i).syncKva x.wing)

/-- A running, suspended or armed task names a sequence. -/
def State.seqNamed (s : State) (n : Nat) : Bool :=
  s.ctx.any (fun x => (s.runTasks x.1).any (fun t => (s.rt x.1 t).st.live &&
    (s.task x.1 t).seqRefs.any (fun r => s.seqRef x.1 r == some n)))

/-- The pages of a sequence: data pages in ascending logical page, then leaf pages in ascending root index. -/
def State.seqPages (s : State) (n : Nat) : List Nat :=
  let x := s.seqOf n
  (List.range x.flushed).map (fun lp => leNat (s.rd (s.leafEntry x lp) 8) / pageBytes * pageBytes) ++
    ((List.range 2048).filter (fun i => s.rootValid x (512 * i))).map (fun i => s.leafBase x (512 * i))

/-- The address of the pool that a release may not reach, if any. -/
def State.releaseRefused (s : State) (c n : Nat) : Option Nat :=
  if ¬ s.reachAs c false (s.poolBase c) 64 then some (s.poolBase c)
  else ((List.range n).map (fun i => s.poolList c + 8 * (s.poolCount c + i))).find? (fun a => !s.reachAs c false a 8)

/-- KV_RELEASE_FINISH: the pages go back and the sequence is FREE. -/
def execKvReleaseFinish (c seq : Nat) (s : State) : Host.Outcome State Fault Refusal :=
  let x := s.seqOf seq
  match x.release with
  | none => ok s
  | some i =>
    if x.state ≠ .releasing ∨ x.ctx ≠ c ∨ s.seqNamed seq then ok s
    else
      let l := s.seqPages seq
      match s.releaseRefused c l.length with
      | some a => ok (((s.freeSeq seq).finish c i .protFault (BitVec.ofNat 64 a)).settle)
      | none =>
        let s := overList l (fun p s => s.pushPage c p true) s
        ok (((s.freeSeq seq).finish c i .ok).settle)

/-! ### KV_PAGE_TIMEOUT, KVA_CNT_CLR -/

/-- KV_PAGE_TIMEOUT: a suspended append that has not taken every page it needs ends with NO_PAGE. -/
def execKvPageTimeout (c t : Nat) (s : State) : Host.Outcome State Fault Refusal :=
  match s.kvWait.find? (fun k => k.ctx == c && k.task == t) with
  | none => ok s
  | some k =>
    if s.waitFull k then ok s
    else
      let x := s.seqOf k.seq
      let s := s.incFld RegF.kvaCntNoPage 1 x.wing
      ok (s.failTask c t ⟨.noPage, BitVec.ofNat 64 (k.seq + 2 ^ 32 * x.len)⟩)

/-- KVA_CNT_CLR: every KVA_CNT and KVA_SKIP is zero. -/
def execKvaCntClr (s : State) : Host.Outcome State Fault Refusal :=
  if ¬ s.ready then ok s else ok (overList (List.range 4) (fun w s => (s.setReg .kvaCnt w 0 0).setReg .kvaSkip w 0 0) s)

end Sys2Proof.Machine
end

