-- ==== Sys2Proof/Machine/Link.lean ====
section
/-! DEFINITION. The transport (spec/11_ralda_link.md R314 to R327): data messages sent and received, credits, multicast detach and recall,
reduce contributions at combiners and owners, small traffic, aborts, barriers and time (spec/09_ledger_reduction_update.md R252 to R264). -/

namespace Sys2Proof.Machine

/-! ### Reduce contributions (R254, R319) -/

/-- The scale exponent of a contribution: of a chunk in its header, of an LI96 tile in the tile's header. -/
def contributionScale (g : RedGroup) (m : Msg) : Int := signed 16 (if g.wide then field m.payload 6 2 else field m.payload 2 2)

/-- A contribution: the header, the chunk it is for, the elements. A chunk of LI64 carries both in its bytes; LI96 counts by COUNT. -/
def contributionOf (g : RedGroup) (m : Msg) : ChunkHdr × Nat × List Nat :=
  let b := m.payload
  let h := if g.wide then ({ contribs := m.count } : ChunkHdr) else ChunkHdr.ofBytes b
  let j := if g.wide then m.index else field b 8 4
  let n := if g.wide then (b.length - 64) / 12 else min 2048 (field b 12 2)
  (h, j, (List.range n).map (fun i => field b (64 + g.elemLen * i) g.elemLen))

/-- The rank that owns chunk j of n chunks among `members`. -/
def ownerRank (members n j : Nat) : Nat := ((List.range members).find? (fun r => decide (j < ceilDiv ((r + 1) * n) (max 1 members)))).getD 0

/-- The destination of a chunk: by its owner's rank, or the one there is. -/
def RedGroup.destOf (g : RedGroup) (n j : Nat) : Option RedDest :=
  match g.dests[ownerRank g.members n j]? with
  | some d => some d
  | none => g.dests.head?

/-- The bytes of a merged contribution, with the fields of the message that named the chunk. -/
def mergedBytes (m : Msg) (a : ChunkAcc) : List Byte :=
  let b := m.payload
  a.hdr.bytes (field b 1 1) (signed 16 (field b 2 2)) (field b 4 4) (field b 8 4) (field b 12 2) ++ (a.elems.map (leBytes 8)).flatten

/-- A combiner has every contribution to a chunk: it sends one, towards the owner. -/
def State.combined (s : State) (c : Nat) (g : RedGroup) (n j : Nat) (m : Msg) (a : ChunkAcc) : State :=
  let s := s.updProg c (fun p => { p with products := p.products.filter (fun x => x.1 != accKey g.number j) })
  match g.destOf n j with
  | none => s
  | some d =>
    s.originate { kind := kReduce, hops := d.hops, dstWing := d.dstWing, dstDev := d.dstDev, queue := d.queue, route := d.route,
                  op := g.number, index := m.index, count := if g.wide then a.hdr.contribs else 0,
                  payload := if g.wide then m.payload.take 64 ++ (a.elems.map (leBytes 12)).flatten else mergedBytes m a }
      (((s.cert c).queues.find? (fun b => b.op == g.number)).map (fun b => (c, b.task)))

/-- The ledger entry that a group reduces. -/
def Cert.ledgerOfGroup (k : Cert) (g : Nat) : Option Nat := indexFrom (fun l => l.lgroup == g) k.ledgers 0

/-- The number of chunks of a group. -/
def Cert.groupChunks (k : Cert) (g : RedGroup) : Nat :=
  match k.ledgerOfGroup g.number with
  | some le => (nth {} k.ledgers le).chunks
  | none => match (k.productOf g.number).bind (fun r => r.product) with
    | some o => ceilDiv (o.rows * o.cols) g.chunkLen
    | none => g.members

/-- Take a contribution at its combiner or owner. -/
def State.contribute (s : State) (c : Nat) (g : RedGroup) (m : Msg) : State :=
  let k := contributionOf g m
  let n := (s.cert c).groupChunks g
  let bitsOf := 8 * g.elemLen
  let addTo := fun (s : State) =>
    (Tbl.get {} ((s.prog c).getD {}).products (accKey g.number k.2.1)).add bitsOf k.1 (contributionScale g m) k.2.2
  if g.combiner then
    let a := addTo s
    if g.expects ≤ a.hdr.contribs then s.combined c g n k.2.1 m a
    else s.updProg c (fun p => { p with products := Tbl.set {} p.products (accKey g.number k.2.1) a })
  else
    match (s.cert c).ledgerOfGroup g.number with
    | some le => (s.addContribution c le (4 * field m.payload 4 4 + field m.payload 1 1 % 4) k.2.1 k.1 (contributionScale g m) k.2.2).settle
    | none =>
      let a := addTo s
      let a := if g.full ≤ a.hdr.contribs then { a with reduced := true } else a
      (s.updProg c (fun p => { p with products := Tbl.set {} p.products (accKey g.number k.2.1) a })).settle

/-- A contribution that the reduction control takes: at a combiner whose group entry says so, and at the owner of its chunk of a ledger or of a
product. Any other goes to the queue, for a combiner's job that takes it with CWAIT (R319, log 69). -/
def State.controlled (s : State) (c : Nat) (m : Msg) : Bool :=
  let k := s.cert c
  let g := k.redGroup m.op
  k.groups.any (fun g => g.number == m.op) &&
    (g.combiner || (match k.ledgerOfGroup m.op with
      | some le => (nth {} k.ledgers le).owns (contributionOf g m).2.1
      | none => (k.productOf m.op).isSome))

/-- A task combines contributions of an operation by a job: a queue of its own with BIND 0 takes them (R316, R319). -/
def Cert.jobCombines (k : Cert) (t op : Nat) : Bool := k.queues.any (fun b => b.task == t && b.op == op && !b.toStream)

/-- A combiner's job takes an LI96 contribution: its COUNT adds to that of the message that the job sends on (R319). -/
def State.countWide (s : State) (c : Nat) (m : Msg) : State :=
  if ((s.cert c).redGroup m.op).wide then
    s.updProg c (fun p => { p with wideCounts := Tbl.upd 0 p.wideCounts (accKey m.op m.index) (fun n => n + m.count) })
  else s

/-- REDUCE at its receiver: a contribution is added and its slot is free at once; any other goes to its queue. -/
def State.receiveReduce (s : State) (p : Nat) (m : Msg) : State :=
  let x := s.rqueue m.dstWing m.queue
  if ¬ x.accepts m then s.discardMsg p m
  else if ¬ s.controlled x.ctx m then (s.countWide x.ctx m).deliver p m
  else
    let s := s.setRq m.dstWing m.queue (x.hear p m)
    (s.contribute x.ctx ((s.cert x.ctx).redGroup m.op) m).returnCredit m.dstWing m.queue 1

/-! ### Sending (R317, R318, R322, R323) -/

/-- The chunk that message n of a ledger's reduce stream carries, at the round's scale, with its header. -/
def State.ledgerMsg (s : State) (c le j : Nat) : List Byte :=
  let l := s.ledgerEnt c le
  let x := s.ledger c le
  let k := s.contribution l j (x.roundScale - x.lscale).toNat
  k.1.bytes x.round x.roundScale x.step j k.2.length ++ (k.2.map (leBytes 8)).flatten

/-- The status items of a chunk of a product, gathered from the conversions of every task into the buffer; the low part of a key is the
chunk's. -/
def State.prodStatus (s : State) (c key : Nat) : ChunkHdr :=
  (((s.prog c).getD {}).prodHdr.filter (fun x => x.1 % 2 ^ 64 == key)).foldl (fun h x => h.merge x.2) {}

/-- The chunk of a product that a tile of its ring carries: the tile's own header gives way to the chunk's, whose status items come from
the conversions into the buffer. -/
def State.productMsg (s : State) (c : Nat) (g : RedGroup) (j : Nat) (tile : List Byte) : List Byte :=
  let n := match (s.cert c).productOf g.number with
    | some r => (match r.product with | some o => min 2048 (o.rows * o.cols - 2048 * j) | none => 2048)
    | none => 2048
  let pay := (tile.drop 64).take (8 * n)
  let y := (List.range n).map (fun i => li64 (field pay (8 * i) 8))
  let h := s.prodStatus c (accKey g.number j)
  let h := { h with contribs := 1, cbreach := cbreachOf y, cexcess := cexcessOf y, nfdev := if h.nfcount = 0 then 0xFFFF else g.rank }
  h.bytes 0 (Hdr.ofBytes tile).scale 0 j n ++ pay

/-- The payload of message n of a send entry from the slot that holds it, and the state in which a product's header has been used. What a
combiner's job has merged goes as it lies in its slot. -/
def State.sendPayload (s : State) (c t : Nat) (e : SendEntry) (n : Nat) (slot : List Byte) : List Byte × State :=
  if e.kind ≠ .reduce then (slot, s)
  else
    let g := (s.cert c).redGroup e.op
    if g.wide ∨ ((s.cert c).productOf e.op).isNone ∨ (s.cert c).jobCombines t e.op then (slot, s)
    else
      let j := e.chunkFirst + n
      (s.productMsg c g j slot, s.updProg c (fun p => { p with prodHdr := p.prodHdr.filter (fun x => x.1 % 2 ^ 64 != accKey g.number j) }))

/-- The kind of a send entry's messages. -/
def SendEntry.msgKind (e : SendEntry) : Nat :=
  match e.kind with | .unicast => kWrite | .multicast => kMcast | .reduce => kReduce

/-- The COUNT of message n of a send entry: an LI96 contribution counts those that this member makes and those that its job has combined. -/
def State.msgCount (s : State) (c : Nat) (e : SendEntry) (kind n : Nat) : Nat :=
  let g := (s.cert c).redGroup e.op
  if kind = kReduce ∧ g.wide then g.own + Tbl.get 0 ((s.prog c).getD {}).wideCounts (accKey e.op n) else 0

/-- Send message n of an entry to a receiver: on its port, or, for a reduction that this device owns itself, to its own queue. -/
def State.sendData (s : State) (c t : Nat) (e : SendEntry) (p kind n : Nat) (pay : List Byte) : State :=
  let m := { s.sendEntryMsg e p kind n pay with count := s.msgCount c e kind n }
  let s := if m.count = 0 then s else s.updProg c (fun p => { p with wideCounts := Tbl.set 0 p.wideCounts (accKey e.op n) 0 })
  if s.ownReduce e then s.receiveReduce (e.out p) m else s.sendMsg (e.out p) m (some (c, t))

/-- The list entry that a recall reads next: its index and its address. -/
def State.recallAt (s : State) (c t k p : Nat) : Nat × Nat :=
  let e := nth {} (s.task c t).sends k
  let n := Tbl.get 0 (s.sendSt c t k).recalling p - 1
  (n, (((s.task c t).streams.find? (fun y => y.unit == e.srcUnit)).getD {}).listBase + 16 * n)

/-- The recall unit reaches the list entry and the tile that it names in the task's slots (R18). -/
def State.recallReach (s : State) (c t k p : Nat) : Bool :=
  let q := s.asker c t (uStream (128 * (s.task c t).wing + (nth {} (s.task c t).sends k).recallUnit))
  let l := (s.recallAt c t k p).2
  s.slotted q l 16 && s.slotted q (ListEntry.ofBytes (s.rd l 16)).addr tileBytes

/-- Why the recall unit can not read a list entry or its tile: as for an in-stream (R182, R186, R207). -/
def State.recallFail (s : State) (c t u n l a : Nat) : Option (Fail × State) :=
  let old := (s.rt c t).epochOld
  let bad := fun (a : Nat) => some (Fail.addr .streamFault a, s.evStream (uStream u) c a n)
  let prot := fun (a : Nat) => some (Fail.addr .protFault a, s)
  if isFlash l ∨ ¬ s.allows c old false l 16 then prot l
  else if s.poisoned l 16 then bad l
  else
    match homeOf a with
    | .gallery => prot a
    | .nowhere => prot a
    | .flash _ => if ¬ s.flag RegF.ctxCfgCompat c ∨ ¬ s.allows c old false a recordBytes then prot a
        else if flashOff a % 4096 ≠ 0 then bad a else none
    | .board _ => if ¬ s.allows c old false a tileBytes then prot a
        else if s.poisoned a tileBytes then some (s.poisonFail a, s.evTier (uStream u) (some c) a 1) else none
    | .near _ => if ¬ s.allows c old false a tileBytes then prot a
        else if s.poisoned a tileBytes then some (s.poisonFail a, s.evStream (uStream u) c a n) else none

/-- A recall's next message: the source is read again from its list (R323), from legacy flash once its record has landed. -/
def State.sendRecall (s : State) (c t k p : Nat) : State :=
  let e := nth {} (s.task c t).sends k
  let x := s.sendSt c t k
  let r := s.recallAt c t k p
  let a := (ListEntry.ofBytes (s.rd r.2 16)).addr
  let u := 128 * (s.task c t).wing + e.recallUnit
  let send := fun (s : State) (img : List Byte) =>
    (s.setSend c t k { x with recalling := Tbl.set 0 x.recalling p (r.1 + 2), credits := Tbl.upd 0 x.credits p (fun y => y - 1) }).sendData
      c t e p kWrite r.1 img
  match s.recallFail c t u r.1 r.2 a with
  | some f => f.2.failTask c t f.1
  | none =>
    if isFlash a then
      match s.readFor (fun y => y.stream == some (u, r.1) && y.addr == a) with
      | some y => if y.2.ready then send (s.dropRead y.1 y.2.cid) (y.2.data.take tileBytes) else s
      | none => (s.flashRead a (some (u, r.1)) none).getD s
    else send s (s.rd a tileBytes)

/-- A send entry has a slot of its allotment on a port, and its wing reaches the port (R14, R18); a reduction that this device sends to itself
uses no link. -/
def State.sendSlot (s : State) (c t : Nat) (e : SendEntry) (p : Nat) : Bool :=
  let q := s.asker c t (uPort (e.out p)) (some e.allot)
  s.ownReduce e || (s.netOk q (portWing (e.out p)) && s.hasSlot q (.linkSend (e.out p)))

/-- TRANSPORT_SEND: in an allotted slot, send the next message of an entry to a receiver for which it holds a credit. The network port reads
the source ring in the task's gallery pairs (R157), and no receiver is ahead of the slowest by more than the ring holds (R322). -/
def execTransportSend (c t k p : Nat) (s : State) : Host.Outcome State Fault Refusal :=
  match (s.task c t).sends[k]? with
  | none => ok s
  | some e =>
    let x := s.sendSt c t k
    let n := Tbl.get 0 x.nexts p
    let u := 128 * (s.task c t).wing + e.srcUnit
    let y := s.stream u
    if ¬ s.running c t ∨ p ∉ e.receivers ∨ ¬ s.portUp (e.out p) ∨ Tbl.get 0 x.credits p = 0 ∨ ¬ s.sendSlot c t e p then ok s
    else if x.isDetached p then
      ok (if Tbl.get 0 x.recalling p = 0 ∨ x.recallEnded.contains p ∨ e.count < Tbl.get 0 x.recalling p ∨ ¬ s.recallReach c t k p then s
        else s.sendRecall c t k p)
    else if e.count ≤ n then ok s
    else
      let st := { x with nexts := Tbl.set 0 x.nexts p (n + 1), credits := Tbl.upd 0 x.credits p (fun y => y - 1) }
      match e.ledger with
      | some le => ok ((s.setSend c t k st).sendData c t e p kReduce n (s.ledgerMsg c le (e.chunkFirst + n)))
      | none =>
        let i := y.tileSlot n
        let before := s.leastNext c t k
        if ¬ y.held ∨ ¬ (y.slot i).isFull ∨ before + y.slots.length ≤ n ∨ ¬ s.slotted (s.asker c t (uWing (s.task c t).wing)) (y.slotAddr i) tileBytes then ok s
        else
          let r := s.sendPayload c t e n (s.rd (y.slotAddr i) tileBytes)
          let s := r.2.setSend c t k st
          ok ((s.sendData c t e p e.msgKind n r.1).spendSent c t k before)

/-- MCAST_DETACH: a receiver has kept a ready message waiting for its credit beyond the detach bound. -/
def execMcastDetach (c t k p : Nat) (s : State) : Host.Outcome State Fault Refusal :=
  match (s.task c t).sends[k]? with
  | none => ok s
  | some e =>
    let x := s.sendSt c t k
    let n := Tbl.get 0 x.nexts p
    let y := s.stream (128 * (s.task c t).wing + e.srcUnit)
    if ¬ s.running c t ∨ e.kind ≠ .multicast ∨ p ∉ e.receivers ∨ x.isDetached p ∨ Tbl.get 0 x.credits p ≠ 0 ∨ e.count ≤ n ∨
        ¬ (y.slot (y.tileSlot n)).isFull then ok s
    else ok ((s.detachAt c t k p false).sendMsg p (s.sendEntryMsg e p kDetach n []))

/-- RECALL_LIMIT_EXPIRY: a recall not done 2 ms after the detach fails; the receiving task hears it by an ABORT. One whose last
message has arrived has succeeded. -/
def execRecallLimitExpiry (c t k p : Nat) (s : State) : Host.Outcome State Fault Refusal :=
  match (s.task c t).sends[k]? with
  | none => ok s
  | some e =>
    let x := s.sendSt c t k
    if ¬ s.running c t ∨ ¬ x.isDetached p ∨ x.recallEnded.contains p then ok s
    else if s.recallDone c t k p then ok (s.setSend c t k { x with recallEnded := addLine x.recallEnded p })
    else
      let s := (s.setSend c t k { x with recallEnded := addLine x.recallEnded p }).incFld RegF.lnkCntRecallFails 1 p
      ok (s.sendMsg p (s.sendEntryMsg e p kAbort 0 (abortPayload .mcastDetached 0)))

/-! ### Receiving: each command takes the next message of its kind at a port -/

/-- Take the next message of a kind at a port; one with links still to take is forwarded, and one that the device may not take yet waits. -/
def State.receive (s : State) (p kind : Nat) (f : Msg → State → State) (may : Msg → Bool := fun _ => true) : Host.Outcome State Fault Refusal :=
  if 16 ≤ p ∨ ¬ s.portUp p then ok s
  else
    match s.takeMsg p kind with
    | none => ok s
    | some (m, t) => ok (if m.hop < m.hops then t.forward p m else if may m then f m t else s)

/-- WRITE. -/
def execWrite (p : Nat) (s : State) : Host.Outcome State Fault Refusal := s.receive p kWrite (fun m s => s.deliver p m) s.mayDeliver

/-- MCAST. -/
def execMcast (p : Nat) (s : State) : Host.Outcome State Fault Refusal := s.receive p kMcast (fun m s => (s.deliver p m).settle) s.mayDeliver

/-- REDUCE. -/
def execReduce (p : Nat) (s : State) : Host.Outcome State Fault Refusal := s.receive p kReduce (fun m s => s.receiveReduce p m) (fun m =>
  s.controlled (s.rqueue m.dstWing m.queue).ctx m || s.mayDeliver m)

/-- CREDIT: of a multicast the receiver is the port's peer, else it is the sender of the message. -/
def execCredit (p : Nat) (s : State) : Host.Outcome State Fault Refusal :=
  s.receive p kCredit (fun m s =>
    overList (s.sendsOf m.op) (fun y s =>
      let e := nth {} (s.task y.1 y.2.1).sends y.2.2
      if e.kind = .multicast then (if p ∈ e.receivers then s.takeCredit y.1 y.2.1 y.2.2 p m.count else s)
      else if e.target = m.srcDev then s.takeCredit y.1 y.2.1 y.2.2 0 m.count
      else s) s)

/-- DETACH: the receiver answers with a RECALL from D, in a data slot of the queue's task (R309). -/
def execDetach (p : Nat) (s : State) : Host.Outcome State Fault Refusal :=
  s.receive p kDetach (fun m s =>
    let x := s.rqueue m.dstWing m.queue
    if x.accepts m then
      s.sendMsg p { kind := kRecall, hops := 1, hop := 1, dstWing := m.dstWing, srcDev := s.fld RegF.glbLinkCfgDevId, dstDev := m.srcDev,
                    queue := m.queue, route := BitVec.ofNat 20 p, op := m.op, count := m.index } (some (x.ctx, x.bind.task))
    else s.discardMsg p m)

/-- RECALL: the sender begins to send again from the first missing index. -/
def execRecall (p : Nat) (s : State) : Host.Outcome State Fault Refusal :=
  s.receive p kRecall (fun m s =>
    overList (s.sendsOf m.op) (fun y s =>
      let x := s.sendSt y.1 y.2.1 y.2.2
      if x.isDetached p ∧ ¬ x.recallEnded.contains p ∧ Tbl.get 0 x.recalling p = 0 then
        s.setSend y.1 y.2.1 y.2.2 { x with recalling := Tbl.set 0 x.recalling p (m.count + 1) }
      else s) s)

/-! ### Barriers (R327) -/

/-- The barrier tasks of admitted programs with a number. -/
def State.barriers (s : State) (op : Nat) : List (Nat × Nat × BarrierEntry) :=
  (s.ctx.map (fun x => match x.2.prog with
    | some g => g.cert.tasks.zipIdx.filterMap (fun k => match k.1.barrier with
      | some b => if b.barrier = op then some (x.1, k.2, b) else none
      | none => none)
    | none => [])).flatten

/-- ARRIVE of a use from a child. -/
def execArrive (p : Nat) (s : State) : Host.Outcome State Fault Refusal :=
  s.receive p kArrive (fun m s =>
    (overList ((s.barriers m.op).filter (fun y => y.2.2.children.getLsbD p)) (fun y s =>
      s.updProg y.1 (fun g => { g with arrived := Tbl.upd 0 g.arrived (y.2.1 * 2 ^ 32 + m.index) (fun a => a ||| 2 ^ p) })) s).settle)

/-- TOKEN: the release time is fixed and goes on to the children; a token that comes after it counts. -/
def execToken (p : Nat) (s : State) : Host.Outcome State Fault Refusal :=
  s.receive p kToken (fun m s =>
    overList ((s.barriers m.op).filter (fun y => !y.2.2.root && y.2.2.parent == p && s.barUse y.1 y.2.1 == m.index)) (fun y s =>
      match (s.rt y.1 y.2.1).bar with
      | none => s
      | some x =>
        let s := if m.time < s.time then s.incFld RegF.glbTimeStsLateTokens 1 else s
        let s := s.updRt y.1 y.2.1 (fun r => { r with bar := some { x with release := some (max m.time s.time) } })
        s.sendTree (portsOf y.2.2.children) { kind := kToken, op := m.op, index := m.index, time := m.time }) s)

/-! ### Small traffic and abort marks (R256, R320, R321) -/

/-- The ledger entries of admitted programs whose LGROUP is a group. -/
def State.ledgersOfGroup (s : State) (op : Nat) : List (Nat × Nat) :=
  (s.ctx.map (fun x => match x.2.prog with
    | some g => (match g.cert.ledgerOfGroup op with | some le => [(x.1, le)] | none => [])
    | none => [])).flatten

/-- The admitted programs with a task of small traffic of a group, and the task that runs it in the RUN in progress. -/
def State.smallsOfGroup (s : State) (op : Nat) : List (Nat × Option Nat) :=
  (s.ctx.filter (fun x => match x.2.prog with
    | some g => g.cert.tasks.any (fun k => k.small == some op)
    | none => false)).map (fun x => (x.1, (s.runTasks x.1).find? (fun t => (s.task x.1 t).small == some op && (s.rt x.1 t).st == .running)))

/-- Words of small traffic beside ledger steps: a child's are merged; the parent's are final and go down the tree (R320). -/
def State.takeSmall (s : State) (p c : Nat) (task : Option Nat) (m : Msg) : State :=
  let g := (s.cert c).redGroup m.op
  let x := s.smallRt c m.op
  if g.children.getLsbD p then
    s.setSmall c m.op { x with vals := maxWords x.vals (smallWords m.payload), heard := x.heard ||| BitVec.ofNat 16 (2 ^ p) }
  else
    match task with
    | some t => if g.rank ≠ 0 ∧ g.parent = p ∧ x.sentUp then
        (s.sendTree (portsOf g.children) { kind := kSmall, op := m.op, payload := m.payload }).smallEnd c t g (smallWords m.payload) else s
    | none => s

/-- SMALL: a child's summary is merged; the parent's is final, gives the verdict and goes down the tree. The maxima of R56 travel so as well. -/
def execSmall (p : Nat) (s : State) : Host.Outcome State Fault Refusal :=
  s.receive p kSmall (fun m s =>
    let s := overList (s.smallsOfGroup m.op) (fun y s => s.takeSmall p y.1 y.2 m) s
    (overList (s.ledgersOfGroup m.op) (fun y s =>
      let g := (s.cert y.1).redGroup m.op
      let x := s.ledger y.1 y.2
      let t := Summary.ofBytes m.payload
      if g.children.getLsbD p then
        s.setLedger y.1 y.2 { x with kids := x.kids.merge t, heard := x.heard ||| BitVec.ofNat 16 (2 ^ p) }
      else if g.rank ≠ 0 ∧ g.parent = p ∧ x.sentUp ∧ x.verdict.isNone then
        (s.sendTree (portsOf g.children) { kind := kSmall, op := m.op, payload := m.payload }).judge y.1 y.2 t
      else s) s).settle)

/-- The tasks of a ledger step that have not ended. -/
def State.stepTasks (s : State) (c le : Nat) : List Nat :=
  (s.runTasks c).filter (fun t => !(s.rt c t).st.ended && (s.ledgersOfTask c t).contains le)

/-- The tasks of a ledger step in the RUN that a mark from a rank has ended. -/
def State.markedTasks (s : State) (c le rank : Nat) : List Nat :=
  (s.runTasks c).filter (fun t => (s.rt c t).st == .aborted && (s.rt c t).remote && (s.rt c t).detail == BitVec.ofNat 64 rank &&
    (s.ledgersOfTask c t).contains le)

/-- An abort mark: the one from the lowest rank stands; it goes on over the tree, and this device's tasks of the step abort. -/
def State.takeMark (s : State) (p c le : Nat) (st : Status) (rank : Nat) : State :=
  let x := s.ledger c le
  if (match x.mark with | some m => decide (m.2 ≤ rank) | none => false) then s
  else
    let s := (s.setLedger c le { x with mark := some (st.code, rank) }).sendMark c le st rank (some p)
    let s := s.undoUpdates c le st.code
    let s := match x.mark with
      | some m => overList (s.markedTasks c le m.2) (fun t s =>
          overList (s.task c t).updGroups (fun g s => s.setLastStatus c g st.code)
            (s.updRt c t (fun r => { r with status := st, detail := BitVec.ofNat 64 rank }))) s
      | none => s
    overList (s.stepTasks c le) (fun t s => s.abortTask c t st (BitVec.ofNat 64 rank) true) s

/-- The tasks whose receive queues take an operation. -/
def State.receiversOf (s : State) (op : Nat) : List (Nat × Nat) :=
  (s.rq.filter (fun x => x.2.held && x.2.bind.op == op)).map (fun x => (x.2.ctx, x.2.bind.task))

/-- The tasks of small traffic of a group whose tree has a port. -/
def State.smallsAt (s : State) (p op : Nat) : List (Nat × Nat) :=
  ((s.ctx.map (fun x => x.1)).map (fun c => ((s.runTasks c).filter (fun t => (s.task c t).small == some op && (s.smallPorts c t).contains p)).map
    (fun t => (c, t)))).flatten

/-- ABORT: a ledger mark, the end of a receiving or sending task, or a multicast receiver that is lost. -/
def execAbortMessage (p : Nat) (s : State) : Host.Outcome State Fault Refusal :=
  s.receive p kAbort (fun m s =>
    let st := Status.ofCode (field m.payload 0 1)
    let rank := field m.payload 2 2
    let d := BitVec.ofNat 64 m.srcDev
    let marks := if field m.payload 1 1 = 1 then (s.ledgersOfGroup m.op).filter (fun y => ((s.cert y.1).redGroup m.op).treePorts.contains p) else []
    if ¬ marks.isEmpty then (overList marks (fun y s => s.takeMark p y.1 y.2 st rank) s).settle
    else
      let s := overList (s.receiversOf m.op ++ s.smallsAt p m.op) (fun y s => s.abortTask y.1 y.2 st d true) s
      (overList (s.sendsOf m.op) (fun y s =>
        let e := nth {} (s.task y.1 y.2.1).sends y.2.2
        if e.kind = .multicast then (if p ∈ e.receivers then s.dropReceiver y.1 y.2.1 y.2.2 p else s)
        else if e.target = m.srcDev ∨ st = .unitAbsent then s.abortTask y.1 y.2.1 st d true
        else s) s).settle)

/-! ### Device time (R325) -/

/-- SYNC: its stamps are kept; one that does not come from the upstream port is answered. -/
def execSync (p stamp : Nat) (s : State) : Host.Outcome State Fault Refusal :=
  s.receive p kSync (fun m s =>
    if s.flag RegF.glbTimeCfgUpValid ∧ s.fld RegF.glbTimeCfgUpstream = p ∧ ¬ s.flag RegF.glbTimeCfgMaster then
      { s with syncStamps := [16 * m.time, stamp] }
    else
      s.sendMsg p { kind := kSync, hops := 1, hop := 1, srcDev := s.fld RegF.glbLinkCfgDevId, dstDev := m.srcDev,
                    route := BitVec.ofNat 20 p, time := s.time })

/-- The rate that removes an offset in 1/16 tick over the next period, within 200 ppm, in 1/16 tick per period. -/
def syncRate (off : Int) (period : Nat) : Int := max (-(80 * period : Nat)) (min (80 * period : Nat) off)

/-- The time is set once to the upstream value, which adds nothing to the operating time (spec/14_clocks_power_condition.md R396). -/
def State.stepTime (s : State) (t : Nat) : State :=
  { s with timeSet := true, time := t, rate := 0, cond := { s.cond with readyAt := s.cond.readyAt + (t - s.time) } }

/-- TIME_SYNC_EXCHANGE: the four stamps of an exchange in 1/16 tick. The time never runs backward (log 47). -/
def execTimeSyncExchange (t1 t2 t3 t4 : Int) (s : State) : Host.Outcome State Fault Refusal :=
  if s.flag RegF.glbTimeCfgMaster ∨ ¬ s.flag RegF.glbTimeCfgUpValid ∨ ¬ s.portUp (s.fld RegF.glbTimeCfgUpstream) ∨ ¬ s.timeRun then ok s
  else
    let off := ((t2 - t1) - (t4 - t3)) / 2
    let good := decide (-16 ≤ off ∧ off ≤ 16)
    let n := if good then s.syncGood + 1 else 0
    let locked := s.flag RegF.glbTimeStsLocked
    let s := s.setFld RegF.glbTimeStsOffset (unsigned 16 off)
    let s : State := { s with syncGood := n, rate := syncRate off (max 1 (s.fld RegF.glbTimeCfgPeriod)) }
    let s : State := if ¬ locked ∧ ¬ s.timeSet then
        s.stepTime (max s.time ((s.time : Int) + off / 16).toNat) else s
    let s := s.sendMsg (s.fld RegF.glbTimeCfgUpstream)
      { kind := kSync, hops := 1, hop := 1, srcDev := s.fld RegF.glbLinkCfgDevId, dstDev := s.peer (s.fld RegF.glbTimeCfgUpstream),
        route := BitVec.ofNat 20 (s.fld RegF.glbTimeCfgUpstream), time := s.time }
    ok (if 3 ≤ n then s.setFld RegF.glbTimeStsLocked 1 else s)

end Sys2Proof.Machine
end

