-- ==== Sys2Proof/Machine/Entries.lean ====
section
/-! DEFINITION. The bytes of a certificate's entries, field by field, as the chapters lay them out (spec/04_matrix_arrays.md R88,
spec/05_vector_engines.md R119, spec/06_gallery_streams_tiles.md R165, R176, spec/07_memory_tiers.md R211, R219,
spec/08_backward_and_deposit.md R230, R232, R236, R241, spec/09_ledger_reduction_update.md R246, spec/10_attention_kv.md R276, R292,
spec/11_ralda_link.md R316, R318, R327). What an entry's structure holds beside these fields keeps the value of the structure `base`. -/

namespace Sys2Proof.Machine

/-- A field of an entry: its lowest bit, its width and its value. Bit n of an entry is bit n mod 8 of byte ⌊n/8⌋ (spec/00_scope.md R8). -/
abbrev Place := Nat × Nat × Nat

/-- n bytes that hold fields, with every other bit zero. -/
def layOut (n : Nat) (fs : List Place) : List Byte := leBytes n (fs.foldl (fun x f => x + f.2.2 % 2 ^ f.2.1 * 2 ^ f.1) 0)

/-- A bit of some bytes that lies in none of the fields is set. -/
def hasReserved (b : List Byte) (fs : List Place) : Bool := leNat b != fs.foldl (fun x f => x + bits (leNat b) f.1 f.2.1 * 2 ^ f.1) 0

/-- Bits of some bytes as a number, and one bit. -/
def bitsIn (b : List Byte) (p w : Nat) : Nat := bits (leNat b) p w
def bitIn (b : List Byte) (p : Nat) : Bool := (leNat b).testBit p

/-! ### Array job entry (R88) -/

def ArrayJob.fields (j : ArrayJob) : List Place :=
  [(0, 2, j.form), (2, 1, j.orient.toNat), (3, 1, j.chainIn.toNat), (4, 1, j.chainOut.toNat), (5, 1, j.bscale.toNat), (6, 2, j.role),
   (8, 5, j.fmtS), (16, 5, j.fmtM), (24, 5, j.fmtO), (29, 2, j.rnd), (32, 16, j.nCount), (48, 16, j.group), (64, 32, j.mCount),
   (96, 32, j.kStart), (128, 32, j.kEnd), (160, 32, j.statBase), (192, 32, j.movBase), (224, 32, j.outBase), (256, 32, j.handIn),
   (288, 16, j.smEntry), (304, 8, j.issue), (312, 1, j.array)]

def ArrayJob.bytes (j : ArrayJob) : List Byte := layOut 48 j.fields

def ArrayJob.ofBytes (b : List Byte) (base : ArrayJob) : ArrayJob :=
  { base with form := bitsIn b 0 2, orient := bitIn b 2, chainIn := bitIn b 3, chainOut := bitIn b 4, bscale := bitIn b 5,
              role := bitsIn b 6 2, fmtS := bitsIn b 8 5, fmtM := bitsIn b 16 5, fmtO := bitsIn b 24 5, rnd := bitsIn b 29 2,
              nCount := bitsIn b 32 16, group := bitsIn b 48 16, mCount := bitsIn b 64 32, kStart := bitsIn b 96 32,
              kEnd := bitsIn b 128 32, statBase := bitsIn b 160 32, movBase := bitsIn b 192 32, outBase := bitsIn b 224 32,
              handIn := bitsIn b 256 32, smEntry := bitsIn b 288 16, issue := bitsIn b 304 8, array := bitsIn b 312 1,
              rsv := hasReserved b base.fields }

/-! ### Vector job entry (R119) -/

/-- The fields of tensor slot i: SM_ENTRY, FMT and RND. -/
def TSlot.fields (t : TSlot) (i : Nat) : List Place := [(288 + 32 * i, 16, t.sm), (304 + 32 * i, 5, t.fmt), (312 + 32 * i, 2, t.rnd)]

def VecJob.fields (j : VecJob) : List Place :=
  [(0, 1, j.mode), (8, 6, j.engFirst), (16, 7, j.engCount), (32, 16, j.progLen), (48, 16, j.group), (64, 32, j.progBase),
   (96, 32, j.argBase), (128, 64, j.recordBase), (192, 64, j.gradBase), (256, 32, j.recordCount)] ++
    ((List.range 4).map (fun i => (nth {} j.slots i).fields i)).flatten

def VecJob.bytes (j : VecJob) : List Byte := layOut 64 j.fields

def TSlot.ofBytes (b : List Byte) (base : TSlot) (i : Nat) : TSlot :=
  { base with sm := bitsIn b (288 + 32 * i) 16, fmt := bitsIn b (304 + 32 * i) 5, rnd := bitsIn b (312 + 32 * i) 2, rsv := false }

def VecJob.ofBytes (b : List Byte) (base : VecJob) : VecJob :=
  { base with mode := bitsIn b 0 1, engFirst := bitsIn b 8 6, engCount := bitsIn b 16 7, progLen := bitsIn b 32 16,
              group := bitsIn b 48 16, progBase := bitsIn b 64 32, argBase := bitsIn b 96 32, recordBase := bitsIn b 128 64,
              gradBase := bitsIn b 192 64, recordCount := bitsIn b 256 32,
              slots := (base.slots.zipIdx.take 4).map (fun x => TSlot.ofBytes b x.1 x.2), rsv := hasReserved b base.fields }

/-! ### Streams and the move table (R165, R176, R211, R219, R236) -/

def StreamEntry.fields (e : StreamEntry) : List Place :=
  [(0, 1, e.out.toNat), (1, 1, e.standing.toNat), (2, 1, e.xpose.toNat), (3, 1, e.rearm.toNat), (8, 5, e.slots), (16, 4, e.mover),
   (24, 6, e.fillEvt), (30, 1, e.fillEn.toNat), (32, 7, e.unit), (48, 16, e.allot), (64, 32, e.bufBase), (96, 32, e.listCount),
   (128, 64, e.listBase)]

def StreamEntry.bytes (e : StreamEntry) : List Byte := layOut 64 e.fields

def StreamEntry.ofBytes (b : List Byte) : StreamEntry :=
  { out := bitIn b 0, standing := bitIn b 1, xpose := bitIn b 2, rearm := bitIn b 3, slots := bitsIn b 8 5, mover := bitsIn b 16 4,
    fillEvt := bitsIn b 24 6, fillEn := bitIn b 30, unit := bitsIn b 32 7, allot := bitsIn b 48 16, bufBase := bitsIn b 64 32,
    listCount := bitsIn b 96 32, listBase := bitsIn b 128 64, rsv := hasReserved b ({} : StreamEntry).fields }

/-- The fields of an item of the move table: a move, a K4 fetch or a deposit return. -/
def MoveItem.fields (x : MoveItem) : List Place :=
  match x.kind with
  | .move => [(0, 1, x.xpose.toNat), (8, 2, x.srcHome), (10, 2, x.dstHome), (16, 4, x.mover), (24, 6, x.doneEvt), (30, 1, x.doneEn.toNat),
      (32, 32, x.count), (64, 64, x.src), (128, 64, x.dst), (192, 64, x.key), (256, 16, x.allot)]
  | .k4 => [(0, 4, x.ns), (8, 2, x.dstHome), (16, 4, x.mover), (24, 6, x.doneEvt), (30, 1, x.doneEn.toNat), (32, 32, x.count),
      (64, 64, x.src), (128, 64, x.dst), (192, 64, x.key), (256, 16, x.allot)]
  | .ret => [(0, 4, x.shelf), (8, 4, x.mover), (16, 16, x.allot), (32, 32, x.firstPos), (64, 32, x.count)]

def MoveItem.bytes (x : MoveItem) : List Byte := layOut (if x.kind = .ret then 32 else 64) x.fields

/-- An item of a kind for a wing, from its bytes. -/
def MoveItem.ofBytes (kind : MoveKind) (wing : Nat) (b : List Byte) : MoveItem :=
  let r := hasReserved b ({ kind := kind } : MoveItem).fields
  match kind with
  | .move =>
    { kind := kind, wing := wing, xpose := bitIn b 0, srcHome := bitsIn b 8 2, dstHome := bitsIn b 10 2, mover := bitsIn b 16 4,
      doneEvt := bitsIn b 24 6, doneEn := bitIn b 30, count := bitsIn b 32 32, src := bitsIn b 64 64, dst := bitsIn b 128 64,
      key := bitsIn b 192 64, allot := bitsIn b 256 16, rsv := r }
  | .k4 =>
    { kind := kind, wing := wing, ns := bitsIn b 0 4, dstHome := bitsIn b 8 2, mover := bitsIn b 16 4, doneEvt := bitsIn b 24 6,
      doneEn := bitIn b 30, count := bitsIn b 32 32, src := bitsIn b 64 64, dst := bitsIn b 128 64, key := bitsIn b 192 64,
      allot := bitsIn b 256 16, rsv := r }
  | .ret =>
    { kind := kind, wing := wing, shelf := bitsIn b 0 4, mover := bitsIn b 8 4, allot := bitsIn b 16 16, firstPos := bitsIn b 32 32,
      count := bitsIn b 64 32, rsv := r }

def Prefetch.fields (p : Prefetch) : List Place := [(0, 32, p.move), (32, 6, p.afterEvt), (64, 32, p.afterVal), (96, 32, p.due)]

def Prefetch.bytes (p : Prefetch) : List Byte := layOut 16 p.fields

def Prefetch.ofBytes (b : List Byte) : Prefetch :=
  { move := bitsIn b 0 32, afterEvt := bitsIn b 32 6, afterVal := bitsIn b 64 32, due := bitsIn b 96 32,
    rsv := hasReserved b (Prefetch.fields ⟨0, 0, 0, 0, false⟩) }

/-! ### Deposit tables, bindings and ready lists (R230, R232, R241) -/

def ShelfEntry.fields (x : ShelfEntry) : List Place :=
  [(0, 64, x.nearBase), (64, 64, x.spillBase), (128, 32, x.nearTiles), (160, 32, x.depthTiles), (192, 16, x.spillLead),
   (208, 4, x.spillMover), (216, 1, x.valid.toNat), (224, 16, x.allot)]

def ShelfEntry.bytes (x : ShelfEntry) : List Byte := layOut 32 x.fields

def ShelfEntry.ofBytes (b : List Byte) : ShelfEntry :=
  { nearBase := bitsIn b 0 64, spillBase := bitsIn b 64 64, nearTiles := bitsIn b 128 32, depthTiles := bitsIn b 160 32,
    spillLead := bitsIn b 192 16, spillMover := bitsIn b 208 4, valid := bitIn b 216, allot := bitsIn b 224 16,
    rsv := hasReserved b ({} : ShelfEntry).fields }

def DepBind.fields (x : DepBind) : List Place :=
  [(0, 1, x.pop.toNat), (8, 4, x.shelf), (16, 16, x.guard), (32, 7, x.unit), (48, 8, x.uses), (64, 32, x.tiles)]

def DepBind.bytes (x : DepBind) : List Byte := layOut 16 x.fields

def DepBind.ofBytes (b : List Byte) : DepBind :=
  { pop := bitIn b 0, shelf := bitsIn b 8 4, guard := bitsIn b 16 16, unit := bitsIn b 32 7, uses := bitsIn b 48 8, tiles := bitsIn b 64 32,
    rsv := hasReserved b ({} : DepBind).fields }

def ReadyEntry.fields (x : ReadyEntry) : List Place :=
  [(0, 32, x.task), (32, 16, x.guard), (48, 2, x.arrays.toNat), (50, 8, x.groups.toNat)]

def ReadyEntry.bytes (x : ReadyEntry) : List Byte := layOut 16 x.fields

def ReadyEntry.ofBytes (b : List Byte) : ReadyEntry :=
  { task := bitsIn b 0 32, guard := bitsIn b 32 16, arrays := BitVec.ofNat 2 (bitsIn b 48 2), groups := BitVec.ofNat 8 (bitsIn b 50 8),
    rsv := hasReserved b (ReadyEntry.fields { task := 0 }) }

/-! ### Ledger step entry (R246) -/

def LedgerEntry.fields (l : LedgerEntry) : List Place :=
  [(0, 16, l.groupFirst), (16, 16, l.groupCount), (32, 4, l.headroom), (48, 16, l.localAdds), (64, 64, l.elements), (128, 64, l.localBase),
   (192, 64, l.shardBase), (256, 64, l.cstatBase), (320, 64, l.stateBase), (384, 32, l.maxNorm.toNat), (416, 16, l.devices),
   (432, 16, l.rank), (448, 16, l.lgroup)]

def LedgerEntry.bytes (l : LedgerEntry) : List Byte := layOut 64 l.fields

def LedgerEntry.ofBytes (b : List Byte) : LedgerEntry :=
  { groupFirst := bitsIn b 0 16, groupCount := bitsIn b 16 16, headroom := bitsIn b 32 4, localAdds := bitsIn b 48 16,
    elements := bitsIn b 64 64, localBase := bitsIn b 128 64, shardBase := bitsIn b 192 64, cstatBase := bitsIn b 256 64,
    stateBase := bitsIn b 320 64, maxNorm := BitVec.ofNat 32 (bitsIn b 384 32), devices := bitsIn b 416 16, rank := bitsIn b 432 16,
    lgroup := bitsIn b 448 16, rsv := hasReserved b ({} : LedgerEntry).fields }

/-! ### Attend and append entries (R276, R292) -/

def AttendEntry.fields (a : AttendEntry) : List Place :=
  [(0, 1, a.fromStreams.toNat), (1, 2, a.maskMode), (3, 1, a.stats.toNat), (8, 5, a.fmtP), (16, 5, a.fmtO), (21, 2, a.rnd), (24, 2, a.bk),
   (32, 7, a.qHeads), (40, 8, a.mQ), (48, 16, a.smEntry), (64, 32, a.seq), (96, 32, a.qFirst), (128, 32, a.keyEnd), (160, 32, a.scl.toNat),
   (192, 32, a.qBase), (224, 32, a.oBase), (256, 64, a.maskBase), (320, 64, a.sumBase), (384, 32, a.maskKt), (416, 32, a.statsBase),
   (448, 32, a.hookBase), (480, 7, a.hookLen), (496, 6, a.engFirst), (504, 7, a.engCount)]

def AttendEntry.bytes (a : AttendEntry) : List Byte := layOut 64 a.fields

def AttendEntry.ofBytes (b : List Byte) (base : AttendEntry) : AttendEntry :=
  { base with fromStreams := bitIn b 0, maskMode := bitsIn b 1 2, stats := bitIn b 3, fmtP := bitsIn b 8 5, fmtO := bitsIn b 16 5,
              rnd := bitsIn b 21 2, bk := bitsIn b 24 2, qHeads := bitsIn b 32 7, mQ := bitsIn b 40 8, smEntry := bitsIn b 48 16,
              seq := bitsIn b 64 32, qFirst := bitsIn b 96 32, keyEnd := bitsIn b 128 32, scl := BitVec.ofNat 32 (bitsIn b 160 32),
              qBase := bitsIn b 192 32, oBase := bitsIn b 224 32, maskBase := bitsIn b 256 64, sumBase := bitsIn b 320 64,
              maskKt := bitsIn b 384 32, statsBase := bitsIn b 416 32, hookBase := bitsIn b 448 32, hookLen := bitsIn b 480 7,
              engFirst := bitsIn b 496 6, engCount := bitsIn b 504 7, rsv := hasReserved b base.fields }

def AppendEntry.fields (a : AppendEntry) : List Place := [(0, 32, a.seq), (32, 32, a.src), (64, 16, a.tiles)]

def AppendEntry.bytes (a : AppendEntry) : List Byte := layOut 16 a.fields

def AppendEntry.ofBytes (b : List Byte) : AppendEntry :=
  { seq := bitsIn b 0 32, src := bitsIn b 32 32, tiles := bitsIn b 64 16, rsv := hasReserved b ({} : AppendEntry).fields }

/-! ### Link entries (R316, R318, R327) -/

def SendKind.code : SendKind → Nat
  | .unicast => 0
  | .multicast => 1
  | .reduce => 2

def SendEntry.fields (e : SendEntry) : List Place :=
  [(0, 2, e.kind.code), (8, 6, e.queue), (14, 2, e.dstWing), (16, 16, e.op), (32, 16, e.target), (48, 7, e.srcUnit), (64, 32, e.count),
   (96, 20, e.route.toNat), (116, 3, e.hops), (128, 16, e.allot), (144, 7, e.recallUnit)]

def SendEntry.bytes (e : SendEntry) : List Byte := layOut 32 e.fields

/-- A send entry from its bytes; KIND 3 names no kind and counts as a reserved bit. -/
def SendEntry.ofBytes (b : List Byte) (base : SendEntry) : SendEntry :=
  { base with kind := match bitsIn b 0 2 with | 0 => .unicast | 1 => .multicast | _ => .reduce,
              queue := bitsIn b 8 6, dstWing := bitsIn b 14 2, op := bitsIn b 16 16, target := bitsIn b 32 16, srcUnit := bitsIn b 48 7,
              count := bitsIn b 64 32, route := BitVec.ofNat 20 (bitsIn b 96 20), hops := bitsIn b 116 3, allot := bitsIn b 128 16,
              recallUnit := bitsIn b 144 7, rsv := hasReserved b base.fields || bitsIn b 0 2 == 3 }

/-- The 8 bytes of a destination of a reduction group (R319). -/
def RedDest.fields (d : RedDest) : List Place :=
  [(0, 16, d.dstDev), (16, 20, d.route.toNat), (36, 3, d.hops), (40, 6, d.queue), (46, 2, d.dstWing), (48, 8, d.combiner.toNat)]

def RedDest.bytes (d : RedDest) : List Byte := layOut 8 d.fields

def RedDest.ofBytes (b : List Byte) : RedDest :=
  { dstDev := bitsIn b 0 16, route := BitVec.ofNat 20 (bitsIn b 16 20), hops := bitsIn b 36 3, queue := bitsIn b 40 6, dstWing := bitsIn b 46 2,
    combiner := bitIn b 48 }

def QueueBind.fields (q : QueueBind) : List Place :=
  [(0, 6, q.queue), (8, 5, q.slots), (16, 1, q.toStream.toNat), (32, 16, q.unit), (48, 16, q.op), (64, 32, q.base)]

def QueueBind.bytes (q : QueueBind) : List Byte := layOut 16 q.fields

def QueueBind.ofBytes (b : List Byte) (base : QueueBind) : QueueBind :=
  { base with queue := bitsIn b 0 6, slots := bitsIn b 8 5, toStream := bitIn b 16, unit := bitsIn b 32 16, op := bitsIn b 48 16,
              base := bitsIn b 64 32, rsv := hasReserved b base.fields }

def BarrierEntry.fields (x : BarrierEntry) : List Place :=
  [(0, 16, x.barrier), (16, 1, x.root.toNat), (17, 1, x.stagger.toNat), (24, 4, x.parent), (32, 16, x.children.toNat), (48, 16, x.devIndex),
   (64, 32, x.lead)]

def BarrierEntry.bytes (x : BarrierEntry) : List Byte := layOut 16 x.fields

def BarrierEntry.ofBytes (b : List Byte) : BarrierEntry :=
  { barrier := bitsIn b 0 16, root := bitIn b 16, stagger := bitIn b 17, parent := bitsIn b 24 4, children := BitVec.ofNat 16 (bitsIn b 32 16),
    devIndex := bitsIn b 48 16, lead := bitsIn b 64 32, rsv := hasReserved b ({} : BarrierEntry).fields }

/-! ### An entry is what its bytes say

Each check holds when the fields fit their widths and no reserved bit is set: the entry reads back from the bytes that its rule lays out. -/

def ArrayJob.laidOut (j : ArrayJob) : Bool := ArrayJob.ofBytes j.bytes j == j
def VecJob.laidOut (j : VecJob) : Bool := VecJob.ofBytes j.bytes j == j
def StreamEntry.laidOut (e : StreamEntry) : Bool := StreamEntry.ofBytes e.bytes == e

/-- A move-table item's bytes; the fields that its kind does not have are as a fresh item's. -/
def MoveItem.laidOut (x : MoveItem) : Bool := MoveItem.ofBytes x.kind x.wing x.bytes == x
def Prefetch.laidOut (p : Prefetch) : Bool := Prefetch.ofBytes p.bytes == p
def ShelfEntry.laidOut (x : ShelfEntry) : Bool := ShelfEntry.ofBytes x.bytes == x
def DepBind.laidOut (x : DepBind) : Bool := DepBind.ofBytes x.bytes == x
def ReadyEntry.laidOut (x : ReadyEntry) : Bool := ReadyEntry.ofBytes x.bytes == x
def LedgerEntry.laidOut (l : LedgerEntry) : Bool := LedgerEntry.ofBytes l.bytes == l
def AttendEntry.laidOut (a : AttendEntry) : Bool := AttendEntry.ofBytes a.bytes a == a
def AppendEntry.laidOut (a : AppendEntry) : Bool := AppendEntry.ofBytes a.bytes == a
def SendEntry.laidOut (e : SendEntry) : Bool := SendEntry.ofBytes e.bytes e == e
def RedDest.laidOut (d : RedDest) : Bool := RedDest.ofBytes d.bytes == d
def QueueBind.laidOut (q : QueueBind) : Bool := QueueBind.ofBytes q.bytes q == q
def BarrierEntry.laidOut (x : BarrierEntry) : Bool := BarrierEntry.ofBytes x.bytes == x

end Sys2Proof.Machine
end

