-- ==== Sys2Proof/Machine/Graph.lean ====
section
/-! DEFINITION. What the checks of admission share (spec/12_rings_contexts_rota.md R343, R460, R461): failed checks, the order that the task
graph gives, ranges and windows. A failed check is a pair of a reason of R348 and the index of an item: the index of an entry in its own
table of the certificate (log 29). -/

namespace Sys2Proof.Machine

/-- A failed check: reason and item. -/
abbrev Bad := Nat × Nat

/-- The failures of a list of items: those for which a check does not hold. -/
def failing {α : Type} (reason : Nat) (l : List α) (good : Nat → α → Bool) : List Bad :=
  (l.zipIdx.filter (fun x => !good x.2 x.1)).map (fun x => (reason, x.2))

def failIf (b : Bool) (reason item : Nat) : List Bad := if b then [(reason, item)] else []

/-- The least failure: lowest reason, then lowest item (R461). -/
def leastBad (l : List Bad) : Option Bad :=
  l.foldl (fun m x => match m with
    | some y => if x.1 < y.1 ∨ (x.1 = y.1 ∧ x.2 < y.2) then some x else some y
    | none => some x) none

def within (x lo hi : Nat) : Bool := decide (lo ≤ x ∧ x ≤ hi)

/-! ### The task graph -/

/-- One round of the closure: each task has its dependences and theirs. -/
def ancStep (deps : List (List Nat)) (anc : List (List Nat)) : List (List Nat) :=
  deps.map (fun d => (d ++ (d.map (fun x => nth [] anc x)).flatten).eraseDups)

/-- The tasks before each task. -/
def Cert.anc (k : Cert) : List (List Nat) := times k.tasks.length (ancStep (k.tasks.map (fun t => t.deps))) (k.tasks.map (fun _ => []))

/-- Task a is ordered before task b. -/
def before (anc : List (List Nat)) (a b : Nat) : Bool := (nth [] anc b).contains a
def ordered (anc : List (List Nat)) (a b : Nat) : Bool := before anc a b || before anc b a

/-- Pairs (i, j) with i below j of a list of items each with its task. -/
def pairs {α : Type} : List α → List (α × α)
  | [] => []
  | x :: l => l.map (fun y => (x, y)) ++ pairs l

/-- The ready-list entry of a task. -/
def Cert.ready (k : Cert) (t : Nat) : ReadyEntry :=
  ((nth [] k.lists (nth {} k.tasks t).wing).find? (fun e => e.task == t)).getD { task := t }

def Cert.held (s : State) (c w : Nat) : Bool := (s.fld RegF.ctxCfgWings c).testBit w

/-! ### Windows and addresses (R460, R462) -/

/-- A gallery range lies in one of some windows of (base, bytes). -/
def inWindow (ws : List (Nat × Nat)) (a n : Nat) : Bool :=
  decide (a + n ≤ galleryEnd) && ws.any (fun w => decide (w.1 ≤ a ∧ a + n ≤ w.1 + w.2))

/-- Two ranges share a byte. -/
def overlap (a n b m : Nat) : Bool := decide (a < b + m ∧ b < a + n ∧ 0 < n ∧ 0 < m)

/-- The place of a run of tiles: a gallery range inside the windows, or an aligned range of a tier. -/
def tilesOk (ws : List (Nat × Nat)) (home a n : Nat) : Bool :=
  a % 64 == 0 && (if home = 2 then inWindow ws a (tileBytes * n) else decide (galleryEnd ≤ a))

/-- All stream entries with their task. -/
def Cert.streamsAll (k : Cert) : List (Nat × StreamEntry) := (k.tasks.zipIdx.map (fun x => x.1.streams.map (fun e => (x.2, e)))).flatten

def StreamEntry.ringBytes (e : StreamEntry) : Nat := tileBytes * e.slots

/-- The stream of a wing in whose ring a base address lies. -/
def Cert.ringOf (k : Cert) (w base : Nat) (out : Bool) : Option StreamEntry :=
  (k.streamsAll.find? (fun x => x.2.out == out && (nth {} k.tasks x.1).wing == w &&
    decide (x.2.bufBase ≤ base ∧ base < x.2.bufBase + x.2.ringBytes))).map (fun x => x.2)

/-- All array jobs with their task and place. -/
def Cert.jobs (k : Cert) : List (Nat × Nat × ArrayJob) :=
  (k.tasks.zipIdx.map (fun x => x.1.arrayJobs.zipIdx.map (fun y => (x.2, y.2, y.1)))).flatten

end Sys2Proof.Machine
end

