-- ==== Sys2Proof/Machine/VecCheck.lean ====
section
/-! DEFINITION. The admission checks of vector programs, update programs and score hooks (spec/05_vector_engines.md R116, R121, R126,
R148 to R150, spec/10_attention_kv.md R281). -/

namespace Sys2Proof.Machine

/-! ### Formats, modifiers and registers of one instruction (R116, R121, R122, R126) -/

/-- The floating arithmetic opcodes. -/
def isFloatOp (op : Nat) : Bool := decide (0x10 ≤ op ∧ op ≤ 0x20)
def isControl (op : Nat) : Bool := decide (op ≤ 0x0A)
def isWideOp (op : Nat) : Bool := decide (0x70 ≤ op ∧ op ≤ 0x7D)
def isGalleryOp (op : Nat) : Bool := decide (0xB0 ≤ op ∧ op ≤ 0xB5)

/-- The whole instruction set (R126). -/
def opcodeKnown (op : Nat) : Bool :=
  isControl op || isFloatOp op || decide (0x30 ≤ op ∧ op ≤ 0x36) || decide (0x38 ≤ op ∧ op ≤ 0x3D) ||
    [0x40, 0x50, 0x51, 0xC0].contains op || decide (0x60 ≤ op ∧ op ≤ 0x63) || isWideOp op || decide (0x90 ≤ op ∧ op ≤ 0x9A) ||
    decide (0xA0 ≤ op ∧ op ≤ 0xA6) || isGalleryOp op

/-- The instruction's format code is legal for its opcode. An opcode that uses no format takes any (R121; DESIGN CHOICE, log 136). -/
def opFormatOk (op : Nat) (o : VOp) : Bool :=
  let f := o.f
  if isFloatOp op then f ≤ 1
  else if op = 0x30 then [0x00, 0x01, 0x0E, 0x0F, 0x10].contains f
  else if [0x38, 0x39, 0x3A, 0x3B, 0x3C].contains op then f ≤ 0x10
  else if op = 0x40 then decide (f ≤ 0x10 ∧ f ≠ 5 ∧ bits o.imm.toNat 0 5 ≤ 0x10 ∧ bits o.imm.toNat 0 5 ≠ 5)
  else if op = 0x50 ∨ op = 0x51 ∨ op = 0xC0 then f == 1
  else if op = 0x60 then f ≤ 1
  else if op = 0x61 ∨ op = 0x62 then [0x00, 0x01, 0x0E, 0x0F, 0x10].contains f
  else if op = 0x63 then [0x0E, 0x0F, 0x10].contains f
  else if 0x70 ≤ op ∧ op ≤ 0x77 then f == 0x0F || f == 0x10
  else if op = 0x78 then f == 0x10
  else if 0x79 ≤ op ∧ op ≤ 0x7D then f == 0
  else if op = 0xB4 then [0x00, 0x01, 0x0E, 0x0F, 0x10].contains f
  else if op = 0xB5 then [0x00, 0x01, 0x0E, 0x0F, 0x10].contains f
  else true

/-- The floating opcodes of one operand and of three. -/
def oneOperand (op : Nat) : Bool := [0x17, 0x18, 0x19, 0x1C, 0x1D].contains op
def threeOperand (op : Nat) : Bool := [0x13, 0x14, 0x15, 0x1E, 0x1F].contains op

/-- The words of the vector operands vd, va, vb and vc of an instruction; 0 where it names no vector register there. -/
def opWords (op : Nat) (o : VOp) : List Nat :=
  let n := o.words
  let v := fun (b : Bool) (k : Nat) => if b then 0 else k
  if isFloatOp op then
    [n, n, v (o.sb || oneOperand op) (if op = 0x20 then 1 else n),
     v (o.sc || !threeOperand op) n]
  else
    match op with
    | 0x30 => [0, n, v o.sb n, 0]
    | 0x38 => [n, n, 0, 0] | 0x39 => [n, 0, 0, 0] | 0x3A => [0, n, 0, 0] | 0x3B => [n, n, v o.sb 1, 0] | 0x3C => [n, n, 0, 0]
    | 0x3D => [1, 0, 0, 0] | 0x40 => [n, fmtWords (bits o.imm.toNat 0 5), 0, 0] | 0x50 => [1, 1, 0, 0] | 0x51 => [1, 1, 0, 0]
    | 0x60 => [0, n, 0, 0] | 0x61 => [0, n, 0, 0] | 0x62 => [0, n, 0, 0] | 0x63 => [0, n, 0, 0]
    | 0x70 => [n, n, v o.sb n, 0] | 0x71 => [n, n, v o.sb n, 0] | 0x72 => [n, n, 0, 0] | 0x73 => [n, n, 0, 0] | 0x74 => [n, n, 0, 0]
    | 0x75 => [n, n, v o.sb n, 0] | 0x76 => [n, n, v o.sb n, 0] | 0x77 => [n, fmtWords (bits o.imm.toNat 0 5), 0, 0]
    | 0x78 => [3, 2, 0, 0] | 0x79 => [6, 2, 0, 0] | 0x7A => [6, 6, v o.sb 6, 0] | 0x7B => [6, 6, 0, 0] | 0x7C => [3, 6, 0, 0]
    | 0x7D => [6, 0, 0, 0] | 0xB0 => [1, 0, 0, 0] | 0xB1 => [0, 0, v o.sb 1, 0] | 0xB4 => [n, 0, 0, 0] | 0xB5 => [0, n, 0, 0]
    | 0xC0 => [1, 0, 0, 0]
    | _ => if 0x90 ≤ op ∧ op ≤ 0x9A then [1, 1, v o.sb 1, 0] else [0, 0, 0, 0]

/-- The words of the scalar operands vd, va, vb and vc; 0 where it names no scalar register there. -/
def opScalars (op : Nat) (o : VOp) : List Nat :=
  let n := o.words
  let v := fun (b : Bool) (k : Nat) => if b then k else 0
  let two := (isFloatOp op && !oneOperand op) || op == 0x30 || [0x3B, 0x70, 0x71, 0x75, 0x76].contains op || decide (0x90 ≤ op ∧ op ≤ 0x9A)
  match op with
  | 0x35 => [0, 1, 0, 0] | 0x36 => [1, 0, 0, 0] | 0x39 => [0, n, 0, 0] | 0x3A => [n, 0, 0, 0] | 0x3D => [0, 1, 0, 0]
  | 0x40 => [0, 0, v (o.imm.toNat.testBit 5) 1, 0] | 0x60 => [n, 0, 0, 0] | 0x61 => [n, 0, 0, 0] | 0x62 => [n, 0, 0, 0]
  | 0x63 => [if o.f = 0x0E then 2 else n, 0, 0, 0] | 0x77 => [0, 0, 1, 2] | 0x7A => [0, 0, v o.sb 6, 0] | 0xA0 => [1, 1, v o.sb 1, 0] | 0xA1 => [1, 1, v o.sb 1, 0]
  | 0xA2 => [1, 1, 1, 0] | 0xA3 => [1, 0, 0, 0] | 0xA4 => [1, 0, 0, 0] | 0xA5 => [1, 0, 0, 0] | 0x07 => [0, 1, 0, 0] | 0x08 => [1, 0, 0, 0]
  | 0xB0 => [0, 1, 0, 0] | 0xB1 => [0, 1, v o.sb 1, 0] | 0xB2 => [0, 1, 0, 0] | 0xB3 => [0, 1, 0, 4] | 0xB4 => [0, 1, 0, 0] | 0xB5 => [0, 0, 0, 1]
  | _ => [0, 0, v (two && o.sb) (if op = 0x20 ∨ op = 0x3B ∨ 0x90 ≤ op then 1 else n), v (threeOperand op && o.sc) n]

/-- The alignment of the first register of an element of n words. -/
def wordAlign (n : Nat) : Nat := if n ≤ 1 then 1 else if n = 2 then 2 else if n ≤ 4 then 4 else 8

/-- The registers of an instruction are aligned, and scalar registers lie below 32. -/
def opRegsOk (op : Nat) (o : VOp) : Bool :=
  let rs := [o.vd.toNat, o.va.toNat, o.vb.toNat, o.vc.toNat]
  (rs.zip (opWords op o)).all (fun x => x.1 % wordAlign x.2 == 0) &&
    (rs.zip (opScalars op o)).all (fun x => x.2 == 0 || (decide (x.1 < 32) && x.1 % wordAlign x.2 == 0))

/-- The bits by which vd, va, vb and vc name a predicate register (3) or a tile buffer (2); 0 where they name neither. -/
def opSmall (op : Nat) : List Nat :=
  match op with
  | 0x30 => [3, 0, 0, 0] | 0x31 => [3, 3, 3, 0] | 0x32 => [3, 3, 3, 0] | 0x33 => [3, 3, 3, 0] | 0x34 => [3, 3, 0, 0] | 0x35 => [3, 0, 0, 0]
  | 0x36 => [0, 3, 0, 0] | 0xB2 => [2, 0, 0, 0] | 0xB3 => [0, 0, 2, 0] | 0xB4 => [0, 0, 2, 0] | 0xB5 => [0, 0, 2, 0]
  | _ => [0, 0, 0, 0]

/-- Operand fields that an opcode does not use are zero, and so are the bits above a predicate or tile buffer number. -/
def opUnusedOk (op : Nat) (o : VOp) : Bool :=
  ([o.vd.toNat, o.va.toNat, o.vb.toNat, o.vc.toNat].zip ((opWords op o).zip ((opScalars op o).zip (opSmall op)))).all (fun x =>
    x.2.1 != 0 || x.2.2.1 != 0 || decide (x.1 < 2 ^ x.2.2.2))

/-- Reserved modifier values and bits of an instruction, and shift counts: SADD, SSUB and SMUL ignore every modifier but SB. -/
def opModsOk (op : Nat) (o : VOp) : Bool :=
  let i := o.imm.toNat
  if isControl op then op != 0x04 || decide (1 ≤ bits i 0 12)
  else if 0xA0 ≤ op ∧ op ≤ 0xA3 then true
  else
    o.rm != 3 && bits i 16 2 == 0 &&
      (op != 0x30 || bits i 0 3 != 7) && (op != 0x40 || (bits i 7 9 == 0 && (!(o.f == 0xF || o.f == 0x10) || bits i 5 2 == 1))) &&
      (op != 0x77 || bits i 0 5 ≤ 1) && (!(op == 0x73 || op == 0x74) || decide (bits i 0 7 < fmtWidth o.f)) && (op != 0xA5 || bits i 0 4 ≤ 5)

/-- One instruction word is legal in a general-mode program or hook, apart from what its kind of program forbids. -/
def wordOk (w : W64) : Bool :=
  let op := opcodeOf w
  let o := fieldsOf w
  opcodeKnown op && opFormatOk op o && opRegsOk op o && opUnusedOk op o && opModsOk op o

/-! ### Loops and skips (R121) -/

/-- The depth of loops before each instruction; none where an ENDL has no LOOP, where loops nest deeper than 4, or one stays open. -/
def loopDepths : List W64 → Nat → Option (List Nat)
  | [], d => if d = 0 then some [0] else none
  | w :: l, d =>
    if opcodeOf w = 0x02 then (if 4 ≤ d then none else (loopDepths l (d + 1)).map (fun t => d :: t))
    else if opcodeOf w = 0x03 then (if d = 0 then none else (loopDepths l (d - 1)).map (fun t => d :: t))
    else (loopDepths l d).map (fun t => d :: t)

/-- The instructions that a SKIP at place i passes over hold loops in matched pairs and do not leave the enclosing loop or the program. -/
def skipOk (prog : List W64) (ds : List Nat) (i : Nat) : Bool :=
  let k := bits (nth 0 prog i).toNat 0 12
  let d := nth 0 ds i
  decide (i + 1 + k ≤ prog.length) && nth 0 ds (i + 1 + k) == d &&
    (List.range (k + 1)).all (fun j => decide (d ≤ nth 0 ds (i + 1 + j)))

def loopsOk (prog : List W64) : Bool :=
  match loopDepths prog 0 with
  | none => false
  | some ds => (List.range prog.length).all (fun i => opcodeOf (nth 0 prog i) != 0x04 || skipOk prog ds i)

/-- A general-mode program holds a HALT and cannot run past its last instruction: the last one is HALT, or it closes no path beyond. -/
def haltOk (prog : List W64) : Bool :=
  prog.any (fun w => opcodeOf w == 0x01) && opcodeOf (prog.getLastD 0) == 0x01 &&
    (List.range prog.length).all (fun i => opcodeOf (nth 0 prog i) != 0x04 || decide (i + 1 + bits (nth 0 prog i).toNat 0 12 < prog.length))

/-! ### The three kinds of program -/

/-- The reason for which a general-mode program fails, if any (R121, R149, R150). -/
def generalReason (prog : List W64) : Option Nat :=
  if prog.any (fun w => [0x10, 0x11, 0x13].contains (opcodeOf w) && (fieldsOf w).f == 5) then some 6
  else if prog.all wordOk && prog.all (fun w => opcodeOf w != 0xC0) && loopsOk prog && haltOk prog then none else some 7

/-- The opcodes of an update-mode program (R148). -/
def updateOps : List Nat := [0x13, 0x12, 0x10, 0x11, 0x16, 0x17, 0x18, 0x1A, 0x1B, 0x1C, 0x1E, 0x1F, 0x40, 0xC0]

/-- An instruction is the master update (R149). -/
def isMaster (w : W64) : Bool := [0x10, 0x11, 0x13].contains (opcodeOf w) && (fieldsOf w).f == 5
def masterForm (w : W64) : Bool :=
  let o := fieldsOf w
  o.vd == 0 && (if opcodeOf w = 0x13 then o.vc == 0 else o.va == 0)

/-- Registers that an instruction reads and writes. -/
def readsOf (w : W64) : List Nat :=
  let o := fieldsOf w
  let t := opWords (opcodeOf w) o
  [(o.va.toNat, nth 0 t 1), (o.vb.toNat, nth 0 t 2), (o.vc.toNat, nth 0 t 3)].filterMap (fun x => if x.2 = 0 then none else some x.1)

/-- One instruction of an update program other than the master update. -/
def updateWordOk (w : W64) : Bool :=
  let op := opcodeOf w
  let o := fieldsOf w
  updateOps.contains op && opUnusedOk op o && o.pred == 0 && !o.sb && !o.sc && decide (o.vd.toNat < 16) && (readsOf w).all (fun r => decide (r < 16)) &&
    o.rm != 3 && bits o.imm.toNat 16 2 == 0 &&
    (if op = 0x40 then !o.imm.toNat.testBit 5 && bits o.imm.toNat 7 9 == 0 && ((o.f == 1 && [3, 2, 4, 1].contains (bits o.imm.toNat 0 5)) ||
        (bits o.imm.toNat 0 5 == 1 && [1, 2, 3, 4].contains o.f)) else isMaster w || o.f == 1)

/-- The reason for which an update program fails, if any (R148 to R150). -/
def updateReason (prog : List W64) : Option Nat :=
  let after := (prog.dropWhile (fun w => !isMaster w)).drop 1
  if prog.any (fun w => isMaster w && !masterForm w) then some 6
  else if decide (prog.length = 0 ∨ 48 < prog.length) || !(prog.all updateWordOk) || (prog.filter isMaster).length != 1 ||
      prog.any (fun w => !isMaster w && decide ((fieldsOf w).vd.toNat < 2)) || after.any (fun w => (readsOf w).any (fun r => r < 2))
  then some 7 else none

/-- A score hook is legal (R281). -/
def hookOk (prog : List W64) : Bool :=
  prog.all (fun w =>
    let op := opcodeOf w
    let o := fieldsOf w
    let vs := opWords op o
    let ss := opScalars op o
    let rs := [o.vd.toNat, o.va.toNat, o.vb.toNat, o.vc.toNat]
    wordOk w && !isControl op && !isGalleryOp op && !isWideOp op && op != 0xA5 && op != 0xA6 && op != 0xC0 &&
      (op != 0x40 || (decide (o.f < 0xF) && decide (bits o.imm.toNat 0 5 < 0xF))) &&
      (rs.zip vs).all (fun x => x.2 == 0 || decide (x.1 + x.2 ≤ 16)) && (rs.zip ss).all (fun x => x.2 == 0 || decide (x.1 + x.2 ≤ 8)))

end Sys2Proof.Machine
end

