-- ==== Sys2Proof/Machine/ProgCheck.lean ====
section
/-! DEFINITION. What admission reads off a vector program without running it (spec/05_vector_engines.md R121, R125,
spec/06_gallery_streams_tiles.md R178, spec/09_ledger_reduction_update.md R247): what its registers are known to hold, the
gallery accesses at those addresses, the writes that two engines may make to one location without an order, and the posts to a courier queue
(log 78). -/

namespace Sys2Proof.Machine

/-! ### What an engine's registers are known to hold -/

/-- What is known of an engine's registers: a scalar is a fixed number (base 0) or word base − 1 of the job's argument block plus a number; so is
a vector register that holds one such value in every lane, in INT32; a predicate register is a mask of lanes. -/
structure Look where
  sc : List (Nat × Nat × Nat) := []
  vs : List (Nat × Nat × Nat) := []
  pr : List (Nat × Nat) := []
  deriving DecidableEq, Repr

/-- What holds at the start of a job on the engine of a rank (R117): every engine of the job has the same argument words. -/
def Look.start (rank : Nat) : Look :=
  { sc := (31, 0, rank) :: (List.range 31).map (fun i => (i, i + 1, 0)), vs := (List.range 64).map (fun i => (i, 0, 0)),
    pr := (List.range 8).map (fun i => (i, 0)) }

def Look.scalar (k : Look) (r : Nat) : Option (Nat × Nat) := (k.sc.find? (fun x => x.1 == r)).map (fun x => x.2)
def Look.vector (k : Look) (r : Nat) : Option (Nat × Nat) := (k.vs.find? (fun x => x.1 == r)).map (fun x => x.2)
def Look.const (k : Look) (r : Nat) : Option Nat := (k.scalar r).bind (fun v => if v.1 = 0 then some v.2 else none)

/-- The mask of a predicate register; p0 is all ones. -/
def Look.pred (k : Look) (p : Nat) : Option Nat := if p = 0 then some (2 ^ 64 - 1) else (k.pr.find? (fun x => x.1 == p)).map (fun x => x.2)

/-- The active lanes of an instruction, where they are known. -/
def Look.lanes (k : Look) (o : VOp) : Option Nat := (k.pred o.pred.toNat).map (fun m => if o.negp then 2 ^ 64 - 1 - m else m)

/-- Registers that an instruction writes, from vd: scalar, vector and predicate registers. -/
def scalarWrites (w : W64) : List Nat :=
  (List.range (nth 0 (opScalars (opcodeOf w) (fieldsOf w)) 0)).map (fun i => (fieldsOf w).vd.toNat + i)
def vectorWrites (w : W64) : List Nat :=
  (List.range (nth 0 (opWords (opcodeOf w) (fieldsOf w)) 0)).map (fun i => (fieldsOf w).vd.toNat + i)
def predWrites (w : W64) : List Nat := if 0x30 ≤ opcodeOf w ∧ opcodeOf w ≤ 0x35 then [(fieldsOf w).vd.toNat % 8] else []

/-- Nothing is known any more of what instructions write. -/
def Look.forget (k : Look) (ws : List W64) : Look :=
  { sc := k.sc.filter (fun x => !(ws.any (fun w => (scalarWrites w).contains x.1))),
    vs := k.vs.filter (fun x => !(ws.any (fun w => (vectorWrites w).contains x.1))),
    pr := k.pr.filter (fun x => !(ws.any (fun w => (predWrites w).contains x.1))) }

/-- The sum and the difference of known values, modulo 2^32. -/
def lookAdd (a b : Nat × Nat) : Option (Nat × Nat) := if a.1 = 0 ∨ b.1 = 0 then some (a.1 + b.1, (a.2 + b.2) % 2 ^ 32) else none
def lookSub (a b : Nat × Nat) : Option (Nat × Nat) :=
  if b.1 = 0 then some (a.1, (a.2 + 2 ^ 32 - b.2) % 2 ^ 32) else if a.1 = b.1 then some (0, (a.2 + 2 ^ 32 - b.2) % 2 ^ 32) else none

/-- The scalar that an instruction of the scalar group writes. -/
def Look.scalarAfter (k : Look) (w : W64) : Option (Nat × Nat) :=
  let o := fieldsOf w
  let a := k.scalar o.va.toNat
  let b := if o.sb then k.scalar o.vb.toNat else some (0, unsigned 32 (signed 16 o.imm16))
  match opcodeOf w with
  | 0xA0 => a.bind (fun x => b.bind (lookAdd x))
  | 0xA1 => a.bind (fun x => b.bind (lookSub x))
  | 0xA2 => (k.const o.va.toNat).bind (fun x => (k.const o.vb.toNat).map (fun y => (0, x * y % 2 ^ 32)))
  | 0xA3 => some (0, unsigned 32 (signed 24 o.imm.toNat))
  | 0xA4 => (k.const o.vd.toNat).map (fun x => (0, o.imm16 * 2 ^ 16 + x % 2 ^ 16))
  | _ => none

/-- CMP of two fixed numbers in INT32. -/
def cmpKnown (sel : Nat) (a b : Nat) : Bool :=
  let x := signed 32 a
  let y := signed 32 b
  match sel with
  | 0 => decide (x = y) | 1 => decide (x ≠ y) | 2 => decide (x < y) | 3 => decide (x ≤ y) | 4 => decide (y < x) | 5 => decide (y ≤ x)
  | _ => false

/-- The predicate that an instruction writes. -/
def Look.predAfter (k : Look) (w : W64) : Option Nat :=
  let o := fieldsOf w
  let all := 2 ^ 64 - 1
  let two := fun (f : Nat → Nat → Nat) => (k.pred (o.va.toNat % 8)).bind (fun x => (k.pred (o.vb.toNat % 8)).map (f x))
  match opcodeOf w with
  | 0x30 =>
    if o.f = 0x0E ∧ k.lanes o = some all then
      match k.vector o.va.toNat, (if o.sb then k.scalar o.vb.toNat else k.vector o.vb.toNat) with
      | some (0, a), some (0, b) => some (if cmpKnown (bits o.imm.toNat 0 3) a b then all else 0)
      | _, _ => none
    else none
  | 0x31 => two (fun x y => x &&& y)
  | 0x32 => two (fun x y => x ||| y)
  | 0x33 => two (fun x y => x ^^^ y)
  | 0x34 => (k.pred (o.va.toNat % 8)).map (fun x => all - x)
  | 0x35 => (k.const o.va.toNat).map (fun n => 2 ^ min n 64 - 1)
  | _ => none

/-- The value that an instruction puts into every lane of a vector register. -/
def Look.vectorAfter (k : Look) (w : W64) : Option (Nat × Nat) :=
  let o := fieldsOf w
  if opcodeOf w = 0x39 ∧ o.f = 0x0E ∧ k.lanes o = some (2 ^ 64 - 1) then k.scalar o.va.toNat else none

/-- What is known after an instruction. -/
def Look.after (k : Look) (w : W64) : Look :=
  let d := (fieldsOf w).vd.toNat
  let f := k.forget [w]
  { sc := (match k.scalarAfter w with | some v => [(d, v)] | none => []) ++ f.sc,
    vs := (match k.vectorAfter w with | some v => [(d, v)] | none => []) ++ f.vs,
    pr := (match k.predAfter w with | some v => [(d % 8, v)] | none => []) ++ f.pr }

/-! ### Gallery accesses at fixed addresses (R121) -/

/-- The instructions of a loop's body, from those after its LOOP. -/
def loopBody : List W64 → Nat → List W64
  | [], _ => []
  | w :: l, d =>
    if opcodeOf w = 0x02 then w :: loopBody l (d + 1)
    else if opcodeOf w = 0x03 then (if d = 0 then [] else w :: loopBody l (d - 1))
    else w :: loopBody l d

/-- Place of the SKIPs that pass over instruction i, and of those that end at it. -/
def skipsAt (prog : List W64) (i : Nat) (ends : Bool) : List Nat :=
  (List.range i).filter (fun j => opcodeOf (nth 0 prog j) == 0x04 &&
    (let t := j + 1 + bits (nth 0 prog j).toNat 0 12
     if ends then t == i else decide (i < t)))

/-- What is known before each instruction whatever the rank and however often its loop has run: a loop forgets what its body writes, and the end
of a SKIP what it passed over writes. -/
def knownFrom (prog : List W64) : Nat → List W64 → Look → List Look
  | _, [], _ => []
  | i, w :: l, k =>
    let k := k.forget ((skipsAt prog i true).map (fun j => (prog.take i).drop (j + 1))).flatten
    let k := if opcodeOf w = 0x02 then k.forget (loopBody l 0) else k
    k :: knownFrom prog (i + 1) l (k.after w)

/-- An access: address by its base and number, bytes, whether it writes, and the lanes that may make it. -/
structure ProgAccess where
  base  : Nat
  addr  : Nat
  size  : Nat
  write : Bool
  mask  : Nat
  deriving DecidableEq, Repr

/-- An access of an instruction whose address is known. TIN and TOUT move whole tiles. -/
def accessOf (w : W64) (k : Look) : Option ProgAccess :=
  let o := fieldsOf w
  let op := opcodeOf w
  let tile := op == 0xB2 || op == 0xB3
  if op = 0xB0 ∨ op = 0xB1 ∨ tile then
    (k.scalar o.va.toNat).map (fun a =>
      { base := a.1, addr := a.2 + o.imm16 * (if tile then 64 else 256), size := if tile then tileBytes else 256,
        write := op == 0xB1 || op == 0xB3, mask := if tile then 2 ^ 64 - 1 else (k.lanes o).getD (2 ^ 64 - 1) })
  else none

/-- The accesses of a program at addresses that its constants fix. -/
def accesses (prog : List W64) : List ProgAccess :=
  ((knownFrom prog 0 prog {}).zip prog).filterMap (fun x => accessOf x.2 x.1)

/-! ### The course of an engine (R125) -/

/-- What an engine does on its way through a program that another may meet: an access, a BAR, a SIG, a WAIT. -/
inductive ProgEv where
  | acc (a : ProgAccess)
  | bar
  | sig (e : Nat)
  | wait (e : Nat)
  deriving DecidableEq, Repr

/-- The course of an engine from a place on, for as many instructions as are looked at: loops run, a SKIP whose lanes are known is taken or not, and
one whose lanes are not known may be either way (`unsure` holds the ranges that it may pass over). -/
def course (prog : List W64) : Nat → Nat → List (Nat × Nat) → List (Nat × Nat) → Look → List ProgEv
  | 0, _, _, _, _ => []
  | n + 1, pc, loops, unsure, k =>
    if prog.length ≤ pc then []
    else
      let w := nth 0 prog pc
      let o := fieldsOf w
      let k := k.forget ((unsure.filter (fun x => x.2 == pc)).map (fun x => (prog.take x.2).drop x.1)).flatten
      let unsure := unsure.filter (fun x => decide (pc < x.2))
      match opcodeOf w with
      | 0x01 => if unsure.isEmpty then [] else course prog n (pc + 1) loops unsure k
      | 0x02 => course prog n (pc + 1) ((pc + 1, bits w.toNat 0 24) :: loops) unsure k
      | 0x03 => match loops with
        | (b, m + 1) :: l => course prog n b ((b, m) :: l) unsure k
        | (_, 0) :: l => course prog n (pc + 1) l unsure k
        | [] => []
      | 0x04 =>
        let e := pc + 1 + bits w.toNat 0 12
        match k.lanes o with
        | some 0 => course prog n e loops unsure k
        | some _ => course prog n (pc + 1) loops unsure k
        | none => course prog n (pc + 1) loops ((pc + 1, e) :: unsure) k
      | 0x05 => .bar :: course prog n (pc + 1) loops unsure k
      | 0x06 => .sig (bits w.toNat 0 6) :: course prog n (pc + 1) loops unsure k
      | 0x07 => .wait (bits w.toNat 0 6) :: course prog n (pc + 1) loops unsure k
      | _ => ((accessOf w k).map ProgEv.acc).toList ++ course prog n (pc + 1) loops unsure (k.after w)

/-- The instructions of each engine that admission looks at (log 78). -/
def courseLength : Nat := 65536

/-- The course of the engine of a rank. -/
def rankCourse (prog : List W64) (rank : Nat) : List ProgEv := course prog courseLength 0 [] [] (Look.start rank)

/-- Every access at a fixed address lies in a window (R121): at an address that the constants fix, or the constants and a rank. -/
def VecJob.fixedOk (j : VecJob) : Bool :=
  let good := fun (a : ProgAccess) => a.base != 0 || a.mask == 0 ||
    (decide (a.addr + a.size ≤ galleryEnd) && j.windows.any (fun w => decide (w.1 ≤ a.addr ∧ a.addr + a.size ≤ w.1 + w.2)))
  j.mode == 1 || ((accesses j.prog).all good && (List.range j.engCount).all (fun r =>
    (rankCourse j.prog r).all (fun e => match e with | .acc a => good a | _ => true)))

/-! ### The order of writes (R125) -/

/-- A write with the BARs that its engine has reached before it, the event counters that it has waited for before, and those that it signals
after. -/
structure ProgWrite where
  acc    : ProgAccess
  bars   : Nat
  before : List Nat
  after  : List Nat
  deriving DecidableEq, Repr

def writesOf : List ProgEv → Nat → List Nat → List ProgWrite
  | [], _, _ => []
  | .acc a :: l, n, ws =>
    (if a.write then [{ acc := a, bars := n, before := ws,
                        after := l.filterMap (fun e => match e with | .sig c => some c | _ => none) }] else []) ++ writesOf l n ws
  | .bar :: l, n, ws => writesOf l (n + 1) ws
  | .sig _ :: l, n, ws => writesOf l n ws
  | .wait c :: l, n, ws => writesOf l n (c :: ws)

/-- The writes of the engine of a rank. -/
def rankWrites (prog : List W64) (rank : Nat) : List ProgWrite := writesOf (rankCourse prog rank) 0 []

/-- Two writes share a byte: of two GSTs at one address, only the lanes of both. -/
def ProgAccess.meets (a b : ProgAccess) : Bool :=
  a.base == b.base && decide (a.addr < b.addr + b.size ∧ b.addr < a.addr + a.size) && a.mask != 0 && b.mask != 0 &&
    !(a.addr == b.addr && a.size == 256 && b.size == 256 && a.mask &&& b.mask == 0)

/-- One write comes before the other by SIG and WAIT of one counter. -/
def signalled (a b : ProgWrite) : Bool := a.after.any (fun e => b.before.contains e) || b.after.any (fun e => a.before.contains e)

/-- Two engines of one job may write one location, with no BAR and no SIG and WAIT between the writes. -/
def VecJob.selfRace (j : VecJob) : Bool :=
  (List.range j.engCount).any (fun r => (List.range r).any (fun q =>
    (rankWrites j.prog q).any (fun a => (rankWrites j.prog r).any (fun b => a.acc.meets b.acc && a.bars == b.bars && !(signalled a b)))))

/-- Engines of two jobs, of wings v and w, may write one location, and no SIG and WAIT order the writes. Words of an argument block are the same
only where the jobs share the block. -/
def jobsRace (v w : Nat) (j k : VecJob) : Bool :=
  (List.range j.engCount).any (fun q => (List.range k.engCount).any (fun r =>
    (v != w || j.engFirst + q != k.engFirst + r) &&
      (rankWrites j.prog q).any (fun a => (rankWrites k.prog r).any (fun b =>
        a.acc.meets b.acc && (a.acc.base == 0 || j.argBase == k.argBase) && !(signalled a b)))))

/-! ### Posts to a courier queue (R178) and adds into the ledger (R247) -/

/-- The most SIGs of a counter that a program makes with no WAIT for another counter between: LOOPs multiply, unless their body waits, and
what a SKIP may pass over counts nothing. `mult` holds the factors of the open loops. -/
def postPeak (prog : List W64) (post done : Nat) : Nat → List W64 → List Nat → Nat → Nat → Nat
  | _, [], _, now, peak => max now peak
  | i, w :: l, mult, now, peak =>
    let m := mult.headD 1
    match opcodeOf w with
    | 0x02 =>
      let waits := (loopBody l 0).any (fun x => opcodeOf x == 0x07 && bits x.toNat 0 6 == done)
      postPeak prog post done (i + 1) l ((if waits then m else m * (bits w.toNat 0 24 + 1)) :: mult) now peak
    | 0x03 => postPeak prog post done (i + 1) l mult.tail now peak
    | 0x06 =>
      postPeak prog post done (i + 1) l mult
        (if bits w.toNat 0 6 = post ∧ (skipsAt prog i false).isEmpty then now + m else now) peak
    | 0x07 => if bits w.toNat 0 6 = done then postPeak prog post done (i + 1) l mult 0 (max now peak)
        else postPeak prog post done (i + 1) l mult now peak
    | _ => postPeak prog post done (i + 1) l mult now peak

/-- Entries that a job posts to a queue without waiting for one to complete. -/
def VecJob.posts (j : VecJob) (post done : Nat) : Nat := j.engCount * postPeak j.prog post done 0 j.prog [] 0 0

/-- A job quantises for the ledger. -/
def VecJob.quantises (j : VecJob) : Bool := j.prog.any (fun w => opcodeOf w == 0x77)

end Sys2Proof.Machine
end

