-- ==== Sys2Proof/Machine/Races.lean ====
section
/-! DEFINITION. The checks of admission on what the tasks of one program reach and write: gradient formats and entries
(spec/02_number_formats.md R46, spec/08_backward_and_deposit.md R225), ranges that moves fill and release (spec/07_memory_tiers.md R217),
staged and transposed images (spec/06_gallery_streams_tiles.md R173, R175), posts to couriers (R178), writes of engines
(spec/05_vector_engines.md R125) and adds into the local gradient buffer (spec/09_ledger_reduction_update.md R247). -/

namespace Sys2Proof.Machine

/-! ### Gradient formats and entries (R46, R225) -/

/-- The gradient format paired with a forward format (R46). The table of R46 has no row for E5M2: a backward product with such a forward operand
is rejected (DESIGN CHOICE, log 135). -/
def gradFmt (f : Nat) : Option Nat :=
  if [0x07, 0x08, 0x09, 0x0A, 0x0C, 0x0D].contains f then some 0x06
  else if [0x02, 0x03, 0x04].contains f then some 0x04
  else if f ≤ 1 then some f
  else none

/-- A job writes a gradient: a data or weight gradient that leaves the array. -/
def ArrayJob.isGrad (j : ArrayJob) : Bool := (j.role == 1 || j.role == 2) && !j.chainOut

/-- The forward operand of a backward product: the weights of a data gradient are stationary, the activations of a weight gradient move
(spec/04_matrix_arrays.md R105). -/
def ArrayJob.fwdFmt (j : ArrayJob) : Nat := if j.role = 1 then j.fmtS else j.fmtM

/-- The tensor that a job's product is written into, format and entry: the job's own, or for a part or segment that of the reduction. -/
def Cert.outTensor (k : Cert) (j : ArrayJob) : Nat × Nat :=
  match (if j.split || j.segment then (j.redGroup.bind (fun g => (k.groups.find? (fun x => x.number == g)).bind (fun x => x.product))) else none) with
  | some o => (o.fmt, o.smEntry)
  | none => (j.fmtO, j.smEntry)

/-- The output format is the gradient format of the forward operand and of every forward format that the task names. -/
def Cert.gradFmtOk (k : Cert) (t : Task) (j : ArrayJob) : Bool :=
  !j.isGrad || ((j.fwdFmt :: t.fwdFmts).all (fun f => gradFmt f == some (k.outTensor j).1))

/-- A backward task: it runs a backward product, or comes after one. -/
def Cert.isBackward (k : Cert) (anc : List (List Nat)) (i : Nat) : Bool :=
  (i :: nth [] anc i).any (fun t => (nth {} k.tasks t).arrayJobs.any (fun j => j.role == 1 || j.role == 2))

/-- The entries of forward tensors: outputs of other products, of attends, of the tensor slots of tasks that are not backward, and the
forward weights of the groups. -/
def Cert.fwdEntries (s : State) (k : Cert) (anc : List (List Nat)) : List Nat :=
  (k.jobs.filter (fun j => j.2.2.role == 0 || j.2.2.role == 3)).map (fun j => (k.outTensor j.2.2).2) ++
    k.tasks.filterMap (fun t => t.attend.map (fun a => a.smEntry)) ++
    ((k.tasks.zipIdx.filter (fun x => !k.isBackward anc x.2)).map (fun x =>
      (x.1.vecJobs.map (fun j => j.slots.map (fun t => t.sm))).flatten)).flatten ++
    (match k.groupTable with
      | some a => (List.range k.groupCount).map (fun g => field (s.rd (a + 128 * g) 128) 6 2)
      | none => [])

/-- A gradient in a managed format has an entry in that format, which no forward tensor shares. -/
def Cert.gradEntryOk (k : Cert) (sm : SmTable) (fwd : List Nat) (j : ArrayJob) : Bool :=
  let o := k.outTensor j
  !j.isGrad || ((!fmtManaged o.1 || (o.2 != 0xFFFF && (match sm.entries[o.2]? with | some e => e.fmt == o.1 | none => false))) &&
    (o.2 == 0xFFFF || !fwd.contains o.2))

/-- Two gradient jobs that share an entry write one tensor: one role, one shape and one reduction. -/
def Cert.gradApart (k : Cert) (a b : ArrayJob) : Bool :=
  (k.outTensor a).2 != (k.outTensor b).2 || (k.outTensor a).2 == 0xFFFF ||
    (a.role == b.role && a.tensorCols == b.tensorCols && a.tensorRows == b.tensorRows && a.redGroup == b.redGroup)

def Cert.gradBad (s : State) (k : Cert) (sm : SmTable) (anc : List (List Nat)) : List Bad :=
  let fwd := k.fwdEntries s anc
  failing 6 k.tasks (fun _ t => t.arrayJobs.all (k.gradFmtOk t)) ++
    failing 6 k.tasks (fun _ t => t.arrayJobs.all (k.gradEntryOk sm fwd)) ++
    ((pairs (k.jobs.filter (fun j => j.2.2.isGrad))).filter (fun x => !k.gradApart x.1.2.2 x.2.2.2)).map (fun x => (6, x.2.1))

/-! ### What a task reaches (R217; log 106) -/

/-- The tiles that a stream's command list names, as they stand in memory. -/
def State.listTiles (s : State) (e : StreamEntry) : List (Nat × Nat) :=
  if e.listBase = 0 then [] else (List.range e.listCount).map (fun i => ((ListEntry.ofBytes (s.rd (e.listBase + 16 * i) 16)).addr, tileBytes))

/-- The tiles that a task's out-streams write. -/
def State.outTiles (s : State) (t : Task) : List (Nat × Nat) := ((t.streams.filter (fun e => e.out)).map s.listTiles).flatten

/-- The ranges that the courier entries of task i name. -/
def Cert.courierRanges (k : Cert) (i : Nat) : List (Nat × Nat) := ((k.couriers.filter (fun b => b.task == i)).map (fun b => b.reaches)).flatten.eraseDups

/-- The ranges that task i reaches through its streams, courier entries, array jobs and vector jobs. -/
def Cert.reaches (s : State) (k : Cert) (i : Nat) (t : Task) : List (Nat × Nat) :=
  (t.arrayJobs.map (fun j => [(j.statBase, tileBytes * j.statTiles), (j.movBase, tileBytes * j.movTiles), (j.outBase, j.outBytes),
      (j.handIn, if j.chainIn then 32 * (j.mCount * j.nCount) else 0)])).flatten ++
    (t.vecJobs.map (fun j => j.windows ++ [(j.recordBase, 16 * j.recordCount), (j.gradBase, 8 * j.recordCount)])).flatten ++
    (t.streams.map s.listTiles).flatten ++ k.courierRanges i

/-- A move: the range that it fills, the range that it releases, the tasks that do it, and the tasks for which a prefetch does it. -/
structure MoveUse where
  fills    : Nat × Nat
  releases : Nat × Nat
  byTask   : List Nat
  due      : List Nat

def Cert.moveUses (k : Cert) : List MoveUse :=
  (k.moves.zipIdx.filter (fun x => x.1.kind != .ret)).map (fun x =>
    { fills := (x.1.dst, tileBytes * x.1.count), releases := (x.1.src, if x.1.kind = .move then tileBytes * x.1.count else 0),
      byTask := (k.tasks.zipIdx.filter (fun y => y.1.moves.contains x.2)).map (fun y => y.2),
      due := ((k.prefetch.map (fun l => (l.filter (fun p => p.move == x.2)).map (fun p => p.due))).flatten) })

/-- Task i, which reaches the ranges, comes after each move that fills one of them and before each that releases one. A prefetch comes
before its DUE task, and before no task alone: it waits for none (R220). -/
def MoveUse.orderOk (m : MoveUse) (anc : List (List Nat)) (i : Nat) (rs : List (Nat × Nat)) : Bool :=
  (!(rs.any (fun r => overlap r.1 r.2 m.fills.1 m.fills.2)) ||
      (m.byTask.all (fun t => before anc t i) && m.due.all (fun d => d == i || before anc d i))) &&
    (!(rs.any (fun r => overlap r.1 r.2 m.releases.1 m.releases.2)) ||
      (m.byTask.all (fun t => before anc i t) && m.due.isEmpty))

/-! ### Staged and transposed images (R173, R175) -/

/-- A move takes from or puts into the ring of a stream. -/
def Cert.onSlot (k : Cert) (m : MoveItem) : Bool :=
  m.kind != .ret && k.streamsAll.any (fun x => overlap x.2.bufBase x.2.ringBytes m.dst (tileBytes * m.count) ||
    (m.kind == .move && overlap x.2.bufBase x.2.ringBytes m.src (tileBytes * m.count)))

/-- Ranges of the operands of block-scaled products. -/
def Cert.scaledRanges (k : Cert) : List (Nat × Nat) :=
  ((k.jobs.filter (fun j => j.2.2.bscale)).map (fun j =>
    [(j.2.2.statBase, tileBytes * j.2.2.statTiles), (j.2.2.movBase, tileBytes * j.2.2.movTiles)])).flatten

/-- A transposing stream or move has a block-scaled tensor at its end. -/
def Cert.xposeScaled (k : Cert) (base n : Nat) : Bool := k.scaledRanges.any (fun r => overlap r.1 r.2 base n)

/-! ### Adds into the local gradient buffer (R225, R247) -/

/-- What task i puts into a range: the tiles that it writes out, and the ranges of its courier entries. -/
def Cert.putsInto (s : State) (k : Cert) (i : Nat) (t : Task) (base n : Nat) : List (Nat × Nat) :=
  (s.outTiles t ++ k.courierRanges i).filter (fun r => overlap r.1 r.2 base n)

/-- Task i writes into a range, by an out-stream, a courier entry, a move, the records of an update job, or the windows of its engines. -/
def Cert.writesInto (s : State) (k : Cert) (i : Nat) (t : Task) (base n : Nat) : Bool :=
  !(k.putsInto s i t base n).isEmpty || t.moves.any (fun m => (nth {} k.moves m).kind != .ret &&
    overlap (nth {} k.moves m).dst (tileBytes * (nth {} k.moves m).count) base n) ||
    t.vecJobs.any (fun j => if j.mode = 1 then overlap j.recordBase (16 * j.recordCount) base n
      else j.windows.any (fun r => overlap r.1 r.2 base n))

/-- The faults of one ledger entry: more adds into an element than LOCAL_ADDS, counted as the tiles and courier ranges that quantising tasks write over it; a
task that writes the buffer without an order to the ledger task; two tasks that add into one element without an order. -/
def Cert.localBad (s : State) (k : Cert) (anc : List (List Nat)) (le : Nat) (l : LedgerEntry) : List Bad :=
  let n := 8 * l.elements
  let adders := k.tasks.zipIdx.filter (fun x => x.1.vecJobs.any VecJob.quantises)
  let puts := adders.map (fun x => (x.2, k.putsInto s x.2 x.1 l.localBase n))
  let all := (puts.map (fun x => x.2)).flatten
  failIf (all.any (fun a => decide (l.localAdds < (all.filter (fun b => decide (b.1 ≤ a.1 ∧ a.1 < b.1 + b.2))).length))) 7 le ++
    (k.tasks.zipIdx.filter (fun x => k.writesInto s x.2 x.1 l.localBase n &&
      k.tasks.zipIdx.any (fun y => y.1.ledger == some le && y.2 != x.2 && !ordered anc x.2 y.2))).map (fun x => (7, x.2)) ++
    ((pairs puts).filter (fun x => !ordered anc x.1.1 x.2.1 && x.1.2.any (fun a => x.2.2.any (fun b => overlap a.1 a.2 b.1 b.2)))).map
      (fun x => (7, x.2.1))

/-! ### The sources of multicasts (spec/11_ralda_link.md R324) -/

/-- The source tiles of a task's multicasts, which a recall may read again. -/
def State.mcastTiles (s : State) (t : Task) : List (Nat × Nat) :=
  ((t.sends.filter (fun e => e.kind == .multicast)).map (fun e =>
    ((t.streams.filter (fun y => !y.out && y.unit == e.srcUnit)).map s.listTiles).flatten)).flatten

/-- Pairs of a task with a multicast and a task that may write a source of it before it completes: itself, or one without an order to it. -/
def Cert.mcastRaces (s : State) (k : Cert) (anc : List (List Nat)) : List Bad :=
  (k.tasks.zipIdx.map (fun x =>
    let l := s.mcastTiles x.1
    (k.tasks.zipIdx.filter (fun y => (y.2 == x.2 || !ordered anc x.2 y.2) && l.any (fun r => k.writesInto s y.2 y.1 r.1 r.2))).map
      (fun y => (7, y.2)))).flatten

/-! ### All of them -/

/-- General-mode vector jobs with their task and wing. -/
def Cert.vecAll (k : Cert) : List (Nat × Nat × VecJob) :=
  (k.tasks.zipIdx.map (fun x => (x.1.vecJobs.filter (fun j => j.mode == 0)).map (fun j => (x.2, x.1.wing, j)))).flatten

def Cert.raceBad (s : State) (k : Cert) (anc : List (List Nat)) : List Bad :=
  failing 7 k.tasks (fun i t => k.moveUses.all (fun m => m.orderOk anc i (k.reaches s i t))) ++
    failing 7 k.moves (fun _ m => !k.onSlot m) ++
    failing 6 k.moves (fun _ m => !(m.xpose && m.kind == .move &&
      (k.xposeScaled m.dst (tileBytes * m.count) || k.xposeScaled m.src (tileBytes * m.count)))) ++
    failing 6 k.tasks (fun _ t => t.streams.all (fun e => !(e.xpose && k.xposeScaled e.bufBase e.ringBytes))) ++
    failing 7 k.couriers (fun _ b => decide (((nth {} k.tasks b.task).vecJobs.map (fun j => j.posts b.postEvt b.doneEvt)).sum ≤ 64)) ++
    failing 7 k.tasks (fun _ t => t.vecJobs.all (fun j => j.mode == 1 || !j.selfRace)) ++
    ((pairs k.vecAll).filter (fun x => (x.1.1 == x.2.1 || !ordered anc x.1.1 x.2.1) && jobsRace x.1.2.1 x.2.2.1 x.1.2.2 x.2.2.2)).map
      (fun x => (7, x.2.1)) ++
    (k.ledgers.zipIdx.map (fun x => k.localBad s anc x.2 x.1)).flatten ++ k.mcastRaces s anc

end Sys2Proof.Machine
end

