-- ==== Sys2Proof/Machine/Admission.lean ====
section
/-! DEFINITION. The checks of admission (spec/12_rings_contexts_rota.md R343, R355, R460 to R462, spec/01_module_and_one_step.md R19, and
the chapters that add checks). -/

namespace Sys2Proof.Machine

/-! ### Units (R418, R420, R14, R118) -/

/-- A unit of a module-wide unit number is in the holdings. -/
def State.unitPresent (s : State) (u : Nat) : Bool :=
  if u < 8 then s.hasArray u
  else if within u 0x100 0x1FF then s.hasEngine (u - 0x100)
  else if within u 0x200 0x3FF then s.hasWing ((u - 0x200) / 128)
  else if within u 0x400 0x43F then s.hasWing ((u - 0x400) / 16)
  else if within u 0x440 0x47F then s.hasWing ((u - 0x440) / 16)
  else if within u 0x480 0x483 then s.hasWing (u - 0x480)
  else if within u 0x490 0x493 then s.hasWing (u - 0x490)
  else if within u 0x500 0x513 then s.hasStack (u - 0x500)
  else if within u 0x600 0x60F then s.linkWidth (u - 0x600) != 0
  else if within u 0x700 0x7FF then s.linkWidth ((u - 0x700) / 16) != 0
  else if within u 0x800 0x803 then s.hasBt (u - 0x800)
  else if within u 0x1000 0x1FFF then s.hasWing ((u - 0x1000) / 1024)
  else within u 0x2000 0x2004 || within u 0x2100 0x2143 || within u 0x2300 0x235F || within u 0x2400 0x24FF

/-- Wings to which a unit number belongs: one, the two of a board-tier port's die, or all for a module-wide unit (R14, R15, R188). -/
def unitWings (u : Nat) : List Nat :=
  if u < 8 then [u / 2]
  else if within u 0x100 0x1FF then [(u - 0x100) / 64]
  else if within u 0x200 0x3FF then [(u - 0x200) / 128]
  else if within u 0x400 0x43F then [(u - 0x400) / 16]
  else if within u 0x440 0x47F then [(u - 0x440) / 16]
  else if within u 0x480 0x483 then [u - 0x480]
  else if within u 0x490 0x493 then [u - 0x490]
  else if within u 0x500 0x513 then [(u - 0x500) / 5]
  else if within u 0x600 0x60F then [portWing (u - 0x600)]
  else if within u 0x700 0x7FF then [portWing ((u - 0x700) / 16)]
  else if within u 0x800 0x803 then [(u - 0x800) / 2 * 2, (u - 0x800) / 2 * 2 + 1]
  else if within u 0x1000 0x1FFF then [(u - 0x1000) / 1024]
  else [0, 1, 2, 3]

/-- The unit whose slots an allotment gives; a network slot is of no one unit. -/
def Resource.unit : Resource → Option Nat
  | .galleryLane w _ => some (uWing w)
  | .network _ => none
  | .arrayPort a _ => some (uArray a)
  | .stackPc k _ => some (uStack k)
  | .boardPort b => some (uBt b)
  | .linkSend p => some (uPort p)
  | .linkTransit p => some (uPort p)
  | .hostShareStack k => some (uStack k)
  | .hostSharePort b => some (uBt b)

/-- A context holds a wing of a unit. -/
def Cert.unitHeld (s : State) (c u : Nat) : Bool := (unitWings u).any (fun w => Cert.held s c w)

/-- The arrays and engine groups of a ready-list entry of wing w are present (R241). -/
def State.entryPresent (s : State) (w : Nat) (e : ReadyEntry) : Bool :=
  (List.range 2).all (fun j => !e.arrays.getLsbD j || s.hasArray (2 * w + j)) &&
    (List.range 8).all (fun g => !e.groups.getLsbD g || s.hasEngine (64 * w + 8 * g))

/-- Every unit that a certificate names or allots belongs to the context (R14) and, but in open mode, is in the holdings (R19); every link port
that it uses lies on a wing of the context (R14) and is named at its present width, with its peer (R307, R318). -/
def Cert.unitsBad (s : State) (c : Nat) (k : Cert) (opened : Bool) : List Bad :=
  failing 5 k.units (fun _ u => (opened || s.unitPresent u) && Cert.unitHeld s c u) ++
    failing 5 k.allots (fun _ a => match a.res.unit with | some u => (opened || s.unitPresent u) && Cert.unitHeld s c u | none => true) ++
    failing 5 k.tasks (fun _ t => decide (t.wing < 4) && Cert.held s c t.wing) ++
    failing 5 k.tasks (fun _ t => opened || t.arrayJobs.all (fun j => s.hasArray (2 * t.wing + j.array))) ++
    failing 5 k.tasks (fun _ t => t.vecJobs.all (fun j => (List.range j.engCount).all (fun i =>
      s.hasEngine (64 * t.wing + j.engFirst + i)))) ++
    (k.lists.zipIdx.map (fun x => (x.1.filter (fun e => !opened && !s.entryPresent x.2 e)).map (fun e => (5, e.task)))).flatten ++
    failing 5 k.tasks (fun _ t => opened || (match t.attend with
      | some a => (List.range a.engCount).all (fun i => s.hasEngine (64 * t.wing + a.engFirst + i))
      | none => true)) ++
    failing 5 k.ports (fun _ p => s.portUp p && s.fld RegF.lnkStsState p == 2) ++
    failing 5 k.halfPorts (fun _ p => s.portUp p && s.fld RegF.lnkStsState p == 3) ++
    failing 5 k.linkPorts (fun _ p => k.ports.contains p || k.halfPorts.contains p) ++
    failing 5 k.linkPorts (fun _ p => k.peers.any (fun x => x.1 == p)) ++ failing 5 k.linkPorts (fun _ p => Cert.held s c (portWing p)) ++
    failing 5 k.queues (fun _ q => Cert.held s c q.wing) ++
    failing 5 k.peers (fun _ x => s.flag RegF.lnkStsPeerValid x.1 && s.peer x.1 == x.2)

/-! ### Array jobs (R57 to R59, R76, R78, R79, R92, R38, R47) -/

/-- The least number of cycles between issues (R98). -/
def ArrayJob.minIssue (j : ArrayJob) : Nat :=
  match j.cls with
  | .exact => 1
  | .block => 1
  | .canonical => 2
  | .limb32 => 6
  | .limb64 => 28

/-- A K boundary of a canonical, limb or block-scaled job lies on a panel. -/
def ArrayJob.panelOk (j : ArrayJob) : Bool :=
  j.cls == .exact || (j.kStart % 32 == 0 && (j.kEnd % 32 == 0 || j.kEnd == j.kTotal))

/-- A format code that a certificate may name for a tensor: not reserved, and not E8M39 (R32). -/
def fmtNamed (f : Nat) : Bool := decide (f ≤ 0x10 ∧ f ≠ 0x05)

/-- Format rules (reason 6). -/
def ArrayJob.formatOk (j : ArrayJob) : Bool :=
  (classOf j.fmtS j.fmtM j.bscale).isSome && fmtNamed j.fmtO && j.fmtO != 0x0B && j.panelOk && !j.fromDevice

/-- A scale exponent of LI64 or LI96 elements has 12 bits (R29). -/
def scaleOk (e : Int) : Bool := decide (-2048 ≤ e ∧ e ≤ 2047)

/-- Field rules (reason 7). -/
def ArrayJob.fieldOk (j : ArrayJob) : Bool :=
  scaleOk j.ledScale && decide (j.form < 4 ∧ j.rnd < 4 ∧ j.role < 4 ∧ 1 ≤ j.nCount ∧ j.nCount ≤ j.width) && within j.mCount 1 (2 ^ 24) &&
    decide (j.kStart < j.kEnd ∧ j.kEnd ≤ 2 ^ 24 ∧ j.kTotal ≤ 2 ^ 24) && (j.issue == 0 || decide (j.minIssue ≤ j.issue)) && !j.rsv &&
    decide (j.parts ≤ 4096 ∧ j.array < 2) && j.laidOut

/-- A rounding mode of SR needs an entry with SR set (R38). -/
def SmTable.srOk (t : SmTable) (sm rnd : Nat) : Bool :=
  rnd != 3 || (sm != 0xFFFF && (match t.entries[sm]? with | some e => e.sr | none => false))

/-- An entry reference is none or below ENTRY_COUNT (R47). -/
def SmTable.refOk (t : SmTable) (sm : Nat) : Bool := sm == 0xFFFF || decide (sm < t.entries.length)

/-- A tensor that takes SR has fewer than 2^48 elements (R38). Admission judges it by RND, not by the entry's SR bit (DESIGN CHOICE, log 135). -/
def srElems (rnd rows cols : Nat) : Bool := rnd != 3 || decide (rows * cols < 2 ^ 48)

/-- Only a tensor in a managed format has a scale-manager entry (R47). -/
def entryFmtOk (sm fmt : Nat) : Bool := sm == 0xFFFF || fmtManaged fmt

/-- The tiles of an operand or output lie in the task's windows: the ring that the base lies in, or the n tiles or bytes from it. -/
def Cert.baseOk (k : Cert) (t : Task) (base bytes : Nat) (out : Bool) : Bool :=
  base % 64 == 0 && (match k.ringOf t.wing base out with
    | some e => inWindow t.windows e.bufBase e.ringBytes
    | none => inWindow t.windows base bytes)

/-- The addresses of an array job (R460): every byte of its operands, of its outputs or records, and of the records it reads. -/
def Cert.addrOk (k : Cert) (t : Task) (j : ArrayJob) : Bool :=
  k.baseOk t j.statBase (tileBytes * j.statTiles) false && k.baseOk t j.movBase (tileBytes * j.movTiles) false &&
    (if j.chainOut then j.outBase % 64 == 0 && inWindow t.windows j.outBase j.outBytes else k.baseOk t j.outBase j.outBytes true) &&
    (!j.chainIn || (j.handIn % 32 == 0 && inWindow t.windows j.handIn (32 * (j.mCount * j.nCount))))

/-- Job a hands its chain to job b, whose task depends on a's (R76). -/
def handsOn (anc : List (List Nat)) (a b : Nat × Nat × ArrayJob) : Bool :=
  a.2.2.chainOut && b.2.2.chainIn && a.2.2.outBase == b.2.2.handIn && a.2.2.kEnd == b.2.2.kStart && a.2.2.nCount == b.2.2.nCount &&
    a.2.2.mCount == b.2.2.mCount && a.2.2.fmtS == b.2.2.fmtS && a.2.2.fmtM == b.2.2.fmtM && a.2.2.bscale == b.2.2.bscale &&
    before anc a.1 b.1

def Cert.arrayBad (k : Cert) (sm : SmTable) (anc : List (List Nat)) : List Bad :=
  let on := fun (reason : Nat) (f : ArrayJob → Bool) => failing reason k.tasks (fun _ t => t.arrayJobs.all f)
  on 6 ArrayJob.formatOk ++ on 7 ArrayJob.fieldOk ++ on 7 (fun j => sm.refOk j.smEntry) ++
    on 6 (fun j => sm.srOk j.smEntry j.rnd && srElems j.rnd (max j.mCount j.tensorRows) j.tensorCols) ++
    on 6 (fun j => entryFmtOk j.smEntry j.fmtO) ++
    failing 7 k.tasks (fun _ t => t.arrayJobs.all (k.addrOk t)) ++
    failing 7 k.tasks (fun i t => t.arrayJobs.all (fun j => (k.ready i).arrays.getLsbD j.array)) ++
    (k.jobs.filter (fun b => b.2.2.chainIn && !(k.jobs.any (fun a => handsOn anc a b)))).map (fun b => (7, b.1)) ++
    (k.jobs.filter (fun a => a.2.2.chainOut && !(k.jobs.any (fun b => handsOn anc a b)))).map (fun a => (7, a.1))

/-! ### Vector jobs (R119, R121, R145) -/

def VecJob.fieldOk (j : VecJob) : Bool :=
  decide (j.mode < 2 ∧ j.engFirst < 64 ∧ j.engFirst + j.engCount ≤ 64) && within j.engCount 1 64 && j.prog.length == j.progLen &&
    within j.progLen 1 (if j.mode = 1 then 48 else 4096) && !j.rsv && j.progBase % 8 == 0 &&
    (if j.mode = 1 then
      j.recordBase % 16 == 0 && j.gradBase % 8 == 0 && decide (1 ≤ j.recordCount) && j.group != 0xFFFF &&
        (match homeOf j.recordBase, homeOf j.gradBase with | .near _, .near _ => true | _, _ => false)
    else j.argBase % 64 == 0 && j.group == 0xFFFF && j.recordBase == 0 && j.gradBase == 0 && j.recordCount == 0) &&
    decide (j.slots.length ≤ 4) && j.laidOut

def VecJob.slotsOk (sm : SmTable) (j : VecJob) : Bool :=
  j.slots.all (fun t => fmtNamed t.fmt && sm.srOk t.sm t.rnd && srElems t.rnd t.tensorRows t.tensorCols && entryFmtOk t.sm t.fmt)

def VecJob.addrOk (j : VecJob) : Bool :=
  inWindow j.windows j.progBase (8 * j.progLen) && (j.mode == 1 || inWindow j.windows j.argBase 128)

def VecJob.reason (j : VecJob) : Option Nat := if j.mode = 1 then updateReason j.prog else generalReason j.prog

def Cert.vecBad (k : Cert) (sm : SmTable) : List Bad :=
  let on := fun (reason : Nat) (f : VecJob → Bool) => failing reason k.tasks (fun _ t => t.vecJobs.all f)
  on 7 VecJob.fieldOk ++ on 6 (VecJob.slotsOk sm) ++ on 7 (fun j => j.slots.all (fun t => sm.refOk t.sm && !t.rsv && decide (t.rnd < 4))) ++
    on 7 VecJob.addrOk ++ on 7 VecJob.fixedOk ++ on 6 (fun j => j.reason != some 6) ++ on 7 (fun j => j.reason != some 7) ++
    failing 7 k.tasks (fun i t => t.vecJobs.all (fun j => (List.range j.engCount).all (fun e =>
      (k.ready i).groups.getLsbD ((j.engFirst + e) / 8))))

/-! ### Windows (R14, R155) -/

/-- A window lies in the gallery of one wing, below the vestibule slots (R155). -/
def windowOk (x : Nat × Nat) : Bool := x.2 == 0 || decide (x.1 + x.2 ≤ galleryEnd ∧ x.1 % 0x6000000 + x.2 ≤ 0x5000000)

def Task.allWindows (t : Task) : List (Nat × Nat) := t.windows ++ (t.vecJobs.map (fun j => j.windows)).flatten

def Cert.windowBad (s : State) (c : Nat) (k : Cert) : List Bad :=
  failing 7 k.tasks (fun _ t => t.allWindows.all windowOk) ++
    failing 5 k.tasks (fun _ t => t.allWindows.all (fun x => x.2 == 0 || Cert.held s c (galleryWing x.1)))

/-! ### Streams (R165, R171, R19) -/

def StreamEntry.fieldOk (e : StreamEntry) (bound : Bool) : Bool :=
  within e.slots 2 16 && decide (e.mover < 16 ∧ e.unit < 128 ∧ e.fillEvt < 64) && within e.listCount 1 (2 ^ 24) && e.bufBase % 64 == 0 &&
    e.listBase % 16 == 0 && !e.rsv && e.laidOut && !(e.out && e.xpose) && !(bound && (e.standing || e.rearm || e.listBase != 0))

/-- A re-arming entry fits the standing loan that its unit holds (R171). -/
def Cert.rearmOk (k : Cert) (anc : List (List Nat)) (t : Nat) (e : StreamEntry) : Bool :=
  let w := (nth {} k.tasks t).wing
  let same := k.streamsAll.filter (fun x => x.2.unit == e.unit && (nth {} k.tasks x.1).wing == w && x.1 != t)
  same.any (fun x => x.2.standing && !x.2.rearm && x.2.out == e.out && x.2.xpose == e.xpose && x.2.slots == e.slots &&
      x.2.bufBase == e.bufBase && x.2.mover == e.mover && before anc x.1 t) && same.all (fun x => ordered anc x.1 t)

/-- The rings of two streams share bytes, and neither follows the other in the task graph or re-arms it; a standing loan keeps its ring
until the program is unloaded. -/
def ringsClash (anc : List (List Nat)) (a b : Nat × StreamEntry) : Bool :=
  overlap a.2.bufBase a.2.ringBytes b.2.bufBase b.2.ringBytes && !a.2.rearm && !b.2.rearm &&
    (a.1 == b.1 || !ordered anc a.1 b.1 || a.2.standing || b.2.standing)

/-- A stream's ring shares bytes with a receive queue's that its unit does not drain (R316). -/
def Cert.queueClash (k : Cert) (x : Nat × StreamEntry) : Bool :=
  k.queues.any (fun q => overlap x.2.bufBase x.2.ringBytes q.base (tileBytes * q.slots) &&
    !(q.toStream && q.unit == x.2.unit && q.wing == (nth {} k.tasks x.1).wing))

def Cert.streamBad (k : Cert) (anc : List (List Nat)) (opened : Bool) : List Bad :=
  failing 7 k.tasks (fun _ t => t.streams.all (fun e => e.fieldOk (t.binds.any (fun b => b.unit == e.unit)) &&
      inWindow t.windows e.bufBase e.ringBytes)) ++
    failing 7 k.tasks (fun i t => t.streams.all (fun e => !e.rearm || k.rearmOk anc i e)) ++
    (if opened then [] else ((pairs k.streamsAll).filter (fun x => ringsClash anc x.1 x.2)).map (fun x => (3, x.2.1)) ++
      (k.streamsAll.filter (fun x => k.queueClash x)).map (fun x => (3, x.1)))

/-! ### Moves, K4 fetches, returns, prefetch lists (R176, R211, R217, R219, R236) -/

/-- Windows of the task that a move works for: the task that gives it, or the DUE task of a prefetch entry. -/
def Cert.moveWindows (k : Cert) (m : Nat) : List (Nat × Nat) :=
  ((k.tasks.filter (fun t => t.moves.contains m)).map (fun t => t.windows)).flatten ++
    (k.prefetch.map (fun l => ((l.filter (fun p => p.move == m)).map (fun p => (nth {} k.tasks p.due).windows)).flatten)).flatten

def MoveItem.fieldOk (x : MoveItem) (compat : Bool) (ws : List (Nat × Nat)) : Bool :=
  within x.count 1 65536 && decide (x.mover < 16 ∧ x.doneEvt < 64) && !x.rsv && x.laidOut &&
    (match x.kind with
      | .ret => decide (x.shelf < 16)
      | .k4 => compat && decide (x.dstHome < 3 ∧ x.ns < 16 ∧ x.src % 64 = 0) && tilesOk ws x.dstHome x.dst x.count
      | .move => decide (x.dstHome < 3 ∧ x.srcHome < 4) && (x.srcHome != 3 || compat) && tilesOk ws x.srcHome x.src x.count &&
          tilesOk ws x.dstHome x.dst x.count)

def Cert.moveBad (k : Cert) (compat : Bool) : List Bad :=
  failing 7 k.moves (fun m x => x.fieldOk compat (k.moveWindows m)) ++
    failing 7 k.tasks (fun _ t => t.moves.all (fun m => decide (m < k.moves.length) && (nth {} k.moves m).wing == t.wing)) ++
    (k.prefetch.map (fun l => failing 7 l (fun _ p =>
      decide (p.move < k.moves.length ∧ p.afterEvt < 64 ∧ p.due < k.tasks.length) && !p.rsv && p.laidOut))).flatten

/-! ### Deposit tables and bindings (R229, R230, R232, R238) -/

def ShelfEntry.fieldOk (x : ShelfEntry) : Bool :=
  !x.rsv && x.laidOut && (!x.valid || (x.nearBase % 64 == 0 && x.spillBase % 64 == 0 && within x.nearTiles 1 (2 ^ 24) &&
    within x.depthTiles x.nearTiles (2 ^ 24) && decide (x.spillLead < x.nearTiles ∧ x.spillMover < 16) &&
    (x.depthTiles != x.nearTiles || x.spillBase == 0)))

/-- The slots of a shelf's spill allotment lie in the wing's share of the port (R15). -/
def Cert.spillShare (s : State) (k : Cert) (w : Nat) (x : ShelfEntry) : Bool :=
  x.depthTiles == x.nearTiles || k.allots.all (fun a => a.num != x.allot || (match a.res with
    | .boardPort b => s.shareOk w b a.slot
    | _ => true))

/-- The near area of a shelf lies in the context's deposit reservation. -/
def State.nearFits (s : State) (c : Nat) (x : ShelfEntry) : Bool :=
  let lo := s.fld RegF.ctxDepBase64k c * 65536
  decide (lo ≤ x.nearBase ∧ x.nearBase + tileBytes * x.nearTiles ≤ lo + s.fld RegF.ctxDepSize64k c * 65536)

/-- The spill area lies in a board-tier port that the wing shares: ports 0 and 1 belong to wings 0 and 1 of die 0, ports 2 and 3 to
wings 2 and 3 (R15). -/
def spillFits (w : Nat) (x : ShelfEntry) : Bool :=
  x.depthTiles == x.nearTiles || (match homeOf x.spillBase, homeOf (x.spillBase + tileBytes * x.depthTiles - 1) with
    | .board b, .board d => b == d && b / 2 == w / 2
    | _, _ => false)

def DepBind.fieldOk (t : Task) (b : DepBind) : Bool :=
  !b.rsv && b.laidOut && decide (b.shelf < 16 ∧ b.unit < 128) && within b.tiles 1 (2 ^ 20) && (if b.pop then within b.uses 1 255 else b.uses == 0) &&
    t.streams.any (fun e => e.unit == b.unit && e.out == !b.pop && e.listCount == b.tiles && (b.pop || !e.xpose))

/-- The bindings of a shelf of a wing in the order of its ready list, with their tasks; a mark is a binding of none. -/
def Cert.shelfPlay (k : Cert) (w h : Nat) : List (Nat × Option DepBind) :=
  ((nth [] k.lists w).map (fun e =>
    let t := nth {} k.tasks e.task
    if t.stepEnd then [(e.task, none)]
    else (t.binds.filter (fun b => b.shelf == h)).map (fun b => (e.task, some b)))).flatten

/-- The play of one shelf: TOP, the positions held with their guard groups, those marked for spilling, those ever spilled, and
failures. -/
structure PlaySt where
  top : Nat := 0
  guards : List (Nat × Nat) := []
  spilled : List Nat := []
  ever : List Nat := []
  bad : List Bad := []

/-- One binding or mark of the play (R229, R234, R235, R238). A mark empties the shelf. In open mode a mark that finds it not empty passes, for
the shelf is then counted in LEFTOVER (R239), and so does a push or pop that TOP does not allow, which changes nothing: its task aborts when it
is armed (R240). -/
def Cert.playStep (k : Cert) (w h : Nat) (x : ShelfEntry) (opened : Bool) (p : PlaySt) (y : Nat × Option DepBind) : PlaySt :=
  match y.2 with
  | none => { p with top := 0, guards := [], spilled := [], bad := (if p.top = 0 ∨ opened then [] else [(4, y.1)]) ++ p.bad }
  | some b =>
    if b.pop then
      if p.top < b.tiles then { p with bad := (if opened then [] else [(4, y.1)]) ++ p.bad }
      else
        let lo := p.top - b.tiles
        let back := ((nth [] k.prefetch w).filter (fun f => f.due == y.1)).map (fun f => nth {} k.moves f.move)
        let covered := fun q => back.any (fun m => m.kind == .ret && m.shelf == h && decide (m.firstPos ≤ q ∧ q < m.firstPos + m.count))
        let lost := (p.spilled.filter (fun q => decide (lo ≤ q))).any (fun q => !covered q)
        let mixed := (p.guards.filter (fun g => decide (lo ≤ g.1))).any (fun g => g.2 != b.guard)
        { p with top := lo, guards := p.guards.filter (fun g => decide (g.1 < lo)), spilled := p.spilled.filter (fun q => decide (q < lo)),
                 bad := (if lost then [(4, y.1)] else []) ++ (if mixed ∨ b.guard ≠ (k.ready y.1).guard then [(7, y.1)] else []) ++ p.bad }
    else if x.depthTiles < p.top + b.tiles then { p with bad := (if opened then [] else [(4, y.1)]) ++ p.bad }
    else
      let top := p.top + b.tiles
      let marked := (List.range top).filter (fun q => decide (q + x.nearTiles - x.spillLead ≤ top - 1) && !p.spilled.contains q)
      { p with top := top, guards := p.guards ++ (List.range b.tiles).map (fun i => (p.top + i, b.guard)), spilled := p.spilled ++ marked,
               ever := p.ever ++ marked }

/-- The returns to a shelf of a wing with their places in the move table: those of the wing, and those that its prefetch list names. -/
def Cert.returnsOf (k : Cert) (w h : Nat) : List (Nat × MoveItem) :=
  (k.moves.zipIdx.filter (fun x => x.1.kind == .ret && x.1.shelf == h &&
    (x.1.wing == w || (nth [] k.prefetch w).any (fun f => f.move == x.2)))).map (fun x => (x.2, x.1))

/-- The checks of one shelf entry h of wing w. Whether its near area fits the reservation is a check of R19, which open mode skips. -/
def Cert.shelfBad (s : State) (c : Nat) (k : Cert) (anc : List (List Nat)) (opened : Bool) (w h : Nat) (x : ShelfEntry) : List Bad :=
  let play := k.shelfPlay w h
  let users := (play.filter (fun y => y.2.isSome)).map (fun y => y.1)
  let r := play.foldl (k.playStep w h x opened) {}
  if x.valid then
    failIf (!(opened || s.nearFits c x) || !spillFits w x || !k.spillShare s w x) 4 h ++
      ((pairs users).filter (fun y => !ordered anc y.1 y.2)).map (fun y => (4, y.2)) ++ r.bad ++
      (k.returnsOf w h).filterMap (fun y => if (List.range y.2.count).any (fun i => !r.ever.contains (y.2.firstPos + i)) then some (4, y.1) else none)
  else users.map (fun t => (7, t)) ++ (k.returnsOf w h).map (fun y => (4, y.1))

/-- The shelf entries with wing and number: 16 for each wing that the context holds, and none for another wing. Entries beyond the last one
that a table lists are unused, as one with VALID 0 is. -/
def Cert.shelfEntries (s : State) (c : Nat) (k : Cert) : List (Nat × Nat × ShelfEntry) :=
  (((List.range 4).filter (fun w => Cert.held s c w)).map (fun w =>
    (List.range 16).map (fun h => (w, h, nth {} (nth [] k.shelves w) h)))).flatten

def Cert.depositBad (s : State) (c : Nat) (k : Cert) (anc : List (List Nat)) (opened : Bool) : List Bad :=
  let all := k.shelfEntries s c
  failing 7 k.shelves (fun w l => decide (l.length ≤ 16) && (l.isEmpty || Cert.held s c w)) ++
    failing 7 all (fun _ x => x.2.2.fieldOk) ++ failing 7 k.tasks (fun _ t => t.binds.all (DepBind.fieldOk t)) ++
    (all.map (fun x => k.shelfBad s c anc opened x.1 x.2.1 x.2.2)).flatten ++
    ((pairs (all.filter (fun x => x.2.2.valid))).filter (fun x =>
      overlap x.1.2.2.nearBase (tileBytes * x.1.2.2.nearTiles) x.2.2.2.nearBase (tileBytes * x.2.2.2.nearTiles))).map (fun x => (4, x.2.2.1))

/-! ### Ready lists and slots (R241, R242, R18, R19, R157, R190, R407) -/

/-- Places of a task in the lists of the wings. -/
def Cert.listed (k : Cert) (t : Nat) : List Nat :=
  (k.lists.zipIdx.map (fun x => (x.1.filter (fun e => e.task == t)).map (fun _ => x.2))).flatten

def Cert.listBad (s : State) (c : Nat) (k : Cert) (anc : List (List Nat)) : List Bad :=
  let wings := (List.range 4).filter (fun w => Cert.held s c w)
  failing 7 k.tasks (fun i t => if t.stepEnd then k.listed i == wings else k.listed i == [t.wing]) ++
    (k.lists.map (fun l => failing 7 l (fun _ e => !e.rsv && e.laidOut && decide (e.task < k.tasks.length)))).flatten ++
    (k.lists.map (fun l => ((pairs (l.map (fun e => e.task))).filter (fun x => before anc x.2 x.1)).map (fun x => (7, x.1)))).flatten

/-- Two allotments name the same slot at some time: frames of different lengths are compared over the larger one. -/
def Allot.clash (a b : Allot) : Bool :=
  let g := Nat.gcd (max 1 a.frame) (max 1 b.frame)
  a.res == b.res && a.slot % g == b.slot % g

/-- Tasks that never run together: ordered, or of one wing with a unit in common. -/
def Cert.apart (k : Cert) (anc : List (List Nat)) (a b : Nat) : Bool :=
  a != b && (ordered anc a b ||
    ((nth {} k.tasks a).wing == (nth {} k.tasks b).wing &&
      (((k.ready a).arrays &&& (k.ready b).arrays) != 0 || ((k.ready a).groups &&& (k.ready b).groups) != 0)))

def Cert.clashes (k : Cert) (anc : List (List Nat)) (a b : Allot) : Bool :=
  a.clash b && (match a.task, b.task with
    | some x, some y => !(k.apart anc x y)
    | _, _ => true)

/-- A host-copy share conflicts with any allotment on the same stack or port (R407). -/
def shareClash (a b : Allot) : Bool :=
  let hit := fun (x y : Allot) => (match x.res, y.res with
    | .hostShareStack k, .stackPc j _ => k == j && x.slot == y.slot
    | .hostShareStack k, .hostShareStack j => k == j && x.slot == y.slot
    | .hostSharePort p, .boardPort q => p == q && x.slot == y.slot
    | .hostSharePort p, .hostSharePort q => p == q && x.slot == y.slot
    | _, _ => false)
  hit a b || hit b a

/-- A board-tier slot lies in the share of the task's wing, or for the whole program in that of a wing that the context holds. -/
def State.boardSlotOk (s : State) (c : Nat) (k : Cert) (task : Option Nat) (b slot : Nat) : Bool :=
  match task with
  | some t => s.shareOk (nth {} k.tasks t).wing b slot
  | none => (List.range 4).any (fun w => Cert.held s c w && s.shareOk w b slot)

/-- Frames of a gallery timetable: a power of two from 1,024 to 65,536 (R157). -/
def galleryFrames : List Nat := [1024, 2048, 4096, 8192, 16384, 32768, 65536]

/-- A send slot is a data slot of the port's frame: at full width not a cycle with c mod 64 = 0, at half width the even first cycle of a
pair outside the control pairs (spec/11_ralda_link.md R309). -/
def Cert.sendSlotOk (k : Cert) (p slot : Nat) : Bool :=
  if k.halfPorts.contains p then slot % 2 == 0 && slot % 64 != 0 else slot % 64 != 0

/-- The slot of an allotment lies in its resource's frame and may be allotted (R15, R157, R190, R198, R309). -/
def Allot.slotOk (s : State) (c : Nat) (k : Cert) (a : Allot) : Bool :=
  decide (a.slot < a.frame) && (match a.res with
    | .galleryLane w j => decide (w < 4 ∧ j < 1024) && galleryFrames.contains a.frame
    | .network _ => true
    | .arrayPort n p => decide (n < 8 ∧ p < 41) && galleryFrames.contains a.frame
    | .stackPc n p => decide (n < 20 ∧ p < 64 ∧ 8 ≤ a.slot) && a.frame == 128
    | .hostShareStack n => decide (n < 20 ∧ 8 ≤ a.slot) && a.frame == 128
    | .boardPort b => decide (b < 4) && a.frame == 1024 && s.boardSlotOk c k a.task b a.slot
    | .hostSharePort b => decide (b < 4) && a.frame == 1024 && s.boardSlotOk c k a.task b a.slot
    | .linkSend p => decide (p < 16) && a.frame == 1024 && k.sendSlotOk p a.slot
    | .linkTransit p => decide (p < 16) && a.frame == 1024 && k.sendSlotOk p a.slot)

/-- Two allotments of tasks that might run together give the same pair (R242). -/
def Cert.taskClash (k : Cert) (anc : List (List Nat)) (a b : Allot) : Bool := a.task.isSome && b.task.isSome && k.clashes anc a b

/-- Each slot may be allotted; no slot is given twice, within the certificate or beside another admitted program, host-copy shares
included (R19, R157, R242, R407). Open mode skips the checks of R19 alone: pairs of two tasks of the program, and host-copy shares beside
another program, are checked in it too. -/
def Cert.allotBad (s : State) (c : Nat) (k : Cert) (anc : List (List Nat)) (opened : Bool) : List Bad :=
  let l := k.allots
  failing 7 l (fun _ a => a.slotOk s c k) ++
    ((pairs l).filter (fun x => k.taskClash anc x.1 x.2 || (!opened && (k.clashes anc x.1 x.2 || shareClash x.1 x.2)))).map
      (fun x => (1, x.2.task.getD 0)) ++
    (s.ctx.map (fun y => match y.2.prog with
      | some p => if y.1 = c then [] else
          (l.filter (fun a => p.cert.allots.any (fun b => (!opened && a.clash b) || shareClash a b))).map (fun a => (1, a.task.getD 0))
      | none => [])).flatten ++
    (if opened then [] else failIf (decide (0 < k.pages ∧ s.poolCapacity c < k.pages)) 4 0)

/-! ### Counters, couriers, queues, channels, groups, barriers, sends (R128, R178, R316, R318, R319, R327, R409) -/

/-- Another context's admitted program satisfies a test. -/
def State.otherProg (s : State) (c : Nat) (f : Cert → Bool) : Bool :=
  s.ctx.any (fun y => y.1 != c && (match y.2.prog with | some p => f p.cert | none => false))

/-- The event counters that a task's streams, moves and vector programs use. -/
def Cert.counterUses (k : Cert) (t : Task) : List Nat :=
  (t.streams.filter (fun e => e.fillEn)).map (fun e => e.fillEvt) ++
    ((t.moves.map (fun m => nth {} k.moves m)).filter (fun x => x.kind != .ret && x.doneEn)).map (fun x => x.doneEvt) ++
    (t.vecJobs.map (fun j => (j.prog.filter (fun w => opcodeOf w == 0x06 || opcodeOf w == 0x07)).map (fun w => bits w.toNat 0 6))).flatten

/-- Every counter that a task, a courier queue or a prefetch entry uses is one that the certificate names, on the wing that uses it; an entry with
AFTER_VAL 0 and without DONE_EN asks for none. -/
def Cert.counterNamed (k : Cert) : List Bad :=
  failing 7 k.tasks (fun _ t => (k.counterUses t).all (fun e => k.counters.contains (t.wing, e))) ++
    failing 7 k.couriers (fun _ b => [b.postEvt, b.doneEvt].all (fun e => k.counters.contains ((nth {} k.tasks b.task).wing, e))) ++
    (k.prefetch.zipIdx.map (fun x => failing 7 x.1 (fun _ p =>
      (p.afterVal == 0 || k.counters.contains (x.2, p.afterEvt)) &&
        (let m := nth {} k.moves p.move
         m.kind == .ret || !m.doneEn || k.counters.contains (x.2, m.doneEvt))))).flatten

def Cert.counterBad (s : State) (c : Nat) (k : Cert) : List Bad :=
  k.counterNamed ++
  failing 7 k.counters (fun _ x => decide (x.1 < 4 ∧ x.2 < 64) && Cert.held s c x.1) ++
    failing 1 k.counters (fun _ x => !s.otherProg c (fun p => p.counters.contains x))

def Cert.courierBad (k : Cert) : List Bad :=
  failing 7 k.couriers (fun _ b => decide (b.queue < 16 ∧ b.postEvt < 64 ∧ b.doneEvt < 64) && b.qbase % 256 == 0 &&
      inWindow (nth {} k.tasks b.task).windows b.qbase 16384) ++
    ((pairs k.couriers).filter (fun x => overlap x.1.qbase 16384 x.2.qbase 16384)).map (fun x => (3, x.2.task))

def Cert.queueBad (s : State) (c : Nat) (k : Cert) : List Bad :=
  failing 7 k.queues (fun _ q => decide (q.queue < 64 ∧ q.wing < 4) && within q.slots 2 16 && !q.rsv && q.laidOut && q.base % 64 == 0 &&
      inWindow (nth {} k.tasks q.task).windows q.base (tileBytes * q.slots)) ++
    failing 1 k.queues (fun _ q => !s.otherProg c (fun p => p.queues.any (fun y => y.wing == q.wing && y.queue == q.queue))) ++
    ((pairs k.queues).filter (fun x => x.1.wing == x.2.wing && x.1.queue == x.2.queue)).map (fun x => (1, x.2.queue)) ++
    ((pairs k.queues).filter (fun x => overlap x.1.base (tileBytes * x.1.slots) x.2.base (tileBytes * x.2.slots))).map (fun x => (3, x.2.queue))

/-- A channel's unit is a stream unit or courier queue that the program uses. -/
def Cert.chanUnit (k : Cert) (x : ChanBind) : Bool :=
  if x.courier then k.couriers.any (fun b => 16 * (nth {} k.tasks b.task).wing + b.queue == x.unit)
  else k.tasks.any (fun t => t.streams.any (fun e => 128 * t.wing + e.unit == x.unit))

def Cert.chanBad (s : State) (c : Nat) (k : Cert) : List Bad :=
  failing 7 k.chans (fun _ x => k.chanUnit x) ++
  failing 7 k.chans (fun _ x => decide (x.chan < 64 ∧ x.poly < 4 ∧ x.result + 8 ≤ galleryEnd)) ++
    failing 1 k.chans (fun _ x => !s.otherProg c (fun p => p.chans.any (fun y => y.chan == x.chan)))

def SendEntry.fieldOk (e : SendEntry) : Bool :=
  !e.rsv && e.laidOut && decide (e.queue < 64 ∧ e.dstWing < 4) && within e.count 1 (2 ^ 24) && within e.hops 1 5 &&
    (e.kind != .multicast || (e.hops == 1 && decide (e.recallUnit < 128)))

def BarrierEntry.fieldOk (b : BarrierEntry) : Bool := !b.rsv && b.laidOut && decide (b.parent < 16)

/-- An LI96 reduction has at most 1,048,576 contributions to an element, and at most 256 from one member (R319). -/
def RedGroup.countsOk (g : RedGroup) : Bool := !g.wide || (within g.own 1 256 && decide (g.expects ≤ 2 ^ 20))

def RedGroup.fieldOk (g : RedGroup) : Bool :=
  within g.members 1 4096 && g.countsOk && g.dests.all RedDest.laidOut && decide (g.rank < g.members ∧ g.parent < 16) && g.dests.all (fun d => within d.hops 1 5 && decide (d.queue < 64))

/-- The output of a product reduction keeps the rules of formats, rounding and entries (R32, R38, R47). -/
def ProdOut.formatOk (sm : SmTable) (o : ProdOut) : Bool :=
  fmtNamed o.fmt && o.fmt != 0x0B && sm.srOk o.smEntry o.rnd && srElems o.rnd o.rows o.cols && entryFmtOk o.smEntry o.fmt

/-- The group of a task of small traffic: no ledger's, with at most 64 words of 4 bytes (R320), each for an entry of the table. -/
def Cert.smallOk (k : Cert) (sm : SmTable) (op : Nat) : Bool :=
  let g := k.redGroup op
  k.groups.any (fun g => g.number == op) && k.ledgers.all (fun l => l.lgroup != op) && within g.maxima.length 1 64 &&
    g.maxima.all (fun e => decide (e < sm.entries.length))

def Cert.linkBad (k : Cert) (sm : SmTable) : List Bad :=
  failing 7 k.tasks (fun _ t => t.sends.all SendEntry.fieldOk && (match t.barrier with | some b => b.fieldOk | none => true)) ++
    failing 7 k.tasks (fun _ t => match t.small with | some g => k.smallOk sm g | none => true) ++
    failing 7 k.groups (fun _ g => g.fieldOk && (match g.product with | some o => sm.refOk o.smEntry && decide (o.rnd < 4) && scaleOk o.scale | none => true)) ++
    failing 6 k.groups (fun _ g => match g.product with | some o => o.formatOk sm | none => true) ++
    failing 7 k.tasks (fun _ t => t.sends.all (fun e => e.kind == .reduce || decide (e.srcUnit < 128)))

/-! ### Ledger entries, scale manager, catalogue, groups (R47, R213, R246, R247, R265) -/

def LedgerEntry.fieldOk (l : LedgerEntry) : Bool :=
  !l.rsv && l.laidOut && within l.groupCount 1 65535 && within l.headroom 1 15 && within l.localAdds 1 2048 && within l.elements 1 (2 ^ 40) &&
    [l.localBase, l.shardBase, l.cstatBase, l.stateBase].all (fun a => a % 64 == 0 && (match homeOf a with | .near _ => true | _ => false)) &&
    within l.devices 1 4096 && decide (l.rank < l.devices) &&
    (match f32.value l.maxNorm.toNat with | .fin d => !d.neg | _ => false)

/-- The groups of an entry cover [0, ELEMENTS) once, in ascending order. -/
def State.groupsCover (s : State) (table : Nat) (l : LedgerEntry) : Bool :=
  let r := l.groups.foldl (fun (a : Option Nat) g =>
    let b := s.rd (table + 128 * g) 128
    match a with
    | some x => if field b 16 8 = x then some (x + field b 24 8) else none
    | none => none) (some 0)
  r == some l.elements

/-- A table of n bytes lies wholly in near-tier memory that the context reaches. -/
def State.nearTable (s : State) (c a n : Nat) : Bool := (match homeOf a with | .near _ => true | _ => false) && s.reach c a n

def Cert.ledgerBad (s : State) (c : Nat) (k : Cert) : List Bad :=
  failing 7 k.ledgers (fun _ l => l.fieldOk && s.nearTable c l.stateBase 64 && (match k.groupTable with | some t => s.groupsCover t l | none => false)) ++
    ((pairs k.ledgers.zipIdx).filter (fun x => x.1.1.groups.any (fun g => x.2.1.covers g))).map (fun x => (7, x.2.2))

/-- The reserved bytes of an entry are zero. -/
def smEntryZero (b : List Byte) : Bool :=
  decide (field b 4 1 < 32) && decide (field b 6 1 < 16) && zeros ((b.drop 10).take 6) && zeros ((b.drop 20).take 4) &&
    zeros ((b.drop 52).take 4)

def Cert.smBad (s : State) (c : Nat) (k : Cert) : List Bad :=
  match k.smTable with
  | none => [(7, 0)]
  | some base =>
    let n := leNat (s.rd (base + 8) 4)
    if ¬ s.nearTable c base (128 + 128 * min n 65536) then [(7, 0)]
    else
      failIf (decide (65536 < n) || !zeros (s.rd (base + 20) 108) || decide (4 ≤ leNat (s.rd (base + 16) 4))) 7 0 ++
        failing 7 (List.range (min n 65536)) (fun _ i => smEntryZero (s.rd (base + 128 + 128 * i) 128)) ++
        failing 6 (List.range (min n 65536)) (fun _ i => fmtManaged (leNat (s.rd (base + 128 + 128 * i + 4) 1) % 32))

/-- The group indices that a certificate names, with the task or entry that names them. -/
def Cert.groupRefs (k : Cert) : List (Nat × Nat) :=
  ((k.tasks.zipIdx.map (fun x =>
    (x.1.arrayJobs.map (fun j => (j.group, x.2))) ++ ((x.1.vecJobs.filter (fun j => j.mode == 1)).map (fun j => (j.group, x.2))) ++
      (x.1.binds.map (fun b => (b.guard, x.2))) ++ [((k.ready x.2).guard, x.2)])).flatten ++
    (k.ledgers.zipIdx.map (fun x => x.1.groups.map (fun g => (g, x.2)))).flatten).filter (fun x => x.1 != 0xFFFF)

def Cert.tableBad (s : State) (c : Nat) (k : Cert) : List Bad :=
  (match k.catTable with
    | some a => failIf (!s.nearTable c a (32 * max 1 k.catCount)) 7 0
    | none => [(7, 0)]) ++
    (match k.groupTable with
      | some a => failIf (!s.nearTable c a (128 * k.groupCount) || !within k.groupCount 1 65535) 7 0
      | none => (k.groupRefs.map (fun x => (7, x.2)))) ++
    (k.groupRefs.filter (fun x => decide (k.groupCount ≤ x.1))).map (fun x => (7, x.2)) ++
    (match k.tel with | some r => failIf (!within r.order 4 20) 7 0 | none => [])

/-! ### Attend and append entries (R276, R277, R281, R292, R295) -/

/-- The format pair of an attend entry, its weights' format, and its output. -/
def AttendEntry.formatOk (a : AttendEntry) : Bool :=
  (classOf a.fmtQ a.fmtKv false).isSome && (floatFmt a.fmtP).isSome && decide (a.fmtP ≠ 0 ∧ a.fmtP ≠ 0x0B ∧ a.fmtP ≠ 5 ∧ a.fmtKv ≠ 0) &&
    classOf a.fmtP a.fmtKv false == classOf a.fmtKv a.fmtKv false && fmtNamed a.fmtO && a.fmtO != 0x0B && entryFmtOk a.smEntry a.fmtO &&
    srElems a.rnd a.tensorRows a.tensorCols

def AttendEntry.fieldOk (a : AttendEntry) : Bool :=
  decide (a.maskMode < 3 ∧ a.bk < 3 ∧ a.hookLen ≤ 64 ∧ a.rnd < 4) && !a.rsv && a.laidOut && within a.qHeads 1 64 && a.qHeads % max 1 a.h == 0 &&
    within a.mQ 1 128 && a.qFirst / 128 == (a.qFirst + a.mQ - 1) / 128 && within a.engCount 1 64 && decide (a.engFirst + a.engCount ≤ 64) &&
    (a.maskMode != 1 || (a.maskBase % 64 == 0 && a.sumBase % 64 == 0)) && (!a.stats || a.statsBase % 64 == 0) && a.hook.length == a.hookLen && hookOk a.hook &&
    [a.fmtQ, a.fmtKv, a.fmtO].all (fun f => decide (spanBytes f (a.mQ * a.d) ≤ payloadBytes ∧ spanBytes f (32 * 2 ^ a.bk * a.d) ≤ payloadBytes))

def AttendEntry.addrOk (ws : List (Nat × Nat)) (a : AttendEntry) : Bool :=
  tilesOk ws 2 a.qBase a.qHeads && tilesOk ws 2 a.oBase a.qHeads && (!a.stats || inWindow ws a.statsBase (8 * a.qHeads * a.mQ)) &&
    (a.hookLen == 0 || inWindow ws a.hookBase (8 * a.hookLen))

def AppendEntry.fieldOk (ws : List (Nat × Nat)) (a : AppendEntry) : Bool := !a.rsv && a.laidOut && within a.tiles 1 256 && tilesOk ws 2 a.src a.tiles

def Cert.attendBad (k : Cert) (sm : SmTable) (anc : List (List Nat)) : List Bad :=
  let on := fun (reason : Nat) (f : Task → AttendEntry → Bool) =>
    failing reason k.tasks (fun _ t => match t.attend with | some a => f t a | none => true)
  on 6 (fun _ a => a.formatOk && sm.srOk a.smEntry a.rnd) ++ on 7 (fun t a => a.fieldOk && a.addrOk t.windows && sm.refOk a.smEntry) ++
    failing 7 k.tasks (fun _ t => match t.append with | some a => a.fieldOk t.windows | none => true) ++
    ((pairs (k.tasks.zipIdx.map (fun x => x.1.seqRefs.map (fun r => (r, x.2)))).flatten).filter (fun x =>
      x.1.1 == x.2.1 && x.1.2 != x.2.2 && !ordered anc x.1.2 x.2.2)).map (fun x => (7, x.2.2))

/-! ### The rota (R355 reason 4) -/

/-- Longest run of an owner's consecutive slots, cyclically, in µs; none where it owns every slot. -/
def Rota.longestRun (r : Rota) (c : Nat) : Option Nat :=
  let n := r.slots.length
  if r.slots.all (fun x => x.owner == some c) then none
  else some (((List.range n).map (fun i => ((((r.slots.drop i) ++ (r.slots.take i)).takeWhile (fun x => x.owner == some c)).map
    (fun x => x.len)).sum)).foldl max 0)

/-- A task fits the longest run of its context at the top performance state and full duty. -/
def State.fitsRun (s : State) (r : Rota) (c : Nat) (k : Task) : Bool :=
  match r.longestRun c with
  | none => true
  | some us => fitsIn k.nomIssue k.nomCpll k.nomNs (12000 - 500 * s.topState) 16 (1000 * us)

/-- The rota of a wing that was committed last, in effect or not yet. -/
def State.lastRota (s : State) (w : Nat) : Rota := ((s.rotaPend.find? (fun x => x.1 == w)).map (fun x => x.2)).getD (s.wrota w).rota

def Cert.rotaBad (s : State) (c : Nat) (k : Cert) : List Bad :=
  failing 10 k.tasks (fun _ t => s.fitsRun (s.lastRota t.wing) c t)

/-! ### All checks -/

/-- Step 2 of admission: header, length, digest, generation. -/
def Cert.headBad (s : State) (k : Cert) (len : Nat) : List Bad :=
  if ¬ k.headerOk then [(8, 0)]
  else failIf (k.length != len || !k.digestOk) 8 0 ++ failIf (k.generation != s.fld RegF.glbStatusGeneration) 5 0

/-- Steps 3 and 4. In open mode the checks that R19 itself lists are skipped, and no other (R343, R431). -/
def Cert.bodyBad (s : State) (c : Nat) (k : Cert) (opened : Bool) : List Bad :=
  let anc := k.anc
  let sm := match k.smTable with
    | some b => if (k.smBad s c).isEmpty then s.readSmTable b else {}
    | none => {}
  let compat := s.flag RegF.ctxCfgCompat c
  (if opened then [] else ((List.range k.tasks.length).filter (fun t => before anc t t)).map (fun t => (2, t))) ++ k.allotBad s c anc opened ++
    k.unitsBad s c opened ++ failing 7 k.tasks (fun _ t => t.deps.all (fun d => decide (d < k.tasks.length))) ++
    failing 6 k.formats (fun _ f => fmtNamed f) ++ k.windowBad s c ++ k.arrayBad sm anc ++ k.vecBad sm ++ k.streamBad anc opened ++
    k.moveBad compat ++ k.depositBad s c anc opened ++ k.raceBad s anc ++ k.gradBad s sm anc ++ k.listBad s c anc ++ k.counterBad s c ++ k.courierBad ++
    k.queueBad s c ++ k.chanBad s c ++ k.linkBad sm ++ k.ledgerBad s c ++ k.smBad s c ++ k.tableBad s c ++ k.attendBad sm anc ++ k.rotaBad s c

/-- Open mode is for the keeper's contexts with OPEN_OK set alone (R341); the field is byte 32 of the descriptor. -/
def State.openBad (s : State) (c : Nat) (opened : Bool) : List Bad := failIf (opened && !(s.keeper c && s.flag RegF.ctxCfgOpenOk c)) 11 32

/-- The failure that admission reports, if any: the least reason among all that fail (R461). Bytes that form no certificate header hold no body to
check. -/
def Cert.verdict (s : State) (c : Nat) (k : Cert) (len : Nat) (opened : Bool) : Option Bad :=
  leastBad (k.headBad s len ++ (if k.headerOk then k.bodyBad s c opened ++ s.openBad c opened else []))

end Sys2Proof.Machine
end

