-- ==== Sys2Proof/Machine/Load.lean ====
section
/-! DEFINITION. Loading, admission and unloading of a program (spec/12_rings_contexts_rota.md R341, R343). -/

namespace Sys2Proof.Machine

/-- The descriptor of a context that has started with an opcode. -/
def State.startedOf (s : State) (c op : Nat) : Option Desc := (s.cx c).descs.find? (fun d => d.st == .started && d.opcode == op)

/-- The certificate at a host address; where none has been put there, bytes that form no certificate header (log 1). -/
def State.certAt (s : State) (a : Nat) : Cert := ((s.certs.find? (fun x => x.1 == a)).map (fun x => x.2)).getD { headerOk := false }

/-- LOAD: the certificate is copied to IMAGE_BASE and its checks begin. -/
def execLoad (c i : Nat) (s : State) : Host.Outcome State Fault Refusal :=
  if ¬ s.canStart c i 0x01 then ok s
  else
    match s.desc c i with
    | none => ok s
    | some d =>
      let len := d.f 16 4
      let base := d.f 24 8
      let opened := d.f 32 1 == 1
      if (s.prog c).isSome then ok (s.reject c i 0x09 0)
      else if ¬ s.inSlot c then ok s
      else if ¬ nearAddr base ∨ ¬ s.reach c base len then
        ok (s.finish c i .protFault (BitVec.ofNat 64 base))
      else
        let p : Prog := { cert := s.certAt (d.f 8 8), openMode := opened, image := base }
        let s := ((s.startDesc c i).wr base (s.hrd (d.f 8 8) len)).updCx c (fun x => { x with loading := some p })
        ok (s.setFld RegF.ctxStsState 2 c)

/-! ### Taking up a program (R54, R128, R209, R223, R226, R230, R248, R316, spec/15 R409) -/

/-- Shelves of the deposit tables become the program's, empty. -/
def State.holdShelves (s : State) (c : Nat) (k : Cert) : State :=
  overList k.shelves.zipIdx (fun x s => overList (x.1.zipIdx.filter (fun y => y.1.valid)) (fun y s =>
    (s.setFld RegF.wingDepSplHighWater 0 x.2 y.2).putShelf x.2 y.2 { held := true, ctx := c, ent := y.1 }) s) s

/-- Receive queues become the program's. -/
def State.holdQueues (s : State) (c : Nat) (k : Cert) : State :=
  overList k.queues (fun b s => s.setRq b.wing b.queue { held := true, ctx := c, bind := b }) s

/-- Check-value channels become the program's, at their start values. -/
def State.holdChans (s : State) (c : Nat) (k : Cert) : State :=
  overList k.chans (fun b s =>
    (s.setCh b.chan { held := true, ctx := c, bind := b, value := BitVec.ofNat 64 (b.start.toNat % 2 ^ (crcFn b.poly).width) }).syncChan
      b.chan) s

/-- Event counters become the program's, at zero. -/
def State.holdCounters (s : State) (c : Nat) (k : Cert) : State :=
  overList k.counters (fun x s =>
    { s with ev := Tbl.set 0 s.ev (64 * x.1 + x.2) 0, evOwn := Tbl.set 0 s.evOwn (64 * x.1 + x.2) (c + 1) }) s

/-- A program that passed its checks is admitted. -/
def State.takeUp (s : State) (c : Nat) (p : Prog) : State :=
  let k := p.cert
  let p := { p with sm := (match k.smTable with | some b => s.readSmTable b | none => {}),
                    ledgers := k.ledgers.map (fun l => LedgerRt.ofBytes (s.rd l.stateBase 64)) }
  let s := s.updCx c (fun x => { x with prog := some p, loading := none })
  let s := s.updProg c (fun p => { p with frozen := s.frozenNow c })
  let s := if s.flag RegF.ctxCfgCompat c then s.readFlashTable else s
  let s := (((s.holdCounters c k).holdShelves c k).holdQueues c k).holdChans c k
  let s := overList (s.wingsOf c) (fun w s => (s.setFld RegF.wingLateTileEvents 0 w).clrCycles RegF.wingLateTileIdle w) s
  let s := (s.setFld RegF.ctxStsState 3 c).setFld RegF.ctxStsOpen (bit p.openMode) c
  overList (s.wingsOf c) (fun w s => s.syncList c w) s

/-- ADMISSION_COMPLETE: OK and STATE 3, or CERT_REJECT and STATE 1. -/
def execAdmissionComplete (c : Nat) (s : State) : Host.Outcome State Fault Refusal :=
  match s.startedOf c 0x01, (s.cx c).loading with
  | some d, some p =>
    if ¬ s.inSlot c then ok s
    else
      match p.cert.verdict s c (d.f 16 4) p.openMode with
      | some b =>
        let s := s.reject c d.idx b.1 b.2
        let s := s.updCx c (fun x => { x with loading := none })
        ok (if s.cstate c = 2 then s.setFld RegF.ctxStsState 1 c else s)
      | none => ok (if s.cstate c = 2 then (s.takeUp c p).finish c d.idx .ok else s.reject c d.idx 0x09 0)
  | _, _ => ok s

/-- UNLOAD: with no program it completes at once; otherwise the release begins, in the context's own slots (R339). -/
def execUnload (c i : Nat) (s : State) : Host.Outcome State Fault Refusal :=
  if ¬ s.canStart c i 0x02 then ok s
  else if (s.prog c).isNone then ok (s.reject c i 0x09 0)
  else if ¬ s.inSlot c then ok s
  else ok (((s.startDesc c i).updCx c (fun x => { x with unloading := some i })).setFld RegF.ctxStsState 4 c)

/-- UNLOAD_PROGRAM_RELEASE: the program is released in the context's own slots, and STATE is 1 unless the context is being disabled. -/
def execUnloadProgramRelease (c : Nat) (s : State) : Host.Outcome State Fault Refusal :=
  match (s.cx c).unloading with
  | none => ok s
  | some i =>
    if (s.cstate c ≠ 4 ∧ s.cstate c ≠ 5) ∨ ¬ s.inSlot c then ok s
    else
      let t := (s.releaseProgram c).updCx c (fun x => { x with unloading := none })
      ok (((if s.cstate c = 4 then t.setFld RegF.ctxStsState 1 c else t).finish c i .ok).settle)

end Sys2Proof.Machine
end

