-- ==== Sys2Proof/Machine/Protect.lean ====
section
/-! DEFINITION. The protection tables (spec/13_boot_protection_setup.md R366 to R370): commits, held commits and revocation. -/

namespace Sys2Proof.Machine

/-- An entry with VALID set has LAST below BASE (R368). -/
def ProtEntry.bad (e : ProtEntry) : Bool := e.valid && decide (e.last < e.base)

/-- The sixteen entries of a domain. -/
def protDomain (t : Tbl ProtEntry) (d : Nat) : List ProtEntry := (List.range 16).map (fun e => Tbl.get {} t (16 * d + e))

/-- The domain of a context is the same in the table its work runs under and in a new one (R369). -/
def State.sameDomain (s : State) (c : Nat) (old : Bool) (new : Tbl ProtEntry) : Bool :=
  protDomain (if old then s.protPrev else s.protAct) (s.pd c) == protDomain new (s.pd c)

/-- COPY descriptors that have started, by context (R369). -/
def State.runningCopies (s : State) : List (Nat × Desc) :=
  (s.ctx.map (fun x => (x.2.descs.filter (fun d => d.st == .started && d.opcode == 0x05)).map (fun d => (x.1, d)))).flatten

/-- Affected work of the previous epoch still runs (PROT_EPOCH.PREV_LIVE). -/
def State.prevLive (s : State) : Bool :=
  s.runningTasks.any (fun y => (s.rt y.1 y.2).epochOld) || s.runningCopies.any (fun y => y.2.epochOld)

/-- Show whether a commit is held. -/
def State.syncHeld (s : State) : State := s.setFld RegF.protStsHeld (bit s.protHeld.isSome)

/-- A table becomes the active one: the epoch rises, work whose domain is the same moves to the new epoch, the other keeps the old. -/
def State.commitTable (s : State) (new : Tbl ProtEntry) : State :=
  let ts := s.runningTasks.map (fun y => (y, !s.sameDomain y.1 (s.rt y.1 y.2).epochOld new))
  let ds := s.runningCopies.map (fun y => (y, !s.sameDomain y.1 y.2.epochOld new))
  let s := overList ts (fun y s => s.updRt y.1.1 y.1.2 (fun x => { x with epochOld := y.2 })) s
  let s := overList ds (fun y s => s.updDesc y.1.1 y.1.2.idx (fun d => { d with epochOld := y.2 })) s
  ({ s with protPrev := s.protAct, protAct := new, protHeld := none } : State).wrapFld RegF.protEpochEpoch 1 |>.syncHeld

def State.stageBad (s : State) : Bool := s.protStage.any (fun x => x.2.bad)

/-- COMMIT: refused, held, or in effect at once. -/
def execCommit (s : State) : Host.Outcome State Fault Refusal :=
  if ¬ s.ready then ok s
  else if s.stageBad then ok (s.setFld RegF.protStsBad 1)
  else if s.prevLive then ok ({ s with protHeld := some s.protStage } : State).syncHeld
  else ok (s.commitTable s.protStage)

/-- REVOKE: the commit is in effect at once, and affected work ends with REVOKED and the new epoch. -/
def execRevoke (s : State) : Host.Outcome State Fault Refusal :=
  if ¬ s.ready then ok s
  else if s.stageBad then ok (s.setFld RegF.protStsBad 1)
  else
    let s := s.commitTable s.protStage
    let detail := BitVec.ofNat 64 (s.fld RegF.protEpochEpoch)
    let ts := s.runningTasks.filter (fun y => (s.rt y.1 y.2).epochOld)
    let ds := s.runningCopies.filter (fun y => y.2.epochOld)
    let s := s.incFld RegF.protStsRevokedTasks (ts.length + ds.length)
    let s := overList ts (fun y s => s.abortTask y.1 y.2 .revoked detail) s
    ok (overList ds (fun y s => s.abortDesc y.1 y.2 .revoked detail) s).settle

/-- HELD_COMMIT_EFFECT: the last affected work of the previous epoch has ended. -/
def execHeldCommitEffect (s : State) : Host.Outcome State Fault Refusal :=
  match s.protHeld with
  | none => ok s
  | some t => if s.prevLive then ok s else ok (s.commitTable t)

end Sys2Proof.Machine
end

