-- ==== Sys2Proof/Machine/Rota.lean ====
section
/-! DEFINITION. The rota (spec/12_rings_contexts_rota.md R353 to R355): committing new rotas, their taking effect, and the beginning of
a slot. -/

namespace Sys2Proof.Machine

/-! ### The staged rotas and their checks (R353, R355) -/

/-- A rota as the ST fields of its registers name it. -/
def State.stagedRota (s : State) (w : Nat) : Rota :=
  { slots := (List.range (min 64 (s.fld RegF.wingRotaHdrSlots w))).map (fun i =>
      { owner := if s.flag RegF.wingRotaSlotOwnerValid w i then some (s.fld RegF.wingRotaSlotOwner w i) else none,
        fill := if s.flag RegF.wingRotaSlotFillValid w i then some (s.fld RegF.wingRotaSlotFill w i) else none,
        len := s.fld RegF.wingRotaSlotLenUs w i }),
    fillMax := s.fld RegF.wingRotaHdrFillMax w }

/-- The frame length in µs. -/
def Rota.frame (r : Rota) : Nat := (r.slots.map (fun x => x.len)).sum

/-- Where slot i begins in its frame, in µs. -/
def Rota.offset (r : Rota) (i : Nat) : Nat := ((r.slots.take i).map (fun x => x.len)).sum

def frameLengths : List Nat := [250, 400, 500, 625, 1000, 1250, 2000, 2500, 5000, 10000]

/-- Reason 1: the slots and the frame length. -/
def State.rotaShapeBad (s : State) (w : Nat) : Bool :=
  let n := s.fld RegF.wingRotaHdrSlots w
  let r := s.stagedRota w
  n == 0 || decide (64 < n) || r.slots.any (fun x => decide (x.len < 10 ∨ 10000 < x.len)) || !frameLengths.contains r.frame

/-- Reason 2: owners and fill contexts are enabled and hold the wing. -/
def State.rotaOwnerBad (s : State) (w : Nat) : Bool :=
  ((s.stagedRota w).slots.map (fun x => x.owner.toList ++ x.fill.toList)).flatten.any (fun c =>
    !s.flag RegF.ctxCtlEnable c || !(s.fld RegF.ctxCfgWings c).testBit w)

/-- Join times that touch. -/
def joinTimes : List (Nat × Nat) → List (Nat × Nat)
  | [] => []
  | x :: l => match joinTimes l with
    | [] => [x]
    | y :: m => if x.2 = y.1 then (x.1, y.2) :: m else x :: y :: m

/-- The times in 10 ms that a context owns, in µs. -/
def Rota.owned (r : Rota) (c : Nat) : List (Nat × Nat) :=
  let one := (List.range r.slots.length).filter (fun i => (nth {} r.slots i).owner == some c)
  joinTimes (((List.range (10000 / max 1 r.frame)).map (fun k => one.map (fun i =>
    (k * r.frame + r.offset i, k * r.frame + r.offset i + (nth {} r.slots i).len)))).flatten)

/-- The rotas as they would stand after a commit of a set of wings. -/
def State.rotaAfter (s : State) (m : BitVec 4) (w : Nat) : Rota := if m.getLsbD w then s.stagedRota w else s.lastRota w

/-- Reason 3: some owner that holds the wing and others does not own the same times on each. -/
def State.rotaUnequal (s : State) (m : BitVec 4) (w : Nat) : Bool :=
  let owners := ((List.range 4).map (fun v => (s.rotaAfter m v).slots.filterMap (fun x => x.owner))).flatten.eraseDups
  owners.any (fun c => (s.fld RegF.ctxCfgWings c).testBit w &&
    (s.wingsOf c).any (fun v => (s.rotaAfter m v).owned c != (s.rotaAfter m w).owned c))

/-- Reason 4: a task of an admitted program is longer than its context's longest run on the wing. -/
def State.rotaTaskLong (s : State) (w : Nat) : Bool :=
  s.ctx.any (fun x => match x.2.prog with
    | some p => p.cert.tasks.any (fun t => t.wing == w && !s.fitsRun (s.stagedRota w) x.1 t)
    | none => false)

/-- The reason and the wing with which a commit fails. -/
def State.rotaFault (s : State) (m : BitVec 4) : Option (Nat × Nat) :=
  let ws := (List.range 4).filter (fun w => m.getLsbD w)
  match ws.find? (fun w => s.rotaShapeBad w) with
  | some w => some (1, w)
  | none =>
    match ws.find? (fun w => s.rotaOwnerBad w) with
    | some w => some (2, w)
    | none =>
      match ws.find? (fun w => s.rotaUnequal m w) with
      | some w => some (3, w)
      | none => (ws.find? (fun w => s.rotaTaskLong w)).map (fun w => (4, w))

/-- ROTA_COMMIT: the staged rotas of the wings wait for their boundary, or the commit is refused. -/
def execRotaCommit (wings : BitVec 4) (s : State) : Host.Outcome State Fault Refusal :=
  if wings = 0 ∨ ¬ s.ready then ok s
  else
    match s.rotaFault wings with
    | some (r, w) => ok (((s.setFld RegF.glbRotaStsRefused 1).setFld RegF.glbRotaStsReason r).setFld RegF.glbRotaStsWing w)
    | none =>
      let new := ((List.range 4).filter (fun w => wings.getLsbD w)).map (fun w => (w, s.stagedRota w))
      let s : State := { s with rotaPend := s.rotaPend.filter (fun x => !wings.getLsbD x.1) ++ new, rotaAt := s.time }
      ok (s.setFld RegF.glbRotaStsPending ((s.rotaPend.map (fun x => 2 ^ x.1)).sum))

/-! ### Slots (R353, R354) -/

/-- A slot begins on a wing: a running task of the context whose run ends holds the wing on. The new owner's appends that have taken every page
go on when the wing is theirs (`State.resumeAdvance`). -/
def State.enterSlot (s : State) (w : Nat) (old : Option Nat) (slot start : Nat) : State :=
  let s := s.setWrota w { s.wrota w with cur := slot, began := start, looked := false }
  let s := s.setFld RegF.wingRotaStsCurSlot slot w
  let late := s.slotOwner w != old && (s.onWing w).any (fun y => some y.1 == old)
  if late ∧ (s.wrota w).overrun.isNone then s.setWrota w { s.wrota w with overrun := some start } else s

/-- The slot of a rota that holds a device time, and when it began. -/
def Rota.slotAt (r : Rota) (t : Nat) : Nat × Nat :=
  let f := 250 * max 1 r.frame
  let i := ((List.range r.slots.length).filter (fun i => decide (250 * r.offset i ≤ t % f))).foldl max 0
  (i, t / f * f + 250 * r.offset i)

/-- ROTA_SLOT_START: the slot of the present frame begins, or of the next frame where it has passed; it is a pick point. -/
def execRotaSlotStart (w slot : Nat) (s : State) : Host.Outcome State Fault Refusal :=
  let r := (s.wrota w).rota
  if 4 ≤ w ∨ ¬ s.ready ∨ r.slots.length ≤ slot then ok s
  else
    let f := 250 * r.frame
    let here := s.time / f * f + 250 * r.offset slot
    let start := if here + 250 * (nth {} r.slots slot).len ≤ s.time then here + f else here
    ok (((s.comeTo start).enterSlot w (s.slotOwner w) slot start).settle)

/-- ROTA_TAKE_EFFECT: at the first multiple of 10 ms after the commit the new rotas take effect together. -/
def execRotaTakeEffect (s : State) : Host.Outcome State Fault Refusal :=
  if s.rotaPend.isEmpty then ok s
  else
    let l := s.rotaPend.map (fun x => (x.1, x.2, s.slotOwner x.1))
    let s := s.comeTo ((s.rotaAt / 2500000 + 1) * 2500000)
    let s := overList l (fun x s => s.setWrota x.1 { s.wrota x.1 with rota := x.2.1 }) { s with rotaPend := [] }
    let s := s.setFld RegF.glbRotaStsPending 0
    let s := overList l (fun x s => let p := x.2.1.slotAt s.time
                                    s.enterSlot x.1 x.2.2 p.1 p.2) s
    ok s.settle

end Sys2Proof.Machine
end

