-- ==== Sys2Proof/Machine/Scans.lean ====
section
/-! DEFINITION. Scans, digests and attestation (spec/15_integrity_records_guarantees.md R405 to R415). -/

namespace Sys2Proof.Machine

/-- The lowest free unit of a pool of four. -/
def freeUnit (l : List Engaged) : Option Nat := indexFrom (fun u => !(l.any (fun x => x.unit == u))) (List.range 4) 0

/-! ### SCAN (R406 to R408) -/

/-- SCAN: it takes the lowest free scan engine, or waits while all four are busy. One without a program ends with a result record of no byte
(R408). -/
def execScan (c i : Nat) (s : State) : Host.Outcome State Fault Refusal :=
  if ¬ s.canStart c i 0x10 then ok s
  else if (s.prog c).isNone then
    ok (match s.desc c i with
      | some d => (s.writeScan d 0).reject c i 0x09 0
      | none => s)
  else
    match freeUnit s.scans with
    | none => ok s
    | some u => ok (({ s.startDesc c i with scans := s.scans ++ [⟨c, i, u⟩] } : State).syncScans)

/-- End a scan after `done` bytes: the result record, then the completion record. -/
def State.endScan (s : State) (c : Nat) (d : Desc) (done : Nat) (st : Status) (detail : W64) : State :=
  ((s.writeScan d done).finish c d.idx st detail).freeEngaged c d.idx

/-- The record of a range that fails in a tier: a poisoned board-tier or stack line (spec/07 R192, R205). -/
def State.rangeEvent (s : State) (unit c : Nat) (f : Fail) : State :=
  match f.st with
  | .tierError => s.evTier unit (some c) f.detail.toNat 1
  | .streamFault => s.evStream unit c f.detail.toNat 0
  | _ => s

/-- How far a scan or a raw digest gets, and what ends it before its whole length: the range itself, or the error that the command
reports, whichever comes first. -/
def State.scanEnd (s : State) (unit c : Nat) (d : Desc) (how : Ending) : Nat × Option (Fail × State) :=
  let n := d.f 16 5
  let r := s.rangeReach c d.epochOld false (d.f 8 8) n
  let own := r.2.map (fun f => (f, s.rangeEvent unit c f))
  let at' := fun (k : Nat) => if r.2.isSome ∧ r.1 ≤ min k n then (r.1, own) else (min k n, s.endingFail unit c 0 how)
  match how with
  | .done => (r.1, own)
  | .tierError _ k => at' k
  | .protFault _ k => at' k
  | .streamFault _ k => at' k

/-- The scan engine or digest unit that a descriptor holds. -/
def unitOf (l : List Engaged) (c i : Nat) : Nat := ((l.find? (fun x => x.ctx == c && x.desc == i)).map (fun x => x.unit)).getD 0

/-- SCAN_COMPLETE: the scan has read through the host-copy shares of its program (R407). -/
def execScanComplete (c i : Nat) (how : Ending) (s : State) : Host.Outcome State Fault Refusal :=
  match s.started c i 0x10 with
  | none => ok s
  | some d =>
    if ¬ s.hostShares c (d.f 8 8) (s.rangeReach c d.epochOld false (d.f 8 8) (d.f 16 5)).1 then ok s
    else
    let r := s.scanEnd (uScan (unitOf s.scans c i)) c d how
    match r.2 with
    | some (f, s') => ok (s'.endScan c d (scanStop r.1) f.st f.detail)
    | none => ok ((s.endScan c d (d.f 16 5) .ok 0).incFld RegF.chkStsScans 1)

/-! ### DIGEST (R410 to R412) -/

def Desc.slot (d : Desc) : Nat := d.f 25 1 % 64
def Desc.tileMode (d : Desc) : Bool := d.f 24 1 % 2 == 1

/-- A slot belongs to another context, and the asker is no context of the keeper's. -/
def State.slotForeign (s : State) (c k : Nat) : Bool :=
  let x : DigSlot := Tbl.get {} s.slots k
  x.valid && x.ctx != c && !s.keeper c

/-- DIGEST: up to four run at once. -/
def execDigest (c i : Nat) (s : State) : Host.Outcome State Fault Refusal :=
  if ¬ s.canStart c i 0x11 then ok s
  else
    match s.desc c i with
    | none => ok s
    | some d =>
      if (s.prog c).isNone then ok (s.reject c i 0x09 0)
      else if s.slotForeign c d.slot then ok (s.finish c i .protFault)
      else
        match freeUnit s.digs with
        | none => ok s
        | some u => ok { s.startDesc c i with digs := s.digs ++ [⟨c, i, u⟩] }

/-- The part of a tile that a model digest covers (R411). -/
def tileDigestInput (b : List Byte) : List Byte := b.take 8 ++ (b.drop 16).take 12 ++ b.drop 64

/-- The input of a tile-mode digest from entry k of its list on, or what ends it. -/
def State.tileInput (s : State) (c : Nat) (d : Desc) : Nat → Nat → (Fail × State) ⊕ List Byte
  | 0, _ => .inr []
  | n + 1, k =>
    let e := d.f 8 8 + 8 * k
    let a := leNat (s.rd e 8)
    let img := s.rd a tileBytes
    let bad := fun (x : Nat) => (s.poisonFail x, s.rangeEvent uProv c (s.poisonFail x))
    if ¬ nearAddr e ∨ ¬ s.allows c d.epochOld false e 8 then .inl (Fail.addr .protFault e, s)
    else if s.poisoned e 8 then .inl (bad e)
    else if ¬ tierAddr a ∨ ¬ s.allows c d.epochOld false a tileBytes then .inl (Fail.addr .protFault a, s)
    else if s.poisoned a tileBytes then .inl (bad a)
    else if ¬ tileGood img none then .inl (Fail.addr .tileSeal a, s.evSeal uProv c a img)
    else
      match s.tileInput c d n (k + 1) with
      | .inl r => .inl r
      | .inr l => .inr (tileDigestInput img ++ l)

/-- The input of a digest, or what ends it. -/
def State.digestInput (s : State) (c : Nat) (d : Desc) (how : Ending) : (Fail × State) ⊕ List Byte :=
  if d.tileMode then
    match s.endingFail uProv c 0 how with
    | some r => .inl r
    | none => s.tileInput c d (d.f 16 5) 0
  else
    match (s.scanEnd uProv c d how).2 with
    | some r => .inl r
    | none => .inr (s.rd (d.f 8 8) (d.f 16 5))

/-- The host-copy shares through which a digest reads: of the range, or of the list and of each tile in it (R407, R410). -/
def State.digestShares (s : State) (c : Nat) (d : Desc) : Bool :=
  if d.tileMode then
    !s.allows c d.epochOld false (d.f 8 8) 8 || (s.hostShares c (d.f 8 8) (8 * d.f 16 5) &&
      (List.range (d.f 16 5)).all (fun k => s.hostShares c (leNat (s.rd (d.f 8 8 + 8 * k) 8)) tileBytes))
  else s.hostShares c (d.f 8 8) (s.rangeReach c d.epochOld false (d.f 8 8) (d.f 16 5)).1

/-- DIGEST_COMPLETE: the digest goes to RESULT_ADDR and to its slot, which stays the context's that first wrote it. -/
def execDigestComplete (c i : Nat) (how : Ending) (s : State) : Host.Outcome State Fault Refusal :=
  match s.started c i 0x11 with
  | none => ok s
  | some d =>
    if s.slotForeign c d.slot then ok ((s.finish c i .protFault).freeEngaged c i)
    else if ¬ s.digestShares c d then ok s
    else
      match s.digestInput c d how with
      | .inl r => ok ((r.2.finish c i r.1.st r.1.detail).freeEngaged c i)
      | .inr l =>
        let h := sha384 l
        let x : DigSlot := Tbl.get {} s.slots d.slot
        let s := (s.hwr (d.f 32 8) h).putSlot d.slot
          { valid := true, mode := d.tileMode, ctx := if x.valid then x.ctx else c, digest := h, count := d.f 16 5 }
        ok ((s.finish c i .ok).freeEngaged c i)

/-! ### ATTEST (R413 to R415) -/

/-- The slots that an ATTEST names, ascending. -/
def Desc.attestSlots (d : Desc) : List Nat := (List.range 64).filter (fun k => (d.f 16 8).testBit k)

def State.slotValid (s : State) (k : Nat) : Bool := (Tbl.get {} s.slots k : DigSlot).valid

/-- ATTEST: at most eight slots, each valid and the context's own. -/
def execAttest (c i : Nat) (s : State) : Host.Outcome State Fault Refusal :=
  if ¬ s.canStart c i 0x12 then ok s
  else
    match s.desc c i with
    | none => ok s
    | some d =>
      let l := d.attestSlots
      if 8 < l.length ∨ ¬ l.all (fun k => s.slotValid k) then ok (s.reject c i 0x07 16)
      else if l.any (fun k => s.slotForeign c k) then ok (s.finish c i .protFault)
      else ok { s.startDesc c i with atts := s.atts ++ [⟨c, i, 0⟩] }

/-- A model entry of a report. -/
def State.modelEntry (s : State) (k : Nat) : List Byte :=
  let x : DigSlot := Tbl.get {} s.slots k
  pad 48 x.digest ++ leBytes 8 x.count ++ leBytes 1 k ++ leBytes 1 (bit x.mode) ++ leBytes 6 0

/-- Bytes 0 to 927 of an attestation report (R414). -/
def State.attestBody (s : State) (c : Nat) (d : Desc) : List Byte :=
  let l := d.attestSlots.filter (fun k => s.slotValid k)
  let head := leBytes 4 0x54535441 ++ leBytes 2 1 ++ leBytes 1 s.fuse.generation ++ leBytes 1 l.length ++ leBytes 8 s.time ++
    leBytes 4 s.reportInUse.boots ++ leBytes 2 (s.fld RegF.glbLinkCfgDevId) ++ leBytes 2 0 ++ leBytes 4 c ++ leBytes 4 s.boot.svn ++
    leBytes 4 (s.fld RegF.protEpochEpoch) ++ leBytes 4 0
  let fw := ((List.range 6).map (fun j => leBytes 8 (s.fld RegF.bootFwDigestDigest j))).flatten
  pad 928 (head ++ (d.bytes.drop 24).take 32 ++ fw ++ sha384 s.reportInUse.body ++ pad 64 s.hold ++ (l.map (fun k => s.modelEntry k)).flatten)

/-- ATTEST_REPORT_SIGNED: the report with its signature, then the completion record. -/
def execAttestReportSigned (c i : Nat) (s : State) : Host.Outcome State Fault Refusal :=
  match s.started c i 0x12 with
  | none => ok s
  | some d =>
    let b := s.attestBody c d
    let sig := Config.identitySignature s.freeCtr (sha384 b)
    let s : State := { s with freeCtr := s.freeCtr + 1 }
    ok (((s.hwr (d.f 8 8) (b ++ pad 96 sig)).finish c i .ok).freeEngaged c i)

/-! ### Freeing a slot (R412) -/

/-- FREE: the keeper frees a digest slot through PRV_CTL. -/
def execFree (slot : Nat) (s : State) : Host.Outcome State Fault Refusal :=
  if slot < 64 ∧ s.ready then ok ((s.putSlot slot {}).setFld RegF.prvCtlSlot slot) else ok s

end Sys2Proof.Machine
end

