-- ==== Sys2Proof/Machine/Sideband.lean ====
section
/-! DEFINITION. MCTP control messages and PLDM on the PCIe and SMBus paths (spec/16_module_electrical.md R452, R453, R455). The
framing is that of DSP0236, DSP0240 and DSP0248, which the specification names and does not describe (PRESUMED, log 52). A reply to a
control message has command number 0x100 plus its code, one to a PLDM command 0x200 plus its code, and its data begin with the completion
code. -/

namespace Sys2Proof.Machine

/-- MCTP and PLDM reach the custodian on PCIe and SMBus alone. -/
def State.answersMctp (s : State) (path : Path) : Bool := path != .bar0 && s.answers path

/-- A reply that begins with a completion code. -/
def State.mctpReply (s : State) (path : Path) (cmd cc : Nat) (data : List Byte) : State :=
  s.sendReply path cmd .ok (leBytes 1 cc ++ data)

/-- The endpoint ID of a path; 0 while none is assigned. -/
def State.eid (s : State) (path : Path) : Nat := ((s.eids.find? (fun x => x.1 = path)).map (fun x => x.2)).getD 0

def State.setEid (s : State) (path : Path) (e : Nat) : State := { s with eids := (path, e) :: s.eids.filter (fun x => x.1 != path) }

/-- MCTP_CONTROL_MESSAGE: byte 2 of the message is the command: 1 sets the endpoint ID, 2 reads it, 4 reads the version of a message type
that the module supports, 5 lists those types. -/
def execMctpControlMessage (path : Path) (msg : List Byte) (s : State) : Host.Outcome State Fault Refusal :=
  let cmd := field msg 2 1
  if ¬ s.answersMctp path ∨ msg.length < 3 then ok s
  else if cmd = 1 then
    let e := field msg 4 1
    if field msg 3 1 % 4 < 2 ∧ 8 ≤ e ∧ e < 255 then ok ((s.setEid path e).mctpReply path 0x101 0 (leBytes 1 0 ++ leBytes 1 e ++ leBytes 1 0))
    else ok (s.mctpReply path 0x101 2 [])
  else if cmd = 2 then ok (s.mctpReply path 0x102 0 (leBytes 1 (s.eid path) ++ leBytes 2 0))
  else if cmd = 4 then
    if [0, 1, 0x7E, 0xFF].contains (field msg 3 1) then
      let v := s.free
      ok (v.2.mctpReply path 0x104 0 (leBytes 1 1 ++ leBytes 4 v.1.toNat))
    else ok (s.mctpReply path 0x104 0x80 [])
  else if cmd = 5 then ok (s.mctpReply path 0x105 0 (leBytes 1 3 ++ leBytes 1 0 ++ leBytes 1 1 ++ leBytes 1 0x7E))
  else ok (s.mctpReply path (0x100 + cmd) 5 [])

/-! ### PLDM (R455) -/

/-- GET_TID: the specification gives no terminus ID; a free value. -/
def execGetTid (path : Path) (s : State) : Host.Outcome State Fault Refusal :=
  if ¬ s.answersMctp path then ok s
  else
    let v := s.free
    ok (v.2.mctpReply path 0x202 0 (leBytes 1 v.1.toNat))

/-- The value of a numeric sensor of R455. -/
def State.sensorValue (s : State) (sensor : Nat) : Option Nat :=
  match sensor with
  | 1 => some (s.fld RegF.pwrStsTjMax)
  | 2 => some (s.fld RegF.pwrStsStackMax)
  | 3 => some (s.fld RegF.pwrAvgAvgW)
  | 4 => some (s.fld RegF.pwrAvgLastW)
  | 5 => some (s.fld RegF.pwrDieVolt 0)
  | 6 => some (s.fld RegF.pwrDieVolt 1)
  | 7 => some (s.fld RegF.pwrStsLevel)
  | _ => none

/-- GET_SENSOR_READING: data size 2 (16 bits), operational state (0 enabled, 2 unavailable), four state bytes, the reading. -/
def execGetSensorReading (path : Path) (sensor : Nat) (s : State) : Host.Outcome State Fault Refusal :=
  if ¬ s.answersMctp path then ok s
  else
    match s.sensorValue sensor with
    | none => ok (s.mctpReply path 0x211 0x80 [])
    | some v =>
      if s.ready then ok (s.mctpReply path 0x211 0 (leBytes 1 2 ++ leBytes 1 0 ++ leBytes 4 0 ++ leBytes 2 v))
      else ok (s.mctpReply path 0x211 0 (leBytes 1 2 ++ leBytes 1 2 ++ leBytes 4 0 ++ leBytes 2 0))

/-- The state of a state sensor of R455; none where it is unavailable. -/
def State.stateSensor (s : State) (sensor : Nat) : Option Nat :=
  if sensor = 17 then some (s.bootState + 1)
  else if s.ready then some (1 + s.fld RegF.pwrStsTripped)
  else none

/-- GET_STATE_SENSOR_READINGS: one sensor: operational state, present state, previous state (0: unknown), event state. -/
def execGetStateSensorReadings (path : Path) (sensor : Nat) (s : State) : Host.Outcome State Fault Refusal :=
  if ¬ s.answersMctp path then ok s
  else if sensor ≠ 16 ∧ sensor ≠ 17 then ok (s.mctpReply path 0x221 0x80 [])
  else
    match s.stateSensor sensor with
    | some v => ok (s.mctpReply path 0x221 0 (leBytes 1 1 ++ leBytes 1 0 ++ leBytes 1 v ++ leBytes 2 0))
    | none => ok (s.mctpReply path 0x221 0 (leBytes 1 1 ++ leBytes 1 2 ++ leBytes 3 0))

/-- The sensors of the PDR repository: number, PDR type (2 numeric, 4 state), unit (1 none, 2 °C, 5 V, 7 W, 67 count) and resolution in
units of 0.0001. -/
def pdrTable : List (Nat × Nat × Nat × Nat) :=
  [(1, 2, 2, 10000), (2, 2, 2, 10000), (3, 2, 7, 10000), (4, 2, 7, 10000), (5, 2, 5, 5), (6, 2, 5, 5), (7, 2, 67, 10000),
   (16, 4, 1, 10000), (17, 4, 1, 10000)]

/-- A record: handle, version, type, change number and length, then what R455 gives of the sensor. -/
def pdrBytes (h : Nat) (x : Nat × Nat × Nat × Nat) : List Byte :=
  leBytes 4 h ++ leBytes 1 1 ++ leBytes 1 x.2.1 ++ leBytes 2 0 ++ leBytes 2 6 ++ leBytes 2 x.1 ++ leBytes 2 x.2.2.1 ++ leBytes 2 x.2.2.2

/-- GET_PDR_REPOSITORY_INFO: available, no update times, nine records of 16 bytes. -/
def execGetPdrRepositoryInfo (path : Path) (s : State) : Host.Outcome State Fault Refusal :=
  if s.answersMctp path then
    ok (s.mctpReply path 0x250 0 (leBytes 1 0 ++ List.replicate 26 0 ++ leBytes 4 pdrTable.length ++ leBytes 4 (16 * pdrTable.length) ++
      leBytes 4 16 ++ leBytes 1 0))
  else ok s

/-- GET_PDR: handles 1 to 9 in the order of R455; 0 names the first. The reply gives the next handle, 0 after the last. -/
def execGetPdr (path : Path) (handle : Nat) (s : State) : Host.Outcome State Fault Refusal :=
  let h := max 1 handle
  if ¬ s.answersMctp path then ok s
  else
    match pdrTable[h - 1]? with
    | none => ok (s.mctpReply path 0x251 0x82 [])
    | some x =>
      ok (s.mctpReply path 0x251 0 (leBytes 4 (if h < pdrTable.length then h + 1 else 0) ++ leBytes 4 0 ++ leBytes 1 5 ++ leBytes 2 16 ++
        pdrBytes h x))

/-- GET_PLDM_VERSION: types 0 and 2; the specification gives no version, which is a free value. -/
def execGetPldmVersion (path : Path) (type : Nat) (s : State) : Host.Outcome State Fault Refusal :=
  if ¬ s.answersMctp path then ok s
  else if type ≠ 0 ∧ type ≠ 2 then ok (s.mctpReply path 0x203 0x83 [])
  else
    let v := s.free
    ok (v.2.mctpReply path 0x203 0 (leBytes 4 0 ++ leBytes 1 5 ++ leBytes 4 v.1.toNat))

/-- GET_PLDM_TYPES: types 0 and 2. -/
def execGetPldmTypes (path : Path) (s : State) : Host.Outcome State Fault Refusal :=
  if s.answersMctp path then ok (s.mctpReply path 0x204 0 (leBytes 8 5)) else ok s

/-- GET_PLDM_COMMANDS: the commands that R455 lists for a type. -/
def execGetPldmCommands (path : Path) (type : Nat) (s : State) : Host.Outcome State Fault Refusal :=
  let mask := fun (l : List Nat) => leBytes 32 ((l.map (fun c => 2 ^ c)).sum)
  if ¬ s.answersMctp path then ok s
  else if type = 0 then ok (s.mctpReply path 0x205 0 (mask [3, 4, 5]))
  else if type = 2 then ok (s.mctpReply path 0x205 0 (mask [2, 0x11, 0x21, 0x50, 0x51]))
  else ok (s.mctpReply path 0x205 0x83 [])

end Sys2Proof.Machine
end

