-- ==== Sys2Proof/Machine/Streams.lean ====
section
/-! DEFINITION. The stream commands (spec/06_gallery_streams_tiles.md R158, R165 to R172, R182, spec/08_backward_and_deposit.md R228,
R233, R234): fetching into a ring, writing out of one, re-arming a standing loan. -/

namespace Sys2Proof.Machine

/-- A stream unit with its allotment (R165). -/
def State.streamAsker (s : State) (u : Nat) : Requester :=
  let x := s.stream u
  { ctx := x.ctx, task := some x.task, num := some x.ent.allot, wing := u / 128, unit := uStream u }

/-- Abort the task of a stream; a loan that no running task holds ends all the same. A loan that has taken the list of a later task serves that
one, and the task that still reads it has lost its loan (R182). -/
def State.failStream (s : State) (u : Nat) (f : Fail) : State :=
  let x := s.stream u
  match x.rearmed with
  | some t => (((s.failTask x.ctx t f).dropLoan u).failTask x.ctx x.task (Fail.addr .streamFault 0))
  | none => (s.failTask x.ctx x.task f).dropLoan u

/-- The read of the next entry of a command list fails: unreachable, in legacy flash, of which only records are read (R210, log 131), or
uncorrectable. -/
def State.listFail (s : State) (u : Nat) : Option (Fail × State) :=
  let x := s.stream u
  let a := x.listBase + 16 * x.next
  if x.dep.isSome then none
  else if isFlash a ∨ ¬ s.allows x.ctx (s.rt x.ctx x.task).epochOld false a 16 then some (Fail.addr .protFault a, s)
  else if s.poisoned a 16 then some (Fail.addr .streamFault a, s.evStream (uStream u) x.ctx a x.next)
  else none

/-- What is wrong with an entry (R182, R186, R207, R210): a reserved bit, a misaligned address, USES of 0 on an in-stream, an address
that the context may not reach, legacy flash where it may not be named. -/
def State.entryFail (s : State) (u : Nat) (e : ListEntry) : Option (Fail × State) :=
  let x := s.stream u
  let bad := some (Fail.addr .streamFault e.addr, s.evStream (uStream u) x.ctx e.addr x.next)
  let prot := some (Fail.addr .protFault e.addr, s)
  if e.bad ∨ e.addr % 64 ≠ 0 ∨ (¬ x.ent.out ∧ e.uses = 0) then bad
  else
    match homeOf e.addr with
    | .gallery => prot
    | .nowhere => prot
    | .flash _ =>
      if x.ent.out ∨ ¬ s.flag RegF.ctxCfgCompat x.ctx then prot
      else if flashOff e.addr % 4096 ≠ 0 then bad
      else if s.allows x.ctx (s.rt x.ctx x.task).epochOld false e.addr recordBytes then none else prot
    | _ => if s.allows x.ctx (s.rt x.ctx x.task).epochOld x.ent.out e.addr tileBytes then none else prot

/-- The shelf position that the next tile of a stream names. -/
def Stream.depPos (x : Stream) : Option (Nat × Nat) := x.dep.map (fun d => (d.1, d.2 + x.next))

/-- A pop's next position must have its tile in its near slot. -/
def State.popHeld (s : State) (u : Nat) : Bool :=
  match (s.stream u).depPos with
  | none => false
  | some (h, p) => (match (s.shelfOf (u / 128) h).home p with | .board => true | .waiting => true | _ => false)

/-- STREAM_FETCH_START: the next list entry begins to fill the next slot, in the slots of the stream's allotment. -/
def execStreamFetchStart (u : Nat) (s : State) : Host.Outcome State Fault Refusal :=
  let x := s.stream u
  if ¬ x.held ∨ x.ent.out ∨ x.depVoid ∨ x.listCount ≤ x.next ∨ x.slot x.ring ≠ .empty ∨ x.slots.isEmpty then ok s
  else
    match s.listFail u with
    | some r => ok (r.2.failStream u r.1)
    | none =>
      let e := s.nextEntry u
      if ¬ e.bad ∧ ¬ s.markMet (u / 128) e then ok (s.putStream u x true)
      else
        match s.entryFail u e with
        | some r => ok (r.2.failStream u r.1)
        | none =>
          if s.popHeld u ∨ ¬ s.slotted (s.streamAsker u) e.addr tileBytes ∨
              ¬ s.slotted (s.streamAsker u) (x.slotAddr x.ring) tileBytes then ok s
          else
            let y := { x with slots := setNth x.slots x.ring (.filling e.addr e.uses x.next), next := x.next + 1,
                              ring := (x.ring + 1) % x.slots.length, unfolded := x.unfolded + 1 }
            match homeOf e.addr with
            | .flash _ => (match s.flashRead e.addr (some (u, x.ring)) none with
              | some s => ok (s.putStream u y)
              | none => ok s)
            | _ => ok (s.putStream u y)

/-- Fold the payloads of the tiles that are whole into the stream's channels, in list order (spec/15 R409). -/
def State.foldSlots (s : State) (u : Nat) : Nat → State
  | 0 => s
  | n + 1 =>
    let x := s.stream u
    let i := (x.ring + x.slots.length - x.unfolded) % max 1 x.slots.length
    match x.unfolded, x.slot i with
    | k + 1, .full _ =>
      let s := s.foldChans false u (s.rd (x.slotAddr i + 64) payloadBytes)
      (s.setStream u { x with unfolded := k }).foldSlots u n
    | _, _ => s

/-- The bytes that fill a slot, or why the fill fails. -/
def State.fillBytes (s : State) (u slot addr pos : Nat) : (Fail × State) ⊕ Option (List Byte × State) :=
  let x := s.stream u
  match homeOf addr with
  | .flash _ =>
    match s.readFor (fun r => r.stream == some (u, slot) && r.addr == addr && r.ready) with
    | some (n, r) => .inr (some (r.data.take tileBytes, s.dropRead n r.cid))
    | none => .inr none
  | h =>
    if s.poisoned addr tileBytes then
      match h with
      | .board _ => .inl (s.poisonFail addr, s.evTier (uStream u) (some x.ctx) addr 1)
      | _ => .inl (s.poisonFail addr, s.evStream (uStream u) x.ctx addr pos)
    else .inr (some (s.rd addr tileBytes, s))

/-- A pop's position is released once its tile has been fetched whole. -/
def State.releasePos (s : State) (u pos : Nat) : State :=
  match (s.stream u).dep with
  | none => s
  | some (h, p) =>
    let x := s.shelfOf (u / 128) h
    s.putShelf (u / 128) h { x.setHome (p + pos) .released with marked := x.marked.filter (fun q => q != p + pos) }

/-- SLOT_FILL_COMPLETE: the last line of a tile is in its slot, which is FULL; a transposing stream's mover has checked and turned it. -/
def execSlotFillComplete (u slot : Nat) (how : Ending) (s : State) : Host.Outcome State Fault Refusal :=
  let x := s.stream u
  match x.slot slot with
  | .filling addr uses pos =>
    if ¬ x.held ∨ x.ent.out ∨ (x.ent.xpose ∧ (s.mover (16 * (u / 128) + x.ent.mover)).held) then ok s
    else
      match s.endingFail (uStream u) x.ctx pos how with
      | some r => ok (r.2.failStream u r.1)
      | none =>
        match s.fillBytes u slot addr pos with
        | .inl r => ok (r.2.failStream u r.1)
        | .inr none => ok s
        | .inr (some (img, s)) =>
          let m := 16 * (u / 128) + x.ent.mover
          if x.ent.xpose ∧ ¬ tileGood img none then ok ((s.evSeal (uMover m) x.ctx addr img).failStream u (Fail.addr .tileSeal addr))
          else
            let s := if x.ent.xpose then s.incFld RegF.wingTmStsTiles 1 (u / 128) x.ent.mover else s
            let s := s.wr (x.slotAddr slot) (if x.ent.xpose then transposeTile img (uMover m) else img)
            let s := s.releasePos u pos
            let s := s.putStream u { x with slots := setNth x.slots slot (.full uses) }
            let s := (s.incFld RegF.wingStrmCntTiles 1 (u / 128) (u % 128)).fillEvt u
            ok ((s.foldSlots u x.slots.length).settle)
  | _ => ok s

/-- The task that re-arms a loan next and its entry: the first in its list that has not been armed, with no mark before it and not void. -/
def State.nextRearm (s : State) (u : Nat) : Option (Nat × StreamEntry) :=
  let c := (s.stream u).ctx
  ((s.wlist c (u / 128)).filterMap (fun y =>
    if (s.rt c y.task).st == .idle && !(s.task c y.task).stepEnd && s.marksBefore c y.task && !s.voidTask c y.task then
      ((s.task c y.task).streams.find? (fun e => e.rearm && e.unit == u % 128)).map (fun e => (y.task, e))
    else none)).head?

/-- A running send takes its tiles from the ring of a stream. -/
def State.sendsFrom (s : State) (u : Nat) : Bool :=
  s.runningTasks.any (fun y => y.1 == (s.stream u).ctx && (s.task y.1 y.2).wing == u / 128 &&
    (s.task y.1 y.2).sends.any (fun e => e.srcUnit == u % 128 && e.ledger.isNone))

/-- STANDING_LOAN_REARM: once the last entry of its list is being fetched, the loan takes entry 0 of the new list: that of the task that has
been armed with it, else of the task that re-arms it next, whose first tiles then arrive while the last of the old list are still read (R171,
log 133). -/
def execStandingLoanRearm (u : Nat) (s : State) : Host.Outcome State Fault Refusal :=
  let x := s.stream u
  if ¬ x.held ∨ ¬ x.ent.standing ∨ x.next < x.listCount then ok s
  else if x.rearm.isSome then ok (s.putStream u x.takeRearm)
  else
    match s.nextRearm u with
    | some (t, e) =>
      if x.rearmed.isSome ∨ s.sendsFrom u then ok s
      else ok (s.putStream u { ({ x with rearm := some (e.listBase, e.listCount) } : Stream).takeRearm with rearmed := some t })
    | none => ok s

/-- The push position q of an out-stream must wait for its near slot. -/
def State.pushHeld (s : State) (u : Nat) : Bool :=
  match (s.stream u).depPos with
  | none => false
  | some (h, q) => (s.shelfOf (u / 128) h).slotBusy q

/-- The slot of an out-stream is EMPTY again: a receive queue's message leaves, and the stream may be over. -/
def State.emptyOut (s : State) (u slot : Nat) : State :=
  let x := s.stream u
  let s := s.putStream u { x with slots := setNth x.slots slot .empty, writing := none }
  let s := match s.queueOfStream u with
    | some (w, q) => s.freeMsg w q
    | none => s
  s.endStream u

/-- OUT_STREAM_WRITE: the tile in the next FULL slot begins to go to its address, in the slots of the
stream's allotment. A void push empties the slot without a write. -/
def execOutStreamWrite (u : Nat) (s : State) : Host.Outcome State Fault Refusal :=
  let x := s.stream u
  if ¬ x.held ∨ ¬ x.ent.out ∨ x.writing.isSome ∨ x.listCount ≤ x.next ∨ ¬ (x.slot x.ring).isFull then ok s
  else
    let y := { x with next := x.next + 1, ring := (x.ring + 1) % max 1 x.slots.length }
    if x.depVoid then ok (((s.putStream u y).emptyOut u x.ring).settle)
    else
      match s.listFail u with
      | some r => ok (r.2.failStream u r.1)
      | none =>
        let e := s.nextEntry u
        if ¬ e.bad ∧ ¬ s.markMet (u / 128) e then ok (s.putStream u x true)
        else
          match s.entryFail u e with
          | some r => ok (r.2.failStream u r.1)
          | none =>
            if s.pushHeld u ∨ ¬ s.slotted (s.streamAsker u) e.addr tileBytes ∨
                ¬ s.slotted (s.streamAsker u) (x.slotAddr x.ring) tileBytes then ok s
            else ok (s.putStream u { y with writing := some (x.ring, e.addr) })

/-- A pushed tile is in its near slot. -/
def State.pushed (s : State) (u addr : Nat) : State :=
  match (s.stream u).dep with
  | none => s
  | some (h, _) =>
    let x := s.shelfOf (u / 128) h
    match x.homes.find? (fun c => c.2 == .waiting && x.ent.nearSlot c.1 == addr) with
    | some c => s.putShelf (u / 128) h (x.setHome c.1 .near)
    | none => s

/-- OUT_STREAM_TILE_STORED: the tile has reached its tier whole, and its slot is EMPTY. -/
def execOutStreamTileStored (u : Nat) (how : Ending) (s : State) : Host.Outcome State Fault Refusal :=
  let x := s.stream u
  match x.writing with
  | none => ok s
  | some (slot, addr) =>
    if ¬ x.held then ok s
    else
      match s.endingFail (uStream u) x.ctx (x.next - 1) how with
      | some r => ok (r.2.failStream u r.1)
      | none =>
        let a := x.slotAddr slot
        if s.poisoned a tileBytes then
          let r := s.galleryFail x.ctx a tileBytes
          ok (r.2.failStream u r.1)
        else
          let s := s.galleryCorrected a tileBytes
          let img := s.rd a tileBytes
          let s := (s.wr addr img).pushed u addr
          let s := (s.incFld RegF.wingStrmCntTiles 1 (u / 128) (u % 128)).fillEvt u
          let s := s.foldChans false u (img.drop 64)
          ok ((s.emptyOut u slot).settle)

/-- GALLERY_CORRECTION_WRITE_BACK: the scrub of a wing writes a corrected word back. -/
def execGalleryCorrectionWriteBack (w line : Nat) (s : State) : Host.Outcome State Fault Refusal :=
  if galleryWing (64 * line) = w ∧ 64 * line < galleryEnd then ok { s with corrected := s.corrected.filter (fun x => x != line) } else ok s

/-- WING_GSTM_CNT_CLR. -/
def execWingGstmCntClr (w : Nat) (s : State) : Host.Outcome State Fault Refusal :=
  if 4 ≤ w ∨ ¬ s.ready then ok s
  else
    let s := (s.setFld RegF.wingGalEccCorrected 0 w).setFld RegF.wingGalEccUncorrected 0 w
    let s := overList (List.range 128) (fun u s =>
      ((s.setFld RegF.wingStrmCntTiles 0 w u).clrCycles RegF.wingStrmCntMarkWait w u).clrCycles RegF.wingStrmCntFillWait w u) s
    ok (overList (List.range 16) (fun m s => (s.setFld RegF.wingTmStsTiles 0 w m).setFld RegF.wingCourStsDone 0 w m) s)

end Sys2Proof.Machine
end

