-- ==== Sys2Proof/Machine/Tasks.lean ====
section
/-! DEFINITION. The ends of tasks: completion, abort, the finish of a step-end mark, a barrier release and the open-mode watchdog
(spec/02_number_formats.md R51 to R53, spec/03_exact_path.md R81, spec/04_matrix_arrays.md R111, R112, spec/05_vector_engines.md R128,
spec/08_backward_and_deposit.md R239, spec/09_ledger_reduction_update.md R250, R263, spec/11_ralda_link.md R327,
spec/12_rings_contexts_rota.md R340, spec/15_integrity_records_guarantees.md R431). -/

namespace Sys2Proof.Machine

/-! ### Completion -/

/-- A send entry has sent every message to every receiver that is not detached, a multicast's receivers have acknowledged all of them
by their credits, and the recall of every detached one has ended (R324). -/
def State.sendDone (s : State) (c t k : Nat) : Bool :=
  let e := nth {} (s.task c t).sends k
  let x := s.sendSt c t k
  e.receivers.all (fun p => if x.isDetached p then x.recallEnded.contains p || s.recallDone c t k p
    else decide (e.count ≤ Tbl.get 0 x.nexts p) && (e.kind != .multicast || decide (e.slots ≤ Tbl.get 0 x.credits p)))

/-- The products whose outputs a task converts: the groups that its receive queues own (spec/09 R264). -/
def State.productsOf (s : State) (c t : Nat) : List Nat :=
  ((s.cert c).queues.filter (fun b => b.task == t)).map (fun b => b.op) |>.filter (fun g =>
    let r := (s.cert c).redGroup g
    r.product.isSome && !r.combiner)

/-- Everything that a running task does is done: jobs, streams, moves, courier transfers, attention, append and sends (R172, R340).
Ledger, barrier and small-traffic tasks and step-end marks end by rules of their own. -/
def State.taskDone (s : State) (c t : Nat) : Bool :=
  let k := s.task c t
  let x := s.rt c t
  k.ledger.isNone && k.barrier.isNone && k.small.isNone && !k.stepEnd &&
    k.arrayJobs.zipIdx.all (fun j => (s.array (2 * k.wing + j.1.array)).doneJobs.contains j.2) &&
    (List.range k.vecJobs.length).all (fun j => x.jobs.contains j) &&
    s.strm.all (fun u => !(u.2.held && u.2.ctx == c && u.2.task == t && !u.2.ent.standing)) &&
    k.moves.all (fun m => x.movesDone.contains m) &&
    s.cour.all (fun q => !(q.2.held && q.2.ctx == c && q.2.task == t) || (!q.2.busy &&
      decide (dist32 q.2.posted (s.evGet (q.1 / 16) q.2.bind.postEvt).toNat ≤ q.2.taken))) &&
    (k.attend.isNone || (match x.att with | some a => a.done | none => false)) &&
    (match k.append with | some a => decide (a.tiles ≤ x.place / 65536) && !x.flushing | none => true) &&
    (List.range k.sends.length).all (fun i => s.sendDone c t i) &&
    (s.productsOf c t).all (fun g => x.prods.contains g)

/-- TASK_COMPLETE: a running task with everything done completes with OK. -/
def execTaskComplete (c t : Nat) (s : State) : Host.Outcome State Fault Refusal :=
  if s.running c t ∧ s.taskDone c t then ok ((s.completeTask c t .ok 0).settle) else ok s

/-- TASK_ABORT: a task that is armed, running or suspended ends with a status of the codes of R347 that name an error. -/
def execTaskAbort (c t : Nat) (st : Status) (detail : W64) (s : State) : Host.Outcome State Fault Refusal :=
  if (s.rt c t).st.live ∧ (s.rt c t).inRun ∧ ¬ (s.task c t).stepEnd ∧ 0x10 ≤ st.code then ok (s.failTask c t ⟨st, detail⟩)
  else ok s

/-! ### Barrier start groups (spec/04 R111, R112) -/

/-- The arrays in the order of R112. -/
def startOrder : List Nat := [0, 4, 1, 5, 2, 6, 3, 7]

/-- The tasks with array jobs that a release made ready, beside the state before it: those that are ready or have started since (R243). -/
def State.madeReady (s before : State) (c : Nat) : List Nat :=
  (s.runTasks c).filter (fun t => (s.isReady c t || (s.rt c t).st == .running) && !(s.rt c t).isVoid && (before.rt c t).st.fresh &&
    !before.isReady c t && !(s.task c t).arrayJobs.isEmpty)

/-- Put a group in order: one released while another's starts are in progress comes after it, and those released at one time stand in
ascending order of the lowest wing they use (R112). -/
def insertGroup (g : StartGroup) : List StartGroup → List StartGroup
  | [] => [g]
  | h :: l => if h.begun ∨ h.time ≠ g.time ∨ h.wing ≤ g.wing then h :: insertGroup g l else g :: h :: l

/-- The array jobs that a release made ready form a start group (R111): those whose arrays have been taken start in the order of R112, the job of
rank r 64·r cycles after the group begins; those whose tasks start later ramp when they start (log 116). -/
def State.formGroup (s before : State) (c : Nat) : State :=
  let ts := s.madeReady before c
  let l := startOrder.filter (fun a => (s.array a).busy && (s.array a).ctx == c && ts.contains (s.array a).task && !(s.array a).started &&
    (s.nextJob a).isSome)
  let s := overList (ts.filter (fun t => (s.rt c t).st != .running)) (fun t s => s.updRt c t (fun x => { x with grouped := true })) s
  if l.isEmpty then s
  else
    let g : StartGroup := { queue := l.zipIdx.map (fun x => (x.1, 64 * x.2)), time := s.time, wing := l.foldl (fun m a => min m (a / 2)) 3 }
    { s with starts := insertGroup g s.starts }

/-! ### Step-end marks -/

/-- Every event counter that a context holds is zero (spec/05 R128). -/
def State.clearCounters (s : State) (c : Nat) : State :=
  { s with ev := s.ev.filter (fun x => Tbl.get 0 s.evOwn x.1 != c + 1) }

/-- Every shelf of a context is emptied and serves again; in open mode one that is not empty counts (spec/08 R239). -/
def State.emptyShelves (s : State) (c : Nat) : State :=
  overList s.shelf (fun k s =>
    let w := k.1 / 16
    let h := k.1 % 16
    let x := s.shelfOf w h
    if x.held && x.ctx == c then
      let s := if s.flag RegF.ctxStsOpen c && decide (0 < x.top) then s.incFld RegF.wingDepWaitLeftover 1 w else s
      s.putShelf w h { x with top := 0, homes := [], marked := [], broken := false }
    else s) s

/-- A ledger entry at a step-end mark: LSCALE takes LSCALE_NEXT, the chunk status records are clear, and what a step without a verdict
has gathered is dropped (spec/09 R250, R263). -/
def State.markLedger (s : State) (c le : Nat) : State :=
  let x := s.ledger c le
  let keep := if x.verdict.isSome then x.chunks else x.chunks.filter (fun y => decide (4 * (x.step + 1) ≤ y.1 / 2 ^ 32))
  let y := if x.verdict.isSome then x else { x with kids := {}, heard := 0 }
  let s := s.putLedger c le { y with lscale := x.lscaleNext, chunks := keep, mark := none, undo := [], telW := [], telD := [], telOvf := [],
                                     telRecs := [], telDue := false }
  s.clearCstat (s.ledgerEnt c le)

/-- What a mark writes in the context's memory (R367): the scale-manager table, and of each ledger its chunk status records and state record. -/
def State.markWrites (s : State) (c : Nat) : List (Nat × Nat) :=
  let sm := ((s.prog c).getD {}).sm
  (if (s.cert c).smTable.isSome then (sm.base + 12, 8) :: (List.range sm.entries.length).map (fun n => (sm.base + 128 + 128 * n, 128)) else []) ++
    ((s.cert c).ledgers.map (fun l => (l.stateBase, 64) :: (List.range l.chunks).map (fun j => (l.cstatAddr j, 16)))).flatten

/-- The first of them that the context's domain does not allow. -/
def State.markFail (s : State) (c t : Nat) : Option Nat :=
  ((s.markWrites c).find? (fun r => !s.allows c (s.rt c t).epochOld true r.1 r.2)).map (fun r => r.1)

/-- STEP_END_MARK_FINISH. A mark that may not write a table aborts with PROT_FAULT instead (log 132). -/
def execStepEndMarkFinish (c : Nat) (s : State) : Host.Outcome State Fault Refusal :=
  match (s.prog c).bind (fun p => p.markRunning) with
  | none => ok s
  | some t =>
    if ¬ s.running c t then ok s
    else match s.markFail c t with
    | some a => ok (s.failTask c t (Fail.addr .protFault a))
    | none =>
      let failed := (s.runTasks c).any (fun k => (s.rt c k).st == .aborted)
      let b := s
      let s := s.markScales c
      let s := (s.clearCounters c).emptyShelves c
      let s := overList (List.range (s.cert c).ledgers.length) (fun le s => s.markLedger c le) s
      let fr := s.frozenNow c
      let s := s.updProg c (fun p => { p with frozen := fr, markRunning := none, products := if failed then [] else p.products,
                                              prodHdr := if failed then [] else p.prodHdr,
                                              smalls := if failed then [] else p.smalls })
      ok (((s.completeTask c t .ok 0).settle).formGroup b c)

/-! ### Barriers (spec/11 R327) -/

/-- BARRIER_RELEASE: at the release time, or at a later token, plus the stagger of 250 ns (62.5 ticks) for each device, the barrier task completes; its use number rises. -/
def execBarrierRelease (c t : Nat) (s : State) : Host.Outcome State Fault Refusal :=
  match (s.task c t).barrier, (s.rt c t).bar with
  | some b, some x =>
    match x.release with
    | none => ok s
    | some at' =>
      let wait := if b.stagger then (b.devIndex % 64) * 125 else 0
      if ¬ s.running c t ∨ ¬ x.sentUp then ok s
      else
        let s := s.comeTo ((2 * at' + wait + 1) / 2)
        let use := s.barUse c t
        let s' := s.updProg c (fun p =>
          { p with uses := Tbl.set 0 p.uses t ((use + 1) % 2 ^ 32), arrived := Tbl.set 0 p.arrived (t * 2 ^ 32 + use) 0 })
        ok (((s'.completeTask c t .ok 0).settle).formGroup s c)
  | _, _ => ok s

/-! ### The open-mode watchdog (spec/15 R431) -/

/-- STALL_TIMEOUT: a task of an open-mode program without progress aborts; a suspended append is exempt. `unit` is the unit that did
not go on. -/
def execStallTimeout (c t unit : Nat) (s : State) : Host.Outcome State Fault Refusal :=
  if s.running c t ∧ s.flag RegF.ctxStsOpen c then
    let s := s.event unit 0x0301 3 (some c) [(16, 4, t)]
    ok (s.failTask c t (s.unitFail .stallTimeout unit))
  else ok s

end Sys2Proof.Machine
end

