-- ==== Sys2Proof/Machine/Dispatch.lean ====
section
/-! DEFINITION. One arm for each command: the call of its meaning. -/

namespace Sys2Proof.Machine

/-- What each command does to everything but the queue of waiting commands. -/
def exec (i : Instr) (s : State) : Host.Outcome State Fault Refusal :=
  match i with
  | .doorbell fn c off size val => Sys2Proof.Machine.execDoorbell fn c off size val s
  | .descriptorFetch c => Sys2Proof.Machine.execDescriptorFetch c s
  | .nopDescriptor c idx => Sys2Proof.Machine.execNopDescriptor c idx s
  | .load c idx => Sys2Proof.Machine.execLoad c idx s
  | .admissionComplete c => Sys2Proof.Machine.execAdmissionComplete c s
  | .unload c idx => Sys2Proof.Machine.execUnload c idx s
  | .unloadProgramRelease c => Sys2Proof.Machine.execUnloadProgramRelease c s
  | .run c idx => Sys2Proof.Machine.execRun c idx s
  | .abort c idx => Sys2Proof.Machine.execAbort c idx s
  | .copy c idx => Sys2Proof.Machine.execCopy c idx s
  | .copyComplete c idx how => Sys2Proof.Machine.execCopyComplete c idx how s
  | .scan c idx => Sys2Proof.Machine.execScan c idx s
  | .scanComplete c idx how => Sys2Proof.Machine.execScanComplete c idx how s
  | .digest c idx => Sys2Proof.Machine.execDigest c idx s
  | .digestComplete c idx how => Sys2Proof.Machine.execDigestComplete c idx how s
  | .attest c idx => Sys2Proof.Machine.execAttest c idx s
  | .attestReportSigned c idx => Sys2Proof.Machine.execAttestReportSigned c idx s
  | .kvGrant c idx => Sys2Proof.Machine.execKvGrant c idx s
  | .kvOpen c idx => Sys2Proof.Machine.execKvOpen c idx s
  | .kvRelease c idx => Sys2Proof.Machine.execKvRelease c idx s
  | .kvReleaseFinish c seq => Sys2Proof.Machine.execKvReleaseFinish c seq s
  | .completionRecordWrite c => Sys2Proof.Machine.execCompletionRecordWrite c s
  | .irqHoldoffExpiry c => Sys2Proof.Machine.execIrqHoldoffExpiry c s
  | .ctxEnable fn c => Sys2Proof.Machine.execCtxEnable fn c s
  | .ctxDisable fn c => Sys2Proof.Machine.execCtxDisable fn c s
  | .ctxDisableDone c => Sys2Proof.Machine.execCtxDisableDone c s
  | .ctxCtlAbort fn c => Sys2Proof.Machine.execCtxCtlAbort fn c s
  | .functionLevelReset vf => Sys2Proof.Machine.execFunctionLevelReset vf s
  | .pfFunctionLevelReset => Sys2Proof.Machine.execPfFunctionLevelReset s
  | .hotReset => Sys2Proof.Machine.execHotReset s
  | .taskComplete c t => Sys2Proof.Machine.execTaskComplete c t s
  | .taskAbort c t st detail => Sys2Proof.Machine.execTaskAbort c t st detail s
  | .stepEndMarkFinish c => Sys2Proof.Machine.execStepEndMarkFinish c s
  | .arrayJobStart a => Sys2Proof.Machine.execArrayJobStart a s
  | .arrayIssue a arrived drained => Sys2Proof.Machine.execArrayIssue a arrived drained s
  | .arrayPassEnd a => Sys2Proof.Machine.execArrayPassEnd a s
  | .arrayJobEnd a => Sys2Proof.Machine.execArrayJobEnd a s
  | .arrayParityError a part => Sys2Proof.Machine.execArrayParityError a part s
  | .columnGroupGate a => Sys2Proof.Machine.execColumnGroupGate a s
  | .columnGroupUngate a idx => Sys2Proof.Machine.execColumnGroupUngate a idx s
  | .barrierGroupJobStart a => Sys2Proof.Machine.execBarrierGroupJobStart a s
  | .vectorJobStart c t j => Sys2Proof.Machine.execVectorJobStart c t j s
  | .vectorJobComplete c t j issued stalled => Sys2Proof.Machine.execVectorJobComplete c t j issued stalled s
  | .vectorParityError e => Sys2Proof.Machine.execVectorParityError e s
  | .updateBatchLoad e => Sys2Proof.Machine.execUpdateBatchLoad e s
  | .updateRecordWrite e => Sys2Proof.Machine.execUpdateRecordWrite e s
  | .nop e o => Sys2Proof.Machine.execNop e o s
  | .halt e o => Sys2Proof.Machine.execHalt e o s
  | .loop e o => Sys2Proof.Machine.execLoop e o s
  | .endl e o => Sys2Proof.Machine.execEndl e o s
  | .skip e o => Sys2Proof.Machine.execSkip e o s
  | .bar e o => Sys2Proof.Machine.execBar e o s
  | .barMet e => Sys2Proof.Machine.execBarMet e s
  | .sig e o => Sys2Proof.Machine.execSig e o s
  | .sigIncrement e => Sys2Proof.Machine.execSigIncrement e s
  | .wait e o => Sys2Proof.Machine.execWait e o s
  | .waitMet e => Sys2Proof.Machine.execWaitMet e s
  | .cwait e o => Sys2Proof.Machine.execCwait e o s
  | .cwaitMet e => Sys2Proof.Machine.execCwaitMet e s
  | .crel e o => Sys2Proof.Machine.execCrel e o s
  | .fence e o => Sys2Proof.Machine.execFence e o s
  | .fenceMet e => Sys2Proof.Machine.execFenceMet e s
  | .add e o => Sys2Proof.Machine.execAdd e o s
  | .sub e o => Sys2Proof.Machine.execSub e o s
  | .mul e o => Sys2Proof.Machine.execMul e o s
  | .fma e o => Sys2Proof.Machine.execFma e o s
  | .fms e o => Sys2Proof.Machine.execFms e o s
  | .fnma e o => Sys2Proof.Machine.execFnma e o s
  | .div e o => Sys2Proof.Machine.execDiv e o s
  | .sqrt e o => Sys2Proof.Machine.execSqrt e o s
  | .rsqrt e o => Sys2Proof.Machine.execRsqrt e o s
  | .rcp e o => Sys2Proof.Machine.execRcp e o s
  | .min e o => Sys2Proof.Machine.execMin e o s
  | .max e o => Sys2Proof.Machine.execMax e o s
  | .abs e o => Sys2Proof.Machine.execAbs e o s
  | .neg e o => Sys2Proof.Machine.execNeg e o s
  | .select e o => Sys2Proof.Machine.execSelect e o s
  | .clip e o => Sys2Proof.Machine.execClip e o s
  | .scaleb e o => Sys2Proof.Machine.execScaleb e o s
  | .cmp e o => Sys2Proof.Machine.execCmp e o s
  | .pand e o => Sys2Proof.Machine.execPand e o s
  | .por e o => Sys2Proof.Machine.execPor e o s
  | .pxor e o => Sys2Proof.Machine.execPxor e o s
  | .pnot e o => Sys2Proof.Machine.execPnot e o s
  | .pfirst e o => Sys2Proof.Machine.execPfirst e o s
  | .pcnt e o => Sys2Proof.Machine.execPcnt e o s
  | .mov e o => Sys2Proof.Machine.execMov e o s
  | .bcast e o => Sys2Proof.Machine.execBcast e o s
  | .lane e o => Sys2Proof.Machine.execLane e o s
  | .perm e o => Sys2Proof.Machine.execPerm e o s
  | .rot e o => Sys2Proof.Machine.execRot e o s
  | .iota e o => Sys2Proof.Machine.execIota e o s
  | .cvt e o => Sys2Proof.Machine.execCvt e o s
  | .exp2 e o => Sys2Proof.Machine.execExp2 e o s
  | .log2 e o => Sys2Proof.Machine.execLog2 e o s
  | .rsum e o => Sys2Proof.Machine.execRsum e o s
  | .rmax e o => Sys2Proof.Machine.execRmax e o s
  | .rmin e o => Sys2Proof.Machine.execRmin e o s
  | .rsumx e o => Sys2Proof.Machine.execRsumx e o s
  | .iadd e o => Sys2Proof.Machine.execIadd e o s
  | .isub e o => Sys2Proof.Machine.execIsub e o s
  | .imul e o => Sys2Proof.Machine.execImul e o s
  | .and e o => Sys2Proof.Machine.execAnd e o s
  | .or e o => Sys2Proof.Machine.execOr e o s
  | .xor e o => Sys2Proof.Machine.execXor e o s
  | .shl e o => Sys2Proof.Machine.execShl e o s
  | .shr e o => Sys2Proof.Machine.execShr e o s
  | .sar e o => Sys2Proof.Machine.execSar e o s
  | .imin e o => Sys2Proof.Machine.execImin e o s
  | .imax e o => Sys2Proof.Machine.execImax e o s
  | .sadd e o => Sys2Proof.Machine.execSadd e o s
  | .ssub e o => Sys2Proof.Machine.execSsub e o s
  | .smul e o => Sys2Proof.Machine.execSmul e o s
  | .smovi e o => Sys2Proof.Machine.execSmovi e o s
  | .slui e o => Sys2Proof.Machine.execSlui e o s
  | .sget e o => Sys2Proof.Machine.execSget e o s
  | .sclr e o => Sys2Proof.Machine.execSclr e o s
  | .ladd e o => Sys2Proof.Machine.execLadd e o s
  | .lsub e o => Sys2Proof.Machine.execLsub e o s
  | .lneg e o => Sys2Proof.Machine.execLneg e o s
  | .lshl e o => Sys2Proof.Machine.execLshl e o s
  | .lsar e o => Sys2Proof.Machine.execLsar e o s
  | .lmax e o => Sys2Proof.Machine.execLmax e o s
  | .lmin e o => Sys2Proof.Machine.execLmin e o s
  | .lq e o => Sys2Proof.Machine.execLq e o s
  | .lwiden e o => Sys2Proof.Machine.execLwiden e o s
  | .lsqa e o => Sys2Proof.Machine.execLsqa e o s
  | .ladda e o => Sys2Proof.Machine.execLadda e o s
  | .lsuma e o => Sys2Proof.Machine.execLsuma e o s
  | .lsh64 e o => Sys2Proof.Machine.execLsh64 e o s
  | .lclra e o => Sys2Proof.Machine.execLclra e o s
  | .gld e o => Sys2Proof.Machine.execGld e o s
  | .gst e o => Sys2Proof.Machine.execGst e o s
  | .tin e o => Sys2Proof.Machine.execTin e o s
  | .tout e o => Sys2Proof.Machine.execTout e o s
  | .tld e o => Sys2Proof.Machine.execTld e o s
  | .tst e o => Sys2Proof.Machine.execTst e o s
  | .gcl e o => Sys2Proof.Machine.execGcl e o s
  | .galleryCorrectionWriteBack w line => Sys2Proof.Machine.execGalleryCorrectionWriteBack w line s
  | .streamFetchStart u => Sys2Proof.Machine.execStreamFetchStart u s
  | .slotFillComplete u slot how => Sys2Proof.Machine.execSlotFillComplete u slot how s
  | .standingLoanRearm u => Sys2Proof.Machine.execStandingLoanRearm u s
  | .outStreamWrite u => Sys2Proof.Machine.execOutStreamWrite u s
  | .outStreamTileStored u how => Sys2Proof.Machine.execOutStreamTileStored u how s
  | .moveTile m how => Sys2Proof.Machine.execMoveTile m how s
  | .k4FetchTile m how => Sys2Proof.Machine.execK4FetchTile m how s
  | .prefetchEntryStart w c => Sys2Proof.Machine.execPrefetchEntryStart w c s
  | .courierEntryTake q => Sys2Proof.Machine.execCourierEntryTake q s
  | .courierTransferComplete q how => Sys2Proof.Machine.execCourierTransferComplete q how s
  | .depositSpill w h how => Sys2Proof.Machine.execDepositSpill w h how s
  | .depositReturn m how => Sys2Proof.Machine.execDepositReturn m how s
  | .nearTierAccess slot r corrected uncorrectable => Sys2Proof.Machine.execNearTierAccess slot r corrected uncorrectable s
  | .stackRefresh k pc slot => Sys2Proof.Machine.execStackRefresh k pc slot s
  | .maintenanceProbe k pc step marginLow => Sys2Proof.Machine.execMaintenanceProbe k pc step marginLow s
  | .patrolScrub k pc found => Sys2Proof.Machine.execPatrolScrub k pc found s
  | .stackChannelRetrain k ch temp => Sys2Proof.Machine.execStackChannelRetrain k ch temp s
  | .stackRetrainEnd k => Sys2Proof.Machine.execStackRetrainEnd k s
  | .eyeScanGo k cmd => Sys2Proof.Machine.execEyeScanGo k cmd s
  | .eyeScanComplete k map => Sys2Proof.Machine.execEyeScanComplete k map s
  | .stackUeWindowEnd => Sys2Proof.Machine.execStackUeWindowEnd s
  | .boardTierRequest b slot r => Sys2Proof.Machine.execBoardTierRequest b slot r s
  | .rdata b msg => Sys2Proof.Machine.execRdata b msg s
  | .wack b msg => Sys2Proof.Machine.execWack b msg s
  | .cfgdata b msg => Sys2Proof.Machine.execCfgdata b msg s
  | .evt b msg => Sys2Proof.Machine.execEvt b msg s
  | .cxlMemResponse b tag poison data => Sys2Proof.Machine.execCxlMemResponse b tag poison data s
  | .btpRequestTimeout b tag => Sys2Proof.Machine.execBtpRequestTimeout b tag s
  | .btLinkDown b => Sys2Proof.Machine.execBtLinkDown b s
  | .btLinkRetrained b => Sys2Proof.Machine.execBtLinkRetrained b s
  | .btPortWithdraw b => Sys2Proof.Machine.execBtPortWithdraw b s
  | .nvmeReadCompletion n cid status data => Sys2Proof.Machine.execNvmeReadCompletion n cid status data s
  | .legacyFlashTimeout n cid => Sys2Proof.Machine.execLegacyFlashTimeout n cid s
  | .transportSend c t k p => Sys2Proof.Machine.execTransportSend c t k p s
  | .flitReceive p flit bad badLanes => Sys2Proof.Machine.execFlitReceive p flit bad badLanes s
  | .write p => Sys2Proof.Machine.execWrite p s
  | .mcast p => Sys2Proof.Machine.execMcast p s
  | .reduce p => Sys2Proof.Machine.execReduce p s
  | .credit p => Sys2Proof.Machine.execCredit p s
  | .detach p => Sys2Proof.Machine.execDetach p s
  | .recall p => Sys2Proof.Machine.execRecall p s
  | .arrive p => Sys2Proof.Machine.execArrive p s
  | .token p => Sys2Proof.Machine.execToken p s
  | .sync p stamp => Sys2Proof.Machine.execSync p stamp s
  | .small p => Sys2Proof.Machine.execSmall p s
  | .abortMessage p => Sys2Proof.Machine.execAbortMessage p s
  | .laneFailed p lane cause => Sys2Proof.Machine.execLaneFailed p lane cause s
  | .laneReplacementComplete p => Sys2Proof.Machine.execLaneReplacementComplete p s
  | .portHalf p => Sys2Proof.Machine.execPortHalf p s
  | .portDown p reason => Sys2Proof.Machine.execPortDown p reason s
  | .linkSilenceTimeout p => Sys2Proof.Machine.execLinkSilenceTimeout p s
  | .portUp p healthy peerDev peerPort peerGen rttNs => Sys2Proof.Machine.execPortUp p healthy peerDev peerPort peerGen rttNs s
  | .mcastDetach c t k p => Sys2Proof.Machine.execMcastDetach c t k p s
  | .recallLimitExpiry c t k p => Sys2Proof.Machine.execRecallLimitExpiry c t k p s
  | .timeSyncExchange t1 t2 t3 t4 => Sys2Proof.Machine.execTimeSyncExchange t1 t2 t3 t4 s
  | .barrierRelease c t => Sys2Proof.Machine.execBarrierRelease c t s
  | .kvPageTimeout c t => Sys2Proof.Machine.execKvPageTimeout c t s
  | .attendBlock c t => Sys2Proof.Machine.execAttendBlock c t s
  | .stallTimeout c t unit => Sys2Proof.Machine.execStallTimeout c t unit s
  | .rotaSlotStart w slot => Sys2Proof.Machine.execRotaSlotStart w slot s
  | .rotaCommit wings => Sys2Proof.Machine.execRotaCommit wings s
  | .rotaTakeEffect => Sys2Proof.Machine.execRotaTakeEffect s
  | .commit => Sys2Proof.Machine.execCommit s
  | .revoke => Sys2Proof.Machine.execRevoke s
  | .heldCommitEffect => Sys2Proof.Machine.execHeldCommitEffect s
  | .rehang scopes => Sys2Proof.Machine.execRehang scopes s
  | .heldRehangEffect scope => Sys2Proof.Machine.execHeldRehangEffect scope s
  | .setupRegisterWrite fn off size val => Sys2Proof.Machine.execSetupRegisterWrite fn off size val s
  | .clearFlags c entry => Sys2Proof.Machine.execClearFlags c entry s
  | .setScale c entry arg => Sys2Proof.Machine.execSetScale c entry arg s
  | .resetHistory c entry => Sys2Proof.Machine.execResetHistory c entry s
  | .setHeadroom c entry arg => Sys2Proof.Machine.execSetHeadroom c entry arg s
  | .freeze c g => Sys2Proof.Machine.execFreeze c g s
  | .thaw c g => Sys2Proof.Machine.execThaw c g s
  | .exempt c g => Sys2Proof.Machine.execExempt c g s
  | .unexempt c g => Sys2Proof.Machine.execUnexempt c g s
  | .wingMaCntClr a => Sys2Proof.Machine.execWingMaCntClr a s
  | .wingVeCntClr w => Sys2Proof.Machine.execWingVeCntClr w s
  | .wingGstmCntClr w => Sys2Proof.Machine.execWingGstmCntClr w s
  | .wingDepCntClr w => Sys2Proof.Machine.execWingDepCntClr w s
  | .kvaCntClr => Sys2Proof.Machine.execKvaCntClr s
  | .lnkCntClr p => Sys2Proof.Machine.execLnkCntClr p s
  | .redLdgCntClr => Sys2Proof.Machine.execRedLdgCntClr s
  | .pwrCntClr => Sys2Proof.Machine.execPwrCntClr s
  | .lnkIsolate p => Sys2Proof.Machine.execLnkIsolate p s
  | .retrain p => Sys2Proof.Machine.execRetrain p s
  | .release p => Sys2Proof.Machine.execRelease p s
  | .pwrForceLow on => Sys2Proof.Machine.execPwrForceLow on s
  | .planNow => Sys2Proof.Machine.execPlanNow s
  | .planDue => Sys2Proof.Machine.execPlanDue s
  | .planComplete corrected => Sys2Proof.Machine.execPlanComplete corrected s
  | .clearAcc => Sys2Proof.Machine.execClearAcc s
  | .free slot => Sys2Proof.Machine.execFree slot s
  | .mirrorRecordWrite => Sys2Proof.Machine.execMirrorRecordWrite s
  | .galleryApertureAccess off size data => Sys2Proof.Machine.execGalleryApertureAccess off size data s
  | .imageWindowWrite off data => Sys2Proof.Machine.execImageWindowWrite off data s
  | .go => Sys2Proof.Machine.execGo s
  | .imageDigestComplete => Sys2Proof.Machine.execImageDigestComplete s
  | .signatureVerified => Sys2Proof.Machine.execSignatureVerified s
  | .imageStart cpllLock fpllLock corrected => Sys2Proof.Machine.execImageStart cpllLock fpllLock corrected s
  | .bringupComplete found => Sys2Proof.Machine.execBringupComplete found s
  | .bootReadyTimeout => Sys2Proof.Machine.execBootReadyTimeout s
  | .hostLinkTrained => Sys2Proof.Machine.execHostLinkTrained s
  | .perstNAssert => Sys2Proof.Machine.execPerstNAssert s
  | .perstNDeassert => Sys2Proof.Machine.execPerstNDeassert s
  | .inputReaches40v => Sys2Proof.Machine.execInputReaches40v s
  | .powerUpDelayExpiry => Sys2Proof.Machine.execPowerUpDelayExpiry s
  | .pwrEnAssert => Sys2Proof.Machine.execPwrEnAssert s
  | .railsInRegulation good => Sys2Proof.Machine.execRailsInRegulation good s
  | .pwrEnDeassert => Sys2Proof.Machine.execPwrEnDeassert s
  | .inputUndervoltage => Sys2Proof.Machine.execInputUndervoltage s
  | .pwrGoodFall => Sys2Proof.Machine.execPwrGoodFall s
  | .recorderClose => Sys2Proof.Machine.execRecorderClose s
  | .mirrorStop => Sys2Proof.Machine.execMirrorStop s
  | .holdupEnd => Sys2Proof.Machine.execHoldupEnd s
  | .vrAlertNFall => Sys2Proof.Machine.execVrAlertNFall s
  | .vrAlertNRise => Sys2Proof.Machine.execVrAlertNRise s
  | .alertHoldExpiry => Sys2Proof.Machine.execAlertHoldExpiry s
  | .powerSample watts => Sys2Proof.Machine.execPowerSample watts s
  | .powerLoopEvaluation => Sys2Proof.Machine.execPowerLoopEvaluation s
  | .thermalSensorRead temps stackTemps => Sys2Proof.Machine.execThermalSensorRead temps stackTemps s
  | .thermalThrottleStep => Sys2Proof.Machine.execThermalThrottleStep s
  | .droopDetect d => Sys2Proof.Machine.execDroopDetect d s
  | .droopRecoveryEnd d cycles => Sys2Proof.Machine.execDroopRecoveryEnd d cycles s
  | .droopLong d us => Sys2Proof.Machine.execDroopLong d us s
  | .avsEvaluation d slacks above35For10ms stuckFor1ms => Sys2Proof.Machine.execAvsEvaluation d slacks above35For10ms stuckFor1ms s
  | .marginRelease => Sys2Proof.Machine.execMarginRelease s
  | .levelStepComplete => Sys2Proof.Machine.execLevelStepComplete s
  | .cpllUnlock d => Sys2Proof.Machine.execCpllUnlock d s
  | .cpllRelock => Sys2Proof.Machine.execCpllRelock s
  | .fpllUnlock => Sys2Proof.Machine.execFpllUnlock s
  | .readRecord path area index => Sys2Proof.Machine.execReadRecord path area index s
  | .readSensors path => Sys2Proof.Machine.execReadSensors path s
  | .forceLow path => Sys2Proof.Machine.execForceLow path s
  | .releaseLow path => Sys2Proof.Machine.execReleaseLow path s
  | .abortAll path => Sys2Proof.Machine.execAbortAll path s
  | .isolate path p => Sys2Proof.Machine.execIsolate path p s
  | .readHoldings path => Sys2Proof.Machine.execReadHoldings path s
  | .reset path => Sys2Proof.Machine.execReset path s
  | .readIdkey path => Sys2Proof.Machine.execReadIdkey path s
  | .mctpControlMessage path msg => Sys2Proof.Machine.execMctpControlMessage path msg s
  | .getTid path => Sys2Proof.Machine.execGetTid path s
  | .getSensorReading path sensor => Sys2Proof.Machine.execGetSensorReading path sensor s
  | .getStateSensorReadings path sensor => Sys2Proof.Machine.execGetStateSensorReadings path sensor s
  | .getPdrRepositoryInfo path => Sys2Proof.Machine.execGetPdrRepositoryInfo path s
  | .getPdr path handle => Sys2Proof.Machine.execGetPdr path handle s
  | .getPldmVersion path type => Sys2Proof.Machine.execGetPldmVersion path type s
  | .getPldmTypes path => Sys2Proof.Machine.execGetPldmTypes path s
  | .getPldmCommands path type => Sys2Proof.Machine.execGetPldmCommands path type s
  | .boardTierCreditReturn b hdr data => Sys2Proof.Machine.execBoardTierCreditReturn b hdr data s
  | .cxlDeviceEvent b event => Sys2Proof.Machine.execCxlDeviceEvent b event s
  | .msixVectorUnmask fn vector => Sys2Proof.Machine.execMsixVectorUnmask fn vector s
  | .eyeScanCorridorStart k cmd => Sys2Proof.Machine.execEyeScanCorridorStart k cmd s

end Sys2Proof.Machine
end

