-- ==== Sys2Proof/Machine/Tick.lean ====
section
/-! DEFINITION. What passes when no command waits: a cycle of TCLK, 4 ns long (log 20). The device time goes on, the counters of waits take in
the cycles that pass (log 100), and the lanes of ports that are up adapt to live data (spec/11_ralda_link.md R303, log 120). -/

namespace Sys2Proof.Machine

/-- Eighths of cycles of ACLK and GCLK of a wing, which are CPLL ÷ 8, in a tick (spec/14_clocks_power_condition.md R381): half as many
while the clocks of its die are stretched (R391). -/
def State.eighths (s : State) (w : Nat) : Nat :=
  if s.pwr.computeOn then s.cpllMhz / (if nth false s.pwr.stretch (w / 2) then 500 else 250) else 0

/-- The next entry of a stream's command list waits on its mark (spec/06_gallery_streams_tiles.md R168). -/
def State.waitsMark (s : State) (u : Nat) : Bool :=
  let x := s.stream u
  x.held && !x.depVoid && decide (x.next < x.listCount) && !x.slots.isEmpty &&
    (if x.ent.out then x.writing.isNone && (x.slot x.ring).isFull else decide (x.slot x.ring = .empty)) &&
    (s.listFail u).isNone && !(s.nextEntry u).bad && !(s.markMet (u / 128) (s.nextEntry u))

/-- A task waits for tiles: it runs, or it is the first of its list that has not started, is armed, and is not ready (R170). -/
def State.wantsTiles (s : State) (c t : Nat) : Bool :=
  s.running c t || ((s.rt c t).st == .armed && !s.isReady c t &&
    ((s.notStarted c (s.task c t).wing).head?.map (fun e => e.task)) == some t)

/-- The consumer of an in-stream waits on a slot that is FILLING or EMPTY, with tiles still to come. -/
def State.waitsFill (s : State) (u : Nat) : Bool :=
  let x := s.stream u
  x.held && !x.ent.out && !x.depVoid && s.wantsTiles x.ctx x.task && !(x.slot x.reader).isFull &&
    (decide (x.slot x.reader ≠ .empty) || decide (x.next < x.listCount))

/-- A push of an out-stream waits on its near slot (spec/08_backward_and_deposit.md R233). -/
def State.waitsPush (s : State) (u : Nat) : Bool :=
  let x := s.stream u
  x.held && x.ent.out && !x.depVoid && x.writing.isNone && decide (x.next < x.listCount) && (x.slot x.ring).isFull && s.pushHeld u

/-- A wing idles for a late tile: both arrays idle, no entry of the slot's owner can start, and the first that has not started is late
(spec/07_memory_tiers.md R221). -/
def State.idlesLate (s : State) (w : Nat) : Bool :=
  !(s.array (2 * w)).busy && !(s.array (2 * w + 1)).busy && (match s.slotOwner w with
    | none => false
    | some c => (s.pickIn c w none).isNone && (match (s.notStarted c w).head? with
      | some e => s.lateOnly c e.task
      | none => false))

/-- Count a tick's cycles in the wait counters of the streams and wings. Every wait is that of the state before the tick. -/
def State.countWaits (s : State) : State :=
  let us := s.strm.map (fun u => u.1)
  let t := overList us (fun u t =>
    if s.waitsMark u then t.addCycles RegF.wingStrmCntMarkWait (s.eighths (u / 128)) (u / 128) (u % 128)
    else if s.waitsFill u then t.addCycles RegF.wingStrmCntFillWait (s.eighths (u / 128)) (u / 128) (u % 128) else t) s
  overList (List.range 4) (fun w t =>
    let t := if us.any (fun u => u / 128 == w && s.waitsPush u) then t.addCycles RegF.wingDepWaitPushWait (s.eighths w) w else t
    if s.idlesLate w then t.addCycles RegF.wingLateTileIdle (s.eighths w) w else t) t

/-- GLB_TIME counts a cycle at the adjusted rate (spec/11_ralda_link.md R325): `rate` sixteenths of a tick are spread over the 25,000 · PERIOD
ticks of a period, and what does not make a tick is kept (log 47). -/
def State.countTime (s : State) : State :=
  let p := max 1 (s.fld RegF.glbTimeCfgPeriod)
  let key := cycKey RegF.glbTimeTime 0 0
  let n : Int := min (Tbl.get 0 s.accs key) (400000 * p - 1) + syncRate s.rate p
  { s with time := ((s.time : Int) + 1 + n / (400000 * p : Nat)).toNat % 2 ^ 64, accs := Tbl.set 0 s.accs key (n % (400000 * p : Nat)).toNat }

/-- Whether the bus owner reads, in this tick, the response that waits on SMBus: a free value (log 56). SMB_ALERT_N is released when it has
(spec/16_module_electrical.md R446). -/
def State.smbRead (s : State) : State :=
  if s.pins.smbAlert then
    let v := s.free
    { v.2 with pins := { v.2.pins with smbAlert := !v.1.getLsbD 0 } }
  else s

/-- A tick: the response on SMBus may be read; and while TCLK runs, GLB_TIME goes up, waits count, and lanes adapt. -/
def State.tick (s : State) : State :=
  let s := s.smbRead
  if s.timeRun && s.pwr.fpll then
    let s := s.countWaits
    (overList ((List.range 16).filter (fun p => s.portUp p)) (fun p s => s.adaptPort p) s).countTime
  else s

end Sys2Proof.Machine
end

