-- ==== Sys2Proof/Machine/Views.lean ====
section
/-! DEFINITION. What a read of BAR0 returns: registers that show other state, the registers that BAR0 offers, and the access sizes
(spec/13_boot_protection_setup.md R359, spec/17_register_index.md R456, R457, spec/15 R423). A read changes nothing and has no row in the
command table. -/

namespace Sys2Proof.Machine

/-- The 64 bytes of a recorder place: zero where it holds no record. -/
def recorderBytes (e : EvRec) : List Byte := if e.seq = 0 then List.replicate 64 0 else e.bytes

/-- Half of a protection entry. -/
def ProtEntry.half (e : ProtEntry) (j : Nat) : Nat :=
  if j % 2 = 0 then bit e.valid + 2 * bit e.read + 4 * bit e.write + e.base * 2 ^ 16 else e.last * 2 ^ 16

/-- Scopes whose older work still uses the set before (GLB_REHANG_STS.PENDING). -/
def State.pendingScopes (s : State) : Nat := ((List.range 14).map (fun k => if s.scopePending k then 2 ^ k else 0)).sum

/-- The value of a register word. -/
def State.word (s : State) (r : Reg) (i j : Nat) : Nat :=
  match r with
  | .evrAcc => field (recorderBytes (nth {} s.evr.acc (i / 8))) (8 * (i % 8)) 8
  | .evrDay => field (recorderBytes (Tbl.get {} s.evr.day (i / 8))) (8 * (i % 8)) 8
  | .evrSts => s.evr.acc.length + s.evr.last % 2 ^ 31 * 2 ^ 32
  | .evrMirror => setBits (s.reg r i j) 0 13 (s.evr.last - s.evr.copied)
  | .glbHold => field s.hold (8 * i) 8
  | .condReport => field s.reportInUse.bytes (8 * i) 8
  | .prvIdkey => field s.fuse.idKey (8 * i) 8
  | .chkChanVal => (s.ch i).value.toNat
  | .kvaSeq => field (s.seqOf i).bytes (8 * j) 8
  | .protStage => ProtEntry.half (Tbl.get {} s.protStage (16 * i + j / 2)) j
  | .protActive => ProtEntry.half (Tbl.get {} s.protAct (16 * i + j / 2)) j
  | .protEpoch => setBits (s.reg r i j) 32 1 (bit s.prevLive)
  | .glbTime => s.time % 2 ^ 64
  | .glbRehangSts => setBits (s.reg r i j) 0 14 s.pendingScopes
  | r => s.reg r i j

/-- A read of BAR0 of the PF. -/
def State.readBar0 (s : State) (off size : Nat) : Nat :=
  if (size ≠ 4 ∧ size ≠ 8) ∨ off % size ≠ 0 then 0
  else
    match regAt (off / 8 * 8) with
    | none => 0
    | some (r, i, j) =>
      if s.offers r then (if size = 8 then s.word r i j else bits (s.word r i j) (8 * (off % 8)) 32) else 0

/-- A read through the context view of VF `fn` (spec/12_rings_contexts_rota.md R333): zero where no context appears. -/
def State.readVf (s : State) (fn off size : Nat) : Nat :=
  if 16384 ≤ off ∨ ¬ s.ready then 0
  else
    match s.vfContext fn (off / 64) with
    | none => 0
    | some c => s.readBar0 (0x300000 + 64 * c + off % 64) size

/-- A read of a doorbell page, through BAR2 of the PF or of a VF, returns zero (spec/12_rings_contexts_rota.md R332). -/
def State.readBar2 (_ : State) (_ _ : Nat) : Nat := 0

/-- Bytes that a read of BAR4 returns, and whether the TLP is poisoned. -/
structure BarRead where
  bytes : List Byte
  poisoned : Bool := false
  deriving DecidableEq, Repr

/-- A read of BAR4 of the PF after READY (spec/12_rings_contexts_rota.md R331): the gallery aperture, the private memories of the wing
controllers, the reserved range, and the flash landing window (spec/07_memory_tiers.md R208). Before READY the image window is written and not
read (log 134). -/
def State.readBar4 (s : State) (off size : Nat) : BarRead :=
  let zero : BarRead := ⟨List.replicate size 0, false⟩
  if ¬ s.ready ∨ size ∉ [4, 8, 16, 32, 64] ∨ off % size ≠ 0 then zero
  else if off < 0x8000000 then
    match s.apertureAddr off with
    | some a => ⟨s.rd a size, s.poisoned a size⟩
    | none => zero
  else if off < 0xC000000 then
    match s.wcMem with
    | some k => ⟨(List.range size).map (fun i => Config.privateByte k s.time (off / 0x1000000 - 8) (off % 0x1000000 + i)), false⟩
    | none => zero
  else if off < 0xF000000 ∨ 0x10000000 ≤ off then zero
  else ⟨Tbl.getRun 0 s.land (off - 0xF000000) size, false⟩

/-! ### The service corridor reads the active protection table and PROT_EPOCH (spec/13 R371) -/

/-- Entry e of domain d of the active table, in the 16 bytes of PROT_ACTIVE. -/
def State.corridorActive (s : State) (d e : Nat) : List Byte :=
  leBytes 8 (s.word .protActive d (2 * e)) ++ leBytes 8 (s.word .protActive d (2 * e + 1))

/-- The word of PROT_EPOCH. -/
def State.corridorEpoch (s : State) : Nat := s.word .protEpoch 0 0

/-! ### The corridor's messages on MCTP (spec/16_module_electrical.md R452 to R454) -/

/-- The 7-bit SMBus address of the module, from the straps sampled at t0. -/
def State.smbAddress (s : State) : Nat := 0x50 + s.pins.slotIdS.toNat % 16

/-- The packet error code of SMBus over the bytes of a transaction: the CRC of x⁸ + x² + x + 1 (PRESUMED, log 52). -/
def smbPec (bs : List Byte) : Nat := (⟨8, 7, 0, false, 0⟩ : CrcFn).of bs

/-- The module takes an SMBus write to an address, with its packet error code. -/
def State.smbTakes (s : State) (addr : Nat) (bs : List Byte) (pec : Byte) : Bool :=
  addr == s.smbAddress && smbPec (leBytes 1 (2 * addr) ++ bs) == pec.toNat

/-- A message body in transmission units of 64 bytes. -/
def smbUnits (bs : List Byte) : List (List Byte) := (List.range (ceilDiv bs.length 64)).map (fun i => (bs.drop (64 * i)).take 64)

/-- What a corridor request does, after the MCTP header: the PCI vendor ID, high byte first (log 52), and four bytes, which name the command of
R433 with its area and its argument. A request of another vendor, or with another command or a reserved bit set, is none. -/
def State.corridorRequest (s : State) (path : Path) (msg : List Byte) : Option (Host.Outcome State Fault Refusal) :=
  let area := field msg 3 1
  let arg := field msg 4 2
  if msg.length ≠ 6 ∨ 256 * field msg 0 1 + field msg 1 1 ≠ Config.pciVendorId.toNat ∨ 1 < area then none
  else match field msg 2 1 with
    | 1 => some (execReadRecord path area arg s)
    | 2 => some (execReadSensors path s)
    | 3 => some (execForceLow path s)
    | 4 => some (execReleaseLow path s)
    | 5 => some (execAbortAll path s)
    | 6 => some (execIsolate path (arg % 16) s)
    | 7 => some (execReadHoldings path s)
    | 8 => some (execReset path s)
    | 9 => some (execReadIdkey path s)
    | _ => none

/-- A corridor response after the MCTP header: the vendor ID, the command, the status and the data. -/
def Reply.body (r : Reply) : List Byte :=
  leBytes 1 (Config.pciVendorId.toNat / 256) ++ leBytes 1 Config.pciVendorId.toNat ++ leBytes 1 r.cmd ++ leBytes 1 r.status.code ++ r.data

end Sys2Proof.Machine
end

