-- ==== Sys2Proof/Safety.lean ====
section
/-! DEFINITION. What claims about the block mean by a well-kept state and by what a command leaves alone. -/

namespace Sys2Proof.Machine

/-- A memory is in its canonical form: addresses rising, no byte listed that an unlisted address reads as. -/
abbrev Memory.wf (m : Mem) : Prop := Tbl.Wf 0 m

/-- Every memory of the module and the host's memory are in canonical form. -/
structure State.MemoriesWf (s : State) : Prop where
  mem : Memory.wf s.mem
  hmem : Memory.wf s.hmem
  img : Memory.wf s.img
  land : Memory.wf s.land

/-- One byte of the device memory. -/
def State.byteAt (s : State) (a : Nat) : Byte := Tbl.get 0 s.mem a

/-- One byte of the host's memory. -/
def State.hostByte (s : State) (a : Nat) : Byte := Tbl.get 0 s.hmem a

/-- Every byte of every memory reads in t as it reads in s. -/
def State.SameMemory (s t : State) : Prop :=
  t.mem = s.mem ∧ t.hmem = s.hmem ∧ t.img = s.img ∧ t.land = s.land ∧ t.wcMem = s.wcMem

/-- Everything but the registers of BAR0 is in t as in s. -/
def State.SameButRegs (s t : State) : Prop := t = { s with regs := t.regs }

/-- Every register but those of a list reads in t as it reads in s. -/
def State.OtherRegs (s t : State) (l : List Reg) : Prop :=
  ∀ r i j, r ∉ l → t.reg r i j = s.reg r i j

/-- Everything but the vector engines is in t as in s. -/
def State.SameButEngines (s t : State) : Prop := t = { s with eng := t.eng }

/-- What a lane-wise vector instruction leaves in its engine (spec/05_vector_engines.md R122, R123, R142, R146): in each window, each
active lane of vd holds its result `f base lane`, cut to n words; an inactive lane is zero with ZM and is kept otherwise. Other
registers keep their words, the flags of active lanes are added to the flag word, and the engine goes on to its next instruction. -/
structure LaneEffect (x y : Engine) (o : VOp) (n : Nat) (f : Nat → Nat → LaneRes) : Prop where
  lane : ∀ w ∈ x.windows, ∀ i, i < 64 → y.elem n (w.1 + o.vd.toNat) i =
    if x.active o w.2 i then (f w.1 i).val % 2 ^ (32 * n) else if o.zm then 0 else x.elem n (w.1 + o.vd.toNat) i
  rest : ∀ r i, i < 64 → (∀ w ∈ x.windows, r < w.1 + o.vd.toNat ∨ w.1 + o.vd.toNat + n ≤ r) → y.word r i = x.word r i
  flags : ∀ k, k < 4 → y.flags.getLsbD k =
    (x.flags.getLsbD k || x.windows.any (fun w => lanes.any (fun i => x.active o w.2 i && (f w.1 i).flags.getLsbD k)))
  other : y = { x with v := y.v, flags := y.flags, pc := x.pc + 1 }

/-- In update mode a program names v0 to v15 alone (R148): operands of n words lie in their window. -/
def Engine.inWindow (x : Engine) (o : VOp) (n : Nat) : Prop :=
  x.update = true → o.vd.toNat + n ≤ 16 ∧ o.va.toNat + n ≤ 16 ∧ o.vb.toNat + n ≤ 16 ∧ o.vc.toNat + n ≤ 16

end Sys2Proof.Machine
end

