-- ==== Sys2Proof/Certificates/Slice0/Obligations.lean ====
section
/-! DEFINITION. The statements about the block, one proposition each. Each docstring names the rules of spec/ it puts in Lean. A command
is stated together with the state it leaves: what is not named there is as before. -/

open Sys2Proof Sys2Proof.Machine

/-! ### The queue and the step -/

/-- A step at a state whose queue has command c in front is exec of c on the state with the rest of the queue. With no command waiting a
cycle of TCLK passes (the model's choice, logs 20, 100 and 120): GLB_TIME counts it where it runs, at the rate of the last exchange within
200 ppm, and while FPLL is locked (R325, R380, log 47); each wing's PUSH_WAIT and IDLE take in the cycles of a wait, half as many on a die
whose clocks are stretched (R391), in units of 1,024 whose rest is kept; beside them only the stream wait counters and what the lanes of
ports measure change. The response that waits on SMBus is read in the tick or not, a free value, and SMB_ALERT_N is released when it is
(R446, log 56). The model chose the idle tick (log 20), and what it counts and adapts (logs 100 and 120). -/
def Obligations.StepRunsFrontCommand : Prop :=
  (∀ (s : State) (c : Instr) (rest : List Instr), s.pending = c :: rest → step s = exec c { s with pending := rest }) ∧
  ((∀ s : State, (s.pins.smbAlert = false → s.smbRead = s) ∧
     (s.pins.smbAlert = true → ∃ b, s.smbRead = { s with pins := { s.pins with smbAlert := b }, freeCtr := s.freeCtr + 1 })) ∧
   ∀ s₀ : State, s₀.pending = [] → ∃ t, step s₀ = .next t ∧
     let s := s₀.smbRead
     ((s.timeRun = false ∨ s.pwr.fpll = false) → t = s) ∧
     (s.timeRun = true → s.pwr.fpll = true →
       (let p : Nat := max 1 (s.fld RegF.glbTimeCfgPeriod)
        let unit : Int := 400000 * p
        let lim : Int := 80 * p
        let n : Int := (min (Tbl.get 0 s.accs (cycKey RegF.glbTimeTime 0 0)) (400000 * p - 1) : Nat) + max (-lim) (min lim s.rate)
        t = { s with time := ((s.time : Int) + 1 + n / unit).toNat % 2 ^ 64, regs := t.regs, accs := t.accs, freeCtr := t.freeCtr } ∧
        ((Tbl.get 0 t.accs (cycKey RegF.glbTimeTime 0 0) : Nat) : Int) = n % unit ∧ -1 ≤ n / unit ∧ n / unit ≤ 1) ∧
       (∀ r i j, r ≠ .wingStrmCnt → r ≠ .wingDepWait → r ≠ .wingLateTile → r ≠ .lnkLane → t.reg r i j = s.reg r i j) ∧
       ∀ w, w < 4 →
         let q := if s.pwr.computeOn then s.cpllMhz / (if nth false s.pwr.stretch (w / 2) = true then 500 else 250) else 0
         let counts := fun (f : Fld) (waits : Bool) =>
           let n := Tbl.get 0 s.accs (cycKey f w 0) + q
           t.fld f w = (if waits then satAdd 32 (s.fld f w) (n / 8192) else s.fld f w) ∧
           Tbl.get 0 t.accs (cycKey f w 0) = if waits then n % 8192 else Tbl.get 0 s.accs (cycKey f w 0)
         counts RegF.wingLateTileIdle (s.idlesLate w) ∧
         counts RegF.wingDepWaitPushWait ((s.strm.map (fun u => u.1)).any (fun u => u / 128 == w && s.waitsPush u))))

/-! ### Vector engines: registers -/

/-- What is written into a register of an engine reads back, and every other register keeps its value; an element of several words has its
lowest word in the first register; p0 reads as all ones and ignores writes; writing one engine leaves every other (R115, R116). -/
def Obligations.EngineRegistersReadBack : Prop :=
  ∀ x : Engine,
    (∀ (r r' i : Nat) (xs : List W32), xs.length = 64 → i < 64 →
      (x.putReg r xs).word r' i = if r' = r then nth 0 xs i else x.word r' i) ∧
    (∀ (n r i : Nat) (xs : List Nat), xs.length = 64 → i < 64 →
      (x.putElems n r xs).elem n r i = nth 0 xs i % 2 ^ (32 * n) ∧
      (∀ k, k < n → (x.putElems n r xs).word (r + k) i = BitVec.ofNat 32 (nth 0 xs i / 2 ^ (32 * k))) ∧
      (∀ r', r' < r ∨ r + n ≤ r' → (x.putElems n r xs).word r' i = x.word r' i)) ∧
    (∀ (r r' : Nat) (v : W32), r < 32 → r' < 32 → (x.setScalar r v).scalar r' = if r' = r then v else x.scalar r') ∧
    (∀ (p p' : Nat) (v : W64), p < 8 → p' < 8 → (x.setPred p v).pred p' =
      if p' = 0 then BitVec.allOnes 64 else if p' = p then v else x.pred p') ∧
    (∀ (s : State) (e e' : Nat), (s.setEngine e x).engine e' = if e' = e then x else s.engine e')

/-! ### Vector engines: INT32, wide integers and the ledger -/

/-- IADD to IMAX on INT32 words and LADD to LMIN on LI64 and LI96 elements: each active lane of vd takes the two's complement result of the
element's width, with vb a scalar where SB is set; INT32 shifts go by vb modulo 32, ledger shifts by IMM[6:0] (R126). LWIDEN, LSQA, LADDA,
LCLRA, LSH64 and LSUMA: the 192-bit accumulators. LSH64 rounds toward −∞ and, beyond LI96, writes 2^95 − 1 or −2^95 and sets WIDE_OVF
(R138). -/
def Obligations.IntegerAndWideLanes : Prop :=
  (∀ (c : Nat → VOp → Instr) (op : Nat) (f : (w : Nat) → Nat → BitVec w → BitVec w → BitVec w),
     (c, op, f) ∈ ([(.iadd, 0x90, fun _ _ a b => a + b), (.isub, 0x91, fun _ _ a b => a - b), (.imul, 0x92, fun _ _ a b => a * b),
       (.and, 0x93, fun _ _ a b => a &&& b), (.or, 0x94, fun _ _ a b => a ||| b), (.xor, 0x95, fun _ _ a b => a ^^^ b),
       (.shl, 0x96, fun _ _ a b => a <<< (b.toNat % 32)), (.shr, 0x97, fun _ _ a b => a >>> (b.toNat % 32)),
       (.sar, 0x98, fun _ _ a b => a.sshiftRight (b.toNat % 32)), (.imin, 0x99, fun _ _ a b => if a.sle b then a else b),
       (.imax, 0x9A, fun _ _ a b => if a.sle b then b else a), (.ladd, 0x70, fun _ _ a b => a + b), (.lsub, 0x71, fun _ _ a b => a - b),
       (.lneg, 0x72, fun _ _ a _ => -a), (.lshl, 0x73, fun _ k a _ => a <<< k), (.lsar, 0x74, fun _ k a _ => a.sshiftRight k),
       (.lmax, 0x75, fun _ _ a b => if a.sle b then b else a), (.lmin, 0x76, fun _ _ a b => if a.sle b then a else b)] :
       List ((Nat → VOp → Instr) × Nat × ((w : Nat) → Nat → BitVec w → BitVec w → BitVec w))) →
     ∀ (s : State) (e : Nat) (o : VOp), 0x90 ≤ op ∨ o.f = 0xF ∨ o.f = 0x10 → (s.engine e).at op o = true → (s.engine e).update = false →
       let x := s.engine e
       let w := if 0x90 ≤ op then 32 else if o.f = 0xF then 64 else 96
       let n := if 0x90 ≤ op then 1 else if o.f = 0xF then 2 else 3
       ∃ y, exec (c e o) s = .next (s.setEngine e y) ∧ LaneEffect x y o n (fun _ i =>
         let a := BitVec.ofNat w (x.elem n o.va.toNat i)
         let b := BitVec.ofNat w (if o.sb then x.selem n (o.vb.toNat % 32) else x.elem n o.vb.toNat i)
         { val := (f w (bits o.imm.toNat 0 7) a b).toNat })) ∧
  (∀ (s : State) (e : Nat) (o : VOp), (s.engine e).update = false →
     let x := s.engine e
     (x.at 0x78 o = true → ∃ y, exec (.lwiden e o) s = .next (s.setEngine e y) ∧
       LaneEffect x y o 3 (fun _ i => { val := ((BitVec.ofNat 64 (x.opA o 2 0 i)).signExtend 96).toNat })) ∧
     (x.at 0x79 o = true → ∃ y, exec (.lsqa e o) s = .next (s.setEngine e y) ∧
       LaneEffect x y o 6 (fun _ i =>
         let a := (BitVec.ofNat 64 (x.opA o 2 0 i)).signExtend 192
         { val := (BitVec.ofNat 192 (x.opD o 6 0 i) + a * a).toNat })) ∧
     (x.at 0x7A o = true → o.sb = false → ∃ y, exec (.ladda e o) s = .next (s.setEngine e y) ∧
       LaneEffect x y o 6 (fun _ i =>
         { val := (BitVec.ofNat 192 (x.elem 6 o.va.toNat i) + BitVec.ofNat 192 (x.elem 6 o.vb.toNat i)).toNat })) ∧
     (x.at 0x7D o = true → ∃ y, exec (.lclra e o) s = .next (s.setEngine e y) ∧ LaneEffect x y o 6 (fun _ _ => { val := 0 })) ∧
     (x.at 0x7C o = true → ∃ y, exec (.lsh64 e o) s = .next (s.setEngine e y) ∧
       LaneEffect x y o 3 (fun _ i =>
         let q := (BitVec.ofNat 192 (x.opA o 6 0 i)).toInt / 2 ^ 64
         { val := (BitVec.ofInt 96 (max (-2 ^ 95) (min (2 ^ 95 - 1) q))).toNat,
           ovf := decide (q < -2 ^ 95 ∨ (2 : Int) ^ 95 - 1 < q) })) ∧
     (x.at 0x7B o = true → ∃ y, exec (.lsuma e o) s = .next (s.setEngine e y) ∧
       y.elem 6 o.vd.toNat 0 = ((lanes.filter (fun i => x.active o (BitVec.allOnes 64) i)).map (fun i => x.elem 6 o.va.toNat i)).sum % 2 ^ 192 ∧
       (∀ i, 0 < i → i < 64 → y.elem 6 o.vd.toNat i = 0) ∧
       (∀ r i, i < 64 → r < o.vd.toNat ∨ o.vd.toNat + 6 ≤ r → y.word r i = x.word r i) ∧
       y = { x with v := y.v, pc := x.pc + 1 }))

/-- LQ: the integer of each active lane at the scale exponent of scalar vb, modulo its width; the ledger status by R136. The master update
of an update program (R149): ADD and SUB with vd = va = v0, FMA with vd = vc = v0. The master is bits [63:16] of v0:v1 in E8M39, every other
operand F32; the result is rounded once into E8M39 and bits [15:0] are zero. -/
def Obligations.LedgerQuantiseAndMasterUpdates : Prop :=
  (∀ (s : State) (e : Nat) (o : VOp), o.f = 0xF ∨ o.f = 0x10 → bits o.imm.toNat 0 5 ≤ 1 →
     (s.engine e).at 0x77 o = true → (s.engine e).update = false → (s.engine e).led.nfcount < 2 ^ 32 → (s.engine e).led.excess ≤ 255 →
     let x := s.engine e
     let w := if o.f = 0xF then 64 else 96
     let L : Nat := if o.f = 0xF then 51 else 63
     let src := if bits o.imm.toNat 0 5 = 0 then f64 else f32
     let val := fun i => src.value (x.opA o (if bits o.imm.toNat 0 5 = 0 then 2 else 1) 0 i)
     let sc := (BitVec.ofNat 12 (x.scalar o.vb.toNat).toNat).toInt
     let q : Nat → Int := fun i => match val i with | .fin d => ledgerInt d sc | _ => 0
     let ix := fun i => ((x.scalar o.vc.toNat).toNat + 2 ^ 32 * ((x.scalar (o.vc.toNat % 32 + 1)).toNat % 2 ^ 16) + i) % 2 ^ 48
     let act := lanes.filter (fun i => x.active o (BitVec.allOnes 64) i)
     let bad := act.filter (fun i => (val i).special)
     let lgs := act.filterMap (fun i => match val i with | .fin d => if d.m = 0 then none else some d.lg | _ => none)
     let exs := act.filterMap (fun i => if (2 : Nat) ^ L ≤ (q i).natAbs then some (min 255 (Nat.log2 (q i).natAbs - (L - 1))) else none)
     ∃ y led, exec (.lq e o) s = .next (s.setEngine e { y with led := led }) ∧
       LaneEffect x y o (w / 32) (fun _ i =>
         { val := (BitVec.ofInt w (q i)).toNat, nonfin := (val i).special, breach := decide (2 ^ L ≤ (q i).natAbs) }) ∧
       led.nfcount = min (x.led.nfcount + bad.length) (2 ^ 32 - 1) ∧
       (led.nfindex ≤ x.led.nfindex ∧ (∀ i ∈ bad, led.nfindex ≤ ix i) ∧ (led.nfindex = x.led.nfindex ∨ ∃ i ∈ bad, led.nfindex = ix i)) ∧
       (x.led.expmax ≤ led.expmax ∧ (∀ l ∈ lgs, l ≤ led.expmax) ∧ (led.expmax = x.led.expmax ∨ led.expmax ∈ lgs)) ∧
       (x.led.excess ≤ led.excess ∧ (∀ l ∈ exs, l ≤ led.excess) ∧ (led.excess = x.led.excess ∨ led.excess ∈ exs))) ∧
  (∀ (s : State) (e : Nat) (o : VOp), o.f = 5 → o.vd = 0 → (s.engine e).update = true →
     let x := s.engine e
     let m := fun b i => e8m39.value (x.elem 2 b i / 2 ^ 16)
     let v := fun (r : BitVec 6) b i => f32.value (x.word (b + r.toNat) i).toNat
     let res := fun (l : List XVal) (z : Exact) =>
       let r := z.pack e8m39 o.rm
       ({ val := r * 2 ^ 16, nonfin := l.any XVal.special || (e8m39.value r).special } : LaneRes)
     (o.va = 0 → o.vb.toNat < 16 → x.at 0x10 o = true → ∃ y, exec (.add e o) s = .next (s.setEngine e y) ∧
       LaneEffect x y o 2 (fun b i => res [m b i, v o.vb b i] (fAdd (m b i) (v o.vb b i)))) ∧
     (o.va = 0 → o.vb.toNat < 16 → x.at 0x11 o = true → ∃ y, exec (.sub e o) s = .next (s.setEngine e y) ∧
       LaneEffect x y o 2 (fun b i => res [m b i, v o.vb b i] (fAdd (m b i) (v o.vb b i).negate))) ∧
     (o.vc = 0 → o.va.toNat < 16 → o.vb.toNat < 16 → x.at 0x13 o = true →
       ∃ y, exec (.fma e o) s = .next (s.setEngine e y) ∧
         LaneEffect x y o 2 (fun b i => res [v o.va b i, v o.vb b i, m b i] (fAdd (fMulX (v o.va b i) (v o.vb b i)) (m b i)))))

/-! ### Vector engines: floating arithmetic -/

/-- The floating instructions: each active lane takes the exact result of the operation on the values of its operands, rounded once into the
format with RM; NONFINITE is set where a source or the result is not finite (R129, R132, R142). FMS is a·b − c, FNMA is c − a·b, SELECT
takes va where vc > 0 and vb otherwise, CLIP is min(max(a, b), c). In update mode the same holds in each window (R146). -/
def Obligations.FloatLaneInstructions : Prop :=
  ∀ (c : Nat → VOp → Instr) (op arity : Nat) (f : XVal → XVal → XVal → Exact),
    (c, op, arity, f) ∈ ([(.add, 0x10, 2, fun a b _ => fAdd a b), (.sub, 0x11, 2, fun a b _ => fAdd a b.negate),
      (.mul, 0x12, 2, fun a b _ => (fMulX a b).exact), (.fma, 0x13, 3, fun a b c => fAdd (fMulX a b) c),
      (.fms, 0x14, 3, fun a b c => fAdd (fMulX a b) c.negate), (.fnma, 0x15, 3, fun a b c => fAdd (fMulX a.negate b) c),
      (.div, 0x16, 2, fun a b _ => fDiv a b), (.sqrt, 0x17, 1, fun a _ _ => fSqrt a), (.rsqrt, 0x18, 1, fun a _ _ => fRsqrt a),
      (.rcp, 0x19, 1, fun a _ _ => fDiv (.fin ⟨false, 1, 0⟩) a), (.min, 0x1A, 2, fun a b _ => (fMin a b).exact),
      (.max, 0x1B, 2, fun a b _ => (fMax a b).exact), (.abs, 0x1C, 1, fun a _ _ => a.absolute.exact),
      (.neg, 0x1D, 1, fun a _ _ => a.negate.exact), (.select, 0x1E, 3, fun a b c => (fSelect a b c).exact),
      (.clip, 0x1F, 3, fun a b c => (fMin (fMax a b) c).exact), (.exp2, 0x50, 1, fun a _ _ => fExp2 a),
      (.log2, 0x51, 1, fun a _ _ => fLog2 a)] : List ((Nat → VOp → Instr) × Nat × Nat × (XVal → XVal → XVal → Exact))) →
    ∀ (s : State) (e : Nat) (o : VOp), o.f ≤ 1 → (s.engine e).at op o = true → (s.engine e).inWindow o o.words →
      let x := s.engine e
      let t := if o.f = 0 then f64 else f32
      let n := if o.f = 0 then 2 else 1
      ∃ y, exec (c e o) s = .next (s.setEngine e y) ∧ LaneEffect x y o n (fun b i =>
        let p := t.value (x.elem n (b + o.va.toNat) i)
        let q := t.value (if o.sb then x.selem n (o.vb.toNat % 32) else x.elem n (b + o.vb.toNat) i)
        let u := t.value (if o.sc then x.selem n (o.vc.toNat % 32) else x.elem n (b + o.vc.toNat) i)
        let r := (f p q u).pack t o.rm
        { val := r, nonfin := ([p, q, u].take arity).any XVal.special || (t.value r).special })

/-! ### Vector engines: moves, predicates, scalars, conversion and reductions -/

/-- MOV, BCAST, PERM, ROT and IOTA: MOV, BCAST, PERM and ROT copy codes bit for bit (R129); IOTA writes scalar va plus the lane. SCALEB
multiplies by 2^n for the INT32 n of vb and rounds once; CVT converts codes of the source format by R39 to R44 with the scale exponent of
scalar vb where SCL is set: as the source's scale, or as the target's (R131). An SCL exponent outside −32,768 to 32,767 is a free value of
the model (log 9) and not stated here. The model chose the limits of the exponent of SCALEB (log 82). -/
def Obligations.MovesScalebAndConvert : Prop :=
  (∀ (s : State) (e : Nat) (o : VOp), o.f ≤ 0x10 → (s.engine e).update = false →
     let x := s.engine e
     let n := if fmtWidth o.f ≤ 32 then 1 else if fmtWidth o.f ≤ 64 then 2 else 3
     (x.at 0x38 o = true → ∃ y, exec (.mov e o) s = .next (s.setEngine e y) ∧
       LaneEffect x y o n (fun _ i => { val := x.elem n o.va.toNat i })) ∧
     (x.at 0x39 o = true → ∃ y, exec (.bcast e o) s = .next (s.setEngine e y) ∧
       LaneEffect x y o n (fun _ _ => { val := x.selem n (o.va.toNat % 32) })) ∧
     (x.at 0x3B o = true → ∃ y, exec (.perm e o) s = .next (s.setEngine e y) ∧
       LaneEffect x y o n (fun _ i =>
         let k := (if o.sb then x.scalar o.vb.toNat else x.word o.vb.toNat i).toNat % 64
         { val := x.elem n o.va.toNat k })) ∧
     (x.at 0x3C o = true → ∃ y, exec (.rot e o) s = .next (s.setEngine e y) ∧
       LaneEffect x y o n (fun _ i => { val := x.elem n o.va.toNat ((i + bits o.imm.toNat 0 6) % 64) })) ∧
     (x.at 0x3D o = true → ∃ y, exec (.iota e o) s = .next (s.setEngine e y) ∧
       LaneEffect x y o 1 (fun _ i => { val := (x.scalar o.va.toNat + BitVec.ofNat 32 i).toNat }))) ∧
  (∀ (s : State) (e : Nat) (o : VOp),
     let x := s.engine e
     (o.f ≤ 1 → x.update = false → x.at 0x20 o = true → ∃ y, exec (.scaleb e o) s = .next (s.setEngine e y) ∧
       LaneEffect x y o (if o.f = 0 then 2 else 1) (fun _ i =>
         let t := if o.f = 0 then f64 else f32
         let a := t.value (x.opA o o.words 0 i)
         let k := (if o.sb then x.scalar o.vb.toNat else x.word o.vb.toNat i).toInt
         let r := (fScaleb a (max (-5000) (min 5000 k))).exact.pack t o.rm
         { val := r, nonfin := a.special || (t.value r).special })) ∧
     (let src := bits o.imm.toNat 0 5
      let scl := o.imm.toNat.testBit 5
      let sdir := o.imm.toNat.testBit 6
      let sc : Int := if scl = false then 0 else if o.f = 0xF ∨ o.f = 0x10 then (BitVec.ofNat 12 (x.scalar o.vb.toNat).toNat).toInt
        else (x.scalar o.vb.toNat).toInt
      o.f ≤ 0x10 → src ≤ 0x10 → (scl = true → o.f < 0xF → -32768 ≤ sc ∧ sc ≤ 32767) → x.at 0x40 o = true →
      (x.update = true → o.vd.toNat < 16 ∧ o.va.toNat < 16 ∧ fmtWidth o.f ≤ 32 ∧ fmtWidth src ≤ 32) →
       ∃ y, exec (.cvt e o) s = .next (s.setEngine e y) ∧
         LaneEffect x y o o.words (fun b i =>
           let v := scaledValue src (if sdir then sc else 0) (x.elem (fmtWords src) (b + o.va.toNat) i)
           let r := convert o.f o.rm 0 (if sdir then 0 else sc) v
           { val := r.code, nonfin := r.nonfin || v.special, sat := r.sat, breach := r.breach })))

/-- CMP and the predicate instructions. CMP writes 0 for inactive lanes; floating comparisons are quiet, integer and ledger ones signed
(R130). PAND to PNOT act on all 64 bits, PFIRST sets the lanes below a scalar, PCNT counts. The scalar instructions: SADD to SLUI, LANE, and
SGET and SCLR of the ledger status and flag word (R137). The model chose that PFIRST takes its scalar as unsigned (log 82). -/
def Obligations.ComparesPredicatesAndScalars : Prop :=
  (∀ (s : State) (e : Nat) (o : VOp), (s.engine e).update = false →
     let x := s.engine e
     (o.f ≤ 0x10 → x.at 0x30 o = true → ∃ p : W64,
       exec (.cmp e o) s = .next (s.setEngine e { x.setPred o.vd.toNat p with pc := x.pc + 1 }) ∧
       ∀ i, i < 64 → p.getLsbD i = (x.active o (BitVec.allOnes 64) i &&
         (match floatFmt o.f with
          | some t => fCmp (bits o.imm.toNat 0 3) (t.value (x.opA o o.words 0 i)) (t.value (x.opB o o.words 0 i))
          | none => iCmp (bits o.imm.toNat 0 3) (BitVec.ofNat (fmtWidth o.f) (x.opA o o.words 0 i)).toInt
              (BitVec.ofNat (fmtWidth o.f) (x.opB o o.words 0 i)).toInt))) ∧
     (∀ (c : Nat → VOp → Instr) (op : Nat) (f : W64 → W64 → W64),
       (c, op, f) ∈ ([(.pand, 0x31, fun a b => a &&& b), (.por, 0x32, fun a b => a ||| b), (.pxor, 0x33, fun a b => a ^^^ b),
         (.pnot, 0x34, fun a _ => ~~~a)] : List ((Nat → VOp → Instr) × Nat × (W64 → W64 → W64))) → x.at op o = true →
       exec (c e o) s = .next (s.setEngine e
         { x.setPred o.vd.toNat (f (x.pred o.va.toNat) (x.pred o.vb.toNat)) with pc := x.pc + 1 })) ∧
     (x.at 0x35 o = true → ∃ p : W64,
       exec (.pfirst e o) s = .next (s.setEngine e { x.setPred o.vd.toNat p with pc := x.pc + 1 }) ∧
       ∀ i, i < 64 → p.getLsbD i = decide (i < (x.scalar o.va.toNat).toNat)) ∧
     (x.at 0x36 o = true → exec (.pcnt e o) s = .next (s.setEngine e
       { x.setScalar o.vd.toNat (BitVec.ofNat 32 ((lanes.filter (fun i => (x.pred o.va.toNat).getLsbD i)).length)) with pc := x.pc + 1 }))) ∧
  (∀ (s : State) (e : Nat) (o : VOp),
     let x := s.engine e
     let res := fun (v : W32) => ({ x.setScalar o.vd.toNat v with pc := x.pc + 1 } : Engine)
     let b := if o.sb then x.scalar o.vb.toNat else (BitVec.ofNat 16 (bits o.imm.toNat 0 16)).signExtend 32
     (x.at 0xA0 o = true → exec (.sadd e o) s = .next (s.setEngine e (res (x.scalar o.va.toNat + b)))) ∧
     (x.at 0xA1 o = true → exec (.ssub e o) s = .next (s.setEngine e (res (x.scalar o.va.toNat - b)))) ∧
     (x.at 0xA2 o = true → exec (.smul e o) s = .next (s.setEngine e (res (x.scalar o.va.toNat * x.scalar o.vb.toNat)))) ∧
     (x.at 0xA3 o = true → exec (.smovi e o) s = .next (s.setEngine e (res (o.imm.signExtend 32)))) ∧
     (x.at 0xA4 o = true → exec (.slui e o) s = .next (s.setEngine e
       (res (BitVec.ofNat 16 (bits o.imm.toNat 0 16) ++ (x.scalar o.vd.toNat).setWidth 16)))) ∧
     (x.at 0xA5 o = true → exec (.sget e o) s = .next (s.setEngine e (res (match bits o.imm.toNat 0 4 with
       | 0 => x.flags.setWidth 32
       | 1 => BitVec.ofNat 32 x.led.nfcount
       | 2 => BitVec.ofNat 32 (x.led.nfindex % 2 ^ 32)
       | 3 => BitVec.ofNat 32 (x.led.nfindex / 2 ^ 32 % 2 ^ 16)
       | 4 => BitVec.ofInt 32 x.led.expmax
       | 5 => BitVec.ofNat 32 x.led.excess
       | _ => 0)))) ∧
     (x.at 0xA6 o = true → ∃ f : BitVec 4, exec (.sclr e o) s = .next (s.setEngine e
         { x with flags := f, led := if o.imm.getLsbD 0 then ⟨0, 0xFFFFFFFFFFFF, -32768, 0⟩ else x.led, pc := x.pc + 1 }) ∧
       (∀ k, k < 3 → f.getLsbD k = (x.flags.getLsbD k && !o.imm.getLsbD 1)) ∧
       f.getLsbD 3 = (x.flags.getLsbD 3 && !o.imm.getLsbD 0)) ∧
     (o.f ≤ 0x10 → x.at 0x3A o = true → exec (.lane e o) s = .next (s.setEngine e
       { x.setSelem (fmtWords o.f) o.vd.toNat (x.elem (fmtWords o.f) o.va.toNat (bits o.imm.toNat 0 6)) with pc := x.pc + 1 })))

/-- RSUM: six steps, in step j position i takes the rounded sum of positions i and i + 64 ÷ 2^j; an absent position adds nothing, and an
absent result is +0 (R133). RMAX, RMIN and RSUMX: maximum and minimum over the active lanes, −Inf and +Inf or the extreme codes where no
lane is active, and exact integer sums: INT32 lanes into LI64, ledger formats into their own width (R134, R135). The model chose that a
float reduction sets NONFINITE (log 82). -/
def Obligations.ReductionInstructions : Prop :=
  (∀ (s : State) (e : Nat) (o : VOp), o.f ≤ 1 → (s.engine e).at 0x60 o = true →
     let x := s.engine e
     let t := if o.f = 0 then f64 else f32
     let n := if o.f = 0 then 2 else 1
     let act := lanes.filter (fun i => x.active o (BitVec.allOnes 64) i)
     ∃ (T : Nat → Nat → Option Nat) (r : Nat),
       (∀ i, i < 64 → T 0 i = if x.active o (BitVec.allOnes 64) i then some (x.elem n o.va.toNat i) else none) ∧
       (∀ j i, j < 6 → i < 64 / 2 ^ (j + 1) → T (j + 1) i = match T j i, T j (i + 64 / 2 ^ (j + 1)) with
         | some a, some b => some ((fAdd (t.value a) (t.value b)).pack t o.rm)
         | some a, none => some a
         | none, b => b) ∧
       r = (match T 6 0 with | some c => (t.value c).exact.pack t o.rm | none => 0) ∧
       exec (.rsum e o) s = .next (s.setEngine e { x.setSelem n o.vd.toNat r with
         flags := x.flags ||| (if act.any (fun i => (t.value (x.elem n o.va.toNat i)).special) || (!act.isEmpty && (t.value r).special) then 1 else 0),
         pc := x.pc + 1 })) ∧
  (∀ (s : State) (e : Nat) (o : VOp),
     let x := s.engine e
     let act := lanes.filter (fun i => x.active o (BitVec.allOnes 64) i)
     let w := fmtWidth o.f
     let code := fun i => x.elem o.words o.va.toNat i
     let int := fun i => (BitVec.ofNat w (code i)).toInt
     (∀ t, o.f ≤ 1 → floatFmt o.f = some t → (x.at 0x61 o = true →
         exec (.rmax e o) s = .next (s.setEngine e { x.setSelem o.words o.vd.toNat
             (((act.map (fun i => t.value (code i))).foldl fMax (.inf true)).exact.pack t 0) with
           flags := x.flags ||| (if act.any (fun i => (t.value (code i)).special) then 1 else 0), pc := x.pc + 1 })) ∧
       (x.at 0x62 o = true →
         exec (.rmin e o) s = .next (s.setEngine e { x.setSelem o.words o.vd.toNat
             (((act.map (fun i => t.value (code i))).foldl fMin (.inf false)).exact.pack t 0) with
           flags := x.flags ||| (if act.any (fun i => (t.value (code i)).special) then 1 else 0), pc := x.pc + 1 }))) ∧
     (0xE ≤ o.f → o.f ≤ 0x10 →
       (x.at 0x61 o = true → ∃ m : Int, exec (.rmax e o) s = .next (s.setEngine e
           { x.setSelem o.words o.vd.toNat (BitVec.ofInt w m).toNat with pc := x.pc + 1 }) ∧
         (∀ i ∈ act, int i ≤ m) ∧ (m = -2 ^ (w - 1) ∨ ∃ i ∈ act, m = int i)) ∧
       (x.at 0x62 o = true → ∃ m : Int, exec (.rmin e o) s = .next (s.setEngine e
           { x.setSelem o.words o.vd.toNat (BitVec.ofInt w m).toNat with pc := x.pc + 1 }) ∧
         (∀ i ∈ act, m ≤ int i) ∧ (m = 2 ^ (w - 1) - 1 ∨ ∃ i ∈ act, m = int i)) ∧
       (x.at 0x63 o = true → exec (.rsumx e o) s = .next (s.setEngine e { x.setSelem (if o.f = 0xE then 2 else o.words) o.vd.toNat
           (BitVec.ofInt (max 64 w) ((act.map int).sum)).toNat with pc := x.pc + 1 }))))

/-! ### Vector engines: control -/

/-- NOP, HALT, LOOP, ENDL, SKIP, SIG and the waiting instructions BAR, WAIT, CWAIT and FENCE, each at its place in the program (R126, R127):
LOOP and ENDL run a body IMM24 + 1 times; SKIP goes over IMM[11:0] instructions where no lane is active. The ends of waits: BAR_MET lets
every engine of the job that waits at the same BAR go on, WAIT_MET an engine whose event counter has come to its value, CWAIT_MET one whose
queue holds a message that no CWAIT took, with the message's slot in its scalar register, FENCE_MET one at a FENCE; SIG_INCREMENT adds 1 to
a counter that the engine's context holds (R126, R128). The model chose that CWAIT takes the oldest message of its queue (log 24), that
stored data are in the gallery at once, so that a FENCE ends where it stands (log 23), the end of a WAIT by value (log 82), and that an
early or late command changes nothing (log 10). -/
def Obligations.ControlInstructionsAndWaits : Prop :=
  (∀ (s : State) (e : Nat) (o : VOp),
     let x := s.engine e
     let goes := fun (i : Instr) (y : Engine) => exec i s = .next (s.setEngine e y)
     (x.at 0x00 o = true → goes (.nop e o) { x with pc := x.pc + 1 }) ∧
     (x.at 0x01 o = true → goes (.halt e o) { x with run := .ended }) ∧
     (x.at 0x02 o = true → goes (.loop e o) { x with pc := x.pc + 1, loops := (x.pc + 1, o.imm.toNat) :: x.loops }) ∧
     (∀ p n l, x.loops = (p, n) :: l → x.at 0x03 o = true → goes (.endl e o)
       (if n = 0 then { x with pc := x.pc + 1, loops := l } else { x with pc := p, loops := (p, n - 1) :: l })) ∧
     (x.at 0x04 o = true → goes (.skip e o) { x with pc := if lanes.any (fun i => x.active o (BitVec.allOnes 64) i)
                                                               then x.pc + 1 else x.pc + 1 + bits o.imm.toNat 0 12 }) ∧
     (x.at 0x05 o = true → goes (.bar e o) { x with run := .atBar }) ∧
     (x.at 0x06 o = true → goes (.sig e o) { x with pc := x.pc + 1, sigs := x.sigs ++ [bits o.imm.toNat 0 6] }) ∧
     (x.at 0x07 o = true → goes (.wait e o) { x with run := .atWait (bits o.imm.toNat 0 6) (x.scalar o.va.toNat).toNat }) ∧
     (x.at 0x08 o = true → goes (.cwait e o) { x with run := .atChunk (bits o.imm.toNat 0 6) o.vd.toNat }) ∧
     (x.at 0x0A o = true → goes (.fence e o) { x with run := .atFence })) ∧
  (∀ (s : State) (e : Nat),
     let x := s.engine e
     let w := e / 64
     (x.run = .atBar → (let j := s.jobOfEngine e
       j.engCount ≤ 64 → 64 * w + j.engFirst ≤ e → e < 64 * w + j.engFirst + j.engCount →
       (∀ g, 64 * w + j.engFirst ≤ g → g < 64 * w + j.engFirst + j.engCount → (s.engine g).run = .atBar ∧ (s.engine g).pc = x.pc ∧
         (s.engine g).ctx = x.ctx ∧ (s.engine g).task = x.task ∧ (s.engine g).job = x.job) →
       ∃ t, exec (.barMet e) s = .next t ∧ s.SameButEngines t ∧ ∀ g, t.engine g =
         if 64 * w + j.engFirst ≤ g ∧ g < 64 * w + j.engFirst + j.engCount then { s.engine g with run := .running, pc := (s.engine g).pc + 1 }
         else s.engine g)) ∧
     (∀ v n, x.run = .atWait v n → n ≤ (s.evGet w v).toNat →
       exec (.waitMet e) s = .next (s.setEngine e { x with run := .running, pc := x.pc + 1 })) ∧
     (∀ q r, x.run = .atChunk q r → (s.rqueue w q).held = true → (s.rqueue w q).ctx = x.ctx → (s.rqueue w q).taken < (s.rqueue w q).used →
       let y := s.rqueue w q
       exec (.cwaitMet e) s = .next ((s.setEngine e
           ({ x with run := .running, pc := x.pc + 1 }.setScalar r
             (BitVec.ofNat 32 (y.bind.base + 16448 * ((y.rd + y.taken) % max 1 y.bind.slots))))).setRq w q { y with taken := y.taken + 1 })) ∧
     (x.run = .atFence → exec (.fenceMet e) s = .next (s.setEngine e { x with run := .running, pc := x.pc + 1 })) ∧
     (∀ v l, x.sigs = v :: l → s.evOwner w v = some x.ctx → ∃ t, exec (.sigIncrement e) s = .next t ∧
       t = { s.setEngine e { x with sigs := l } with ev := t.ev, cour := t.cour, regs := t.regs } ∧ t.evGet w v = s.evGet w v + 1 ∧
       ∀ k, k ≠ 64 * w + v → Tbl.get 0 t.ev k = Tbl.get 0 s.ev k) ∧
     (∀ v l, x.sigs = v :: l → s.evOwner w v ≠ some x.ctx → exec (.sigIncrement e) s = .next (s.setEngine e { x with sigs := l })))

/-! ### Vector engines: gallery, tile buffers and queues -/

/-- GLD and GST at an aligned address: each active lane i takes or gives the 4 bytes at a + 4i, which lie inside the job's windows and whose
line the engine reaches in its task's slots; a store changes no other byte, and inactive lanes reach no memory (R123, R126, R141). GST with
no active lane writes nothing, and GLD then reads nothing. An access outside the job's windows or misaligned aborts the task with PROT_FAULT
at that address, of GLD and GST at the first active lane's word that lies outside; a TIN of an unsound tile with TILE_SEAL (R141, R143).
Inside them, without a slot that reaches it, TIN and TOUT wait (R18). CREL gives the queue's oldest message back (R317). The model chose
that stored data are in the gallery at once (log 23), and how slots hold transfers (log 99). -/
def Obligations.GalleryInstructionsAndFaults : Prop :=
  (∀ (s : State) (e : Nat) (o : VOp), (s.engine e).update = false →
     let x := s.engine e
     let a := (x.scalar o.va.toNat).toNat + bits o.imm.toNat 0 16 * 256
     let act := fun i => x.active o (BitVec.allOnes 64) i
     let inside := a % 256 = 0 ∧ ∀ i, i < 64 → act i = true → (∃ w ∈ (s.jobOfEngine e).windows, w.1 ≤ a + 4 * i ∧ a + 4 * i + 4 ≤ w.1 + w.2) ∧
       s.engReach e (a + 64 * (i / 16)) 64 = true
     (x.at 0xB0 o = true → lanes.any act = true → inside → (∀ i, i < 64 → act i = true → s.poisoned (a + 64 * (i / 16)) 64 = false) →
       ∃ y, exec (.gld e o) s =
           .next ((overList (laneLines a (lanes.filter act)) (fun l s => s.galleryCorrected l 64) s).setEngine e y) ∧
         LaneEffect x y o 1 (fun _ i => { val := field (s.rd a 256) (4 * i) 4 })) ∧
     (x.at 0xB0 o = true → lanes.any act = false → ∃ y, exec (.gld e o) s = .next (s.setEngine e y) ∧
       LaneEffect x y o 1 (fun _ _ => { val := 0 })) ∧
     (x.at 0xB1 o = true → lanes.any act = false → exec (.gst e o) s = .next (s.setEngine e { x with pc := x.pc + 1 })) ∧
     (x.at 0xB1 o = true → lanes.any act = true → inside → ∃ t, exec (.gst e o) s = .next t ∧
       t = { s.setEngine e { x with pc := x.pc + 1 } with mem := t.mem, poison := t.poison, corrected := t.corrected } ∧
       (∀ i, i < 64 → act i = true → t.rd (a + 4 * i) 4 =
         leBytes 4 (if o.sb then x.scalar o.vb.toNat else x.word o.vb.toNat i).toNat) ∧
       (∀ k, (∀ i, i < 64 → act i = true → k < a + 4 * i ∨ a + 4 * i + 4 ≤ k) → t.byteAt k = s.byteAt k) ∧
       (∀ l ∈ s.poison, l ∉ t.poison ↔ ∃ k, k < 4 ∧ l * 64 = a + 64 * k ∧ ∀ i, i < 16 → act (16 * k + i) = true))) ∧
  (∀ (s : State) (e : Nat) (o : VOp),
     let x := s.engine e
     let a := (x.scalar o.va.toNat).toNat + bits o.imm.toNat 0 16 * 256
     let out := fun i => x.active o (BitVec.allOnes 64) i = true ∧ ∀ w ∈ (s.jobOfEngine e).windows, a + 4 * i < w.1 ∨ w.1 + w.2 < a + 4 * i + 4
     let b := (x.scalar o.va.toNat).toNat + bits o.imm.toNat 0 16 * 64
     let fault := b % 64 ≠ 0 ∨ ∀ w ∈ (s.jobOfEngine e).windows, b < w.1 ∨ w.1 + w.2 < b + 16448
     let ends := fun (u : State) (st : Status) (d : Nat) => u.failTask x.ctx x.task ⟨st, BitVec.ofNat 64 d⟩
     (∀ c op, (c, op) ∈ ([(.gld, 0xB0), (.gst, 0xB1)] : List ((Nat → VOp → Instr) × Nat)) → x.at op o = true →
       ((∃ i, i < 64 ∧ x.active o (BitVec.allOnes 64) i = true) → a % 256 ≠ 0 → exec (c e o) s = .next (ends s .protFault a)) ∧
       (∀ k, k < 64 → a % 256 = 0 → out k → (∀ i, i < k → ¬ out i) → exec (c e o) s = .next (ends s .protFault (a + 4 * k)))) ∧
     (x.at 0xB2 o = true → fault → exec (.tin e o) s = .next (ends s .protFault b)) ∧
     (x.at 0xB3 o = true → fault → exec (.tout e o) s = .next (ends s .protFault b)) ∧
     (¬ fault → s.engReach e b 16448 = false → (x.at 0xB2 o = true → exec (.tin e o) s = .next s) ∧
       (x.at 0xB3 o = true → exec (.tout e o) s = .next s)) ∧
     (x.at 0xB2 o = true → ¬ fault → s.engReach e b 16448 = true → s.ringAt (e / 64) b false = none → s.poisoned b 16448 = false →
       tileGood (s.rd b 16448) none = false →
       exec (.tin e o) s = .next (ends (s.evSeal (0x100 + e) x.ctx b (s.rd b 16448)) .tileSeal b)) ∧
     (x.at 0x09 o = true →
       let q := bits o.imm.toNat 0 6
       let t := s.setEngine e { x with pc := x.pc + 1 }
       exec (.crel e o) s = .next (if (s.rqueue (e / 64) q).held = true ∧ (s.rqueue (e / 64) q).ctx = x.ctx
         then t.freeMsg (e / 64) q else t)))

/-- TIN and TOUT complete inside the job's windows once the engine reaches the tile in its task's slots (R18) and a ring slot there is FULL,
or EMPTY (R167). TIN of a sound tile fills the tile buffer with its image and spends a use of the ring slot. TOUT writes the buffer's
payload with a header from its scalar registers, the slot's format and scale, and a seal over both (R139, R140, R160). TLD and TST complete
where the elements of the active lanes lie within the payload. TLD gives each lane an element of the buffer: 0 where nothing fills it, a
ledger tile's own code, else the element's value at the tile's scale converted with RM. TST converts lanes into the slot's format at its
scale, with the slot's RND where its entry has no SR, and leaves every other element of the buffer; with no active lane it writes nothing
(R139, R140, R123). The model chose that TOUT data are in the gallery at once (log 23), the index of stochastic rounding in TST (log 25),
how a ring is read (log 15), how slots hold transfers (log 99), and formats and scales of TLD that the rules leave open (log 113). -/
def Obligations.TileInstructions : Prop :=
  (∀ (s : State) (e : Nat) (o : VOp),
     let x := s.engine e
     let a := (x.scalar o.va.toNat).toNat + bits o.imm.toNat 0 16 * 64
     let inside := a % 64 = 0 ∧ (∃ w ∈ (s.jobOfEngine e).windows, w.1 ≤ a ∧ a + 16448 ≤ w.1 + w.2) ∧ s.engReach e a 16448 = true
     (x.at 0xB2 o = true → inside → s.poisoned a 16448 = false → tileGood (s.rd a 16448) none = true →
       (∀ u i, s.ringAt (e / 64) a false = some (u, i) → (s.stream u).slotAddr i = a → ∃ n, (s.stream u).slot i = .full n) →
       ∃ t, exec (.tin e o) s = .next t ∧ ∃ b : TileBuf, b.filled = true ∧ b.fmt = (s.byteAt a).toNat % 32 ∧ b.hdr = s.rd a 64 ∧
         (∀ k, k < 16384 → Tbl.get 0 b.pay k = s.byteAt (a + 64 + k)) ∧
         let u := (s.galleryCorrected a 16448).setEngine e { x with pc := x.pc + 1, tb := Tbl.set {} x.tb (o.vd.toNat % 4) b }
         t = (match s.ringAt (e / 64) a false with
           | some (v, i) => if (s.stream v).slotAddr i = a then u.spendSlot v i else u
           | none => u)) ∧
     (x.at 0xB3 o = true → inside →
       (∀ u i, s.ringAt (e / 64) a true = some (u, i) → (s.stream u).slotAddr i = a → (s.stream u).slot i = .empty) →
       ∃ t, exec (.tout e o) s = .next t ∧
         let b := Tbl.get {} x.tb (o.vb.toNat % 4)
         let r := o.vc.toNat % 32
         let sl := nth {} (s.jobOfEngine e).slots ((x.scalar (r + 3)).toNat % 4)
         let old := Hdr.ofBytes b.hdr
         let h : Hdr := { fmt := sl.fmt, rows := (x.scalar r).toNat % 2 ^ 16, cols := (x.scalar r).toNat / 2 ^ 16,
                          rowO := (x.scalar (r + 1)).toNat, colO := (x.scalar (r + 2)).toNat,
                          bscale := b.asRead && old.bscale, kaxis := b.asRead && old.kaxis, transposed := b.asRead && old.transposed,
                          scale := (match s.smEnt x.ctx sl.sm with | some m => m.scale | none => 0),
                          tensor := (match s.smEnt x.ctx sl.sm with | some m => m.tensorId | none => 0), home := 2, producer := 0x100 + e }
         let n := spanBytes h.fmt (h.rows * h.cols) + (if h.bscale then h.rows * h.cols / 32 else 0)
         let u := (s.wr a (tileImage h (Tbl.getRun 0 b.pay 0 (min n 16384)))).setEngine e { x with pc := x.pc + 1 }
         t = (match s.ringAt (e / 64) a true with
           | some (v, i) => if (s.stream v).slotAddr i = a then u.fillOut v i else u
           | none => u))) ∧
  (∀ (s : State) (e : Nat) (o : VOp), (s.engine e).update = false →
     let x := s.engine e
     let act := fun i => x.active o (BitVec.allOnes 64) i
     let b := Tbl.get {} x.tb (o.vb.toNat % 4)
     (let n := (x.scalar o.va.toNat).toNat
      x.at 0xB4 o = true → (b.filled = true → ∀ i, i < 64 → act i = true → elemFits b.fmt (n + i) = true) →
       ∃ t, exec (.tld e o) s = .next t ∧ ∃ y, t = s.setEngine e y ∧ LaneEffect x y o o.words (fun _ i =>
         { val := if b.filled = false then 0 else if (b.fmt = 0xF ∨ b.fmt = 0x10) ∧ b.fmt = o.f then b.code (n + i)
             else (convert o.f o.rm 0 0 (scaledValue b.fmt (Hdr.ofBytes b.hdr).scale (b.code (n + i)))).code })) ∧
     (let n := (x.scalar o.vc.toNat).toNat
      let sl := nth {} (s.jobOfEngine e).slots (bits o.imm.toNat 0 2)
      x.at 0xB5 o = true → lanes.any act = true → (∀ i, i < 64 → act i = true → elemFits sl.fmt (n + i) = true) →
       ∃ t, exec (.tst e o) s = .next t ∧ ∃ b', t.engine e = { x with pc := x.pc + 1, tb := Tbl.set {} x.tb (o.vb.toNat % 4) b' } ∧
         t = { s with eng := t.eng, ctx := t.ctx, freeCtr := t.freeCtr } ∧ b'.filled = true ∧ b'.fmt = sl.fmt ∧
         (sl.fmt ≤ 0x10 → (match s.smEnt x.ctx sl.sm with | some m => m.sr = false | none => True) →
           ∀ i, i < 64 → act i = true → b'.code (n + i) = (convert sl.fmt sl.rnd 0
             (match s.smEnt x.ctx sl.sm with | some m => m.scale | none => 0) (valueOf o.f (x.elem o.words o.va.toNat i))).code % 2 ^ fmtWidth sl.fmt) ∧
         (sl.fmt ≤ 0x10 → b.filled = true → b.fmt = sl.fmt → ∀ k, (k < n ∨ n + 64 ≤ k) → elemFits sl.fmt k = true → b'.code k = b.code k)) ∧
     (x.at 0xB5 o = true → lanes.any act = false → exec (.tst e o) s = .next (s.setEngine e { x with pc := x.pc + 1 })))

/-! ### Vector engines: jobs and update mode -/

/-- VECTOR_JOB_START, once the engines reach the program and the arguments in their slots: every engine of a vector job of a running task
starts with zero registers, s0 to s30 from the argument block (in general mode), s31 its rank, empty tile buffers, clear flags and ledger
status, and the program of the job (R117, R120). VECTOR_JOB_COMPLETE of a job whose engines have all ended with no SIG left: the job is
done, its engines are free, its flags are in WING_VE_FLAGS, and WING_VE_CNT counts (R120, R142). VECTOR_PARITY_ERROR creates a record; a
working engine's task ends with INTERNAL (R143). The model chose what WING_VE_CNT counts (log 84), and the registers of an update job, the
flags of an abort and late SIGs (log 113). -/
def Obligations.VectorJobsStartAndEnd : Prop :=
  (∀ (s : State) (c t j : Nat),
     let k := s.task c t
     let x := nth {} k.vecJobs j
     let w := k.wing
     s.running c t = true → j < k.vecJobs.length → (s.rt c t).jobs.contains j = false →
     (∀ e y, (e, y) ∈ s.eng → y.run ≠ .idle → (y.ctx, y.task, y.job) ≠ (c, t, j)) →
     (∀ r, r < x.engCount → (s.engine (64 * w + x.engFirst + r)).run = .idle ∧ s.hasEngine (64 * w + x.engFirst + r) = true) →
     s.poisoned x.progBase (8 * x.progLen) = false → (x.mode = 0 → s.poisoned x.argBase 128 = false) →
     (∀ r, r < x.engCount →
       let q := s.asker c t (0x100 + (64 * w + x.engFirst + r))
       s.slotted q x.progBase (8 * x.progLen) = true ∧ (x.mode = 0 → s.slotted q x.argBase 128 = true)) →
       ∃ u, exec (.vectorJobStart c t j) s = .next u ∧ s.SameButEngines u ∧
         (∀ e, (e < 64 * w + x.engFirst ∨ 64 * w + x.engFirst + x.engCount ≤ e) → u.engine e = s.engine e) ∧
         ∀ r, r < x.engCount →
           let y := u.engine (64 * w + x.engFirst + r)
           y = { run := .running, ctx := c, task := t, job := j, rank := r, prog := y.prog, s := y.s, update := x.mode == 1 } ∧
           y.prog = (List.range x.progLen).map (fun i => BitVec.ofNat 64 (leNat (s.rd (x.progBase + 8 * i) 8))) ∧
           (y.scalar 31) = BitVec.ofNat 32 r ∧
           ∀ i, i < 31 → y.scalar i = if x.mode = 1 then 0 else BitVec.ofNat 32 (leNat (s.rd (x.argBase + 4 * i) 4))) ∧
  ((∀ (s : State) (e : Nat), s.hasEngine e = true →
     let x := s.engine e
     (x.run = .idle → exec (.vectorParityError e) s = .next (s.event (0x100 + e) 0x0106 3 none [(16, 1, 4)])) ∧
     (x.run ≠ .idle →
       let u := s.event (0x100 + e) 0x0106 3 (some x.ctx) [(16, 1, 4)]
       exec (.vectorParityError e) s = .next (u.failTask x.ctx x.task
         ⟨.internal, BitVec.ofNat 64 (0x100 + e + 2 ^ 32 * (u.evr.last % 2 ^ 32))⟩))) ∧
   ∀ (s : State) (c t j issued stalled : Nat),
     let k := s.task c t
     let x := nth {} k.vecJobs j
     let w := k.wing
     let es := (List.range x.engCount).map (fun r => 64 * w + x.engFirst + r)
     s.running c t = true → j < k.vecJobs.length →
     (∀ e ∈ es, let y := s.engine e; y.run = .ended ∧ y.ctx = c ∧ y.task = t ∧ y.job = j ∧ y.sigs = []) →
       ∃ u, exec (.vectorJobComplete c t j issued stalled) s = .next u ∧
         (x.chunk = none → (x.mode = 1 → x.group = 0xFFFF ∧ ∀ g, k.role ≠ .update g) →
           u = { s with eng := u.eng, ctx := u.ctx, regs := u.regs } ∧
           (∀ e, u.engine e = if e ∈ es then { s.engine e with run := .idle } else s.engine e) ∧
           u.rt c t = { s.rt c t with jobs := (s.rt c t).jobs ++ [j] } ∧
           (∀ b f, (b, f) ∈ ([(0, RegF.wingVeFlagsNonfinite), (1, RegF.wingVeFlagsSat), (2, RegF.wingVeFlagsWideOvf),
               (3, RegF.wingVeFlagsBreach)] : List (Nat × Fld)) →
             u.fld f w = if es.any (fun e => (s.engine e).flags.getLsbD b) then 1 else s.fld f w) ∧
           u.fld RegF.wingVeCntIssued w = satAdd 32 (s.fld RegF.wingVeCntIssued w) issued ∧
           u.fld RegF.wingVeCntStalled w = satAdd 32 (s.fld RegF.wingVeCntStalled w) stalled))

/-- UPDATE_BATCH_LOAD, once the engine's slots reach them (R18), fills the four windows of an engine in update mode from the records and
reduced gradients of its batches: batch rank + ENG_COUNT · n, record 64 · batch + lane (R145, R146); with no batch left the engine ends. GCL
writes the group constant of its slot into every active lane: slots 0 to 9 from the group descriptor, 10 to 13 STEP, BC1, BC2 and CLIP, +0
for 14 and 15 (R150). UPDATE_RECORD_WRITE writes each active record whole: the master from v0:v1, m from v2, v from v3 and the forward copy
in the group's format and scale with RNE, or zero for F32 and F64; no other byte changes (R151, R152). It waits for the engine's slots
(R18). -/
def Obligations.UpdateWindowsAndRecords : Prop :=
  ((∀ (s : State) (e : Nat) (o : VOp), (s.engine e).update = true → o.vd.toNat < 16 → (s.engine e).at 0xC0 o = true →
     let x := s.engine e
     let g := (s.jobOfEngine e).group
     let u := s.updConst x.ctx g ((s.ledgerOf x.ctx g).getD 0)
     let k := bits o.imm.toNat 0 4
     ∃ y, exec (.gcl e o) s = .next (s.setEngine e y) ∧ LaneEffect x y o 1 (fun _ _ =>
       { val := if k < 10 then field (s.groupBytes x.ctx g) (64 + 4 * k) 4 else nth 0 [u.step, u.bc1, u.bc2, u.clip, 0, 0] (k - 10) })) ∧
   ∀ (s : State) (e : Nat),
     let x := s.engine e
     let j := s.jobOfEngine e
     x.update = true → x.run = .running → x.loaded = false →
     (j.sets x.rank ≤ x.batch → exec (.updateBatchLoad e) s = .next (s.setEngine e { x with run := .ended })) ∧
     (x.batch < j.sets x.rank →
       (∀ b, b < 4 →
         let n := x.rank + j.engCount * (4 * x.batch + b)
         s.engReach e (j.recordBase + 1024 * n) (16 * min 64 (j.recordCount - 64 * n)) = true ∧
         s.engReach e (j.gradBase + 512 * n) (8 * min 64 (j.recordCount - 64 * n)) = true) →
       let rec' := fun b i => 64 * (x.rank + j.engCount * (4 * x.batch + b)) + i
       (∀ b i, b < 4 → i < 64 → rec' b i < j.recordCount →
         s.allows x.ctx (s.rt x.ctx x.task).epochOld false (j.recordBase + 16 * rec' b i) 16 = true ∧
         s.poisoned (j.recordBase + 16 * rec' b i) 16 = false ∧
         s.allows x.ctx (s.rt x.ctx x.task).epochOld false (j.gradBase + 8 * rec' b i) 8 = true ∧
         s.poisoned (j.gradBase + 8 * rec' b i) 8 = false) →
       ∃ y, exec (.updateBatchLoad e) s = .next (s.setEngine e y) ∧
         y = { x with loaded := true, pc := 0, v := y.v, present := y.present } ∧
         ∀ b i, b < 4 → i < 64 →
           let n := rec' b i
           let r := leNat (s.rd (j.recordBase + 16 * n) 16)
           (nth 0 y.present b).getLsbD i = decide (n < j.recordCount) ∧
           (n < j.recordCount →
             y.elem 2 (16 * b) i = r / 2 ^ 80 * 2 ^ 16 ∧
             y.word (16 * b + 2) i = BitVec.ofNat 32 (r / 2 ^ 48) ∧ y.word (16 * b + 3) i = BitVec.ofNat 32 (r / 2 ^ 16) ∧
             y.word (16 * b + 4) i = BitVec.ofNat 32 (f32.pack 0 0 (Dy.ofInt (BitVec.ofNat 64 (leNat (s.rd (j.gradBase + 8 * n) 8))).toInt
               (s.ledger x.ctx ((s.ledgerOf x.ctx j.group).getD 0)).rscale)).1 ∧
             y.word (16 * b + 5) i = BitVec.ofNat 32 (f32.ofX 0 (e8m39.value (r / 2 ^ 80)))) ∧
           (∀ q, 6 ≤ q → q < 16 → y.word (16 * b + q) i = 0))) ∧
  (∀ (s : State) (e : Nat),
     let x := s.engine e
     let j := s.jobOfEngine e
     let d := s.groupBytes x.ctx j.group
     let fmt := field d 4 1 % 32
     let rec' := fun b i => 64 * (x.rank + j.engCount * (4 * x.batch + b)) + i
     x.update = true → x.run = .running → x.loaded = true → x.prog.length ≤ x.pc → fmt ≤ 0x10 → 1 ≤ j.engCount →
     (∀ b, b < 4 →
       let n := x.rank + j.engCount * (4 * x.batch + b)
       s.engReach e (j.recordBase + 1024 * n) (16 * min 64 (j.recordCount - 64 * n)) = true) →
     (∀ b i, b < 4 → i < 64 → rec' b i < j.recordCount →
       s.allows x.ctx (s.rt x.ctx x.task).epochOld true (j.recordBase + 16 * rec' b i) 16 = true) →
       ∃ t, exec (.updateRecordWrite e) s = .next t ∧
         (∀ b i, b < 4 → i < 64 → rec' b i < j.recordCount →
           t.rd (j.recordBase + 16 * rec' b i) 16 = leBytes 16 (x.elem 2 (16 * b) i / 2 ^ 16 * 2 ^ 80 +
             (x.word (16 * b + 2) i).toNat * 2 ^ 48 + (x.word (16 * b + 3) i).toNat * 2 ^ 16 +
             (if fmt = 0 ∨ fmt = 1 then 0 else
               (({ s.target x.ctx (field d 6 2) fmt 0 0 with sr := false } : Target).conv (e8m39.value (x.elem 2 (16 * b) i / 2 ^ 16)) (j.flatFirst + rec' b i)).code % 2 ^ 16))) ∧
         (∀ a, (∀ b i, b < 4 → i < 64 → rec' b i < j.recordCount → a < j.recordBase + 16 * rec' b i ∨ j.recordBase + 16 * rec' b i + 16 ≤ a) →
           t.byteAt a = s.byteAt a) ∧
         t.engine e = { x with loaded := false, batch := x.batch + 1, pc := 0, present := [],
                               run := if j.sets x.rank ≤ x.batch + 1 then .ended else .running })

/-! ### The exact path -/

/-- The exact class does not depend on order or splitting (R61 to R64): products of exact-class codes are exact multiples of 2^-32 below
2^32 in magnitude, a chain gives the same state for its pairs in any order, and a chain in two parts the same as in one. -/
def Obligations.ExactChainIndependentOfOrderAndSplit : Prop :=
  (∀ fa fb ca cb x y, fa ∈ [6, 7, 8, 9, 0xA, 0xC, 0xD] → fb ∈ [6, 7, 8, 9, 0xA, 0xC, 0xD] → ca < 2 ^ fmtWidth fa → cb < 2 ^ fmtWidth fb →
    valueOf fa ca = .fin x → valueOf fb cb = .fin y →
    ∃ d, product (valueOf fa ca) (valueOf fb cb) = (.none, d) ∧ d = x.mul y ∧ -32 ≤ d.e ∧ d.m * 2 ^ (d.e + 32).toNat < 2 ^ 64) ∧
  (∀ (st : ChainSt) (l l' : List (XVal × XVal)) (sig sig' : List (Int × Bool)), l.Perm l' →
    st.pass .exact (l.map Prod.fst) (l.map Prod.snd) sig = st.pass .exact (l'.map Prod.fst) (l'.map Prod.snd) sig') ∧
  (∀ (st : ChainSt) (l l' : List (XVal × XVal)) (sig sig' sig'' : List (Int × Bool)),
    st.pass .exact ((l ++ l').map Prod.fst) ((l ++ l').map Prod.snd) sig =
      (st.pass .exact (l.map Prod.fst) (l.map Prod.snd) sig').pass .exact (l'.map Prod.fst) (l'.map Prod.snd) sig'')

/-- A chain-state record gives back the state that it was written from (R77), and the two buffers of the split form, each summed over at
most 4,096 parts, give back the sum of the parts, or show that a part was not finite (R78). -/
def Obligations.ChainRecordsAndSplitForm : Prop :=
  (∀ (st : ChainSt) (k : Nat), -2 ^ 127 ≤ st.x → st.x < 2 ^ 127 → st.s = {} → st.ovf = false → st.anchor = 0 → st.sigLo = 0 → st.sigHi = 0 →
    ChainSt.ofRecord .exact (st.record .exact k) = st) ∧
  (∀ (st : ChainSt) (k : Nat), -2 ^ 127 ≤ st.x → st.x < 2 ^ 127 → st.s = {} → st.ovf = false →
    (∀ v ∈ [st.anchor, st.sigLo, st.sigHi], -2 ^ 15 ≤ v ∧ v < 2 ^ 15) → ChainSt.ofRecord .block (st.record .block k) = st) ∧
  (∀ l : List ChainSt, l.length ≤ 4096 → (l.map (fun st => st.x.natAbs)).sum < 2 ^ 88 →
    splitJoin ((l.map (fun st => st.splitForm.1)).sum) ((l.map (fun st => st.splitForm.2)).sum) =
      if l.all (fun st => decide (st.sp = .none)) then some ((l.map ChainSt.x).sum) else none)

/-! ### Matrix arrays -/

/-- ARRAY_JOB_START and BARRIER_GROUP_JOB_START: the first job of the array's task that it has not done. A weight-gradient job of a frozen
group is done at once, and the streams end that it alone would use (R106). Any other begins at block, pass and vector 0, its first
stationary operand loading by moving front after an abort or with FORCE_FRONT (R94), else going on in the shadow registers where its load
has begun (R100); it ramps where the array is gated or in a barrier start group (R110, R111). A tile that comes to the load bus in the
array's slots is checked and its elements taken; one that fails its check ends the task (R107); a fixed tile known to hold nothing of the
pass is passed by. The model chose which tile elements a pass uses and how a ring is read (logs 14 and 15), when operands load (log 109),
and the order of a start group (log 116). -/
def Obligations.ArrayJobStarts : Prop :=
  ∀ (s : State) (a i : Nat),
    let x := s.array a
    let j := nth {} (s.task x.ctx x.task).arrayJobs i
    let w := a / 2
    (x.busy = true → x.started = false → s.running x.ctx x.task = true →
      i < (s.task x.ctx x.task).arrayJobs.length → j.array = a % 2 → x.doneJobs.contains i = false →
      (∀ k, k < i → (nth {} (s.task x.ctx x.task).arrayJobs k).array = a % 2 → x.doneJobs.contains k = true) →
      let frozen := j.role = 2 ∧ j.group ≠ 0xFFFF ∧ ((s.prog x.ctx).getD {}).frozen.contains j.group = true
      let begun := fun (s : State) (group : Bool) =>
        let force := (x.cfg.getD (0, 0x05E)).1 == 1
        let front := x.front || force
        let pre := x.load.filter (fun l => l.job == i && !front)
        let v := s.putArray a { x with
          started := true, job := i, block := 0, pass := 0, vec := 0, emitted := 0, lastOut := false, active := [],
          shadow := if pre.isSome then x.shadow else [], load := some (pre.getD { job := i, pass := 0, front := front }), loaded := false,
          statFrom := 0, statSlot := none, store := [], skidIn := List.replicate 24 0, skidOut := List.replicate 16 0,
          groupsOn := if group then 1 else x.groupsOn ||| 1, front := false, force := force, nOrg := none, mOrg := none, eS := 0, eM := 0,
          spans := [], statSeen := [], movSeen := [], ramp := group || x.groupsOn != 0xFFFF }
        let v := (v.setFld RegF.wingMaStsForm j.form w (a % 2)).setFld RegF.wingMaStsCtx x.ctx w (a % 2)
        (if front then v.incFld RegF.wingMaEvtFrontLoads 1 w (a % 2) else v).loadOn a
      let skipped := fun (s : State) =>
        ((s.setArray a { x with job := i, doneJobs := x.doneJobs ++ [i] }).incFld RegF.wingMaEvtFrozenSkips 1 w (a % 2)).endIdleRings x.ctx x.task
      ((∀ g ∈ s.starts, ∀ q ∈ g.queue, q.1 ≠ a) → frozen → exec (.arrayJobStart a) s = .next (skipped s)) ∧
      ((∀ g ∈ s.starts, ∀ q ∈ g.queue, q.1 ≠ a) → ¬ frozen → exec (.arrayJobStart a) s =
        .next (begun s ((s.rt x.ctx x.task).grouped && x.doneJobs.isEmpty))) ∧
      (∀ g n l rest, s.starts = g :: rest → g.queue = (a, n) :: l →
        let u : State := { s with starts := if l = [] then rest else { g with queue := l, begun := true } :: rest }
        (frozen → exec (.barrierGroupJobStart a) s = .next (skipped u)) ∧
        (¬ frozen → exec (.barrierGroupJobStart a) s = .next (begun u true)))) ∧
    (∀ l, x.load = some l →
      let j := nth {} (s.task x.ctx x.task).arrayJobs l.job
      let img := s.rd (j.statBase + 16448 * l.next) 16448
      let t : OpTile := ⟨j.statBase + 16448 * l.next, img, none⟩
      let by' : Prop := ∃ k, l.seen[l.next]? = some k ∧ (k.2 ≤ j.passLo l.pass ∨ j.passHi l.pass ≤ k.1)
      l.done = false → l.next < j.statTiles →
      (by' → s.takeTiles a 1 = (s.putArray a { x with load := some { l with next := l.next + 1 } }, none)) ∧
      (¬ by' → s.ringAt w j.statBase false = none → s.portSlot a 40 = true →
      s.arrayReach a t.addr 16448 = true → s.poisoned t.addr 16448 = false →
      (j.tileOk j.fmtS (!j.orient) t = true →
        let h := Hdr.ofBytes img
        let org := l.org.getD (if j.orient then h.rowO else h.colO)
        let r := s.takeTiles a 1
        let y := r.1.array a
        r.2 = none ∧ (if l.front then y.active else y.shadow) = j.statLoad l.pass org (if l.front then x.active else x.shadow) [t] ∧
        (if l.front then y.shadow = x.shadow else y.active = x.active) ∧
        (y.load.map (fun z => (z.job, z.pass, z.next, z.org))) = some (l.job, l.pass, l.next + 1, some org)) ∧
      (j.tileOk j.fmtS (!j.orient) t = false → s.loadOn a =
        (s.evSeal a x.ctx t.addr img).failTask x.ctx x.task ⟨.tileSeal, BitVec.ofNat 64 t.addr⟩))) ∧
    (∀ c t u y, s.strm = [(u, y)] → s.idleRing c t y = true → ((s.endIdleRings c t).stream u).held = false)

/-- ARRAY_ISSUE, once the ports have moved what their groups have slots for and the load has gone on: a moving vector issues when its
operand is loaded, every row group in use has a slice for each vector and every column group has a free entry (R84, R89, R102, R103); the
chain of every logical column advances by the pass. Otherwise the array stalls for the cycle and counts it (R104). While a pass waits for
its end only the ports and the load go on (R103). The model chose the place of an element by tile headers (log 14), how a ring is read and
which tiles an issue takes (log 15), the place of a chain-in record (log 16), which counter counts a stall and when operands load (logs 83
and 109), and how slots hold transfers (log 99). -/
def Obligations.ArrayIssueOrStall : Prop :=
  ∀ (s : State) (a : Nat) (arrived : BitVec 24) (drained : BitVec 16),
    let x := s.array a
    x.started = true → s.running x.ctx x.task = true → x.lastOut = false →
    ((s.jobOf a).blockRows x.block ≤ x.vec → exec (.arrayIssue a arrived drained) s = .next ((s.ports a arrived drained).loadOn a)) ∧
    (x.ramp = false → x.vec < (s.jobOf a).blockRows x.block →
    let q := s.ports a arrived drained
    let p := q.loadOn a
    let y := p.array a
    let j := p.jobOf a
    let w := a / 2
    let n := min j.perIssue (j.blockRows y.block - y.vec)
    let k := p.issueTiles a
    let slices := y.loaded = true ∧ ∀ g ∈ j.rowGroups y.pass, n ≤ nth 0 y.skidIn g
    let here := (p.ringAt w j.movBase false = none ∨ p.issueHere a k.1 = true) ∧ ∀ r, p.handRange a = some r → p.arrayReach a r.1 r.2 = true
    let space := ∀ g ∈ j.colGroups, nth 0 y.skidOut g < 8
    let stall := fun (f : Fld) => (p.incFld f 1 w (a % 2)).setFld RegF.wingMaStsStalled 1 w (a % 2)
    ((q.array a).skidIn = (List.range 24).map (fun g =>
        if arrived.getLsbD g && ((s.jobOf a).rowGroups 0).contains g && s.portSlot a g then min 8 (nth 0 x.skidIn g + 1) else nth 0 x.skidIn g) ∧
      (q.array a).skidOut = (List.range 16).map (fun g =>
        if drained.getLsbD g && s.portSlot a (24 + g) then nth 0 x.skidOut g - 1 else nth 0 x.skidOut g)) ∧
    (y.started = false → exec (.arrayIssue a arrived drained) s = .next p) ∧
    (y.started = true → y.ramp = false →
      (¬ slices → exec (.arrayIssue a arrived drained) s = .next (stall RegF.wingMaStallRowStall)) ∧
      (slices → k.2 = none → ¬ here → exec (.arrayIssue a arrived drained) s = .next (stall RegF.wingMaStallRowStall)) ∧
      (slices → k.2 = none → here → ¬ space → exec (.arrayIssue a arrived drained) s = .next (stall RegF.wingMaStallColStall)) ∧
      (∀ t, slices → k.2 = some t → p.arrayReach a t.addr 16448 = true → p.poisoned t.addr 16448 = false →
        exec (.arrayIssue a arrived drained) s = .next ((p.evSeal a y.ctx t.addr t.img).failTask y.ctx y.task
          ⟨.tileSeal, BitVec.ofNat 64 t.addr⟩)) ∧
      (slices → k.2 = none → here → space → (∀ r, p.handRange a = some r → p.poisoned r.1 r.2 = false) →
        ∃ t, exec (.arrayIssue a arrived drained) s = .next t ∧
          let mOrg := y.mOrg.getD ((k.1.head?.map (fun t => (Hdr.ofBytes t.img).rowO)).getD 0)
          let store := if y.pass = 0 ∧ y.vec = 0 then p.chainIn j y.block else y.store
          t.array a = { y with
            vec := y.vec + n, mOrg := some mOrg,
            eM := if y.mOrg.isSome then y.eM else (k.1.head?.map (fun t => (Hdr.ofBytes t.img).scale)).getD 0,
            store := (List.range n).foldl (fun st i =>
              j.issueRow y.pass y.active k.1 (mOrg + y.block * j.blockSize + y.vec + i) (y.vec + i) st) store,
            skidIn := y.skidIn.zipIdx.map (fun v => if (j.rowGroups y.pass).contains v.2 then v.1 - n else v.1),
            skidOut := if y.pass + 1 < j.passes then y.skidOut else
              y.skidOut.zipIdx.map (fun v => if j.colGroups.contains v.2 then v.1 + 1 else v.1),
            movSeen := p.issueSeen a k.1, spans := (t.array a).spans } ∧
          t.fld RegF.wingMaStsStalled w (a % 2) = 0)))

/-- ARRAY_PASS_END and ARRAY_JOB_END: after the last vector of a pass the array goes to the next pass, whose operand is that of the shadow
registers once it is complete or loads by moving front, or at the end of a block lets its outputs leave and goes to the next block; after
the last block the job ends, and the array is ready for its next job (R89, R93, R100). Chain-state records go to OUT_BASE + 32 · element
(R77). Gating, parity and counters of an array: an idle array gates after its idle time, ramping ungates one column group at a time, a
parity error creates a record and ends the running job's task with INTERNAL, and the next load goes by moving front (R94, R109, R110). The
model chose the place of a record by its element (log 16), that gating during a job ramps again at the next issue (log 83), and what a
parity error with no job drops (log 109). -/
def Obligations.ArrayEndsGatingAndErrors : Prop :=
  (∀ (s : State) (a : Nat),
     let x := s.array a
     let j := s.jobOf a
     let w := a / 2
     let u := s.setStalled a 0
     (x.started = true → x.lastOut = true → exec (.arrayJobEnd a) s = .next
       ((s.putArray a { x with started := false, lastOut := false, loaded := false, store := [], active := [], doneJobs := x.doneJobs ++ [x.job] }
         ).endIdleRings x.ctx x.task)) ∧
     (∀ c t, (∀ i ∈ (s.task c t).arrayJobs, s.frozenJob c i = false) → s.endIdleRings c t = s) ∧
     (x.started = true → s.running x.ctx x.task = true → x.lastOut = false → j.blockRows x.block ≤ x.vec → x.pass + 1 < j.passes →
       x.block < j.blocks →
       let y := { x with pass := x.pass + 1, vec := 0, emitted := 0, loaded := false }
       (x.force = true → exec (.arrayPassEnd a) s = .next
         (((u.putArray a { y with active := [], load := some (u.passLoad a (x.pass + 1) true) }).incFld RegF.wingMaEvtFrontLoads 1 w (a % 2)).loadOn a)) ∧
       (x.force = false → exec (.arrayPassEnd a) s = .next ((u.putArray a y).loadOn a))) ∧
     (∀ l, x.load = some l → l.done = true → l.job = x.job → l.pass = x.pass → x.loaded = false →
       (s.swapLoad a).array a = { x with
         active := if l.front then x.active else x.shadow, shadow := [], load := ((s.swapLoad a).array a).load, loaded := true,
         statFrom := l.keep.getD l.next, statSlot := l.slot, statSeen := l.seen, nOrg := l.org, eS := l.scale }) ∧
     (x.started = true → s.running x.ctx x.task = true → x.lastOut = false → j.blockRows x.block ≤ x.vec → j.passes ≤ x.pass + 1 →
       let r := s.emitFrom a (j.blockRows x.block - x.emitted) x.emitted
       let u := r.1.setArray a { r.1.array a with emitted := r.2 }
       exec (.arrayPassEnd a) s = .next (if r.2 < j.blockRows x.block
         then (u.incFld RegF.wingMaStallColStall 1 w (a % 2)).setFld RegF.wingMaStsStalled 1 w (a % 2)
         else (u.blockFlags a).nextPass a)) ∧
     (j.blocks ≤ x.block + 1 → j.passes ≤ x.pass + 1 → s.nextPass a = u.putArray a
       { x with lastOut := true, vec := 0, skidIn := List.replicate 24 0, skidOut := List.replicate 16 0 }) ∧
     (∀ row c, j.chainOut = true → c < j.nCount → j.nCount ≤ 6144 →
       (s.emitRow a row).rd (j.outBase + 32 * ((x.block * j.blockSize + row) * j.nCount + c)) 32 =
         (Tbl.get {} x.store (row * 6144 + c)).record j.cls j.kEnd)) ∧
  (∀ (s : State) (a : Nat),
     let x := s.array a
     let w := a / 2
     (s.hasArray a = true → (x.cfg.getD (0, 0x05E)).2 ≠ 0 → x.groupsOn ≠ 0 → exec (.columnGroupGate a) s = .next
       (s.putArray a { x with groupsOn := 0, ramp := x.started })) ∧
     (∀ i, i < 15 → x.ramp = true → x.groupsOn = BitVec.ofNat 16 (2 ^ i - 1) → exec (.columnGroupUngate a i) s = .next
       (s.putArray a { x with groupsOn := BitVec.ofNat 16 (2 ^ (i + 1) - 1) })) ∧
     (x.ramp = true → x.groupsOn = 0x7FFF → exec (.columnGroupUngate a 15) s = .next
       (s.putArray a { x with groupsOn := 0xFFFF, ramp := false })) ∧
     (∀ part, s.hasArray a = true → x.started = true → s.running x.ctx x.task = true →
       let u := s.event a 0x0106 3 (some x.ctx) [(16, 1, part)]
       exec (.arrayParityError a part) s = .next (u.failTask x.ctx x.task
         ⟨.internal, BitVec.ofNat 64 (a + 2 ^ 32 * (u.evr.last % 2 ^ 32))⟩)) ∧
     (∀ part, s.hasArray a = true → (x.started = false ∨ s.running x.ctx x.task = false) →
       exec (.arrayParityError a part) s = .next
         ((s.event a 0x0106 3 none [(16, 1, part)]).putArray a { x with front := true, shadow := [], load := none })) ∧
     (let y := s.abortArray a
      (y.array a).front = (x.front || x.started) ∧ (y.array a).busy = false ∧ (y.array a).active = [] ∧ (y.array a).shadow = [] ∧
      (y.array a).store = []) ∧
     (s.ready = true → ∃ t, exec (.wingMaCntClr a) s = .next t ∧ t = { s with regs := t.regs } ∧ t.reg .wingMaStall w (a % 2) = 0 ∧
       t.reg .wingMaEvt w (a % 2) = 0))

/-! ### Rings, descriptors and contexts -/

/-- DOORBELL (R334, R335, R337): a write that is not the whole 8 bytes at offset 0 sets BAD_DB; a valid one gives the new SQ_TAIL and
CQ_HEAD; a tail or head outside the ring is a ring error with RING_ERR, a record and an interrupt; after a ring error only a valid CQ_HEAD
is taken; with ENABLE 0, STATE 5 or a function that does not reach the page the write is ignored: the PF reaches every page, a VF those of
the contexts that its VF_SLOT views show (R330, R332, R333). CTX_ENABLE sets SQ_HEAD, CQ_TAIL and CQ_HEAD to 0 and STATE to 1, and is
ignored with SETUP_IGNORED where R334 says so; clearing ENABLE aborts with STATE 5 and ends in STATE 0 once nothing that has started is
left; a context abort, from a function that reaches the context's CTX_CTL, ends the context's work with REVOKED (R333, R334, R349). The
model chose that nothing of an erroneous doorbell is taken (log 75). -/
def Obligations.DoorbellsAndContextControl : Prop :=
  (∀ (s : State) (fn c off size : Nat) (val : W64),
     let tail := val.toNat % 2 ^ 32
     let head := val.toNat / 2 ^ 32
     let badHead := dist32 (s.fld RegF.ctxCqStsCqHead c) (s.fld RegF.ctxCqStsCqTail c) < dist32 (s.fld RegF.ctxCqStsCqHead c) head
     let badTail := s.sqLen c < dist32 (s.fld RegF.ctxStsSqHead c) tail
     let live := s.hostOn = true ∧ c < 16384 ∧ off < 8 ∧ (fn = 0 ∨ s.vfContext fn (s.fld RegF.ctxCfgVfSlot c) = some c) ∧ s.fld RegF.ctxCtlEnable c = 1 ∧
       s.cstate c ≠ 5 ∧ s.cstate c ≠ 0
     let takes := fun (u : State) => .next ((u.setFld RegF.ctxCqStsCqHead head c).syncFull c).settle
     (live → off = 0 → size = 8 → s.fld RegF.ctxStsRingErr c = 0 → ¬ badHead → ¬ badTail →
       exec (.doorbell fn c off size val) s = takes (s.updCx c (fun x => { x with sqTail := tail }))) ∧
     (live → off = 0 → size = 8 → s.fld RegF.ctxStsRingErr c = 0 → badHead ∨ badTail → exec (.doorbell fn c off size val) s =
       .next (((s.setFld RegF.ctxStsRingErr 1 c).event 0x2000 0x0109 2 (some c) [(16, 4, tail), (20, 4, head)]).irq c)) ∧
     (live → off = 0 → size = 8 → s.fld RegF.ctxStsRingErr c = 1 → ¬ badHead → exec (.doorbell fn c off size val) s = takes s) ∧
     (live → off = 0 → size = 8 → s.fld RegF.ctxStsRingErr c = 1 → badHead → exec (.doorbell fn c off size val) s = .next s) ∧
     (live → off ≠ 0 ∨ size ≠ 8 → exec (.doorbell fn c off size val) s = .next (s.setFld RegF.ctxStsBadDb 1 c)) ∧
     (s.fld RegF.ctxCtlEnable c ≠ 1 ∨ s.cstate c = 5 ∨ (fn ≠ 0 ∧ s.vfContext fn (s.fld RegF.ctxCfgVfSlot c) ≠ some c) →
       exec (.doorbell fn c off size val) s = .next s) ∧
     (∀ j k, s.vfContext fn j = some k → ∃ v, (k < 2 ^ 20 ∧ ∃ x ∈ s.regs, x.1 / 2 ^ 40 = Reg.index .ctxCfg ∧ x.1 / 2 ^ 20 % 2 ^ 20 = k ∧ x.2 = v) ∧
       bits v 0 6 = fn ∧ bits v 32 8 = j)) ∧
  (∀ (s : State) (c : Nat),
     let bad := 10 < s.fld RegF.ctxSqOrder c ∨ 10 < s.fld RegF.ctxCqOrder c ∨ s.fld RegF.ctxSqBase c = 0 ∨ s.fld RegF.ctxCqBase c = 0 ∨
       (∀ w, w < 4 → (s.fld RegF.ctxCfgWings c).testBit w = false) ∨
       (∃ w, w < 4 ∧ (s.fld RegF.ctxCfgWings c).testBit w = true ∧ s.hasWing w = false) ∨ s.cstate c = 5
     (c < 16384 → s.ready = true → s.fld RegF.ctxCtlEnable c = 0 → ¬ bad → ∃ t, exec (.ctxEnable 0 c) s = .next t ∧
       t = { s with regs := t.regs, ctx := t.ctx } ∧ t.cx c = {} ∧ (∀ c', c' ≠ c → t.cx c' = s.cx c') ∧
       t.fld RegF.ctxCtlEnable c = 1 ∧ t.cstate c = 1 ∧ t.fld RegF.ctxStsSqHead c = 0 ∧ t.fld RegF.ctxCqStsCqTail c = 0 ∧
       t.fld RegF.ctxCqStsCqHead c = 0 ∧ t.fld RegF.ctxStsRingErr c = 0) ∧
     (c < 16384 → s.ready = true → s.fld RegF.ctxCtlEnable c = 0 → bad →
       exec (.ctxEnable 0 c) s = .next (s.setFld RegF.glbStatusSetupIgnored 1)) ∧
     (∀ fn, fn ≠ 0 → exec (.ctxEnable fn c) s = .next s ∧ exec (.ctxDisable fn c) s = .next s) ∧
     (s.fld RegF.ctxCtlEnable c = 1 → exec (.ctxDisable 0 c) s = .next (((s.setFld RegF.ctxCtlEnable 0 c).setFld RegF.ctxStsState 5 c).contextAbort
       c none .revoked (BitVec.ofNat 64 (s.fld RegF.protEpochEpoch + 2 ^ 63)))) ∧
     (s.cstate c = 5 → (∃ d ∈ (s.cx c).descs, d.st = .started) → exec (.ctxDisableDone c) s = .next s) ∧
     (s.cstate c = 5 → (∀ d ∈ (s.cx c).descs, d.st ≠ .started) → (∀ e ∈ s.seqs, e.2.release ≠ none → e.2.ctx ≠ c) → ((s.cx c).recs = [] ∨ s.cqRingFull c = true) →
       exec (.ctxDisableDone c) s = .next (s.disableDone c).settle ∧ (s.disableDone c).cstate c = 0 ∧
         (s.disableDone c).prog c = none ∧ ((s.disableDone c).cx c).recs = []) ∧
     (∀ fn, (fn ≠ 0 ∧ s.vfContext fn (s.fld RegF.ctxCfgVfSlot c) ≠ some c) → exec (.ctxCtlAbort fn c) s = .next s) ∧
     (∀ fn, (fn = 0 ∨ s.vfContext fn (s.fld RegF.ctxCfgVfSlot c) = some c) → s.cstate c ≠ 0 → s.cstate c ≠ 5 →
       exec (.ctxCtlAbort fn c) s = .next (s.contextAbort c none .revoked (BitVec.ofNat 64 (s.fld RegF.protEpochEpoch + 2 ^ 63)))))

/-- A descriptor may start when the dependences of R338 and R339 hold; DESCRIPTOR_FETCH takes the descriptor at SQ_HEAD, in the place of a
done one of the same index (R335), and one with an offending field completes at once with CERT_REJECT, reason 0x80; NOP completes with OK; a
completion forms one record with the descriptor's tag and opcode, and the descriptor is done (R336 to R340, R345). RUN, in the context's own
slots, copies ARGS to the entry's argument block and begins the tasks of the entry (R339); with no program it completes with CERT_REJECT,
reason 0x09, and with an entry that is none of the program's with reason 0x81 (R340). ABORT ends the context's earlier work with REVOKED and
then itself completes with OK (R349). The model chose the item of reason 0x80 (log 27), reserved fields (log 112), the slots of RUN (log
74), when the host and the compute family are on (log 40), and the zeroed prefetch place at RUN (log 28). -/
def Obligations.DescriptorsRunAndAbort : Prop :=
  (∀ (s : State) (c i op : Nat),
     (s.canStart c i op = true ↔ ∃ d, s.desc c i = some d ∧ d.st = .waiting ∧ d.opcode = op ∧ 1 ≤ s.cstate c ∧ s.cstate c ≤ 4 ∧
       s.hostOn = true ∧ (0x10 ≤ op → s.pwr.computeOn = true) ∧
       (d.flags.testBit 0 = true → ∀ e ∈ s.earlier c i, e.st = .done) ∧
       (d.flags.testBit 1 = true → ∀ e, (s.earlier c i).reverse.find? (fun e => e.tag == d.waitTag) = some e → e.st = .done) ∧
       (∀ e ∈ s.earlier c i, e.opcode = 0x01 ∨ e.opcode = 0x02 → e.st = .done) ∧
       (op = 0x01 ∨ op = 0x02 → ∀ e ∈ s.earlier c i, e.st = .done) ∧
       (op = 0x03 → ∀ e ∈ s.earlier c i, e.opcode = 0x03 → e.st = .done)) ∧
     (s.canStart c i 0x00 = true → exec (.nopDescriptor c i) s = .next (s.finish c i .ok)) ∧
     (∀ d st detail, s.desc c i = some d → d.st ≠ .done → (s.cx c).dropRecs = false →
       let t := s.finish c i st detail
       (t.cx c).recs = (s.cx c).recs ++ [{ tag := d.tag, status := st, opcode := d.opcode, detail := detail, time := s.time,
                                           irqNow := d.flags.testBit 2 }] ∧
       (t.cx c).descs = (s.cx c).descs.map (fun e => if e.idx = i then { e with st := .done } else e) ∧
       t = { s with ctx := t.ctx, regs := t.regs } ∧ ∀ c', c' ≠ c → t.cx c' = s.cx c') ∧
     (let h := s.fld RegF.ctxStsSqHead c
      s.hostOn = true → s.cstate c ≠ 0 → s.cstate c ≠ 5 → s.fld RegF.ctxStsRingErr c ≠ 1 → h ≠ (s.cx c).sqTail → s.holdFull c = false →
       let d : Desc := { idx := h, bytes := s.hrd (s.fld RegF.ctxSqBase c * 4096 + 64 * (h % s.sqLen c)) 64 }
       let u := (s.setFld RegF.ctxStsSqHead (h + 1) c).updCx c (fun x => { x with descs := x.descs.filter (fun e => !(e.idx == h && e.st == .done)) ++ [d] })
       exec (.descriptorFetch c) s = .next (match d.malformed with
         | some k => u.finish c h .certReject (BitVec.ofNat 64 (0x80 + (k % 2 ^ 32) * 2 ^ 16))
         | none => u))) ∧
  (∀ (s : State) (c i : Nat) (d : Desc), s.desc c i = some d →
     (∀ p e, s.canStart c i 0x03 = true → s.prog c = some p → p.cert.entries[field d.bytes 8 2]? = some e →
       (s.inSlot c = false → exec (.run c i) s = .next s) ∧ (s.inSlot c = true →
       let seqs := (List.range (field d.bytes 10 1 % 64)).map (fun k => leNat (s.hrd (field d.bytes 16 8 + 4 * k) 4))
       let u := ((s.updDesc c i (fun d => { d with st := .started })).wr e.args ((d.bytes.drop 24).take 32)).updProg c (fun p =>
         { p with run := some { desc := i, entry := field d.bytes 8 2, seqList := seqs }, prefetchAt := [0, 0, 0, 0], prefetchDone := [],
                  tasks := e.tasks.foldl (fun m t => Tbl.set {} m t { inRun := true }) p.tasks })
       exec (.run c i) s = .next u.settle)) ∧
     (s.canStart c i 0x03 = true → s.prog c = none → exec (.run c i) s = .next (s.finish c i .certReject 0x09)) ∧
     (∀ p, s.canStart c i 0x03 = true → s.prog c = some p → p.cert.entries[field d.bytes 8 2]? = none →
       exec (.run c i) s = .next (s.finish c i .certReject (BitVec.ofNat 64 (0x81 + 8 * 2 ^ 16)))) ∧
     (d.st = .waiting → d.opcode = 0x04 →
       exec (.abort c i) s = .next ((s.contextAbort c (some i) .revoked (BitVec.ofNat 64 (s.fld RegF.protEpochEpoch + 2 ^ 63))).finish c i .ok)))

/-- LOAD, in the context's own slots, copies the certificate to IMAGE_BASE and STATE is 2; with a program admitted it completes with
CERT_REJECT, reason 0x09. ADMISSION_COMPLETE gives OK and STATE 3 with the program taken up, or CERT_REJECT with the least failing reason
and STATE 1 and nothing admitted: 0x0B at item 32 where OPEN was set by another than the keeper or without OPEN_OK and no check with a lower
reason fails (R461). UNLOAD makes STATE 4, and the release frees what the program held, with STATE 1, each in the own slots (R339, R341,
R343). The model chose the certificate as a structured record (log 1), the items of CERT_REJECT (logs 27 and 29), the order of the checks
(log 76), what admission reads of programs (logs 78, 106 and 108), entries and their bytes (log 107), page reservations (log 103), and an
abort during a LOAD (log 79). -/
def Obligations.ProgramLoadAdmissionUnload : Prop :=
  ∀ (s : State) (c i : Nat) (d : Desc), s.desc c i = some d →
    (let len := field d.bytes 16 4
     let base := field d.bytes 24 8
     let opened := field d.bytes 32 1 == 1
     s.canStart c i 0x01 = true →
      (s.prog c ≠ none → exec (.load c i) s = .next (s.finish c i .certReject 0x09)) ∧
      (s.prog c = none → s.inSlot c = false → exec (.load c i) s = .next s) ∧
      (s.prog c = none → s.inSlot c = true → (∃ k, homeOf base = .near k) → s.reach c base len = true →
        exec (.load c i) s = .next ((((s.updDesc c i (fun d => { d with st := .started })).wr base (s.hrd (field d.bytes 8 8) len)).updCx c
          (fun x => { x with loading := some { cert := s.certAt (field d.bytes 8 8), openMode := opened, image := base } })).setFld
            RegF.ctxStsState 2 c))) ∧
    (∀ (k : Cert) (len : Nat) (opened : Bool),
      (∀ b, k.verdict s c len opened = some b → (∀ y ∈ k.headBad s len, b.1 ≤ y.1) ∧
        (k.headerOk = true → ∀ y ∈ k.bodyBad s c opened, b.1 ≤ y.1)) ∧
      (k.verdict s c len opened = none → opened = true → s.fld RegF.ctxCfgFunc c = 0 ∧ s.fld RegF.ctxCfgOpenOk c = 1) ∧
      (k.headerOk = true → k.headBad s len = [] → k.bodyBad s c opened = [] → opened = true →
        ¬ (s.fld RegF.ctxCfgFunc c = 0 ∧ s.fld RegF.ctxCfgOpenOk c = 1) → k.verdict s c len opened = some (0x0B, 32))) ∧
    (∀ p, s.startedOf c 0x01 = some d → d.idx = i → (s.cx c).loading = some p → s.inSlot c = true → s.cstate c = 2 →
      (∀ b, p.cert.verdict s c (field d.bytes 16 4) p.openMode = some b →
        let u := (s.finish c i .certReject (BitVec.ofNat 64 (b.1 % 2 ^ 16 + (b.2 % 2 ^ 32) * 2 ^ 16))).updCx c (fun x => { x with loading := none })
        exec (.admissionComplete c) s = .next (u.setFld RegF.ctxStsState 1 c) ∧ (u.prog c) = s.prog c) ∧
      (p.cert.verdict s c (field d.bytes 16 4) p.openMode = none →
        exec (.admissionComplete c) s = .next ((s.takeUp c p).finish c i .ok) ∧ (s.takeUp c p).cstate c = 3 ∧
        ((s.takeUp c p).prog c).map (fun q => q.cert) = some p.cert)) ∧
    (s.canStart c i 0x02 = true → s.prog c ≠ none → s.inSlot c = false → exec (.unload c i) s = .next s) ∧
    (s.canStart c i 0x02 = true → s.prog c ≠ none → s.inSlot c = true → exec (.unload c i) s = .next (((s.updDesc c i (fun d =>
      { d with st := .started })).updCx c (fun x => { x with unloading := some i })).setFld RegF.ctxStsState 4 c)) ∧
    (s.canStart c i 0x02 = true → s.prog c = none → exec (.unload c i) s = .next (s.finish c i .certReject 0x09)) ∧
    ((s.cx c).unloading = some i → s.inSlot c = false → exec (.unloadProgramRelease c) s = .next s) ∧
    ((s.cx c).unloading = some i → s.inSlot c = true →
      let u := (s.releaseProgram c).updCx c (fun x => { x with unloading := none })
      (s.cstate c = 4 → exec (.unloadProgramRelease c) s = .next (((u.setFld RegF.ctxStsState 1 c).finish c i .ok).settle)) ∧
      (s.cstate c = 5 → exec (.unloadProgramRelease c) s = .next ((u.finish c i .ok).settle))) ∧
    ((s.releaseProgram c).prog c = none ∧ (∀ k, Tbl.get 0 (s.releaseProgram c).evOwn k ≠ c + 1) ∧
      ∀ e ∈ (s.releaseProgram c).rq, ¬ (e.2.held = true ∧ e.2.ctx = c))

/-- COPY starts in the context's own slots and moves LENGTH bytes between host memory and a tier through the program's host-copy shares;
where the context may not reach the range it copies what lies before and gives PROT_FAULT, and after an error of the tier what came before
it (R342). COMPLETION_RECORD_WRITE writes the oldest record at CQ_TAIL while the ring has space, with the phase of the pass, and an
interrupt follows at once for an interim or failed record or IRQ_NOW, else after COUNT records; HOLDOFF, which runs from the first record
that no interrupt covers, sends the rest (R344 to R346). An interrupt covers every record written before it, the one of a ring error too;
one that is not sent covers none. A masked vector keeps the interrupt pending until it is unmasked. The model chose where a partial COPY
ends (log 64), and that vectors are masked after reset (log 5). -/
def Obligations.CopiesAndCompletionRecords : Prop :=
  (∀ (s : State) (c i : Nat) (d : Desc), s.desc c i = some d →
     (s.canStart c i 0x05 = true → s.prog c = none → exec (.copy c i) s = .next (s.finish c i .certReject 0x09)) ∧
     (s.canStart c i 0x05 = true → s.prog c ≠ none → s.inSlot c = true →
       exec (.copy c i) s = .next (s.updDesc c i (fun d => { d with st := .started }))) ∧
     (d.st = .started → d.opcode = 0x05 → s.inSlot c = true →
       let n := field d.bytes 24 4
       let dev := field d.bytes 16 8
       let host := field d.bytes 8 8
       let r := s.rangeReach c d.epochOld (field d.bytes 28 1 == 0) dev n
       let moved := fun (k : Nat) => if field d.bytes 28 1 = 0 then s.wr dev (s.hrd host k) else s.hwr host (s.rd dev k)
       (s.hostShares c dev r.1 = false → ∀ how, exec (.copyComplete c i how) s = .next s) ∧ (s.hostShares c dev r.1 = true →
       (r.2 = none → exec (.copyComplete c i .done) s = .next ((moved n).finish c i .ok (BitVec.ofNat 64 n))) ∧
       (∀ f, r.2 = some f → exec (.copyComplete c i .done) s = .next ((moved r.1).finish c i f.st f.detail)) ∧
       (∀ a k, r.2 = none → exec (.copyComplete c i (.tierError a k)) s =
         .next ((moved (min k n)).finish c i .tierError (BitVec.ofNat 64 a)))))) ∧
  ((∀ (s : State) (c : Nat) (r : CRec) (l : List CRec), (s.cx c).recs = r :: l → s.cqRingFull c = false → s.cstate c ≠ 0 →
     let t := s.fld RegF.ctxCqStsCqTail c
     let n := (s.cx c).irqCount + 1
     let now := r.interim = true ∨ r.status ≠ .ok ∨ r.irqNow = true ∨ max 1 (s.fld RegF.ctxIrqCount c) ≤ n
     let u := (((s.hwr (s.fld RegF.ctxCqBase c * 4096 + 32 * (t % s.cqLen c))
       (r.bytes (s.fld RegF.ctxStsSqHead c) (t / s.cqLen c % 2 == 0))).setFld RegF.ctxCqStsCqTail (t + 1) c).updCx c
         (fun x => { x with recs := l, irqCount := n, irqArmed := x.irqArmed || n == 1 })).syncFull c
     exec (.completionRecordWrite c) s = .next ((if now then u.irq c else u).settle)) ∧
   (∀ (s : State) (c : Nat), (s.cx c).irqArmed = true →
     exec (.irqHoldoffExpiry c) s = .next ((s.updCx c (fun x => { x with irqArmed := false })).irq c)) ∧
   (∀ (s : State) (c : Nat), s.fld RegF.ctxIrqIrqEn c = 0 → s.irq c = s) ∧
   (∀ (s : State) (c : Nat), s.fld RegF.ctxIrqIrqEn c = 1 →
     let sent := s.updCx c (fun x => { x with irqCount := 0, irqArmed := false })
     let fn := s.fld RegF.ctxCfgFunc c
     let v := s.fld RegF.ctxIrqVector c
     (v < (if fn = 0 then 2048 else 256) → (fn, v) ∈ s.msixOpen → s.irq c = { sent with irqOut := s.irqOut ++ [(fn, v)] }) ∧
     (v < (if fn = 0 then 2048 else 256) → (fn, v) ∉ s.msixOpen → (fn, v) ∈ (s.irq c).msixPend ∧
       s.irq c = { sent with msixPend := (s.irq c).msixPend }) ∧
     ((if fn = 0 then 2048 else 256) ≤ v → s.irq c = s.setFld RegF.ctxStsBadVec 1 c)) ∧
   (∀ (s : State) (fn v : Nat), fn ≤ 63 → v < (if fn = 0 then 2048 else 256) → ∃ t, exec (.msixVectorUnmask fn v) s = .next t ∧
     t = { s with msixOpen := t.msixOpen, msixPend := t.msixPend, irqOut := t.irqOut } ∧ (fn, v) ∈ t.msixOpen ∧
     (∀ x, x ∈ t.msixPend ↔ x ∈ s.msixPend ∧ x ≠ (fn, v)) ∧
     t.irqOut = if (fn, v) ∈ s.msixPend then s.irqOut ++ [(fn, v)] else s.irqOut))

/-- A context abort ends the context's work, of an ABORT descriptor that which was fetched before it (R349). The RUN in progress ends with
its tasks: each that is armed, runs or waits aborts, those that have not started are given up, and the program stays admitted. Every RUN,
COPY, SCAN and DIGEST that is not done completes with the abort's status, a COPY with the bytes already copied and a SCAN with its result
record; so does every other descriptor that has not started; one that has started goes on, but for an end with INTERNAL (R380, R390). The
model chose the value of DONE of a partial COPY or SCAN (logs 7 and 64), and the moment of REVOKE (log 33). -/
def Obligations.ContextAbortEndsWork : Prop :=
  ∀ (s : State) (c : Nat) (st : Status) (detail : W64),
    (∀ upto : Option Nat, ∃ u : State, s.contextAbort c upto st detail =
        (((match upto with | some i => u.earlier c i | none => (u.cx c).descs).foldl (fun (v : State) (d : Desc) => v.abortDesc c d st detail) u)).settle ∧
      let run := (s.prog c).bind (fun p => p.run)
      (upto = none ∨ run = none → u = s.abortRun c st detail) ∧
      (∀ i r, upto = some i → run = some r → (∃ d ∈ s.earlier c i, d.idx = r.desc) → u = s.abortRun c st detail) ∧
      (∀ i r, upto = some i → run = some r → (∀ d ∈ s.earlier c i, d.idx ≠ r.desc) → u = s)) ∧
    (let u := ((s.runTasks c).filter (fun t => (s.rt c t).st.live)).foldl (fun v t => v.abortTask c t st detail) s
     ((u.prog c).bind (fun p => p.run) = none → s.abortRun c st detail = u) ∧
     ∀ p r, u.prog c = some p → p.run = some r → ∃ q, (s.abortRun c st detail).prog c = some q ∧ q.cert = p.cert ∧ q.run = none ∧
       q.markRunning = none ∧ (∀ t, ((s.abortRun c st detail).rt c t).inRun = false) ∧
       (s.abortRun c st detail).cx c = { (u.finish c r.desc st detail).cx c with prog := some q }) ∧
    (∀ d : Desc,
      let t := s.abortDesc c d st detail
      let ends := fun (v : State) => v.finish c d.idx st detail
      let reach := fun (write : Bool) (a n : Nat) => min (s.rangeReach c d.epochOld write a n).1 (s.sharedPrefix c a n)
      (d.st = .done → t = s) ∧
      (d.st = .waiting → d.opcode ≠ 0x10 → t = ends s) ∧
      (d.st = .waiting → d.opcode = 0x10 → t = ends (s.writeScan d 0)) ∧
      (d.st = .started → d.opcode = 0x03 → t = ends s) ∧
      (d.st = .started → d.opcode = 0x05 → ∃ k, k ≤ reach (field d.bytes 28 1 == 0) (field d.bytes 16 8) (field d.bytes 24 4) ∧
        t = ends (({ s with freeCtr := s.freeCtr + 1 } : State).copyBytes d k)) ∧
      (d.st = .started → d.opcode = 0x10 → ∃ k, k % 32 = 0 ∧ k ≤ reach false (field d.bytes 8 8) (field d.bytes 16 5) ∧
        t = (ends (({ s with freeCtr := s.freeCtr + 1 } : State).writeScan d k)).freeEngaged c d.idx) ∧
      (d.st = .started → d.opcode = 0x11 → t = (ends s).freeEngaged c d.idx) ∧
      (d.st = .started → d.opcode ∉ [0x03, 0x05, 0x10, 0x11] → st ≠ .internal → t = s) ∧
      (d.st = .started → d.opcode ∉ [0x03, 0x05, 0x10, 0x11] → st = .internal → t = ends (s.giveUp c d)) ∧
      ∀ k, k ≠ c → t.cx k = s.cx k)

/-! ### Protection, set-up and the rota -/

/-- COMMIT copies the staged table to the active one and raises EPOCH; running work whose domain has the same entries moves to the new epoch
and other work keeps its own; a table with LAST below BASE is refused with BAD, a commit over running affected work is held, and the held
one takes effect when that work has ended. REVOKE is never held, and ends affected work with REVOKED and the new epoch (R368 to R370).
REHANG takes a snapshot of each named scope's staged words: the set comes into force at once where no task of the scope uses an older set,
and else is held, with HELD, until the scope is complete; a command that names several scopes does so for each of them and counts one
commit. A task keeps the set of its start, and so does a step-end mark (R374 to R376). The model chose how long BAD and HELD stay (log 31),
that REVOKE acts at once (log 33), and which tasks a scope waits for (log 49). -/
def Obligations.ProtectionAndRehangCommits : Prop :=
  (∀ (s : State), s.ready = true →
     ((∃ x ∈ s.protStage, x.2.valid = true ∧ x.2.last < x.2.base) →
       exec .commit s = .next (s.setFld RegF.protStsBad 1) ∧ exec .revoke s = .next (s.setFld RegF.protStsBad 1)) ∧
     ((∀ x ∈ s.protStage, x.2.valid = true → x.2.base ≤ x.2.last) → s.prevLive = true →
       exec .commit s = .next ({ s with protHeld := some s.protStage }.setFld RegF.protStsHeld 1)) ∧
     ((∀ x ∈ s.protStage, x.2.valid = true → x.2.base ≤ x.2.last) → s.prevLive = false →
       exec .commit s = .next (s.commitTable s.protStage)) ∧
     (∀ h, s.protHeld = some h → s.prevLive = false → exec .heldCommitEffect s = .next (s.commitTable h)) ∧
     ((s.protHeld = none ∨ s.prevLive = true) → exec .heldCommitEffect s = .next s) ∧
     (∀ new : Tbl ProtEntry, let t := s.commitTable new
       t = { s with regs := t.regs, ctx := t.ctx, protPrev := s.protAct, protAct := new, protHeld := none } ∧
       t.fld RegF.protEpochEpoch = (s.fld RegF.protEpochEpoch + 1) % 2 ^ 32 ∧ t.fld RegF.protStsHeld = 0 ∧
       (∀ c k, t.rt c k = { s.rt c k with epochOld := (t.rt c k).epochOld }) ∧
       ∀ c k, (s.rt c k).st = .running ∨ (s.rt c k).st = .suspended → ((t.rt c k).epochOld = false ↔
         ∀ e, e < 16 → Tbl.get {} (if (s.rt c k).epochOld = true then s.protPrev else s.protAct) (16 * s.pd c + e) =
           Tbl.get {} new (16 * s.pd c + e))) ∧
     ((∀ x ∈ s.protStage, x.2.valid = true → x.2.base ≤ x.2.last) →
       let u := s.commitTable s.protStage
       let d := BitVec.ofNat 64 (u.fld RegF.protEpochEpoch)
       let ts := u.runningTasks.filter (fun y => (u.rt y.1 y.2).epochOld)
       let ds := u.runningCopies.filter (fun y => y.2.epochOld)
       exec .revoke s = .next (overList ds (fun y v => v.abortDesc y.1 y.2 .revoked d) (overList ts (fun y v =>
         v.abortTask y.1 y.2 .revoked d) (u.incFld RegF.protStsRevokedTasks (ts.length + ds.length)))).settle)) ∧
  ((∀ (s : State) (m : BitVec 14), m ≠ 0 → s.ready = true →
     let u := s.wrapFld RegF.glbRehangStsCommits 1
     ∃ t, exec (.rehang m) s = .next t ∧ t = { s with regs := t.regs, scope := t.scope } ∧
       t.fld RegF.glbRehangStsCommits = u.fld RegF.glbRehangStsCommits ∧
       ∀ k, k < 14 →
         (m.getLsbD k = false → t.scp k = s.scp k ∧
           (t.fld RegF.glbRehangStsHeld).testBit k = (s.fld RegF.glbRehangStsHeld).testBit k) ∧
         (m.getLsbD k = true → s.scopePending k = false → (t.fld RegF.glbRehangStsHeld).testBit k = false ∧
           t.scp k = { gen := (s.scp k).gen + 1, cur := u.snapshot k, prev := (s.scp k).cur, held := none }) ∧
         (m.getLsbD k = true → s.scopePending k = true → (t.fld RegF.glbRehangStsHeld).testBit k = true ∧
           t.scp k = { s.scp k with held := some (u.snapshot k) })) ∧
   (∀ (s : State) (c t : Nat), s.prog c ≠ none → ((s.startMark c t).rt c t).st = .running ∧
     ∀ k, k < 14 → nth 0 ((s.startMark c t).rt c t).gens k = (s.scp k).gen) ∧
   ∀ (s : State) (k : Nat), k < 14 → s.ready = true →
     let u := s.wrapFld RegF.glbRehangStsCommits 1
     (u.scopePending k = false → exec (.rehang (BitVec.ofNat 14 (2 ^ k))) s = .next (u.takeSet k (u.snapshot k))) ∧
     (u.scopePending k = true → ∃ t, exec (.rehang (BitVec.ofNat 14 (2 ^ k))) s = .next t ∧ t = { s with regs := t.regs, scope := t.scope } ∧
       t.scp k = { s.scp k with held := some (u.snapshot k) } ∧ (t.fld RegF.glbRehangStsHeld).testBit k = true) ∧
     (∀ h, (s.scp k).held = some h → s.scopePending k = false → exec (.heldRehangEffect k) s = .next (s.takeSet k h)) ∧
     (∀ h, (s.scp k).held = some h → s.scopePending k = true → exec (.heldRehangEffect k) s = .next s) ∧
     (∀ h : Tbl Nat, let t := s.takeSet k h
       t = { s with regs := t.regs, scope := t.scope } ∧ (∀ k', k' ≠ k → t.scp k' = s.scp k') ∧
       t.scp k = { gen := (s.scp k).gen + 1, cur := h, prev := (s.scp k).cur, held := none } ∧
       (t.fld RegF.glbRehangStsHeld).testBit k = false ∧
       ∀ f i j, scopeOf f.reg i = k → t.eff f i j = bits (setWord h f.reg i j) f.lo f.w ∧
         (∀ g, g ≤ (s.scp k).gen → t.effAt g f i j = s.eff f i j) ∧ ∀ g, (s.scp k).gen < g → t.effAt g f i j = t.eff f i j))

/-- An aligned write of 4 or 8 bytes changes the covered bits of a register word by the class of their field: ST and LV take the value, RW1C
clears where 1 is written, LK takes it while its unit is not enabled and else sets SETUP_IGNORED and is recorded first come; RO fields and
reserved bits stay, but that clearing SPAN clears SPAN_COUNT (03, register table). A write of PWR_CFG is such a write and the requests of
the level follow; RED_SM_CMD and RED_GRP_CMD act on 8 bytes alone, as their commands. A write where no register lies or BAR0 offers none yet
(R359), or of another size or alignment, changes nothing. A VF writes through its view what the PF writes there, but for CTX_CFG and CTX_DEP
(R9, R11, R333, R373, R456, R457). Each 64-bit command is noted; a valid one joins the queue of 32 in arrival order, an invalid one sets BAD
alone, and a valid one on a full queue sets DROPPED alone (R55, R274). The model chose what a plain write does to a command field (log 34),
and what reads as the command word (log 42). -/
def Obligations.SetupWritesAndScaleCommands : Prop :=
  (∀ (s : State) (off size : Nat) (val : W64),
     (((size ≠ 4 ∧ size ≠ 8) ∨ off % size ≠ 0 ∨ regAt (off / 8 * 8) = none) → exec (.setupRegisterWrite 0 off size val) s = .next s) ∧
     (∀ r i j, regAt (off / 8 * 8) = some (r, i, j) → s.offers r = false → exec (.setupRegisterWrite 0 off size val) s = .next s) ∧
     (∀ r, s.offers r = true ↔ s.ready = true ∨ (1 ≤ s.bootState ∧ r ∈ [Reg.glbStatus, .glbSetupIgn, .bootCtl, .bootSts, .bootProgress, .bootFuse,
       .bootFwDigest, .btpCfg])) ∧
     (∀ fn, 1 ≤ fn → fn ≤ 63 → off < 16384 → s.ready = true → size = 4 ∨ size = 8 → off % size = 0 →
       (s.vfContext fn (off / 64) = none → exec (.setupRegisterWrite fn off size val) s = .next s) ∧
       (∀ c, s.vfContext fn (off / 64) = some c →
         let pf := 0x300000 + 64 * c + off % 64
         (∀ r i j, regAt (pf / 8 * 8) = some (r, i, j) →
           (r = .ctxCfg ∨ r = .ctxDep → exec (.setupRegisterWrite fn off size val) s = .next s) ∧
           (r ≠ .ctxCfg → r ≠ .ctxDep → exec (.setupRegisterWrite fn off size val) s = exec (.setupRegisterWrite 0 pf size val) s)) ∧
         (regAt (pf / 8 * 8) = none → exec (.setupRegisterWrite fn off size val) s = .next s))) ∧
     (∀ r i j, size = 4 ∨ size = 8 → off % size = 0 → regAt (off / 8 * 8) = some (r, i, j) → s.offers r = true →
       (r = .protStage → ∃ t e, exec (.setupRegisterWrite 0 off size val) s = .next t ∧
         t = { s with protStage := t.protStage } ∧ Tbl.get {} t.protStage (16 * i + j / 2) = e ∧
         (∀ k, k ≠ 16 * i + j / 2 → Tbl.get {} t.protStage k = Tbl.get {} s.protStage k) ∧
         (let o : ProtEntry := Tbl.get {} s.protStage (16 * i + j / 2)
          let v := val.toNat % 2 ^ 32
          let part := fun (x : Nat) => if size = 8 then val.toNat / 2 ^ 16 else if off % 8 = 0 then (x / 2 ^ 16 * 2 ^ 16 + v / 2 ^ 16) % 2 ^ 48
            else x % 2 ^ 16 + v * 2 ^ 16
          (j % 2 = 0 → (size = 8 ∨ off % 8 = 0) →
            e = { o with valid := val.getLsbD 0, read := val.getLsbD 1, write := val.getLsbD 2, base := part o.base }) ∧
          (j % 2 = 0 → size = 4 → off % 8 ≠ 0 → e = { o with base := part o.base }) ∧
          (j % 2 = 1 → e = { o with last := part o.last }))) ∧
       (r = .redSmCmd ∨ r = .redGrpCmd → size = 4 → exec (.setupRegisterWrite 0 off size val) s = .next s) ∧
       (r = .redSmCmd ∨ r = .redGrpCmd → size = 8 → s.ready = true →
         let word := fun k n => val.toNat / 2 ^ k % 2 ^ n
         let c := word 16 14
         let n := word 0 16
         let op := word 32 4
         let arg := BitVec.ofNat 16 (word 48 16)
         ∃ t, exec (.setupRegisterWrite 0 off size val) s = .next t ∧
           (4 < op → t.fld RegF.redSmStsBad = 1 ∧ t.smq = s.smq) ∧ (op = 0 → t.smq = s.smq) ∧
           ∀ q g i, (q, g, i) ∈ [(1, Reg.redSmCmd, Instr.clearFlags c n), (2, .redSmCmd, .setScale c n arg), (3, .redSmCmd, .resetHistory c n),
               (4, .redSmCmd, .setHeadroom c n arg), (1, .redGrpCmd, .freeze c n), (2, .redGrpCmd, .thaw c n), (3, .redGrpCmd, .exempt c n),
               (4, .redGrpCmd, .unexempt c n)] → r = g → op = q →
             ∃ u, exec i s = .next u ∧ t = { u with regs := t.regs } ∧ ∀ r' i' j', r' ≠ .redSmCmd → r' ≠ .redGrpCmd → t.reg r' i' j' = u.reg r' i' j') ∧
       (r ≠ .protStage → r ≠ .redSmCmd → r ≠ .redGrpCmd → ∃ t,
         exec (.setupRegisterWrite 0 off size val) s = .next (if r = .pwrCfg then t.syncPower else t) ∧
         t = { s with regs := t.regs, arr := t.arr } ∧ (∀ a, t.array a = { s.array a with spans := (t.array a).spans }) ∧
         (∀ r' i' j', r'.key i' j' ≠ r.key i j → r'.key i' j' ≠ Reg.key .glbStatus 0 0 → r'.key i' j' ≠ Reg.key .glbSetupIgn 0 0 →
           t.reg r' i' j' = s.reg r' i' j') ∧
         (∀ k, (∀ f ∈ r.rows, k < f.lo ∨ f.lo + f.w ≤ k) → (t.reg r i j).testBit k = (s.reg r i j).testBit k) ∧
         ∀ f ∈ r.rows, ∀ k, f.lo ≤ k → k < f.lo + f.w →
           let here := size = 8 ∨ (off % 8 = 0 ∧ k < 32) ∨ (off % 8 ≠ 0 ∧ 32 ≤ k)
           let v := val.getLsbD (if size = 4 ∧ off % 8 ≠ 0 then k - 32 else k)
           (¬ here → (t.reg r i j).testBit k = (s.reg r i j).testBit k) ∧
           (here → (f.acc = .st ∨ f.acc = .lv ∨ (f.acc = .lk ∧ s.lockedFld r i f = false)) → (t.reg r i j).testBit k = v) ∧
           (here → f.acc = .rw1c → (t.reg r i j).testBit k = ((s.reg r i j).testBit k && !v)) ∧
           (here → (f.acc = .ro ∨ f.acc = .wo ∨ f.acc = .rw) →
             (r = .wingArithSts → f.lo = 16 → ¬ ((size = 8 ∨ off % 8 = 0) ∧ val.getLsbD 0 = true)) →
             (t.reg r i j).testBit k = (s.reg r i j).testBit k) ∧
           (here → r = .wingArithSts → f.lo = 16 → (size = 8 ∨ off % 8 = 0) → val.getLsbD 0 = true → (t.reg r i j).testBit k = false) ∧
           (here → f.acc = .lk → s.lockedFld r i f = true → (t.reg r i j).testBit k = (s.reg r i j).testBit k ∧
             t.fld RegF.glbStatusSetupIgnored = 1 ∧ t.fld RegF.glbSetupIgnValid = 1 ∧
             (s.fld RegF.glbSetupIgnValid = 0 → t.fld RegF.glbSetupIgnOffset = off % 2 ^ 26))))) ∧
  (∀ (s : State) (c e : Nat) (arg : BitVec 16), s.ready = true →
     let put := fun (u : State) (valid : Bool) (op : SmOp) (i : Instr) =>
       (valid = false → exec i s = .next (u.setFld RegF.redSmStsBad 1)) ∧
       (valid = true → 32 ≤ s.smq.length → exec i s = .next (u.setFld RegF.redSmStsDropped 1)) ∧
       (valid = true → s.smq.length < 32 → ∃ t, exec i s = .next t ∧ t = { s with regs := t.regs, smq := s.smq ++ [⟨c, e, op⟩] } ∧
         t.fld RegF.redSmStsPending = s.smq.length + 1 ∧ (t.fld RegF.redSmStsFull = 1 ↔ s.smq.length = 31) ∧
         t.fld RegF.redSmStsBad = s.fld RegF.redSmStsBad ∧ t.fld RegF.redSmStsDropped = s.fld RegF.redSmStsDropped)
     put (s.noteSm c e 1 0) (s.smValid c e) .clearFlags (.clearFlags c e) ∧
     put (s.noteSm c e 2 arg.toNat) (s.smValid c e) (.setScale arg.toInt) (.setScale c e arg) ∧
     put (s.noteSm c e 3 0) (s.smValid c e) .resetHistory (.resetHistory c e) ∧
     put (s.noteSm c e 4 arg.toNat) (s.smValid c e) (.setHeadroom (arg.toNat % 16)) (.setHeadroom c e arg) ∧
     put (s.noteGrp c e 1) (s.grpValid c e) .freeze (.freeze c e) ∧
     put (s.noteGrp c e 2) (s.grpValid c e) .thaw (.thaw c e) ∧
     put (s.noteGrp c e 3) (s.grpValid c e) .exempt (.exempt c e) ∧
     put (s.noteGrp c e 4) (s.grpValid c e) .unexempt (.unexempt c e) ∧
     (s.smValid c e = true ↔ ∃ p, s.prog c = some p ∧ e < p.sm.entries.length) ∧
     (s.grpValid c e = true ↔ ∃ p, s.prog c = some p ∧ p.cert.groupTable ≠ none ∧ e < p.cert.groupCount))

/-- ROTA_COMMIT refuses with the first reason that applies, and no rota changes; else the staged rotas wait, and take effect together at the
first multiple of 10 ms of device time after the write. A slot start shows the slot and is a pick point (R353 to R355). The model chose how
long a refusal shows (log 31), and that a command tied to a time brings the time to it (log 48). -/
def Obligations.RotaCommitsAndSlots : Prop :=
  ∀ (s : State) (m : BitVec 4), s.ready = true → m ≠ 0 →
    (∀ r w, s.rotaFault m = some (r, w) → exec (.rotaCommit m) s =
      .next (((s.setFld RegF.glbRotaStsRefused 1).setFld RegF.glbRotaStsReason r).setFld RegF.glbRotaStsWing w)) ∧
    (s.rotaFault m = none → ∃ t, exec (.rotaCommit m) s = .next t ∧
      t = { s with regs := t.regs, rotaPend := t.rotaPend, rotaAt := s.time } ∧
      ∀ w r, (w, r) ∈ t.rotaPend ↔ (w < 4 ∧ m.getLsbD w = true ∧ r = s.stagedRota w) ∨ (m.getLsbD w = false ∧ (w, r) ∈ s.rotaPend)) ∧
    (∀ r w, s.rotaFault m = some (r, w) → w < 4 ∧ m.getLsbD w = true ∧ 1 ≤ r ∧ r ≤ 4 ∧
      (r = 1 ↔ ∃ v, v < 4 ∧ m.getLsbD v = true ∧ s.rotaShapeBad v = true)) ∧
    (∀ w, s.rotaShapeBad w = true ↔ s.fld RegF.wingRotaHdrSlots w = 0 ∨ 64 < s.fld RegF.wingRotaHdrSlots w ∨
      (∃ x ∈ (s.stagedRota w).slots, x.len < 10 ∨ 10000 < x.len) ∨
      (s.stagedRota w).frame ∉ [250, 400, 500, 625, 1000, 1250, 2000, 2500, 5000, 10000]) ∧
    (∀ l, s.rotaPend = l → l ≠ [] →
      let c := s.comeTo ((s.rotaAt / 2500000 + 1) * 2500000)
      let p := l.map (fun x => (x.1, x.2, s.slotOwner x.1))
      let u := (overList p (fun x v => v.setWrota x.1 { v.wrota x.1 with rota := x.2.1 }) { c with rotaPend := [] }).setFld RegF.glbRotaStsPending 0
      exec .rotaTakeEffect s = .next (overList p (fun x v =>
        v.enterSlot x.1 x.2.2 (x.2.1.slotAt v.time).1 (x.2.1.slotAt v.time).2) u).settle ∧
        (s.rotaAt / 2500000 + 1) * 2500000 ≤ u.time ∧ u.rotaPend = [] ∧ ∀ w r, l = [(w, r)] → (u.wrota w).rota = r) ∧
    (∀ w slot, w < 4 → slot < (s.wrota w).rota.slots.length →
      let r := (s.wrota w).rota
      let f := 250 * r.frame
      let here := s.time / f * f + 250 * r.offset slot
      let start := if here + 250 * (nth {} r.slots slot).len ≤ s.time then here + f else here
      exec (.rotaSlotStart w slot) s = .next (((s.comeTo start).enterSlot w (s.slotOwner w) slot start).settle))

/-! ### Counters, resets, check values and provenance -/

/-- Each counter-clear command makes the counters of its register zero, with the kept part of a unit of 1,024 cycles, and leaves every other
field as it was; before READY it is ignored (R2, R359). A function-level reset of a VF resets every context of the function, one of the PF,
or a hot reset, every context. A reset of a context aborts and unloads it, makes its open sequences FREE and disables it, and no record of
it is left; the contexts of the function that are disabled keep no open sequence either (R350, R357). The model chose that a function reset
masks the MSI-X vectors and drops pending ones (log 5), and that clears keep the part of a unit that the accumulators hold (log 100). -/
def Obligations.CounterClearsAndFunctionResets : Prop :=
  (∀ (s : State),
     let clears := fun (i : Instr) (t : State) (l : List Reg) => exec i s = .next t ∧
       t = { s with regs := t.regs, pwr := t.pwr, accs := t.accs } ∧ ∀ r j k, r ∉ l → t.reg r j k = s.reg r j k
     (s.ready = false → (∀ i ∈ [Instr.redLdgCntClr, .kvaCntClr, .pwrCntClr], exec i s = .next s) ∧
       ∀ n, exec (.wingVeCntClr n) s = .next s ∧ exec (.lnkCntClr n) s = .next s ∧ exec (.wingGstmCntClr n) s = .next s ∧
         exec (.wingDepCntClr n) s = .next s ∧ exec (.wingMaCntClr n) s = .next s) ∧
     (s.ready = true →
     (exec .redLdgCntClr s = .next (s.setReg .redLdgCnt 0 0 0)) ∧
     (∀ w, exec (.wingVeCntClr w) s = .next (s.setReg .wingVeCnt w 0 0)) ∧
     (∀ p, p < 16 → exec (.lnkCntClr p) s = .next ((s.setReg .lnkErr p 0 0).setReg .lnkCnt p 0 0)) ∧
     (∃ t, clears .kvaCntClr t [.kvaCnt, .kvaSkip] ∧ t.pwr = s.pwr ∧ ∀ w, w < 4 → t.reg .kvaCnt w 0 = 0 ∧ t.reg .kvaSkip w 0 = 0) ∧
     (∀ w, w < 4 → ∃ t, clears (.wingGstmCntClr w) t [.wingGalEcc, .wingStrmCnt, .wingTmSts, .wingCourSts] ∧ t.pwr = s.pwr ∧
       t.fld RegF.wingGalEccCorrected w = 0 ∧ t.fld RegF.wingGalEccUncorrected w = 0 ∧
       (∀ u, u < 128 → t.fld RegF.wingStrmCntTiles w u = 0 ∧ t.fld RegF.wingStrmCntMarkWait w u = 0 ∧ t.fld RegF.wingStrmCntFillWait w u = 0 ∧
         Tbl.get 0 t.accs (cycKey RegF.wingStrmCntMarkWait w u) = 0 ∧ Tbl.get 0 t.accs (cycKey RegF.wingStrmCntFillWait w u) = 0) ∧
       (∀ m, m < 16 → t.fld RegF.wingTmStsTiles w m = 0 ∧ t.fld RegF.wingCourStsDone w m = 0 ∧
         t.fld RegF.wingTmStsState w m = s.fld RegF.wingTmStsState w m ∧ t.fld RegF.wingTmStsCtx w m = s.fld RegF.wingTmStsCtx w m ∧
         t.fld RegF.wingCourStsPending w m = s.fld RegF.wingCourStsPending w m ∧ t.fld RegF.wingCourStsCtx w m = s.fld RegF.wingCourStsCtx w m)) ∧
     (∀ w, w < 4 → ∃ t, clears (.wingDepCntClr w) t [.wingDepCnt, .wingDepWait, .wingRpCnt, .wingDepSpl] ∧ t.pwr = s.pwr ∧
       t.fld RegF.wingDepCntSpillTiles w = 0 ∧ t.fld RegF.wingDepCntReturnTiles w = 0 ∧ t.fld RegF.wingDepWaitPushWait w = 0 ∧
       Tbl.get 0 t.accs (cycKey RegF.wingDepWaitPushWait w 0) = 0 ∧
       t.fld RegF.wingDepWaitLeftover w = 0 ∧ t.fld RegF.wingDepWaitBreaks w = 0 ∧
       (∀ i, i < 256 → t.fld RegF.wingRpCntAhead w i = 0 ∧ t.fld RegF.wingRpCntNoneReady w i = 0) ∧
       (∀ h, h < 16 → t.fld RegF.wingDepSplHighWater w h = 0 ∧ t.fld RegF.wingDepSplSpilled w h = s.fld RegF.wingDepSplSpilled w h)) ∧
     (∃ t, clears .pwrCntClr t [.pwrDroop, .pwrEvt, .pwrTsens, .pwrAvg] ∧ t.pwr = { s.pwr with stretched := [0, 0] } ∧
       (∀ d, d < 2 → t.reg .pwrDroop d 0 = 0) ∧ t.reg .pwrEvt 0 0 = 0 ∧ t.fld RegF.pwrAvgPeakW = 0 ∧
       t.fld RegF.pwrAvgAvgW = s.fld RegF.pwrAvgAvgW ∧ ∀ i, i < 96 → t.fld RegF.pwrTsensMax i = 0 ∧
         t.fld RegF.pwrTsensTemp i = s.fld RegF.pwrTsensTemp i))) ∧
  ((∀ (s : State) (vf : Nat), 1 ≤ vf → vf ≤ 63 → exec (.functionLevelReset vf) s = .next (s.resetFunction false vf).settle) ∧
   (∀ (s : State), exec .pfFunctionLevelReset s = .next (s.resetFunction true 0)) ∧
   (∀ (s : State), s.rail = .on → exec .hotReset s = .next (s.resetFunction true 0)) ∧
   (∀ (s : State) (all : Bool) (fn : Nat), ∃ l : List Nat,
     (∀ c, c ∈ l ↔ (∃ x ∈ s.regs, x.1 / 2 ^ 40 = Reg.index .ctxSts ∧ x.1 / 2 ^ 20 % 2 ^ 20 = c ∧ bits x.2 0 3 ≠ 0) ∧
       (all = true ∨ s.fld RegF.ctxCfgFunc c = fn)) ∧
     let u := l.foldl (fun u c => u.resetCtx c) s
     let mine := fun (c : Nat) => all || s.fld RegF.ctxCfgFunc c == fn
     let u := ((u.seqs.filter (fun k => k.2.state != .free && mine k.2.ctx)).map (fun k => k.2.ctx)).foldl (fun u c => u.freeSeqs c) u
     (∀ n, mine (u.seqOf n).ctx = true → (u.seqOf n).state = .free) ∧
     s.resetFunction all fn = { u with msixOpen := if all then [] else u.msixOpen.filter (fun v => v.1 != fn),
                                       msixPend := if all then [] else u.msixPend.filter (fun v => v.1 != fn) }) ∧
   (∀ (s : State) (c : Nat), ∃ u : State, s.resetCtx c = (u.setFld RegF.ctxCtlEnable 0 c).disableDone c ∧ (s.resetCtx c).cstate c = 0 ∧
     (s.resetCtx c).prog c = none ∧ ((s.resetCtx c).cx c).recs = [] ∧ ((s.resetCtx c).cx c).descs = [] ∧
     (∀ n, (u.seqOf n).ctx = c → (u.seqOf n).state = .free) ∧ ∀ k ∈ u.kvWait, k.ctx ≠ c))

/-- SCAN takes the lowest free of four engines or waits, and reads through the program's host-copy shares (R407); at its end the 32-byte
record and the completion record are written, also where the range or a tier ends it, and where no program is admitted. FREE frees a digest
slot (R406, R408, R412). DIGEST completes with the SHA-384 of its range, written to RESULT_ADDR and to its slot, which stays the context's
that first wrote it; ATTEST names at most eight valid slots, and its report is signed and written before the completion record (R410 to
R415). The model chose the layout of keys and signatures and the module's own signature as a free value (log 8), the table that SCAN and
DIGEST use (log 12), where a partial SCAN ends (log 64), and the order of the checks of ATTEST (log 65). -/
def Obligations.ScansDigestsAndAttestation : Prop :=
  (∀ (s : State) (c i : Nat) (d : Desc), s.desc c i = some d →
     let n := field d.bytes 16 5
     let reach := s.rangeReach c d.epochOld false (field d.bytes 8 8) n
     (s.canStart c i 0x10 = true →
       (s.prog c = none → exec (.scan c i) s = .next ((s.writeScan d 0).finish c i .certReject 0x09)) ∧
       (s.prog c ≠ none → (∀ u, u < 4 → ∃ x ∈ s.scans, x.unit = u) → exec (.scan c i) s = .next s) ∧
       (∀ u, s.prog c ≠ none → u < 4 → (∀ x ∈ s.scans, x.unit ≠ u) → (∀ v, v < u → ∃ x ∈ s.scans, x.unit = v) →
         exec (.scan c i) s = .next (({ s.updDesc c i (fun d => { d with st := .started }) with scans := s.scans ++ [⟨c, i, u⟩] } : State).syncScans))) ∧
     (d.st = .started → d.opcode = 0x10 →
       (s.hostShares c (field d.bytes 8 8) reach.1 = false → ∀ how, exec (.scanComplete c i how) s = .next s) ∧
       (s.hostShares c (field d.bytes 8 8) reach.1 = true → reach.2 = none →
         let f := crcFn (field d.bytes 32 1 % 4)
         let r := f.run (if (field d.bytes 32 1).testBit 2 then field d.bytes 24 8 % 2 ^ f.width else f.init) (s.rd (field d.bytes 8 8) n)
         exec (.scanComplete c i .done) s = .next ((((s.hwr (field d.bytes 40 8) (leBytes 8 r ++ leBytes 8 (r ^^^ f.xorOut) ++ leBytes 8 n ++
           leBytes 8 0)).finish c i .ok).freeEngaged c i).incFld RegF.chkStsScans 1)) ∧
       (∀ f, s.hostShares c (field d.bytes 8 8) reach.1 = true → reach.2 = some f → exec (.scanComplete c i .done) s = .next (((((s.rangeEvent (uScan (unitOf s.scans c i)) c f).writeScan d
         (reach.1 / 32 * 32)).finish c i f.st f.detail).freeEngaged c i)))) ∧
     (∀ k, s.ready = false → exec (.free k) s = .next s) ∧
     (∀ k, s.ready = true → k < 64 → exec (.free k) s = .next ((s.putSlot k {}).setFld RegF.prvCtlSlot k) ∧
       (Tbl.get {} (s.putSlot k {}).slots k : DigSlot) = {} ∧ (s.putSlot k {}).fld RegF.prvSlotValid k = 0 ∧
       ∀ k', k' ≠ k → (Tbl.get {} (s.putSlot k {}).slots k' : DigSlot) = Tbl.get {} s.slots k')) ∧
  (∀ (s : State) (c i : Nat) (d : Desc), s.desc c i = some d →
     let k := field d.bytes 25 1 % 64
     let x : DigSlot := Tbl.get {} s.slots k
     let foreign := fun (y : DigSlot) => y.valid = true ∧ y.ctx ≠ c ∧ s.fld RegF.ctxCfgFunc c ≠ 0
     let named := (List.range 64).filter (fun j => (field d.bytes 16 8).testBit j)
     (s.canStart c i 0x11 = true →
       (s.prog c = none → exec (.digest c i) s = .next (s.finish c i .certReject 0x09)) ∧
       (s.prog c ≠ none → foreign x → exec (.digest c i) s = .next (s.finish c i .protFault)) ∧
       (∀ u, s.prog c ≠ none → ¬ foreign x → u < 4 → (∀ y ∈ s.digs, y.unit ≠ u) → (∀ v, v < u → ∃ y ∈ s.digs, y.unit = v) →
         exec (.digest c i) s = .next { s.updDesc c i (fun d => { d with st := .started }) with digs := s.digs ++ [⟨c, i, u⟩] })) ∧
     (d.st = .started → d.opcode = 0x11 → ¬ foreign x → s.digestShares c d = false → ∀ how, exec (.digestComplete c i how) s = .next s) ∧
     (∀ l, d.st = .started → d.opcode = 0x11 → ¬ foreign x → s.digestShares c d = true → s.digestInput c d .done = .inr l →
       let y : DigSlot := ⟨true, field d.bytes 24 1 % 2 == 1, if x.valid then x.ctx else c, sha384 l, field d.bytes 16 5⟩
       exec (.digestComplete c i .done) s = .next ((((s.hwr (field d.bytes 32 8) (sha384 l)).putSlot k y).finish c i .ok).freeEngaged c i)) ∧
     (field d.bytes 24 1 % 2 = 0 → (s.rangeReach c d.epochOld false (field d.bytes 8 8) (field d.bytes 16 5)).2 = none →
       s.digestInput c d .done = .inr (s.rd (field d.bytes 8 8) (field d.bytes 16 5))) ∧
     (s.canStart c i 0x12 = true →
       let badSlots := 8 < named.length ∨ ∃ j ∈ named, (Tbl.get {} s.slots j : DigSlot).valid = false
       (badSlots → exec (.attest c i) s = .next (s.finish c i .certReject (BitVec.ofNat 64 (0x07 + 16 * 2 ^ 16)))) ∧
       (¬ badSlots → (∃ j ∈ named, foreign (Tbl.get {} s.slots j)) → exec (.attest c i) s = .next (s.finish c i .protFault)) ∧
       (¬ badSlots → (∀ j ∈ named, ¬ foreign (Tbl.get {} s.slots j)) →
         exec (.attest c i) s = .next { s.updDesc c i (fun d => { d with st := .started }) with atts := s.atts ++ [⟨c, i, 0⟩] })) ∧
     (d.st = .started → d.opcode = 0x12 →
       let b := s.attestBody c d
       exec (.attestReportSigned c i) s = .next ((({ s with freeCtr := s.freeCtr + 1 }.hwr (field d.bytes 8 8)
         (b ++ pad 96 (Config.identitySignature s.freeCtr (sha384 b)))).finish c i .ok).freeEngaged c i) ∧
       b.length = 928 ∧ field b 0 4 = 0x54535441 ∧ field b 4 2 = 1 ∧ field b 8 8 = s.time % 2 ^ 64 ∧ field b 24 4 = c % 2 ^ 32 ∧
       field b 32 4 = s.fld RegF.protEpochEpoch ∧ (d.bytes.length = 64 → (b.drop 40).take 32 = (d.bytes.drop 24).take 32)))

/-- A scan resumed at ADDR + DONE with LENGTH − DONE, USE_SEED and SEED = RUNNING gives the running and final values of one scan over the
whole range, for each of the four functions (R408). -/
def Obligations.ResumedScanGivesTheSameValue : Prop :=
  ∀ (s : State) (d e : Desc) (m n : Nat), Memory.wf s.mem → m ≤ n →
    field e.bytes 8 8 = field d.bytes 8 8 + m → (field e.bytes 32 1).testBit 2 = true → field e.bytes 32 1 % 4 = field d.bytes 32 1 % 4 →
    field e.bytes 24 8 = field (s.scanRecord d m) 0 8 →
    (s.scanRecord e (n - m)).take 16 = (s.scanRecord d n).take 16

/-! ### The KV unit -/

/-- KV_GRANT pushes its pages in list order and serves the waiting sequences, the one it names first, each with the pages that one flush
needs, and then the resumed ones go on; a refused grant adds no page. A page pushed is counted and listed at the top of the pool (R291,
R296, R298). KV_OPEN zeroes the root table, binds the lowest free vestibule slot of WING, sets LEN to 0 and STATE to OPEN; KV_RELEASE makes
the sequence RELEASING, and it ends with its pages returned and the sequence FREE. A wait that times out ends with NO_PAGE (R296 to R298).
The model chose the status of a release of a sequence that is not OPEN or WAITING or is foreign (log 86), and the pages of a flush that
cannot go on (log 123). -/
def Obligations.KvGrantsAndSequences : Prop :=
  ((∀ (s : State) (c i : Nat) (d : Desc), s.desc c i = some d → s.canStart c i 0x21 = true →
     let l := (List.range (field d.bytes 12 1)).map (fun k => field d.bytes (16 + 8 * k) 8)
     let u := l.foldl (fun u p => u.pushPage c p false) s
     let ks := u.waitOrder c (field d.bytes 8 4)
     let v := ks.foldl (fun v k => v.serveWait k) u
     (∀ a, s.grantRefused c l = some a → exec (.kvGrant c i) s = .next (s.finish c i .protFault (BitVec.ofNat 64 a))) ∧
     (s.grantRefused c l = none → s.poolCapacity c < s.poolCount c + s.poolHeld c + l.length →
       exec (.kvGrant c i) s = .next (s.finish c i .streamFault)) ∧
     (s.grantRefused c l = none → s.poolCount c + s.poolHeld c + l.length ≤ s.poolCapacity c →
       exec (.kvGrant c i) s = .next (((ks.foldl (fun v k => if (v.rt k.ctx k.task).st = .running then v.appendGo k.ctx k.task else v) v).finish
         c i .ok).settle))) ∧
   (∀ (s : State) (c p : Nat), Memory.wf s.mem → s.poolCount c + 1 < 2 ^ 32 →
     let at' := s.poolList c + 8 * s.poolCount c
     (at' + 8 ≤ s.poolBase c ∨ s.poolBase c + 64 ≤ at') →
       (s.pushPage c p false).poolCount c = s.poolCount c + 1 ∧ (s.pushPage c p false).poolHeld c = s.poolHeld c ∧
       leNat ((s.pushPage c p false).rd at' 8) = p % 2 ^ 64 ∧
       (∀ a, (a < at' ∨ at' + 8 ≤ a) → (a < s.poolBase c + 12 ∨ s.poolBase c + 16 ≤ a) → (s.pushPage c p false).byteAt a = s.byteAt a)) ∧
   (∀ (s : State) (c n : Nat) (k : KvWait), k ∈ s.waitOrder c n ↔ k ∈ s.kvWait ∧ k.ctx = c)) ∧
  ((∀ (s : State) (c i : Nat) (d : Desc), s.desc c i = some d → s.canStart c i 0x22 = true →
     let n := field d.bytes 8 4
     let w := field d.bytes 12 1 % 4
     let fmt := field d.bytes 12 1 / 4 % 32
     let h := field d.bytes 13 1 % 128
     let dc := field d.bytes 14 1 % 4
     let root := field d.bytes 24 8
     let mine := s.eff RegF.kvaCtxSeqSeqFirst c ≤ n ∧ n < s.eff RegF.kvaCtxSeqSeqFirst c + s.eff RegF.kvaCtxSeqSeqCount c ∧ n < 65536 ∧
       (s.fld RegF.ctxCfgWings c).testBit w = true
     (¬ mine → exec (.kvOpen c i) s = .next (s.finish c i .protFault)) ∧
     let reach := (∃ k, homeOf root = .near k) ∧ s.allows c false false root 16384 = true ∧ s.allows c false true root 16384 = true
     (mine → root % 8192 ≠ 0 ∨ ¬ reach → exec (.kvOpen c i) s = .next (s.finish c i .protFault (BitVec.ofNat 64 root))) ∧
     (mine → root % 8192 = 0 → reach →
       (((s.seqOf n).state ≠ .free ∨ seqGeometry fmt h dc = false) → exec (.kvOpen c i) s = .next (s.finish c i .streamFault)) ∧
       ((s.seqOf n).state = .free → seqGeometry fmt h dc = true →
         ((∀ v, v < 2048 → ∃ x ∈ s.seqs, x.2.state ≠ .free ∧ x.2.wing = w ∧ x.2.vslot = v) →
           exec (.kvOpen c i) s = .next (s.finish c i .noPage 1)) ∧
         ∀ v, v < 2048 → (∀ x ∈ s.seqs, x.2.state ≠ .free → x.2.wing = w → x.2.vslot ≠ v) →
           (∀ v', v' < v → ∃ x ∈ s.seqs, x.2.state ≠ .free ∧ x.2.wing = w ∧ x.2.vslot = v') →
           let y : Seq := { state := .open, wing := w, fmt := fmt, h := h, dcode := dc, ctx := c, vslot := v, scale := signed 16 (field d.bytes 16 2),
                            t := seqTokens fmt h dc, rootBase := root }
           exec (.kvOpen c i) s = .next (((((s.wr root (List.replicate 16384 0)).setSeq n y).syncKva w).finish c i .ok).settle)))) ∧
   (∀ (s : State) (c i : Nat) (d : Desc), s.desc c i = some d → s.canStart c i 0x23 = true →
     let n := field d.bytes 8 4
     let x := s.seqOf n
     ((x.state = .open ∨ x.state = .waiting) → x.ctx = c →
       exec (.kvRelease c i) s = .next (((s.setSeq n { x with state := .releasing, release := some i }).updDesc c i (fun d => { d with st := .started })).syncKva x.wing)) ∧
     ((x.state = .open ∨ x.state = .waiting) → x.ctx ≠ c → exec (.kvRelease c i) s = .next (s.finish c i .protFault)) ∧
     ((x.state = .free ∨ x.state = .releasing) → exec (.kvRelease c i) s = .next (s.finish c i .streamFault))) ∧
   (∀ (s : State) (c n i : Nat), (s.seqOf n).release = some i → (s.seqOf n).state = .releasing → (s.seqOf n).ctx = c →
     s.seqNamed n = false → s.releaseRefused c (s.seqPages n).length = none →
     let u := (s.seqPages n).foldl (fun u p => u.pushPage c p true) s
     exec (.kvReleaseFinish c n) s = .next (((u.freeSeq n).finish c i .ok).settle) ∧ (u.freeSeq n).seqOf n = {}) ∧
   (∀ (s : State) (c n i : Nat) (a : Nat), (s.seqOf n).release = some i → (s.seqOf n).state = .releasing → (s.seqOf n).ctx = c →
     s.seqNamed n = false → s.releaseRefused c (s.seqPages n).length = some a →
     exec (.kvReleaseFinish c n) s = .next (((s.freeSeq n).finish c i .protFault (BitVec.ofNat 64 a)).settle)) ∧
   (∀ (s : State) (c t : Nat) (k : KvWait), s.kvWait.find? (fun x => x.ctx == c && x.task == t) = some k →
     k.pages.length < s.flushNeeds (s.seqOf k.seq) →
     exec (.kvPageTimeout c t) s = .next ((((s.incFld RegF.kvaCntNoPage 1 (s.seqOf k.seq).wing).abortTask c t .noPage
       (BitVec.ofNat 64 (k.seq + 2 ^ 32 * (s.seqOf k.seq).len)))).settle)))

/-! ### The ends of tasks -/

/-- A running task with everything done completes with OK: its arrays and engines are free. A task that ends with an error status takes it,
its reports are discarded, its arrays drop their chain states and its streams end; the first status stands (R81, R108, R183, R340). The
open-mode watchdog ends a task with STALL_TIMEOUT and a record (R431). -/
def Obligations.TasksCompleteAndAbort : Prop :=
  ∀ (s : State) (c t : Nat),
    (s.running c t = true → s.taskDone c t = true → exec (.taskComplete c t) s = .next ((s.completeTask c t .ok 0).settle)) ∧
    (s.running c t = true → s.taskDone c t = false → exec (.taskComplete c t) s = .next s) ∧
    (∀ st d, s.running c t = true → let u := s.completeTask c t st d
      (u.rt c t).st = .completed ∧ (u.rt c t).status = st ∧ (u.rt c t).detail = d ∧
      (∀ a, a < 8 → (s.array a).busy = true → (s.array a).ctx = c → (s.array a).task = t → (u.array a).busy = false) ∧
      (∀ e, (s.engine e).run ≠ .idle → (s.engine e).ctx = c → (s.engine e).task = t → (u.engine e).run = .idle) ∧
      (∀ a, (s.array a).ctx ≠ c → u.array a = s.array a) ∧ ∀ e, Tbl.Wf {} s.eng → (s.engine e).ctx ≠ c → u.engine e = s.engine e) ∧
    (∀ st d, (s.rt c t).st.live = true → (s.rt c t).inRun = true → (s.task c t).stepEnd = false → 0x10 ≤ st.code →
      exec (.taskAbort c t st d) s = .next ((s.abortTask c t st d).settle)) ∧
    (∀ st d, (s.rt c t).st.live = true → (s.rt c t).inRun = true → let u := s.abortTask c t st d
      (u.rt c t).st = .aborted ∧ (u.rt c t).status = st ∧ (u.rt c t).detail = d ∧ (u.rt c t).rep = [] ∧
      (∀ a, a < 8 → (s.array a).busy = true → (s.array a).ctx = c → (s.array a).task = t → (u.array a).busy = false ∧
        (u.array a).store = [] ∧ (u.array a).shadow = [] ∧ (u.array a).active = []) ∧
      (∀ e, (s.engine e).run ≠ .idle → (s.engine e).ctx = c → (s.engine e).task = t → (u.engine e).run = .idle) ∧
      (∀ k, (s.stream k).held = true → (s.stream k).ctx = c → (s.stream k).task = t → (u.stream k).held = false ∧
        ∀ i, (u.stream k).slot i = .empty)) ∧
    (∀ st d, (s.rt c t).st.ended = true → s.abortTask c t st d = s) ∧
    (∀ unit, s.running c t = true → s.fld RegF.ctxStsOpen c = 1 →
      let u := s.event unit 0x0301 3 (some c) [(16, 4, t)]
      exec (.stallTimeout c t unit) s = .next ((u.abortTask c t .stallTimeout
        (BitVec.ofNat 64 (unit + 2 ^ 32 * (u.evr.last % 2 ^ 32)))).settle))

/-- What the scheduler does at a pick point. READY_PICK (R244, R13): on a wing whose slot owner no other context's task holds up, the first
of the 64 first entries not started before a mark that is ready, whose units are idle and whose nominal time ends within the slot run
(R351). TASK_ARM (R243): a task whose predecessors have completed and whose marks have finished is armed, which binds its in-streams and
makes its deposit reservations: a push takes positions TOP upward (R233), a pop the TILES positions below TOP (R234). TASK_START: a void
task completes, any other that nothing stops runs with its arrays, its out-streams and the set-up in force. The model chose what the deposit
keeps of a reservation (log 80), start groups (log 116), and what a mark waits for (log 118). -/
def Obligations.SchedulerArmsPicksAndStarts : Prop :=
  (∀ (s t : State) (n : Nat), (s.advance = none → s.settleN n = s) ∧ (s.advance = some t → s.settleN (n + 1) = t.settleN n)) ∧
  (∀ s : State, s.settle = { s.endOverhangs.settleN s.endOverhangs.settleFuel with regs := s.settle.regs, rota := s.settle.rota }) ∧
  (∀ (s : State) (w c t : Nat), w < 4 → (∀ k ∈ s.runContexts, s.advanceRun k = none) → s.resumeAdvance = none →
    (∀ v, v < w → s.pickOn v = none) → s.pickOn w = some (c, t) → s.advance = some (s.startTask c t)) ∧
  (∀ (s : State) (c t : Nat) (p q : List Nat), s.runTasks c = p ++ t :: q → (∀ k ∈ s.runTasks c, s.markedBy c k = none) →
    ((∀ k ∈ p, s.canCancel c k = false) → s.canCancel c t = true →
      s.advanceRun c = some (s.updRt c t (fun x => { x with st := .cancelled }))) ∧
    ((∀ k ∈ s.runTasks c, s.canCancel c k = false) → (∀ k ∈ p, s.canArm c k = false) → s.canArm c t = true →
      s.advanceRun c = some (s.armTask c t))) ∧
  (∀ (s : State) (c t : Nat), s.canArm c t = true ↔ (s.rt c t).inRun = true ∧ (s.rt c t).st = .idle ∧
    (∀ e ∈ (s.wlist c (s.task c t).wing).takeWhile (fun e => e.task != t), (s.task c e.task).stepEnd = true → (s.rt c e.task).st.ended = true) ∧
    ∀ d ∈ (s.task c t).deps, (s.rt c d).inRun = true →
      if (s.task c t).stepEnd = true then (s.rt c d).st.ended = true else (s.rt c d).st = .completed) ∧
  (∀ (s : State) (c t : Nat), s.prog c ≠ none → (s.task c t).binds = [] → s.namesReleasing c t = false →
    let u := s.armTask c t
    let k := s.task c t
    let ins := k.streams.filter (fun e => !e.out)
    (u.rt c t).st = .armed ∧ (u.rt c t).isVoid = s.voidTask c t ∧ (s.voidTask c t = true → u.strm = s.strm) ∧
    (s.voidTask c t = false → (ins.map (fun e => e.unit)).Nodup → ∀ e ∈ ins, e.rearm = false → u.stream (128 * k.wing + e.unit) =
      { held := true, ctx := c, task := t, ent := e, listBase := e.listBase, listCount := e.listCount,
        slots := List.replicate e.slots .empty, depUses := 1 })) ∧
  (∀ (s : State) (c t : Nat) (b : DepBind) (v : Bool), s.prog c ≠ none →
    let w := (s.task c t).wing
    let x := s.shelfOf w b.shelf
    let r := s.reserve c t b v
    let y := r.1.shelfOf w b.shelf
    (x.held = false ∨ x.broken = true → r = (s, some ⟨.streamFault, 0⟩)) ∧
    (x.held = true → x.broken = false → b.pop = true →
      (x.top < b.tiles → r = (s, some ⟨.streamFault, 0⟩)) ∧
      (b.tiles ≤ x.top → r.2 = none ∧ y.top = x.top - b.tiles ∧ Tbl.get 0 (r.1.rt c t).depPos b.unit = x.top - b.tiles ∧
        (v = false → y.homes = x.homes) ∧ (∀ p ∈ y.marked, p < x.top - b.tiles))) ∧
    (x.held = true → x.broken = false → b.pop = false →
      (x.ent.depthTiles < x.top + b.tiles ∨ s.depFits c x.ent x.top b.tiles = false → ∃ d, r.2 = some ⟨.depositFull, d⟩ ∧ y = x) ∧
      (x.top + b.tiles ≤ x.ent.depthTiles → s.depFits c x.ent x.top b.tiles = true →
        r.2 = none ∧ y.top = x.top + b.tiles ∧ Tbl.get 0 (r.1.rt c t).depPos b.unit = x.top ∧
        (∀ i, i < b.tiles → y.home (x.top + i) = if v then .void else .waiting) ∧
        ∀ p, p < x.top ∨ x.top + b.tiles ≤ p → y.home p = x.home p))) ∧
  (∀ (s : State) (c t : Nat), (s.isReady c t = true ↔ (s.rt c t).st = .armed ∧ ((s.rt c t).isVoid = true ∨
      ((∀ e ∈ (s.task c t).streams, e.out = false → s.inputHere c t e = true) ∧ s.prefetched c t = true ∧ s.seqHeld c t = false))) ∧
    (s.markReady c t = true ↔ (s.task c t).stepEnd = true ∧ (s.rt c t).st = .armed ∧ s.holdFull c = false ∧ (∀ y ∈ s.runningTasks, y.1 ≠ c) ∧
      ∀ w, w < 4 → (s.fld RegF.ctxCfgWings c).testBit w = true → ((s.notStarted c w).head?.map (fun e => e.task)) = some t ∧
        s.slotOwner w = some c ∧ ∀ y ∈ s.onWing w, y.1 = c)) ∧
  (∀ (s : State) (c w t : Nat) (limit : Option Nat), s.pickIn c w limit = some t ↔
    s.holdFull c = false ∧ s.cstate c = 3 ∧ s.pwr.computeOn = true ∧ ∃ p e q,
      ((s.notStarted c w).takeWhile (fun e => !(s.task c e.task).stepEnd)).take 64 = p ++ e :: q ∧ e.task = t ∧
      (∀ f ∈ p, s.startable c w limit f = false) ∧ s.isReady c t = true ∧
      ((s.rt c t).isVoid = true ∨ ∀ y ∈ s.onWing w, (s.entryOf y.1 y.2).arrays &&& e.arrays = 0 ∧ (s.entryOf y.1 y.2).groups &&& e.groups = 0) ∧
      ∀ n, limit = some n → s.fits c t n = true) ∧
  (∀ (s : State) (w : Nat), (s.slotOwner w = none → s.pickOn w = none) ∧ ∀ c, s.slotOwner w = some c →
    ((∃ y ∈ s.onWing w, y.1 ≠ c) → s.pickOn w = none) ∧
    ((∀ y ∈ s.onWing w, y.1 = c) → ∀ t, s.pickIn c w (s.runLeft w) = some t → s.pickOn w = some (c, t)) ∧
    ((∀ x ∈ (s.wrota w).rota.slots, x.owner = some c) → s.runLeft w = none)) ∧
  (∀ (s : State) (c t : Nat), s.prog c ≠ none → (s.task c t).append = none → (s.task c t).ledger = none →
    let k := s.task c t
    let u := s.startTask c t
    ((s.rt c t).isVoid = true → ∃ v : State, v = { s with regs := v.regs } ∧ u = v.completeTask c t .ok 0) ∧
    ((s.rt c t).isVoid = false → s.startFails c t = [] →
      (u.rt c t).st = .running ∧ (∀ i, i < 14 → nth 0 (u.rt c t).gens i = (s.scp i).gen) ∧
      (∀ j, j < 2 → (s.entryOf c t).arrays.getLsbD j = true → let y := u.array (2 * k.wing + j)
        y.busy = true ∧ y.ctx = c ∧ y.task = t ∧ y.started = false ∧ y.doneJobs = []) ∧
      (∀ a, a / 2 ≠ k.wing → u.array a = s.array a) ∧ u.mem = s.mem))

/-- STEP_END_MARK_FINISH runs the scale manager's mark, clears the context's event counters, empties its shelves, moves LSCALE_NEXT into
LSCALE and completes the mark (R51, R52, R128, R239, R250, R263); one whose context may not write the tables that the mark writes aborts
with PROT_FAULT at the first that it may not (R367). BARRIER_RELEASE completes its barrier at the release time and its stagger, and the next
use begins (R327). At a mark an entry's history takes the step's maximum and its counts, and its new SCALE is the smallest exponent that
covers the greatest value of the history with the headroom, limited to 16 bits, where M is the largest finite value of the format; a frozen
scale stays (R52). The model chose that a mark after an abort drops the products (log 71) and clears the mark of the step (log 118), the
access checks of ledgers at a mark (log 132), that LSCALE takes LSCALE_NEXT at every mark (log 73), the history beyond HLEN (log 87), the
moment of ORPHAN (log 111), start groups (log 116), and the time at a release (log 48). -/
def Obligations.MarksReleasesAndScales : Prop :=
  (∀ (s : State) (c t : Nat), s.running c t = true →
     ((s.prog c).map (fun p => p.markRunning) = some (some t) →
       let failed := (s.runTasks c).any (fun k => (s.rt c k).st == .aborted)
       let u := ((s.markScales c).clearCounters c).emptyShelves c
       let v := (List.range (u.cert c).ledgers.length).foldl (fun v le => v.markLedger c le) u
       let w := v.updProg c (fun p => { p with frozen := v.frozenNow c, markRunning := none, products := if failed then [] else p.products,
                                               prodHdr := if failed then [] else p.prodHdr, smalls := if failed then [] else p.smalls })
       let sm := ((s.prog c).getD {}).sm
       let ranges := (if (s.cert c).smTable = none then [] else (sm.base + 12, 8) ::
           (List.range sm.entries.length).map (fun n => (sm.base + 128 + 128 * n, 128))) ++
         ((s.cert c).ledgers.map (fun l => (l.stateBase, 64) :: (List.range l.chunks).map (fun j => (l.cstatBase + 16 * j, 16)))).flatten
       let may := fun (r : Nat × Nat) => s.allows c (s.rt c t).epochOld true r.1 r.2
       ((∀ r ∈ ranges, may r = true) →
         exec (.stepEndMarkFinish c) s = .next ((((w.completeTask c t .ok 0).settle).formGroup s c))) ∧
       (∀ p r q, ranges = p ++ r :: q → (∀ y ∈ p, may y = true) → may r = false →
         exec (.stepEndMarkFinish c) s = .next (s.failTask c t ⟨.protFault, BitVec.ofNat 64 r.1⟩))) ∧
     (∀ k, Tbl.get 0 (s.clearCounters c).ev k = if Tbl.get 0 s.evOwn k = c + 1 then 0 else Tbl.get 0 s.ev k) ∧
     (∀ k x, Tbl.get {} s.shelf k = x → x.held = true → x.ctx = c →
       Tbl.get {} (s.emptyShelves c).shelf k = { x with top := 0, homes := [], marked := [], broken := false }) ∧
     (∀ p le, s.prog c = some p → le < p.ledgers.length → ((s.markLedger c le).ledger c le).lscale = (s.ledger c le).lscaleNext ∧
       ((s.markLedger c le).ledger c le).mark = none ∧ ((s.markLedger c le).ledger c le).telW = [] ∧
       ∀ le', le' ≠ le → (s.markLedger c le).ledger c le' = s.ledger c le') ∧
     (∀ b x r, (s.task c t).barrier = some b → (s.rt c t).bar = some x → x.release = some r → x.sentUp = true →
       let wait := if b.stagger then (b.devIndex % 64) * 125 else 0
       let u := s.comeTo ((2 * r + wait + 1) / 2)
       let v := u.updProg c (fun p => { p with uses := Tbl.set 0 p.uses t ((u.barUse c t + 1) % 2 ^ 32),
                                               arrived := Tbl.set 0 p.arrived (t * 2 ^ 32 + u.barUse c t) 0 })
       exec (.barrierRelease c t) s = .next ((((v.completeTask c t .ok 0).settle).formGroup u c)) ∧
         2 * r + wait ≤ 2 * u.time ∧ v.barUse c t = (s.barUse c t + 1) % 2 ^ 32)) ∧
  ((∀ (e : SmEntry) (r : SmRep) (step : Nat), e.hlen < 16 → e.history.length = 16 → let y := e.mark (some r) step
     nth 0 y.history 0 = BitVec.ofNat 32 r.maxAbs ∧ (∀ i, i < e.hlen → nth 0 y.history (i + 1) = nth 0 e.history i) ∧
     (∀ i, e.hlen < i → i < 16 → nth 0 y.history i = nth 0 e.history i) ∧ y.hcount = min (e.hcount + 1) (e.hlen + 1) ∧
     y.lastSat = r.sat ∧ y.totalSat = satAdd 64 e.totalSat r.sat ∧ y.totalNonfinite = satAdd 64 e.totalNonfinite r.nonfin ∧
     (0 < r.nonfin → y.nfIndex = r.nfIndex ∧ y.nfStep = step) ∧ (r.nonfin = 0 → y.nfIndex = e.nfIndex ∧ y.nfStep = e.nfStep) ∧
     (e.frozenScale = true → y.scale = e.scale)) ∧
   (∀ (e : SmEntry) (step : Nat), let y := e.mark none step
     y = { e with lastSat := 0, scale := y.scale } ∧ (e.frozenScale = true ∨ e.hcount = 0 → y.scale = e.scale) ∧
     (∀ d, e.frozenScale = false → 0 < e.hcount → 0 < e.maxHistory.toNat → f32.value e.maxHistory.toNat = .fin d →
       y.scale = chooseScale d (fmtMax e.fmt) e.headroom)) ∧
   (∀ (e : SmEntry), (∀ i, i < e.hcount → i < e.history.length → (nth 0 e.history i).toNat ≤ e.maxHistory.toNat) ∧
     (e.maxHistory = 0 ∨ ∃ i, i < e.hcount ∧ i < e.history.length ∧ nth 0 e.history i = e.maxHistory)) ∧
   (∀ (a m : Dy) (h : Nat) (e : Int), 0 < a.m → 0 < m.m → -32768 ≤ e → e < 32767 →
     (chooseScale a m h ≤ e ↔ (a.m : ℚ) * 2 ^ a.e ≤ (m.m : ℚ) * 2 ^ m.e * 2 ^ (e - h)) ∧
     -32768 ≤ chooseScale a m h ∧ chooseScale a m h ≤ 32767) ∧
   (∀ f ∈ [0x02, 0x06, 0x07, 0x08, 0x09, 0x0A, 0x0C, 0x0D],
     (∃ c d, c < 2 ^ fmtWidth f ∧ valueOf f c = .fin d ∧ d.neg = false ∧ d.ltMag (fmtMax f) = false) ∧
     ∀ c d, c < 2 ^ fmtWidth f → valueOf f c = .fin d → d.neg = false → (fmtMax f).ltMag d = false))

/-! ### Attention -/

/-- ATTEND_BLOCK takes in the next key block of every head once its operands are there and in reach of the task's slots: a block that the
mask hides is skipped and counted, a mask, page, tile or hook fault aborts the task, and after the last block the outputs are written as
their places become free. A row's state changes only where a key is visible, the rescale is applied only where the maximum rises, and an
infinite or NaN maximum makes l NaN (R276, R278, R279, R282, R283). The model chose how streamed keys are found (log 30), the details of the
outputs (log 90), a NaN row in formats without NaN (log 124), and which unit reaches what (log 125). -/
def Obligations.AttendBlocksAndRows : Prop :=
  (∀ (s : State) (c t : Nat) (a : AttendEntry) (x : AttendSt), (s.task c t).attend = some a → (s.rt c t).att = some x →
    s.running c t = true → x.done = false →
    let w := (s.task c t).wing
    let fail := fun (u : State) (f : Fail) => Host.Outcome.next ((u.abortTask c t f.st f.detail).settle)
    let keys := a.keysOf x.block x.keyEnd
    let seq := s.seqOf x.seq
    let hookAt := fun (u : State) => u.poisoned a.hookBase (8 * a.hookLen)
    (x.keyEnd ≤ x.block * a.blockKeys →
      (s.qReady c t w a = false → exec (.attendBlock c t) s = .next s) ∧
      (s.qReady c t w a = true → (∀ f, s.qFail c t w a = some f → exec (.attendBlock c t) s = fail f.1 f.2) ∧
        (s.qFail c t w a = none → exec (.attendBlock c t) s = .next (s.attendFinish c t w a x (a.qHeads + 1))))) ∧
    (x.block * a.blockKeys < x.keyEnd →
      (∀ f, s.maskCode c t w a x.block = .fail f → exec (.attendBlock c t) s = fail s f) ∧
      (s.maskCode c t w a x.block = .stuck → exec (.attendBlock c t) s = .next s) ∧
      ∀ code, s.maskCode c t w a x.block = .code code →
        (a.skips code x.block = true → exec (.attendBlock c t) s = .next (((s.incFld RegF.kvaSkipBlocks 1 w).updRt c t
          (fun y => { y with att := some { x with block := x.block + 1, head := 0 } })).attendEnd c t w a)) ∧
        (a.skips code x.block = false →
          (s.qReady c t w a = false ∨ s.hookReach c t w a = false → exec (.attendBlock c t) s = .next s) ∧
          (s.qReady c t w a = true → s.hookReach c t w a = true →
            (∀ f, s.qFail c t w a = some f → exec (.attendBlock c t) s = fail f.1 f.2) ∧
            (s.qFail c t w a = none → a.hookLen ≠ 0 → hookAt s = true →
              let f := s.galleryFail c a.hookBase (8 * a.hookLen)
              exec (.attendBlock c t) s = fail f.2 f.1) ∧
            (s.qFail c t w a = none → a.hookLen = 0 ∨ hookAt s = false →
              (a.fromStreams = false →
                let pages := s.readPages c t x.seq ((keys.map (fun k => k / max 1 seq.t)).eraseDups)
                (pages = .stuck → exec (.attendBlock c t) s = .next s) ∧
                (∀ u f, pages = .fail u f → exec (.attendBlock c t) s = fail u f) ∧
                (∀ u l, pages = .pages u l → seq.fmt = a.fmtKv → seq.d = a.d →
                  let r := u.takeBlock c t w a x (List.range a.qHeads) keys code (fun i =>
                    (seq.block l 0 (a.kvHead i seq.h) keys, seq.block l 1 (a.kvHead i seq.h) keys))
                  exec (.attendBlock c t) s = .next ((r.1.updRt c t (fun y => { y with att := some { r.2 with block := x.block + 1 } })).attendEnd
                    c t w a)) ∧
                (∀ u l, pages = .pages u l → seq.fmt ≠ a.fmtKv ∨ seq.d ≠ a.d → ∃ u' d, exec (.attendBlock c t) s = fail u' ⟨.tileSeal, d⟩)) ∧
              (a.fromStreams = true →
                (s.blockFromStreams c t w a x code = .stuck → exec (.attendBlock c t) s = .next s) ∧
                (∀ u, s.blockFromStreams c t w a x code = .next u → exec (.attendBlock c t) s = .next (u.attendEnd c t w a)) ∧
                ∀ u f, s.blockFromStreams c t w a x code = .fail u f → exec (.attendBlock c t) s = fail u f))))) ∧
    (∀ n, (a.qHeads ≤ x.outs → ((s.attendFinish c t w a x (n + 1)).rt c t).att = some { x with done := true }) ∧
      (x.outs < a.qHeads → s.attendFree c t w a x.outs = false → s.attendFinish c t w a x (n + 1) = s) ∧
      (x.outs < a.qHeads → s.attendFree c t w a x.outs = true → let y := { x with outs := x.outs + 1 }
        s.attendFinish c t w a x (n + 1) = ((s.attendOut c t w a x.rows x.outs).updRt c t (fun r => { r with att := some y })).attendFinish
          c t w a y n))) ∧
  (∀ (a : AttendEntry) (r : RowSt) (xs : List W32) (vis : List Bool) (v : KvBlock),
    ((∀ y ∈ List.zip xs vis, y.2 = false) → a.rowStep r xs vis v = (r, [])) ∧
    ((∃ y ∈ List.zip xs vis, y.2 = true) → let z := (a.rowStep r xs vis v).1
      let r0 := blockSum ((a.weights xs vis z.m).map (fun k => w32 (valueOf a.fmtP k).exact))
      let up := fCmp 4 (W32.val z.m) (W32.val r.m)
      let sound := (W32.val z.m).special = false
      z.seen = true ∧ (¬ sound → W32.val z.l = .nan ∧ ∀ v ∈ z.acc, W32.val v = .nan) ∧ (sound → r.m = negInf32 → z.l = r0) ∧
      (sound → r.m ≠ negInf32 → up = true → z.l = ffma32 r.l (fexp32 (fmul32 (fsub32 r.m z.m) log2e)) r0) ∧
      (sound → r.m ≠ negInf32 → up = false → z.l = fadd32 r.l r0))) ∧
  (∀ (r : RowSt) (d : Nat), (r.seen = false → r.out d = .fin {}) ∧
    (r.seen = true → r.out d = W32.val (fdiv32 (nth 0 r.acc d) r.l)))

/-! ### Streams -/

/-- A stream takes its entries in list order, in the slots of its allotment and else waiting (R18): an EMPTY slot begins to fill once the
entry's mark is met and is FULL with the tile of its source at the end of the fill; an out-stream writes the next FULL slot to its address
and empties it. A standing loan whose last entry is being fetched takes the list of the task that re-arms it, also before that task is
armed. A failing entry aborts the task (R166 to R169, R171, R182). A scrub writes a corrected gallery word back (R158). The model chose how
slots hold transfers (log 99), when a re-armed list takes over (log 133), when a faulty entry behind a mark fails (log 114), the records of
failures (log 101), and the refusal of a gallery source (log 92). -/
def Obligations.StreamsFillAndDrain : Prop :=
  (∀ (s : State) (w line : Nat), galleryWing (64 * line) = w → 64 * line < galleryEnd → ∃ t,
    exec (.galleryCorrectionWriteBack w line) s = .next t ∧ t = { s with corrected := t.corrected } ∧
    ∀ x, x ∈ t.corrected ↔ x ∈ s.corrected ∧ x ≠ line) ∧
  (∀ (s : State) (u : Nat), let x := s.stream u
    let e := s.nextEntry u
    let q : Requester := { ctx := x.ctx, task := some x.task, num := some x.ent.allot, wing := u / 128, unit := uStream u }
    let reach := s.slotted q e.addr tileBytes && s.slotted q (x.slotAddr x.ring) tileBytes
    x.held = true →
    (x.ent.standing = true → x.listCount ≤ x.next → ∀ b n, x.rearm = some (b, n) →
      exec (.standingLoanRearm u) s = .next (s.putStream u { x with listBase := b, listCount := n, next := 0, rearm := none, rearmed := none, first := x.ring })) ∧
    (x.ent.standing = true → x.listCount ≤ x.next → x.rearm = none → ∀ t y, s.nextRearm u = some (t, y) →
      (x.rearmed ≠ none ∨ s.sendsFrom u = true → exec (.standingLoanRearm u) s = .next s) ∧
      (x.rearmed = none → s.sendsFrom u = false → exec (.standingLoanRearm u) s = .next (s.putStream u
        { x with listBase := y.listBase, listCount := y.listCount, next := 0, rearm := none, rearmed := some t, first := x.ring }))) ∧
    (x.next < x.listCount → exec (.standingLoanRearm u) s = .next s) ∧
    (∀ t y, s.nextRearm u = some (t, y) → (s.rt x.ctx t).st = .idle ∧ s.marksBefore x.ctx t = true ∧ y ∈ (s.task x.ctx t).streams ∧
      y.rearm = true ∧ y.unit = u % 128) ∧
    (x.ent.out = false → x.depVoid = false → x.next < x.listCount → x.slots ≠ [] → x.slot x.ring = .empty →
      (∀ r, s.listFail u = some r → exec (.streamFetchStart u) s = .next (r.2.failStream u r.1)) ∧
      (s.listFail u = none → e.bad = false → s.markMet (u / 128) e = false → exec (.streamFetchStart u) s = .next (s.putStream u x true)) ∧
      (s.listFail u = none → (e.bad = true ∨ s.markMet (u / 128) e = true) →
        (∀ r, s.entryFail u e = some r → exec (.streamFetchStart u) s = .next (r.2.failStream u r.1)) ∧
        (s.entryFail u e = none → s.popHeld u = true ∨ reach = false → exec (.streamFetchStart u) s = .next s) ∧
        (s.entryFail u e = none → s.popHeld u = false → reach = true → (∀ n, homeOf e.addr ≠ .flash n) →
          let f : SlotSt := .filling e.addr e.uses x.next
          let y := { x with slots := setNth x.slots x.ring f, ring := (x.ring + 1) % x.slots.length, unfolded := x.unfolded + 1 }
          exec (.streamFetchStart u) s = .next (s.putStream u { y with next := x.next + 1 })))) ∧
    (x.ent.out = true → x.writing = none → x.next < x.listCount → (x.slot x.ring).isFull = true →
      let y := { x with next := x.next + 1, ring := (x.ring + 1) % max 1 x.slots.length }
      (x.depVoid = true → exec (.outStreamWrite u) s = .next (((s.putStream u y).emptyOut u x.ring).settle)) ∧
      (x.depVoid = false → s.listFail u = none → e.bad = false → s.markMet (u / 128) e = false →
        exec (.outStreamWrite u) s = .next (s.putStream u x true)) ∧
      (x.depVoid = false → s.listFail u = none → (e.bad = true ∨ s.markMet (u / 128) e = true) →
        (∀ r, s.entryFail u e = some r → exec (.outStreamWrite u) s = .next (r.2.failStream u r.1)) ∧
        (s.entryFail u e = none → s.pushHeld u = true ∨ reach = false → exec (.outStreamWrite u) s = .next s) ∧
        (s.entryFail u e = none → s.pushHeld u = false → reach = true →
          exec (.outStreamWrite u) s = .next (s.putStream u { y with writing := some (x.ring, e.addr) }))))) ∧
  (∀ (s : State) (u slot addr uses pos : Nat), (s.stream u).held = true → (s.stream u).ent.out = false →
    (s.stream u).ent.xpose = false → slot < (s.stream u).slots.length → (s.stream u).slot slot = .filling addr uses pos →
    (∀ n, homeOf addr ≠ .flash n) → s.poisoned addr tileBytes = false → ∃ t : State,
      exec (.slotFillComplete u slot .done) s = .next t.settle ∧
      (t.stream u).slot slot = .full uses ∧ (∀ i, i ≠ slot → (t.stream u).slot i = (s.stream u).slot i) ∧
      t.rd ((s.stream u).slotAddr slot) tileBytes = s.rd addr tileBytes ∧
      (∀ b, (b < (s.stream u).slotAddr slot ∨ (s.stream u).slotAddr slot + tileBytes ≤ b) → t.byteAt b = s.byteAt b) ∧
      (∀ v, v ≠ u → t.stream v = s.stream v)) ∧
  (∀ (s : State) (u slot addr : Nat), (s.stream u).held = true → (s.stream u).writing = some (slot, addr) →
    let a := (s.stream u).slotAddr slot
    s.poisoned a tileBytes = false →
    let v := ((s.galleryCorrected a tileBytes).wr addr (s.rd a tileBytes)).pushed u addr
    exec (.outStreamTileStored u .done) s = .next (((((v.incFld RegF.wingStrmCntTiles 1 (u / 128) (u % 128)).fillEvt u).foldChans false u
      ((s.rd a tileBytes).drop 64)).emptyOut u slot).settle) ∧ (s.wr addr (s.rd a tileBytes)).mem = v.mem)

/-! ### Movers, couriers and the deposit -/

/-- A tile's move takes two commands, in the slots of the move's allotment and else waiting (R18, R211; log 104): step 1 makes the tile's
catalogue entry MOVING with its destination, or ends the run where the key or the entry does not fit (R215, R216); then the tile is checked,
written with its new home, epoch and key under a new seal, and recorded in the catalogue. A tile that fails its check or its reach ends the
run with its entry as it was, and its task aborts (R177, R222). A K4 record gets an S8 header. A prefetch entry starts once its counter and
its mover allow (R219, R220). A courier queue takes its posted entries in ring order, one at a time, in its slots and else waiting (R18),
but none that was posted beyond 64 that are not complete (R178); a transfer writes every destination byte, and then DONE_EVT, where the
program holds it (R128), gains 1 and the queue is free for its next entry; an entry that is malformed or out of reach aborts its task (R178
to R182). The model chose that a tile moves in two commands (log 104), that moves wait for slots (log 99), and that a courier entry is read
when taken (log 81). -/
def Obligations.TileMovesAndCouriers : Prop :=
  ((∀ (s : State) (m : Nat), (s.mover m).held = true →
     let y := s.mover m
     let x := s.moveItem m
     let src := x.srcAt y.tile
     let dst := x.dstAt y.tile
     let k := x.keyAt y.tile
     let cat := s.catAddr y.ctx k
     let q : Requester := { ctx := y.ctx, task := some (y.due.getD y.task), num := some x.allot, wing := m / 16, unit := uMover m }
     let slots := s.slotted q src tileBytes = true ∧ s.slotted q dst tileBytes = true
     let may := s.moverAllows m false src (if x.kind = .k4 then recordBytes else tileBytes) = true ∧ s.moverAllows m true dst tileBytes = true
     (∀ i, (x.kind = .move ∧ i = Instr.moveTile m .done) ∨ (x.kind = .k4 ∧ i = Instr.k4FetchTile m .done) →
       (¬ slots → exec i s = .next s) ∧
       (slots → y.saved = none →
         (∀ f, s.catFail y.ctx x y.tile = some f →
           exec i s = .next ((if f.st = .streamFault then s.evStream (uMover m) y.ctx src y.tile else s).moveFail m f)) ∧
         (s.catFail y.ctx x y.tile = none → ∃ t, exec i s = .next t ∧
           t = { s with mem := t.mem, poison := t.poison, corrected := t.corrected, mov := t.mov } ∧
           t.mover m = { y with saved := some (s.rd cat 32) } ∧ (∀ a, (a < cat ∨ cat + 32 ≤ a) → t.byteAt a = s.byteAt a) ∧
           (src < 2 ^ 64 → dst < 2 ^ 64 → x.home < 4 → x.dstHome < 4 → let b := t.rd cat 32
             field b 0 8 = src ∧ field b 8 1 = x.home + 4 * x.dstHome + 16 * 2 ∧ field b 16 8 = dst ∧
             field b 12 4 = if (s.catEntry y.ctx k).state = 0 then 0 else (s.catEntry y.ctx k).epoch))) ∧
       (slots → y.saved ≠ none → x.kind = .move ∨ flashOff src % 4096 = 0 → s.moverAllows m false src (if x.kind = .k4 then recordBytes else tileBytes) = false →
         exec i s = .next (s.moveFail m (Fail.addr .protFault src)))) ∧
     (x.kind = .move → slots → y.saved ≠ none → may → (∀ n, homeOf src ≠ .flash n) → s.poisoned src tileBytes = false →
       let img := s.rd src tileBytes
       let b := if x.xpose then transposeTile img (uMover m) else img
       let u := s.galleryCorrected src tileBytes
       (tileGood img none = true → exec (.moveTile m .done) s =
         .next (u.moveTileTo m x y.tile { Hdr.ofBytes b with producer := uMover m } (b.drop 64))) ∧
       (tileGood img none = false → exec (.moveTile m .done) s =
         .next ((u.evSeal (uMover m) y.ctx src img).moveFail m (Fail.addr .tileSeal src)))) ∧
     (x.kind = .k4 → slots → y.saved ≠ none → flashOff src % 4096 = 0 → may →
       (∀ n r h, s.readFor (fun r => r.mover == some m && r.addr == src) = some (n, r) → r.ready = true → k4Header r.data = some h →
         exec (.k4FetchTile m .done) s = .next ((s.dropRead n r.cid).moveTileTo m x y.tile { h with producer := uMover m }
           ((r.data.drop 32).take payloadBytes))) ∧
       (∀ u, s.readFor (fun r => r.mover == some m && r.addr == src) = none → s.flashRead src none (some m) = some u →
         exec (.k4FetchTile m .done) s = .next u)) ∧
     (∀ (h : Hdr) (pay : List Byte), y.tile + 1 < x.count → x.dstHome < 4 → dst < 2 ^ 64 →
       let ep := ((s.catEntry y.ctx k).epoch + 1) % 2 ^ 32
       let img := tileImage { h with home := x.dstHome, epoch := ep, key := k } pay
       (cat + 32 ≤ dst ∨ dst + img.length ≤ cat) → let t := s.moveTileTo m x y.tile h pay
       t.rd dst img.length = img ∧ t.catEntry y.ctx k = ⟨dst, x.dstHome, 1, ep⟩ ∧
       t.mover m = { y with tile := y.tile + 1, saved := none } ∧
       (∀ a, (a < dst ∨ dst + img.length ≤ a) → (a < cat ∨ cat + 32 ≤ a) → t.byteAt a = s.byteAt a)) ∧
     (∀ f : Fail, s.moveFail m f = (((s.restoreCat m).putMover m { y with held := false, saved := none }).abortTask y.ctx (y.due.getD y.task)
       f.st f.detail).settle) ∧
     (∀ b, y.saved = some b → (s.restoreCat m).rd cat b.length = b)) ∧
   (∀ (s : State) (w c k : Nat) (p : Prog) (e : Prefetch), s.prog c = some p → p.run ≠ none → nth 0 p.prefetchAt w = k →
     (nth [] p.cert.prefetch w)[k]? = some e →
     let m := 16 * w + (nth {} p.cert.moves e.move).mover
     let u := s.updProg c (fun p => { p with prefetchAt := (p.prefetchAt ++ List.replicate (4 - p.prefetchAt.length) 0).set w (k + 1) })
     let due := (s.rt c e.due).inRun = true ∧ (s.rt c e.due).st.ended = false
     let free := (s.mover m).held = false ∧ ∀ x ∈ s.strm, ¬ (x.2.held = true ∧ x.2.ent.xpose = true ∧ 16 * (x.1 / 128) + x.2.ent.mover = m)
     (¬ due → exec (.prefetchEntryStart w c) s = .next u) ∧
     (due → e.afterVal ≤ (s.evGet w e.afterEvt).toNat → free → exec (.prefetchEntryStart w c) s =
       .next (u.putMover m { held := true, ctx := c, task := e.due, wing := w, item := e.move, due := some e.due })) ∧
     (due → ((s.evGet w e.afterEvt).toNat < e.afterVal ∨ ¬ free) → exec (.prefetchEntryStart w c) s = .next s))) ∧
  (∀ (s : State) (q : Nat), (s.courier q).held = true →
     let c := s.courier q
     let late := dist32 c.posted (s.evGet (q / 16) c.bind.postEvt).toNat - (c.taken - (if c.busy = true then 1 else 0) + 64)
     let x := { c with posted := (c.posted + late) % 2 ^ 32 }
     let k : Requester := { ctx := x.ctx, task := some x.task, wing := q / 16, unit := uCourier q }
     let a := x.bind.qbase + 256 * (x.taken % 64)
     (x.busy = false → x.stopped = false → x.taken < dist32 x.posted (s.evGet (q / 16) x.bind.postEvt).toNat → s.slotted k a 32 = true →
       s.poisoned a 32 = false →
       let y := { x with busy := true, entry := s.rd a 32 }
       let u := s.galleryCorrected a 32
       (u.courierFail q y = none → exec (.courierEntryTake q) s = .next (u.putCourier q { y with taken := x.taken + 1 })) ∧
       (∀ r, u.courierFail q y = some r → exec (.courierEntryTake q) s = .next (r.2.failCourier q r.1))) ∧
     (x.busy = false → dist32 x.posted (s.evGet (q / 16) x.bind.postEvt).toNat ≤ x.taken → exec (.courierEntryTake q) s = .next s) ∧
     (s.slotted k a 32 = false → exec (.courierEntryTake q) s = .next s) ∧
     (x.busy = true → s.slotted k (field x.entry 16 8) (field x.entry 2 2) = false → exec (.courierTransferComplete q .done) s = .next s) ∧
     (x.busy = true → s.slotted k (field x.entry 16 8) (field x.entry 2 2) = true →
       (field x.entry 0 1 = 0 → s.slotted k (field x.entry 8 8) (field x.entry 2 2) = true) →
       let bs := if field x.entry 0 1 = 1 then (x.entry.drop 24).take (field x.entry 2 2) else s.rd (field x.entry 8 8) (field x.entry 2 2)
       let dst := field x.entry 16 8
       ∃ t : State, exec (.courierTransferComplete q .done) s = .next t.settle ∧ t.rd dst bs.length = bs ∧
         (∀ b, (b < dst ∨ dst + bs.length ≤ b) → t.byteAt b = s.byteAt b) ∧
         t.evGet (q / 16) x.bind.doneEvt = (if s.evOwner (q / 16) x.bind.doneEvt = some x.ctx
           then s.evGet (q / 16) x.bind.doneEvt + 1 else s.evGet (q / 16) x.bind.doneEvt) ∧
         t.courier q = { x with busy := false, held := !x.stopped } ∧ (∀ k, k ≠ q → t.courier k = s.courier k) ∧ t.ctx = s.ctx) ∧
     (∀ y : Courier, y.malformed = true ↔ 2 ≤ field y.entry 0 1 ∨ field y.entry 1 1 ≠ 0 ∨ field y.entry 2 2 = 0 ∨
       (if field y.entry 0 1 = 1 then 8 else 256) < field y.entry 2 2 ∨ field y.entry 4 4 ≠ 0 ∨
       field y.entry 16 8 / 4096 ≠ (field y.entry 16 8 + field y.entry 2 2 - 1) / 4096 ∨
       (field y.entry 0 1 = 0 ∧ field y.entry 8 8 / 4096 ≠ (field y.entry 8 8 + field y.entry 2 2 - 1) / 4096)))

/-- The lowest marked position whose tile is written and sound spills to its board location, in the slots of the shelf's allotment and of a
broken shelf too, and its home is then the board; a return brings the next position, in descending order, back to its free near slot. It
passes over void positions and, once the DUE task has taken its positions, over released ones and those that stay near; it waits for one not
pushed yet, for one whose spill has not finished, and for a near slot that another position holds or is to be written to (R235, R237). The
model chose that one command moves a tile whole (log 80). -/
def Obligations.DepositSpillsAndReturns : Prop :=
  (∀ (s : State) (w h p : Nat), let x := s.shelfOf w h
    x.held = true → p ∈ x.marked → (∀ q ∈ x.marked, p ≤ q) → x.home p = .near →
    let near := x.ent.nearBase + tileBytes * (p % max 1 x.ent.nearTiles)
    let board := x.ent.spillBase + tileBytes * p
    let k : Requester := { ctx := x.ctx, task := none, num := some x.ent.allot, wing := w, unit := uMover (16 * w + x.ent.spillMover) }
    let slots := s.slotted k near tileBytes = true ∧ s.slotted k board tileBytes = true
    s.allows x.ctx false false near tileBytes = true → s.allows x.ctx false true board tileBytes = true →
    (¬ slots → exec (.depositSpill w h .done) s = .next s) ∧
    (slots → s.poisoned near tileBytes = false → tileGood (s.rd near tileBytes) none = true → ∃ t, exec (.depositSpill w h .done) s = .next t ∧
      t = { s with regs := t.regs, mem := (s.wr board (s.rd near tileBytes)).mem, poison := (s.wr board (s.rd near tileBytes)).poison,
                   corrected := t.corrected, shelf := t.shelf } ∧
      (t.shelfOf w h).home p = .board ∧ (∀ q, q ≠ p → (t.shelfOf w h).home q = x.home q) ∧
      (∀ q, q ∈ (t.shelfOf w h).marked ↔ q ∈ x.marked ∧ q ≠ p) ∧ (t.shelfOf w h).top = x.top) ∧
    (slots → s.poisoned near tileBytes = false → tileGood (s.rd near tileBytes) none = false → exec (.depositSpill w h .done) s =
      .next ((s.evSeal (uMover (16 * w + x.ent.spillMover)) x.ctx near (s.rd near tileBytes)).spillFail w h (Fail.addr .tileSeal near)))) ∧
  (∀ (s : State) (m : Nat), (s.mover m).held = true → (s.moveItem m).kind = .ret →
    let y := s.mover m
    let x := s.moveItem m
    let h := s.shelfOf y.wing x.shelf
    let p := x.firstPos + (x.count - 1 - y.tile)
    let near := h.ent.nearBase + tileBytes * (p % max 1 h.ent.nearTiles)
    let board := h.ent.spillBase + tileBytes * p
    let k : Requester := { ctx := y.ctx, task := some (y.due.getD y.task), num := some x.allot, wing := m / 16, unit := uMover m }
    let r := s.rt y.ctx (y.due.getD y.task)
    let idle := r.st = .idle ∧ r.inRun = true
    let taken := ∃ c ∈ h.homes, c.1 ≠ p ∧ c.1 % max 1 h.ent.nearTiles = p % max 1 h.ent.nearTiles ∧ (c.2 = .near ∨ c.2 = .waiting)
    let passes := h.home p = .void ∨ (¬ idle ∧ (h.home p = .released ∨ (h.home p = .near ∧ p ∉ h.marked)))
    (passes → exec (.depositReturn m .done) s = .next (s.moveNext m x.count)) ∧
    (¬ passes → h.home p ≠ .board → exec (.depositReturn m .done) s = .next s) ∧
    (h.home p = .board → taken → exec (.depositReturn m .done) s = .next s) ∧
    (h.home p = .board → ¬ taken → s.allows y.ctx (s.moverOld m) false board tileBytes = true →
      s.allows y.ctx (s.moverOld m) true near tileBytes = true → s.slotted k board tileBytes = false ∨ s.slotted k near tileBytes = false →
      exec (.depositReturn m .done) s = .next s) ∧
    (h.home p = .board → ¬ taken → s.allows y.ctx (s.moverOld m) false board tileBytes = true →
      s.allows y.ctx (s.moverOld m) true near tileBytes = true → s.slotted k board tileBytes = true → s.slotted k near tileBytes = true →
      s.poisoned board tileBytes = false →
      tileGood (s.rd board tileBytes) none = true → ∃ t : State, exec (.depositReturn m .done) s = .next (t.moveNext m x.count) ∧
        t.mem = (s.wr near (s.rd board tileBytes)).mem ∧ (t.shelfOf y.wing x.shelf).home p = .near ∧
        (∀ q, q ≠ p → (t.shelfOf y.wing x.shelf).home q = h.home q) ∧ t.ctx = s.ctx ∧ t.mov = s.mov))

/-! ### Stacks, board tier and legacy flash -/

/-- An access of a requester in its own slot, which carries no other, reaches its stack: a write lands, one that covers a line in part takes
the requester's next slot too, a read may correct words, and one that returns uncorrectable words poisons their lines, counts each word,
keeps the first address and aborts the task with STREAM_FAULT. An access within 4 slots of another to its bank, on either side of the second
half of a read-modify-write too, waits, one to a channel in re-training is held, and one out of reach aborts with PROT_FAULT (R14, R190 to
R192, R196, R367). Refresh covers 16 banks of its slot; a probe moves its trained point by at most one step and takes its place in the pass
of 4,096; the patrol scrub goes run by run through the 2^22 runs, writes corrected words back, and poisons the lines of words that prove
uncorrectable; a channel re-trains for one of three reasons, one at a time, and then serves its held requests again; an eye scan fills
STK_EYE_DATA; the error window restarts (R190, R192, R195 to R197). The model chose how slots hold transfers (log 99), the slot numbers and
that a bank is recent for 4 slots (log 62), the scrub of a poisoned line (log 44), the trained temperature (log 51), and an eye scan beside
probes (log 61). -/
def Obligations.NearTierAndStackMaintenance : Prop :=
  ((∀ (s : State) (slot k : Nat) (r : Access) (n : Nat) (ue : List Nat), homeOf r.addr = .near k → accInRun r = true →
     8 ≤ slot % 128 → s.allots r.ctx (.stackPc k (pcOf r.addr)) slot r.task = true → s.netOk (s.asker r.ctx r.task (uStack k)) (k / 5) = true →
     let pc := pcOf r.addr
     let x := s.stack k
     let u := Tbl.get 0 x.banks (64 * pc + bankOf r.addr)
     let last' := Tbl.get 0 x.latest (64 * pc + bankOf r.addr)
     let close := fun (v : Nat) => v ≠ 0 ∧ slot + 1 < v + 4 ∧ v < slot + 5
     let go := exec (.nearTierAccess slot r n ue) s
     let taken := slot < Tbl.get 0 x.comes pc ∨ (pc, slot) ∈ x.second
     (taken → go = .next s) ∧
     (¬ taken → s.allows r.ctx (s.rt r.ctx r.task).epochOld r.data.isSome r.addr r.len = false →
       go = .next ((s.abortTask r.ctx r.task .protFault (BitVec.ofNat 64 r.addr)).settle)) ∧
     (¬ taken → s.allows r.ctx (s.rt r.ctx r.task).epochOld r.data.isSome r.addr r.len = true →
       (x.retrain = some (pc / 2) → go = .next ((s.setStack k { x with held := x.held ++ [r] }).incFld RegF.stkEvtHeld 1 k)) ∧
       (x.retrain ≠ some (pc / 2) →
         (close u ∨ close last' → go = .next (s.incFld RegF.stkEvtBankWait 1 k)) ∧
         (¬ close u → ¬ close last' →
           let rmw := r.data.isSome = true ∧ (r.addr % 64 ≠ 0 ∨ (r.addr + r.len) % 64 ≠ 0)
           let y := { x with banks := Tbl.set 0 x.banks (64 * pc + bankOf r.addr) (max u (slot + 1)),
                             latest := Tbl.set 0 x.latest (64 * pc + bankOf r.addr) (slot + 1), comes := Tbl.set 0 x.comes pc (slot + 1),
                             second := x.second.filter (fun z => decide (z.1 ≠ pc ∨ slot < z.2)) }
           let v := s.setStack k y
           (∀ d, r.data = some d → ¬ rmw → go = .next (v.wr r.addr d)) ∧
           (∀ d, r.data = some d → rmw → ue = [] → n = 0 →
             (let a := r.addr / 64 * 64; s.poisoned a ((r.addr + r.len + 63) / 64 * 64 - a) = false) →
             let last := s.nextNearSlot slot k pc r
             let z := { y with banks := Tbl.set 0 x.banks (64 * pc + bankOf r.addr) (max u (last + 1)), second := y.second ++ [(pc, last)] }
             go = .next (((if s.nextTooSoon slot k pc r = true then s.incFld RegF.stkEvtBankWait 1 k else s).setStack k z).wr r.addr d)) ∧
           (r.data = none → let c := v.stackCorrected k (pc / 2) r.addr r.len n
             let w := wordsIn ue r.addr r.len
             let l := s.poison.filter (fun x => decide (r.addr < x * 64 + 64 ∧ x * 64 < r.addr + r.len))
             (w = [] → l = [] → go = .next c) ∧
             (w ≠ [] ∨ l ≠ [] → go = .next (((c.stackUe k (some r.ctx) w
               (l.filter (fun x => !w.any (fun y => y / 64 == x))).length ((lowest (w ++ l.map (fun x => 64 * x))).getD r.addr)).abortTask
               r.ctx r.task .streamFault (BitVec.ofNat 64 r.addr)).settle))))))) ∧
   (∀ (s : State) (k : Nat) (c : Option Nat) (w : List Nat) (lines a : Nat), k < 20 → let t := s.stackUe k c w lines a
     (∀ l, l ∈ t.poison ↔ l ∈ s.poison ∨ ∃ y ∈ w, l = y / 64) ∧
     t.fld RegF.stkEccUncorrected k = min (s.fld RegF.stkEccUncorrected k + (w.length + lines)) (2 ^ 16 - 1) ∧
     t.fld RegF.stkUeAddrValid k = 1 ∧ (s.fld RegF.stkUeAddrValid k ≠ 1 → t.fld RegF.stkUeAddrAddr k = a % 2 ^ 48) ∧
     (s.fld RegF.stkUeAddrValid k = 1 → t.fld RegF.stkUeAddrAddr k = s.fld RegF.stkUeAddrAddr k))) ∧
  (∀ (s : State) (k pc : Nat), s.hasStack k = true → pc < 64 →
     let x := s.stack k
     let only := fun (t : State) => t = { s with stk := t.stk } ∧ ∀ j, j ≠ k → t.stack j = s.stack j
     (∀ slot, slot % 128 < 4 → ∃ t, exec (.stackRefresh k pc slot) s = .next t ∧ only t ∧ ∀ b, b < 64 →
       Tbl.get 0 (t.stack k).refreshed (64 * pc + b) = if b / 16 = slot % 128 then slot + 1 else Tbl.get 0 x.refreshed (64 * pc + b)) ∧
     (∀ d low, x.eye = none → -1 ≤ d → d ≤ 1 → ∃ t, exec (.maintenanceProbe k pc d low) s = .next t ∧ only t ∧
       Tbl.get 0 (t.stack k).probe pc = (Tbl.get 0 x.probe pc + 1) % 4096 ∧ Tbl.get 0 (t.stack k).point pc = Tbl.get 0 x.point pc + d ∧
       (low = true → pc / 2 ∈ (t.stack k).low) ∧ (t.stack k).banks = x.banks) ∧
     (∀ found : ScrubFound, ∃ t, exec (.patrolScrub k pc found) s = .next t ∧
       let a := nearBase + k * 2 ^ 37 + 512 * (64 * Tbl.get 0 x.scrub pc + pc)
       let w := wordsIn found.uncorrectable a 512
       Tbl.get 0 (t.stack k).scrub pc = (Tbl.get 0 x.scrub pc + 1) % 2 ^ 22 ∧
       (∀ l, l ∈ t.corrected ↔ l ∈ s.corrected ∧ (l * 64 < a ∨ a + 512 ≤ l * 64)) ∧ (∀ l, l ∈ t.poison ↔ l ∈ s.poison ∨ ∃ y ∈ w, l = y / 64) ∧
       t.mem = s.mem ∧ t.ctx = s.ctx ∧ (w = [] → t = { s with stk := t.stk, corrected := t.corrected, regs := t.regs } ∧
         t.fld RegF.stkEccCorrected k = min (s.fld RegF.stkEccCorrected k + found.corrected) (2 ^ 32 - 1))) ∧
     (∀ ch temp, ch < 32 → x.retrain = none → (x.tempMoved ch temp = true ∨ ch ∈ x.low ∨ 1024 < s.recentWords k ch) →
       ∃ t, exec (.stackChannelRetrain k ch temp) s = .next t ∧ t = { s with stk := t.stk, regs := t.regs } ∧
         (t.stack k).retrain = some ch ∧ t.fld RegF.stkStsState k = 3 ∧ t.fld RegF.stkStsRetrainCh k = ch ∧
         t.fld RegF.stkStsRetrains k = min (s.fld RegF.stkStsRetrains k + 1) (2 ^ 32 - 1)) ∧
     (∀ ch temp, x.retrain = none → x.tempMoved ch temp = false → ch ∉ x.low → s.recentWords k ch ≤ 1024 →
       exec (.stackChannelRetrain k ch temp) s = .next s) ∧
     (∀ ch, x.retrain = some ch → let y := { x with retrain := none, held := [], low := x.low.filter (fun c => c != ch) }
       exec (.stackRetrainEnd k) s = .next ((s.setStack k y).setFld RegF.stkStsState 2 k)) ∧
     (∀ cmd : BitVec 32, x.eye = none → (s.ready = true → ∃ t, exec (.eyeScanGo k (cmd ||| 0x1000)) s = .next t ∧ t = { s with stk := t.stk, regs := t.regs } ∧
         (t.stack k).eye = some (BitVec.ofNat 32 (cmd.toNat % 2 ^ 12)) ∧ t.fld RegF.stkEyeCmdBusy k = 1) ∧
       (s.ready = false → exec (.eyeScanCorridorStart k cmd) s = .next s) ∧
       (s.ready = true → ∃ t, exec (.eyeScanCorridorStart k cmd) s = .next t ∧ t = { s with stk := t.stk, regs := t.regs } ∧
         (t.stack k).eye = some (BitVec.ofNat 32 (cmd.toNat % 2 ^ 12)) ∧ t.fld RegF.stkEyeCmdBusy k = 1)) ∧
     (∀ cmd (map : List W64), x.eye = some cmd → ∃ t, exec (.eyeScanComplete k map) s = .next t ∧ t = { s with stk := t.stk, regs := t.regs } ∧
       (t.stack k).eye = none ∧ t.fld RegF.stkEyeCmdBusy k = 0 ∧ t.fld RegF.stkEyeCmdDone k = 1 ∧
       ∀ i, i < 64 → t.fld RegF.stkEyeDataPassMap k i = (nth 0 map i).toNat) ∧
     (s.cond.rep.ueWindow + 86400 ≤ s.opSeconds → ∃ t, exec .stackUeWindowEnd s = .next t ∧ t = { s with cond := t.cond } ∧
       t.cond.rep = { s.cond.rep with stackUe := List.replicate 20 0, ueWindow := s.cond.rep.ueWindow + 86400 }))

/-- A board-tier request takes a free tag in an allotted slot that carries no other, of the share of its task's wing, within its credits,
and waits while an outstanding request to one of its lines or its own is a write; its response completes it, or ends its task with
TIER_ERROR and a record; a late response frees its tag alone (R198, R202 to R205). The model chose the choice of the tag and the credits in
DBM mode alone (log 60), the message layout of CXL.mem (log 45), the slots of a port (log 105), and when data are in the memory (log 63). -/
def Obligations.BoardTierRequestsAndResponses : Prop :=
  (∀ (s : State) (b slot : Nat) (r : Access), homeOf r.addr = .board b → accBoardOk r = true →
    s.allots r.ctx (.boardPort b) slot r.task = true →
    let x := s.btPort b
    let go := exec (.boardTierRequest b slot r) s
    (slot < x.comes → go = .next s) ∧
    (s.shareOk (s.task r.ctx r.task).wing b slot = false → s.shares r.ctx (.hostSharePort b) slot = false → go = .next s) ∧
    (s.shareOk (s.task r.ctx r.task).wing b slot = true →
    (x.comes ≤ slot → s.allows r.ctx (s.rt r.ctx r.task).epochOld r.data.isSome r.addr r.len = false →
      go = .next ((s.abortTask r.ctx r.task .protFault (BitVec.ofNat 64 r.addr)).settle)) ∧
    (x.comes ≤ slot → s.allows r.ctx (s.rt r.ctx r.task).epochOld r.data.isSome r.addr r.len = true →
      (s.fld RegF.btpStsState b ≠ 2 ∨ x.conflict r = true ∨ (s.dbm b = true ∧ x.hasCredit r = false) ∨ x.freeTag = none → go = .next s) ∧
      (∀ t, s.fld RegF.btpStsState b = 2 → x.conflict r = false → (s.dbm b = true → x.hasCredit r = true) → x.freeTag = some t →
        ∃ v, go = .next v ∧ v = { s with bt := v.bt, regs := v.regs } ∧ t < 4096 ∧ (∀ q ∈ x.out, q.tag ≠ t) ∧ t ∉ x.late ∧ t ∉ x.cfgOut ∧ (v.btPort b).comes = slot + 1 ∧
          (v.btPort b).out = x.out ++ [{ tag := t, line := lineOf r.addr, lines := accLines r, acc := r }] ∧
          (s.dbm b = true → (v.btPort b).hdrCr + 1 = x.hdrCr ∧ (v.btPort b).dataCr + (if r.data.isSome then accLines r else 0) = x.dataCr ∧
            (v.btPort b).sent = x.sent ++ [dbmRequest r t]) ∧ ∀ b', b' ≠ b → v.btPort b' = s.btPort b')))) ∧
  (∀ (s : State) (w b slot : Nat), s.shareOk w b slot = true ↔ b / 2 = w / 2 ∧ (if s.fld RegF.btpCfgShareMode b = 1
    then (slot % 16 < s.fld RegF.btpCfgShareLow b ↔ w % 2 = 0) else slot % 2 = w % 2)) ∧
  (∀ (s : State) (b tag : Nat) (q : BtReq) (msg : List Byte), s.fld RegF.btpStsState b = 2 → s.dbm b = true → 16 ≤ msg.length →
    field msg 2 2 % 4096 = tag → tag ∉ (s.btPort b).late → tag ∉ (s.btPort b).cfgOut → (s.btPort b).out.find? (fun q => q.tag == tag) = some q →
    let free := s.putBt b { s.btPort b with out := (s.btPort b).out.filter (fun q => q.tag != tag) }
    (field msg 0 1 % 16 = 8 → field msg 1 1 % 16 = 0 → q.acc.data = none →
      exec (.rdata b msg) s = .next (free.wr q.acc.addr (pad q.acc.len (msg.drop 16)))) ∧
    (∀ d, field msg 0 1 % 16 = 9 → field msg 1 1 % 16 = 0 → q.acc.data = some d → exec (.wack b msg) s = .next (free.wr q.acc.addr d)) ∧
    (field msg 0 1 % 16 = 8 → field msg 1 1 % 16 = 1 → q.share = false → exec (.rdata b msg) s = .next ((((free.incFld RegF.btpErrPoisoned 1 b).evTier
      (uBt b) (some q.acc.ctx) q.line 1).abortTask q.acc.ctx q.acc.task .tierError (BitVec.ofNat 64 q.acc.addr)).settle)) ∧
    (field msg 0 1 % 16 = 8 → field msg 1 1 % 16 = 2 → q.share = false → exec (.rdata b msg) s = .next ((((free.incFld RegF.btpErrFaults 1 b).evTier
      (uBt b) (some q.acc.ctx) q.line 2).abortTask q.acc.ctx q.acc.task .tierError (BitVec.ofNat 64 q.acc.addr)).settle))) ∧
  (∀ (s : State) (b tag : Nat) (q : BtReq) (data : List Byte), s.fld RegF.btpStsState b = 2 → s.dbm b = false →
    tag ∉ (s.btPort b).late → tag ∉ (s.btPort b).cfgOut → (s.btPort b).out.find? (fun q => q.tag == tag) = some q → q.acc.data = none →
    exec (.cxlMemResponse b tag false data) s =
      .next ((s.putBt b { s.btPort b with out := (s.btPort b).out.filter (fun q => q.tag != tag) }).wr q.acc.addr (pad q.acc.len data))) ∧
  (∀ (s : State) (b tag : Nat) (poison : Bool) (data : List Byte), s.fld RegF.btpStsState b = 2 → s.dbm b = false → tag ∈ (s.btPort b).late → tag ∉ (s.btPort b).cfgOut →
    exec (.cxlMemResponse b tag poison data) s = .next (s.putBt b { s.btPort b with late := (s.btPort b).late.filter (fun t => t != tag) })) ∧
  (∀ (s : State) (b tag : Nat) (q : BtReq), (s.btPort b).out.find? (fun q => q.tag == tag) = some q → q.share = false →
    let x := s.btPort b
    let v := (s.putBt b { x with out := x.out.filter (fun q => q.tag != tag), late := x.late ++ [tag] }).incFld RegF.btpErrTimeouts 1 b
    exec (.btpRequestTimeout b tag) s = .next (((v.evTierOpen (uBt b) (some q.acc.ctx) q.line).abortTask q.acc.ctx q.acc.task .tierError
      (BitVec.ofNat 64 q.acc.addr)).settle))

/-- Credits, answers to configuration requests and events of a TB2 are kept; a configuration request that waits goes out once a header
credit is there; a reserved operation is a link error. A port whose link goes down ends its outstanding requests with TIER_ERROR and keeps
their tags until it has retrained; a withdrawn one leaves the holdings, its catalogue entries are STRANDED and its contexts abort with
LINK_DOWN (R202, R203, R206). A flash read lands, or ends its task with TIER_ERROR (R209, R210). The model chose the message layout of
CXL.mem (log 45), the configuration of a TB2 (log 105), and the NVMe layouts (log 26). -/
def Obligations.BoardTierLinksAndLegacyFlash : Prop :=
  (∀ (s : State) (b : Nat) (msg : List Byte), s.fld RegF.btpStsState b = 2 → s.dbm b = true → 16 ≤ msg.length → let x := s.btPort b
    (field msg 0 1 % 16 = 0xA → let t := field msg 2 2 % 4096
      (t ∈ x.cfgOut → exec (.cfgdata b msg) s =
        .next (s.putBt b { x with cfg := x.cfg ++ [(msg.drop 8).take 4], cfgOut := x.cfgOut.filter (fun u => u != t) })) ∧
      (t ∉ x.cfgOut → exec (.cfgdata b msg) s = .next s)) ∧
    (field msg 0 1 % 16 = 0xC → exec (.evt b msg) s = .next (s.setBt b { x with events := x.events ++ [(msg.drop 4).take 12] })) ∧
    (field msg 0 1 % 16 ∉ [1, 2, 4, 5, 8, 9, 0xA, 0xC] → exec (.evt b msg) s = .next (s.btDown b) ∧ exec (.cfgdata b msg) s = .next (s.btDown b) ∧
      exec (.rdata b msg) s = .next (s.btDown b) ∧ exec (.wack b msg) s = .next (s.btDown b)) ∧
    (∀ h d, let y := { x with hdrCr := x.hdrCr + h, dataCr := x.dataCr + d }
      (x.cfgDue = [] ∨ y.hdrCr = 0 → exec (.boardTierCreditReturn b h d) s = .next (s.putBt b y)) ∧
      (∀ m l t, x.cfgDue = m :: l → x.freeTag = some t → y.hdrCr = 1 → exec (.boardTierCreditReturn b h d) s = .next (s.putBt b
        { y with cfgDue := l, cfgOut := x.cfgOut ++ [t], hdrCr := 0, sent := x.sent ++ [dbmConfig m.1 t m.2.1 m.2.2] })))) ∧
  (∀ (s : State) (b : Nat) (ev : List Byte), s.fld RegF.btpStsState b = 2 → s.dbm b = false →
    exec (.cxlDeviceEvent b ev) s = .next (s.event (uBt b) 0x010A 1 none [(16, 40, leNat (pad 40 ev))])) ∧
  (∀ (s : State) (b : Nat), s.fld RegF.btpStsState b = 2 → let x := s.btPort b
    let v := ((s.setFld RegF.btpStsState 3 b).incFld RegF.btpErrLinkDowns 1 b).putBt b
      { x with out := [], late := x.late ++ x.out.map (fun q => q.tag) ++ x.cfgOut, cfgOut := [], hdrCr := 0, dataCr := 0 }
    exec (.btLinkDown b) s = .next (x.out.foldl (fun v q => (v.evTierOpen (uBt b) (some q.acc.ctx) q.line).btError q) v)) ∧
  (∀ (s : State) (b : Nat), s.fld RegF.btpStsState b = 3 →
    exec (.btLinkRetrained b) s = .next ((s.putBt b { s.btPort b with late := [] }).setFld RegF.btpStsState 2 b)) ∧
  (∀ (s : State) (b : Nat), b < 4 → s.fld RegF.btpStsState b = 3 →
    let cs := s.progContexts
    let keys := (cs.map (fun c => (s.homedKeys c b).map (fun k => (c, k)))).flatten
    let u := (((s.setFld RegF.btpStsState 4 b).setFld RegF.btpStsCapGib 0 b).setHold 16 1 (setBits (s.holdByte 16) b 1 0)).setHold (20 + 2 * b) 2 0
    let v := (((keys.foldl (fun v k => v.strand k.1 k.2) u).withdrawMoves b).event (uBt b) 0x0204 3 none [(16, 4, keys.length)]).holdChanged (uBt b) 0
    exec (.btPortWithdraw b) s = .next (v.abortContexts (cs.filter (fun c => s.allotsPort c b)) .linkDown (BitVec.ofNat 64 b)) ∧
      (s.hold.length = 64 → u.hasBt b = false)) ∧
  (∀ (s : State) (n cid st : Nat) (r : LfRead) (data : List Byte), (s.flash n).reads.find? (fun r => r.cid == cid && !r.ready) = some r →
    (let u := s.cqAdvance n cid st
     let e := Tbl.getRun 0 u.land (0x100000 + 0x4000 * n + 16 * (s.flash n).cqHead) 16
     field e 12 2 = cid % 2 ^ 16 ∧ field e 14 2 = ((if (s.flash n).phase then 1 else 0) + 2 * st) % 2 ^ 16) ∧
    (s.readWanted r = true → let d := pad recordBytes data
      let v := s.cqAdvance n cid 0
      let w := v.setFlash n { v.flash n with reads := (v.flash n).reads.map (fun y => if y.cid = cid then { y with data := d, ready := true } else y) }
      exec (.nvmeReadCompletion n cid 0 data) s = .next { w with land := Tbl.setRun 0 w.land (0x200000 + recordBytes * r.buffer) d }) ∧
    (s.readWanted r = true → st ≠ 0 →
      exec (.nvmeReadCompletion n cid st data) s = .next (((s.cqAdvance n cid st).dropRead n cid).readFailed r (some (st % 256)))) ∧
    (s.readWanted r = false → exec (.nvmeReadCompletion n cid st data) s = .next ((s.cqAdvance n cid st).dropRead n cid) ∧
      exec (.legacyFlashTimeout n cid) s = .next (s.dropRead n cid)) ∧
    (s.readWanted r = true → exec (.legacyFlashTimeout n cid) s = .next ((s.dropRead n cid).readFailed r none)))

/-! ### The link -/

/-- A port uses sequenced flits in SEQ order, exactly once each: the next one is taken with its payload into its class and answers ACK, NAK
and credits, one out of order asks for a replay and is not used, a bad one is discarded with a NAK, and a repeat has no effect. A lane with
4 uncorrectable codewords within 1 ms fails; at the retry limit the one lane that accounts for all of that millisecond fails, or the port
goes down. While a lane is being replaced flits are held (R304, R306, R310 to R313). The model chose the first sequence number and which bad
flit is a replay (log 66), the count of bad codewords (log 67), what a CTRL flit says and how lanes adapt (log 120), and reserved kinds (log
68). -/
def Obligations.FlitsUsedOnceInOrder : Prop :=
  ∀ (s : State) (p : Nat) (f : List Byte) (lanes : BitVec 9), p < 16 → s.portUp p = true → f.length = 320 →
    let x := s.lport p
    let k := field f 0 1 % 16
    let d := (field f 0 2 / 16 + 4096 - x.rxSeq) % 4096
    let good := crc64.of (f.take 312) = field f 312 8
    (good → k = 0 → exec (.flitReceive p f false lanes) s = .next (s.flitControl p f)) ∧
    (good → 3 < k → exec (.flitReceive p f false lanes) s = .next s) ∧
    (good → (k = 1 ∨ k = 2) → d = 1 → let pay := (f.drop 8).take 304
      let y := { x with rxSeq := field f 0 2 / 16, discard := false, replays := 0 }
      exec (.flitReceive p f false lanes) s = .next ((s.setPort p (if k = 1 then { y with rx0 := x.rx0 ++ [pay] }
        else { y with rx1 := x.rx1 ++ [pay] })).flitControl p f)) ∧
    (good → k = 3 → d = 1 → let pay := (f.drop 8).take 304
      let u := s.setPort p { x with rxSeq := field f 0 2 / 16, discard := false, replays := 0 }
      exec (.flitReceive p f false lanes) s = .next ((if field pay 0 1 = 1 then u.failLane p (field pay 1 1) (field pay 2 1) false else u).flitControl
        p f)) ∧
    (good → (k = 1 ∨ k = 2 ∨ k = 3) → d = 0 ∨ 2048 ≤ d → exec (.flitReceive p f false lanes) s = .next s) ∧
    (good → (k = 1 ∨ k = 2 ∨ k = 3) → 2 ≤ d → d < 2048 → x.discard = true → exec (.flitReceive p f false lanes) s = .next s) ∧
    (good → (k = 1 ∨ k = 2 ∨ k = 3) → 2 ≤ d → d < 2048 → x.discard = false →
      exec (.flitReceive p f false lanes) s = .next ((s.setPort p { x with discard := true }).sendIdle p true)) ∧
    (∀ bad, (bad = true ∨ ¬ good) → let same := x.discard = true ∧ field f 0 2 / 16 = (x.rxSeq + 1) % 4096 ∧ k ≠ 0
      let n := if same then x.replays + 1 else x.replays
      let y := { x with discard := true, replays := n, badWords := x.badWords.filter (fun b => decide (s.time ≤ b.2 + 250000)) ++
        ((List.range 9).filter (fun l => lanes.getLsbD l)).map (fun l => (l, s.time)) }
      let lim := max 1 (s.eff RegF.lnkCfgRetryLimit p)
      let all := fun (l : Nat) => y.badWords ≠ [] ∧ ∀ b ∈ y.badWords, b.1 = l
      let u := s.setPort p y
      let four := (List.range 9).filter (fun l => decide (4 ≤ (y.badWords.filter (fun b => b.1 == l)).length))
      (n < lim → exec (.flitReceive p f bad lanes) s = .next ((four.foldl (fun v l => v.failLane p l 2 true) u).sendIdle p true)) ∧
      (∀ l, lim ≤ n → all l → exec (.flitReceive p f bad lanes) s =
        .next (((u.setPort p { y with replays := 0 }).failLane p l 2 true).sendIdle p true)) ∧
      (lim ≤ n → (∀ l, ¬ all l) → exec (.flitReceive p f bad lanes) s = .next (u.portLost p 2 false))) ∧
    (x.replacing ≠ [] → s.pump p = s) ∧
    (∀ cls pay, cls = 0 ∨ cls = 1 → let y := (s.sendSeq p cls pay).lport p
      y.txSeq = (x.txSeq + 1) % 4096 ∧ y.replay.length ≤ max 1024 x.replay.length ∧
      (cls = 0 → y.cr0 = x.cr0 - 1 ∧ y.cr1 = x.cr1) ∧ (cls = 1 → y.cr0 = x.cr0 ∧ y.cr1 = x.cr1 - 1) ∧ y.rx0 = x.rx0 ∧ y.rx1 = x.rx1)

/-- A message cut into flit payloads, with bytes of other messages packed after it, is read whole again: every header field and the payload
come back, and just those bytes and the zeros that fill the last flit are left (R310, R314). The model chose that messages of one task are
packed end to end and that zero bytes fill the last flit (log 17). -/
def Obligations.MessagesSurviveFlits : Prop :=
  ∀ (m : Msg) (rest : List Byte), 1 ≤ m.kind → m.kind < 16 → m.hops < 16 → m.hop < 8 → m.dstWing < 4 → m.srcDev < 2 ^ 16 → m.dstDev < 2 ^ 16 → m.queue < 64 →
    m.op < 2 ^ 16 → m.payload.length < 2 ^ 15 → m.index < 2 ^ 32 → m.count < 2 ^ 32 → m.time < 2 ^ 64 →
    Msg.ofBytes m.bytes = m ∧
    let b := m.bytes ++ rest
    ∃ l k, nextMsg ((List.range ((b.length + 303) / 304)).map (fun i => pad 304 ((b.drop (304 * i)).take 304))) = some (m, l, k) ∧
      l.flatten.take rest.length = rest ∧ ∀ z ∈ l.flatten.drop rest.length, z = 0

/-- A running task sends, in a slot of the entry's allotment, the next message of an entry to a receiver for which it holds a credit, and
spends one; without a credit or a slot it waits (R14, R18, R309), and so it does where the source ring is out of its gallery slots (R157) or
the receiver is ahead of the slowest by all that the ring holds (R322). A contribution to a reduction goes with its chunk's header (R264,
R319). A multicast receiver beyond its bound is detached with DETACH; a recall reads the source again in its slots, has ended once its last
message is acknowledged, and one that fails ends with an ABORT (R317, R318, R322 to R324). The model chose the course of a recall (log 72),
and send slots (log 99). -/
def Obligations.MessagesSentForCredits : Prop :=
  ∀ (s : State) (c t k p : Nat) (e : SendEntry), (s.task c t).sends[k]? = some e → s.running c t = true → p ∈ e.receivers →
    let x := s.sendSt c t k
    let n := Tbl.get 0 x.nexts p
    let y := s.stream (128 * (s.task c t).wing + e.srcUnit)
    let i := (y.first + n) % max 1 y.slots.length
    let slot := s.sendSlot c t e p = true
    let before := s.leastNext c t k
    let here := y.held = true ∧ (y.slot i).isFull = true ∧ n < before + y.slots.length ∧
      s.slotted (s.asker c t (uWing (s.task c t).wing)) (y.slotAddr i) tileBytes = true
    let spent := { x with nexts := Tbl.set 0 x.nexts p (n + 1), credits := Tbl.upd 0 x.credits p (fun y => y - 1) }
    (Tbl.get 0 x.credits p = 0 ∨ ¬ slot → exec (.transportSend c t k p) s = .next s) ∧
    (slot → s.portUp (e.out p) = true → Tbl.get 0 x.credits p ≠ 0 → x.isDetached p = false → n < e.count →
      (∀ le, e.ledger = some le → exec (.transportSend c t k p) s =
        .next ((s.setSend c t k spent).sendData c t e p kReduce n (s.ledgerMsg c le (e.chunkFirst + n)))) ∧
      (e.ledger = none → e.kind ≠ .reduce → here → exec (.transportSend c t k p) s =
        .next (((s.setSend c t k spent).sendData c t e p e.msgKind n (s.rd (y.slotAddr i) tileBytes)).spendSent c t k before)) ∧
      (e.ledger = none → e.kind = .reduce → here →
        let r := s.sendPayload c t e n (s.rd (y.slotAddr i) tileBytes)
        exec (.transportSend c t k p) s = .next (((r.2.setSend c t k spent).sendData c t e p kReduce n r.1).spendSent c t k before)) ∧
      (e.ledger = none → ¬ here → exec (.transportSend c t k p) s = .next s)) ∧
    (let g := (s.cert c).redGroup e.op
     e.kind = .reduce → ∀ bs, let r := s.sendPayload c t e n bs
      (g.wide = true ∨ (s.cert c).productOf e.op = none ∨ (s.cert c).jobCombines t e.op = true → r = (bs, s)) ∧
      (g.wide = false → (s.cert c).productOf e.op ≠ none → (s.cert c).jobCombines t e.op = false →
        r.1 = s.productMsg c g (e.chunkFirst + n) bs ∧ r.2 = { s with ctx := r.2.ctx })) ∧
    (slot → s.portUp (e.out p) = true → Tbl.get 0 x.credits p ≠ 0 → x.isDetached p = true → x.recallEnded.contains p = false →
      1 ≤ Tbl.get 0 x.recalling p → Tbl.get 0 x.recalling p ≤ e.count →
      (s.recallReach c t k p = true → exec (.transportSend c t k p) s = .next (s.sendRecall c t k p)) ∧
      (s.recallReach c t k p = false → exec (.transportSend c t k p) s = .next s)) ∧
    (e.kind = .multicast → x.isDetached p = false → Tbl.get 0 x.credits p = 0 → n < e.count → (y.slot i).isFull = true →
      exec (.mcastDetach c t k p) s = .next ((s.detachAt c t k p false).sendMsg p (s.sendEntryMsg e p kDetach n []))) ∧
    (let sent := e.count < Tbl.get 0 x.recalling p ∧ (s.lport p).wait0 = [] ∧ (s.lport p).resend = [] ∧
        ∀ f ∈ (s.lport p).replay, field f 0 1 % 16 ≠ 1
     (x.isDetached p = true → x.recallEnded.contains p = false → sent → exec (.recallLimitExpiry c t k p) s =
      .next (s.setSend c t k { x with recallEnded := addLine x.recallEnded p })) ∧
    (x.isDetached p = true → x.recallEnded.contains p = false → ¬ sent → exec (.recallLimitExpiry c t k p) s =
      .next (((s.setSend c t k { x with recallEnded := addLine x.recallEnded p }).incFld RegF.lnkCntRecallFails 1 p).sendMsg p
        (s.sendEntryMsg e p kAbort 0 (abortPayload .mcastDetached 0))))) ∧
    (∀ q, Tbl.get 0 ((s.setSend c t k spent).sendSt c t k).credits q = (if q = p then Tbl.get 0 x.credits p - 1 else Tbl.get 0 x.credits q))

/-- A message that comes by a port goes on over its route, or has its effect at its receiver: data go to the next slot of the queue that
accepts their operation, in the gallery slots of the queue's task (R157, R18), credits come back up to SLOTS, each to the sender of the
message whose slot is freed, DETACH is answered by RECALL with D, and RECALL begins the sending again from D (R315 to R317, R319, R323). The
model chose the route back (log 21), which contributions the reduction control takes (log 69) and that their credit returns at once (log
71), recalls (log 72), the task of a message (log 91), and messages before a start (log 121). -/
def Obligations.MessagesReceived : Prop :=
  ∀ (s u : State) (p : Nat) (m : Msg), p < 16 → s.portUp p = true →
    let got := fun (k : Nat) => s.takeMsg p k = some (m, u)
    let x := u.rqueue m.dstWing m.queue
    (m.hop < m.hops → (got 1 → exec (.write p) s = .next (u.forward p m)) ∧ (got 2 → exec (.mcast p) s = .next (u.forward p m)) ∧
      (got 3 → exec (.reduce p) s = .next (u.forward p m)) ∧ (got 4 → exec (.credit p) s = .next (u.forward p m))) ∧
    (u.hasTransit (m.port m.hop) = true → u.forward p m = u.sendMsg (m.port m.hop) { m with hop := m.hop + 1 }) ∧
    (u.hasTransit (m.port m.hop) = false → u.forward p m = u.abortBack p m .unitAbsent) ∧
    (m.hops ≤ m.hop →
      (s.mayDeliver m = true → (got 1 → exec (.write p) s = .next (u.deliver p m)) ∧ (got 2 → exec (.mcast p) s = .next (u.deliver p m).settle) ∧
        (got 3 → exec (.reduce p) s = .next (u.receiveReduce p m))) ∧
      (s.mayDeliver m = false → (got 1 → exec (.write p) s = .next s) ∧ (got 2 → exec (.mcast p) s = .next s) ∧
        (got 3 → s.controlled (s.rqueue m.dstWing m.queue).ctx m = false → exec (.reduce p) s = .next s)) ∧
      (got 3 → s.controlled (s.rqueue m.dstWing m.queue).ctx m = true → x.held = true → x.bind.op = m.op → u.controlled x.ctx m = true →
        let v := u.setRq m.dstWing m.queue { x with src := m.srcDev, hops := m.hops, port := p, nextIndex := m.index + 1, heard := x.heard.filter (fun y => y.1 != m.srcDev) ++ [(m.srcDev, p, m.hops)] }
        exec (.reduce p) s = .next ((v.contribute x.ctx ((v.cert x.ctx).redGroup m.op) m).returnCredit m.dstWing m.queue 1)) ∧
      (x.held = true → x.bind.op = m.op → u.controlled x.ctx m = false → u.receiveReduce p m = (u.countWide x.ctx m).deliver p m) ∧
      (got 4 → exec (.credit p) s = .next ((u.sendsOf m.op).foldl (fun v y => let e := nth {} (v.task y.1 y.2.1).sends y.2.2
        if e.kind = .multicast then (if p ∈ e.receivers then v.takeCredit y.1 y.2.1 y.2.2 p m.count else v)
        else if e.target = m.srcDev then v.takeCredit y.1 y.2.1 y.2.2 0 m.count else v) u)) ∧
      (got 5 → x.held = true → x.bind.op = m.op →
        let back : Msg := { kind := kRecall, hops := 1, hop := 1, dstWing := m.dstWing, srcDev := u.fld RegF.glbLinkCfgDevId }
        let answer : Msg := { back with dstDev := m.srcDev, queue := m.queue, route := BitVec.ofNat 20 p, op := m.op, count := m.index }
        exec (.detach p) s = .next (u.sendMsg p answer (some (x.ctx, x.bind.task)))) ∧
      (got 5 → x.held = false → exec (.detach p) s = .next (u.discardMsg p m)) ∧
      (got 6 → exec (.recall p) s = .next ((u.sendsOf m.op).foldl (fun v y => let z := v.sendSt y.1 y.2.1 y.2.2
        if z.isDetached p ∧ ¬ z.recallEnded.contains p ∧ Tbl.get 0 z.recalling p = 0 then
          v.setSend y.1 y.2.1 y.2.2 { z with recalling := Tbl.set 0 z.recalling p (m.count + 1) } else v) u))) ∧
    (x.held = true → x.bind.op = m.op → x.used < x.bind.slots → x.bind.toStream = false → Memory.wf u.mem →
      let v := u.deliver p m
      v.rd (x.bind.base + tileBytes * x.wr) m.payload.length = m.payload ∧ (v.rqueue m.dstWing m.queue).used = x.used + 1 ∧
      (v.rqueue m.dstWing m.queue).wr = (x.wr + 1) % max 1 x.bind.slots ∧
      (v.rqueue m.dstWing m.queue).froms = x.froms ++ [(m.srcDev, p, m.hops)] ∧
      ∀ a, (a < x.bind.base + tileBytes * x.wr ∨ x.bind.base + tileBytes * x.wr + m.payload.length ≤ a) → v.byteAt a = u.byteAt a) ∧
    (∀ d rest, 0 < x.used → x.froms = d :: rest → u.freeMsg m.dstWing m.queue =
      (u.setRq m.dstWing m.queue { x with rd := (x.rd + 1) % max 1 x.bind.slots, used := x.used - 1, taken := x.taken - 1, froms := rest }).creditTo
        m.dstWing m.queue 1 d) ∧
    (∀ d, d.1 ≠ u.fld RegF.glbLinkCfgDevId → let back := u.backRoute d.2.1 d.2.2
      let note : Msg := { kind := kCredit, hops := d.2.2, hop := 1, srcDev := u.fld RegF.glbLinkCfgDevId, dstDev := d.1, dstWing := m.dstWing }
      u.creditTo m.dstWing m.queue 1 d =
        back.2.sendMsg d.2.1 { note with queue := m.queue, route := back.1, op := x.bind.op, count := 1 }) ∧
    ((x.held = false ∨ x.bind.op ≠ m.op) → u.deliver p m = u.event (uPort p) 0x0108 2 none [(16, 2, m.op), (18, 1, m.queue), (20, 2, m.srcDev)])

/-- ARRIVE counts a child of its barrier use, TOKEN fixes the release time and goes on to the children, SMALL merges a child's summary or
gives the parent's verdict, and so it merges a child's maxima and brings the parent's to the task of small traffic and its children (R56);
ABORT ends the step, the receivers or the senders of its operation (R256, R320, R321, R327). SYNC keeps the upstream stamps, and any other
is answered with the device time; an exchange gives the offset ((t2 − t1) − (t4 − t3)) ÷ 2, a rate within 200 ppm, LOCKED after three
exchanges within 4 ns, and a time that never runs backward (R325). The model chose the ABORT payload (log 19), the units of OFFSET and the
kept rate (log 47), and which tasks a mark aborts (logs 89 and 118). -/
def Obligations.ControlMessagesAndDeviceTime : Prop :=
  (∀ (s u : State) (p : Nat) (m : Msg), p < 16 → s.portUp p = true → m.hops ≤ m.hop →
     let got := fun (k : Nat) => s.takeMsg p k = some (m, u)
     (got 7 → exec (.arrive p) s = .next (((u.barriers m.op).filter (fun y => y.2.2.children.getLsbD p)).foldl (fun v y => v.updProg y.1 (fun g =>
       { g with arrived := Tbl.upd 0 g.arrived (y.2.1 * 2 ^ 32 + m.index) (fun a => a ||| 2 ^ p) })) u).settle) ∧
     (∀ c t b x, got 8 → (u.barriers m.op).filter (fun y => !y.2.2.root && y.2.2.parent == p && u.barUse y.1 y.2.1 == m.index) = [(c, t, b)] →
       (u.rt c t).bar = some x → let v := if m.time < u.time then u.incFld RegF.glbTimeStsLateTokens 1 else u
       exec (.token p) s = .next ((v.updRt c t (fun r => { r with bar := some { x with release := some (max m.time u.time) } })).sendTree
         (portsOf b.children) { kind := kToken, op := m.op, index := m.index, time := m.time })) ∧
     (∀ c le, got 10 → u.smallsOfGroup m.op = [] → u.ledgersOfGroup m.op = [(c, le)] → let g := (u.cert c).redGroup m.op
       let x := u.ledger c le
       (g.children.getLsbD p = true → 
         let y : LedgerRt := { x with kids := x.kids.merge (Summary.ofBytes m.payload), heard := x.heard ||| BitVec.ofNat 16 (2 ^ p) }
         exec (.small p) s = .next (u.setLedger c le y).settle) ∧
       (g.children.getLsbD p = false → g.rank ≠ 0 → g.parent = p → x.sentUp = true → x.verdict = none →
         exec (.small p) s = .next (((u.sendTree (portsOf g.children) { kind := kSmall, op := m.op, payload := m.payload }).judge c le
           (Summary.ofBytes m.payload)).settle))) ∧
     (∀ c k, got 10 → u.ledgersOfGroup m.op = [] → u.smallsOfGroup m.op = [(c, k)] → let g := (u.cert c).redGroup m.op
       let x := u.smallRt c m.op
       (g.children.getLsbD p = true → exec (.small p) s =
         .next (u.setSmall c m.op { x with vals := maxWords x.vals (smallWords m.payload), heard := x.heard ||| BitVec.ofNat 16 (2 ^ p) }).settle) ∧
       (∀ t, k = some t → g.children.getLsbD p = false → g.rank ≠ 0 → g.parent = p → x.sentUp = true → exec (.small p) s =
         .next ((u.sendTree (portsOf g.children) { kind := kSmall, op := m.op, payload := m.payload }).smallEnd c t g (smallWords m.payload)).settle)) ∧
     (got 11 → let st := Status.ofCode (field m.payload 0 1)
       let marks := if field m.payload 1 1 = 1 then (u.ledgersOfGroup m.op).filter (fun y => ((u.cert y.1).redGroup m.op).treePorts.contains p) else []
       let v := (u.receiversOf m.op ++ u.smallsAt p m.op).foldl (fun v y => v.abortTask y.1 y.2 st (BitVec.ofNat 64 m.srcDev) true) u
       (marks ≠ [] → exec (.abortMessage p) s = .next (marks.foldl (fun v y => v.takeMark p y.1 y.2 st (field m.payload 2 2)) u).settle) ∧
       (marks = [] → exec (.abortMessage p) s = .next ((v.sendsOf m.op).foldl (fun v y => let e := nth {} (v.task y.1 y.2.1).sends y.2.2
         if e.kind = .multicast then (if p ∈ e.receivers then v.dropReceiver y.1 y.2.1 y.2.2 p else v)
         else if e.target = m.srcDev ∨ st = .unitAbsent then v.abortTask y.1 y.2.1 st (BitVec.ofNat 64 m.srcDev) true
         else v) v).settle)) ∧
     (∀ c le st rank n r, (u.ledger c le).mark = some (n, r) → r ≤ rank → u.takeMark p c le st rank = u)) ∧
  ((∀ (s u : State) (p stamp : Nat) (m : Msg), p < 16 → s.portUp p = true → m.hops ≤ m.hop → s.takeMsg p 9 = some (m, u) →
     let up := u.fld RegF.glbTimeCfgUpValid = 1 ∧ u.fld RegF.glbTimeCfgUpstream = p ∧ u.fld RegF.glbTimeCfgMaster ≠ 1
     (up → exec (.sync p stamp) s = .next { u with syncStamps := [16 * m.time, stamp] }) ∧
     (¬ up → exec (.sync p stamp) s = 
       let y : Msg := { kind := kSync, hops := 1, hop := 1, srcDev := u.fld RegF.glbLinkCfgDevId, dstDev := m.srcDev }
       .next (u.sendMsg p { y with route := BitVec.ofNat 20 p, time := u.time }))) ∧
   (∀ (s : State) (t1 t2 t3 t4 : Int), s.fld RegF.glbTimeCfgMaster ≠ 1 → s.fld RegF.glbTimeCfgUpValid = 1 →
     s.portUp (s.fld RegF.glbTimeCfgUpstream) = true → s.timeRun = true →
     let off := ((t2 - t1) - (t4 - t3)) / 2
     let period : Int := max 1 (s.fld RegF.glbTimeCfgPeriod)
     ∃ t, exec (.timeSyncExchange t1 t2 t3 t4) s = .next t ∧ s.time ≤ t.time ∧
       t.syncGood = (if -16 ≤ off ∧ off ≤ 16 then s.syncGood + 1 else 0) ∧ t.fld RegF.glbTimeStsOffset = unsigned 16 off ∧
       (2 ≤ s.syncGood → -16 ≤ off → off ≤ 16 → t.fld RegF.glbTimeStsLocked = 1) ∧
       (s.fld RegF.glbTimeStsLocked = 1 ∨ s.timeSet = true → t.time = s.time ∧ -(80 * period) ≤ t.rate ∧ t.rate ≤ 80 * period ∧
         (-(80 * period) ≤ off → off ≤ 80 * period → t.rate = off)) ∧
       (s.fld RegF.glbTimeStsLocked ≠ 1 → s.timeSet = false → t.timeSet = true ∧ t.time = max s.time ((s.time : Int) + off / 16).toNat)))

/-- A lane fails by its error ratio, 4 codewords in 1 ms, its lock or its eye, and is reported to the peer in a control flit. A failed
active lane waits for the lowest-numbered idle healthy one, which takes its logical lane alone; without one the port drops to half width on
its four lowest healthy lanes; a port that goes down or is isolated leaves the holdings and its tasks abort; a trained port comes up at its
width, at half width with 4 to 7 healthy lanes where HALF_EN lets it, and stays down on a peer of another generation (R302, R304 to R308).
The model chose LNK_STS.REASON after RETRAIN (log 46), the sequence number at training (log 66), and the values and reports of lanes (log
120). -/
def Obligations.LanesAndPorts : Prop :=
  ∀ (s : State) (p : Nat), p < 16 →
    let x := s.lport p
    (∀ l (cause : LaneFault) (n : Nat), l < 9 → s.portUp p = true → s.healthy p l = true →
      ((∃ ber, cause = .errorRatio ber ∧ ber < 4 ∧ n = 1) ∨ (cause = .codewords ∧ n = 2) ∨ (cause = .lock ∧ n = 3) ∨
        ∃ h, cause = .eye h ∧ h < s.fld RegF.lnkCfgEyeMin p ∧ n = 4) → ∃ t : State,
      exec (.laneFailed p l cause) s = .next t ∧ t.healthy p l = false ∧ (∀ j, j < 9 → j ≠ l → t.healthy p j = s.healthy p j) ∧
      (t.lport p).lanes = x.lanes ∧ (l ∈ x.lanes → (t.lport p).replacing = x.replacing ++ [l]) ∧
      (∃ f, (t.lport p).flits = x.flits ++ [f] ∧ field f 0 1 % 16 = 3 ∧ field f 8 1 = 1 ∧ field f 9 1 = l ∧ field f 10 1 = n) ∧
      t.ctx = s.ctx ∧ t.hold = s.hold) ∧
    (∀ l ber h, ¬ ber < 4 → ¬ h < s.fld RegF.lnkCfgEyeMin p → exec (.laneFailed p l (.errorRatio ber)) s = .next s ∧
      exec (.laneFailed p l (.eye h)) s = .next s) ∧
    (∀ old rest new more, x.replacing = old :: rest → s.idleLanes p = new :: more → s.portUp p = true → s.fld RegF.lnkCfgSpareEn p = 1 →
      let y : Port := { x with lanes := x.lanes.map (fun l => if l = old then new else l), replacing := rest }
      exec (.laneReplacementComplete p) s = .next ((((s.setPort p y).incFld RegF.lnkErrSpares 1 p).syncLanes p).pump p)) ∧
    (s.laneShort p = true → s.canHalf p = true →
      let u := (((s.setFld RegF.lnkStsState 3 p).mapLanes p 4).event (uPort p) 0x0201 2 none []).setLinks p 1
      let ts := (u.portTasks p ++ (u.mcastsOn p).map (fun m => (m.1, m.2.1))).filter (fun y => !((u.cert y.1).halfPorts.contains p))
      exec (.portHalf p) s = .next ((ts.foldl (fun v y => v.abortTask y.1 y.2 .linkDegraded (v.portDetail p)) (u.pump p)).settle) ∧
      (u.lport p).lanes = ((s.setFld RegF.lnkStsState 3 p).healthyLanes p).take 4) ∧
    (s.portUp p = true →
      (s.laneShort p = true → s.canHalf p = false → exec (.portDown p 1) s = .next (s.portLost p 1 false)) ∧
      (max 1 (s.eff RegF.lnkCfgRetryLimit p) ≤ x.replays → exec (.portDown p 2) s = .next (s.portLost p 2 false)) ∧
      exec (.portDown p 3) s = .next (s.portLost p 3 false) ∧ exec (.linkSilenceTimeout p) s = .next (s.portLost p 3 false) ∧
      (x.isolated = false → s.ready = true → exec (.lnkIsolate p) s = .next (s.portLost p 6 true)) ∧
      (x.isolated = false → s.ready = true → exec (.retrain p) s = .next (s.portLost p 0 false))) ∧
    (s.ready = false → exec (.lnkIsolate p) s = .next s ∧ exec (.release p) s = .next s ∧ exec (.retrain p) s = .next s) ∧
    (s.portUp p = false → x.isolated = false → (s.ready = true → ∃ t, exec (.lnkIsolate p) s = .next t ∧ t = { s with port := t.port, regs := t.regs } ∧
        (t.lport p).isolated = true ∧ t.fld RegF.lnkStsState p = 4 ∧ t.fld RegF.lnkStsReason p = 6) ∧
      (s.ready = true → exec (.retrain p) s = .next (s.setFld RegF.lnkStsState 1 p))) ∧
    (x.isolated = true → s.ready = true → exec (.release p) s = .next ((s.setPort p { x with isolated := false }).setFld RegF.lnkStsState 1 p)) ∧
    (∀ (h : BitVec 9) dev prt gen rtt, s.bootState = 3 ∨ s.bootState = 4 → s.boot.started = true → (s.ready = true → s.hasWing (p / 4) = true) → x.isolated = false →
      s.portUp p = false → let n := ((List.range 9).filter (fun l => h.getLsbD l)).length
      (8 ≤ n → rtt ≤ 700 → gen = s.fuse.generation → ∃ t : State, exec (.portUp p h dev prt gen rtt) s = .next t.settle ∧
        t.fld RegF.lnkStsState p = 2 ∧ (t.lport p).lanes = ((List.range 9).filter (fun l => h.getLsbD l)).take 8 ∧ (t.lport p).txSeq = 0 ∧
        (t.lport p).cr0 = 512 ∧ (t.lport p).cr1 = 32 ∧ t.fld RegF.lnkStsPeerDev p = dev % 2 ^ 16 ∧ t.ctx = s.ctx) ∧
      (4 ≤ n → n < 8 → s.fld RegF.lnkCfgHalfEn p = 1 → rtt ≤ 700 → gen = s.fuse.generation → ∃ t : State, exec (.portUp p h dev prt gen rtt) s = .next t.settle ∧
        t.fld RegF.lnkStsState p = 3 ∧ (t.lport p).lanes = ((List.range 9).filter (fun l => h.getLsbD l)).take 4 ∧ (t.lport p).txSeq = 0 ∧
        (t.lport p).cr0 = 512 ∧ (t.lport p).cr1 = 32 ∧ t.fld RegF.lnkStsPeerDev p = dev % 2 ^ 16 ∧ t.ctx = s.ctx) ∧
      (4 ≤ n → n < 8 → s.fld RegF.lnkCfgHalfEn p = 0 → ∃ t, exec (.portUp p h dev prt gen rtt) s = .next t ∧
        t = { s with port := t.port, regs := t.regs } ∧ t.fld RegF.lnkStsState p = 0 ∧ t.fld RegF.lnkStsReason p = 1) ∧
      (8 ≤ n ∨ (4 ≤ n ∧ s.fld RegF.lnkCfgHalfEn p = 1) → rtt ≤ 700 → gen ≠ s.fuse.generation → ∃ t, exec (.portUp p h dev prt gen rtt) s = .next t ∧
        t = { s with port := t.port, regs := t.regs } ∧ t.fld RegF.lnkStsState p = 0 ∧ t.fld RegF.lnkStsReason p = 5) ∧
      (8 ≤ n → 700 < rtt → ∃ t, exec (.portUp p h dev prt gen rtt) s = .next t ∧ t = { s with port := t.port, regs := t.regs } ∧
        t.fld RegF.lnkStsState p = 0 ∧ t.fld RegF.lnkStsReason p = 4) ∧
      (n < 4 → ∃ t, exec (.portUp p h dev prt gen rtt) s = .next t ∧ t = { s with port := t.port, regs := t.regs } ∧
        t.fld RegF.lnkStsState p = 0 ∧ t.fld RegF.lnkStsReason p = 1))

/-! ### Boot and supply -/

/-- Boot: the link to the host opens the window, GO runs the header checks, the digest and the signature follow, the image starts, and
bring-up publishes the holdings and READY, from which on the compute family runs unless the module has tripped, or ends in FAILED with a
reason, 0x11 where no wing has an array, an engine group and a stack (R358 to R365, R416, R459). The model chose the bytes of keys and
signatures (log 8), the contents of the private memories (log 134), a boot with no report (log 22), ELAPSED_MS (log 59), the moments of the
FW fields (logs 94 and 98), and the configuration of TB2s (log 105). -/
def Obligations.BootToReadyOrFailed : Prop :=
  ∀ (s : State), s.rail = .on →
    (s.boot.t0 = true → s.bootState = 0 → ∃ t, exec .hostLinkTrained s = .next t ∧ t = { s with regs := t.regs } ∧
      t.bootState = 1 ∧ t.fld RegF.bootProgressStep = 3 ∧ s.OtherRegs t [.bootSts, .bootProgress]) ∧
    (∀ off data, off + data.length ≤ 2 ^ 28 → s.bootState = 1 →
      exec (.imageWindowWrite off data) s = .next { s with img := Tbl.setRun 0 s.img off data }) ∧
    (∀ off data, s.bootState ≠ 1 → exec (.imageWindowWrite off data) s = .next s) ∧
    (s.bootState ≠ 1 → ∃ t, exec .go s = .next t ∧ t = { s with regs := t.regs } ∧ t.fld RegF.bootStsGoRefused = 1 ∧
      t.fld RegF.bootStsCode = 0x31 ∧ t.bootState = s.bootState ∧ s.OtherRegs t [.bootSts]) ∧
    (s.bootState = 1 → let a := satAdd 16 (s.fld RegF.bootStsAttempts) 1
      (∀ r, s.headerFault = some r → ∃ t, exec .go s = .next t ∧ t.bootState = 1 ∧ t.fld RegF.bootStsCode = 0x30 ∧
        t.fld RegF.bootStsReason = r ∧ t.fld RegF.bootStsAttempts = a ∧ t = { s with regs := t.regs, boot := t.boot, evr := t.evr } ∧
        s.OtherRegs t [.bootSts, .bootProgress, .evrMirror]) ∧
      (s.headerFault = none → ∃ t, exec .go s = .next t ∧ t.bootState = 2 ∧ t.fld RegF.bootProgressStep = 5 ∧
        t.fld RegF.bootProgressElapsedMs = 0 ∧ t.fld RegF.bootStsAttempts = a ∧ t.boot.svn = s.imgSvn ∧ t.boot.digest = none ∧
        t = { s with regs := t.regs, boot := t.boot } ∧ s.OtherRegs t [.bootSts, .bootProgress])) ∧
    (s.bootState = 2 →
      (s.boot.digest = none → ∃ t, exec .imageDigestComplete s = .next t ∧ t.fld RegF.bootProgressStep = 6 ∧
        t.boot = { s.boot with digest := some (sha384 (s.imgBytes 0 (s.imgLen - 96))) } ∧ t = { s with regs := t.regs, boot := t.boot } ∧
        s.OtherRegs t [.bootProgress]) ∧
      (∀ d, s.boot.digest = some d →
        let holds := ecdsaVerifies (nth [] s.fuse.vendorKeys s.imgKey) d (s.imgBytes (s.imgLen - 96) 96)
        (holds = true → ∃ t, exec .signatureVerified s = .next t ∧ t = { s with regs := t.regs } ∧ t.bootState = 3 ∧
          t.fld RegF.bootProgressStep = 7 ∧ s.OtherRegs t [.bootSts, .bootProgress, .bootFwDigest] ∧ ∀ i, i < 6 → t.fld RegF.bootFwDigestDigest i = field d (8 * i) 8) ∧
        (holds = false → ∃ t, exec .signatureVerified s = .next t ∧ t.bootState = 1 ∧ t.fld RegF.bootStsCode = 0x30 ∧
          t.fld RegF.bootStsReason = 7 ∧ t.boot.digest = none ∧ t = { s with regs := t.regs, boot := t.boot, evr := t.evr } ∧
          s.OtherRegs t [.bootSts, .bootProgress, .evrMirror]))) ∧
    ((s.bootState = 2 ∨ s.bootState = 3) → ∃ t, exec .bootReadyTimeout s = .next t ∧ t.bootState = 5 ∧ t.fld RegF.bootStsCode = 0x3F ∧
      t.fld RegF.bootStsReason = 0x12 ∧ t.fld RegF.bootProgressElapsedMs = 6000 ∧ t.fld RegF.glbStatusFailed = 1 ∧
      t = { s with regs := t.regs, evr := t.evr, pwr := t.pwr, irqOut := t.irqOut, msixPend := t.msixPend } ∧
      s.OtherRegs t [.bootSts, .bootProgress, .glbStatus, .evrMirror]) ∧
    (∀ c f corrected, s.bootState = 3 → s.boot.started = false → ∃ t, exec (.imageStart c f corrected) s = .next t ∧
      ((c && f) = false → t.bootState = 5 ∧ t.fld RegF.bootStsReason = 0x10 ∧ t.fld RegF.glbStatusFailed = 1) ∧
      ((c && f) = true → t.bootState = 3 ∧ t.boot.started = true ∧ t.time = 0 ∧ t.timeRun = true ∧ t.pwr.computeOn = s.pwr.computeOn ∧
        t.fld RegF.condStsPlanValid = 1 ∧ t.evr.restored = true ∧ t.fld RegF.bootProgressStep = 9 ∧ t.fld RegF.pwrCfgTjThrottle = 95 ∧
        ∀ p, p < 16 → t.fld RegF.lnkCfgRetryLimit p = 8)) ∧
    (∀ f, s.bootState = 3 → s.boot.started = true → ∃ t, exec (.bringupComplete f) s = .next t ∧
      t.fld RegF.bootProgressElapsedMs = f.ms % 2 ^ 32 ∧
      (f.fatal = true → t.bootState = 5 ∧ t.fld RegF.bootStsReason = 0x13 ∧ t.fld RegF.glbStatusFailed = 1) ∧
      (f.fatal = false → s.anyWing f = false → t.bootState = 5 ∧ t.fld RegF.bootStsReason = 0x11 ∧ t.fld RegF.glbStatusFailed = 1 ∧
        t.pwr.computeOn = false) ∧
      (f.fatal = false → s.anyWing f = true → t.bootState = 4 ∧ t.ready = true ∧ t.pwr.computeOn = !s.pwr.trip ∧ t.wcMem ≠ none ∧
        (∀ b, b < 4 → t.fld RegF.btpCfgMode b = bit (nth false s.boot.modes b)) ∧ t.hold.length = 64 ∧ t.holdField 32 8 = 0 ∧
        t.cond.readyAt = s.time ∧ t.img = [] ∧ (∀ a, a < galleryEnd → t.byteAt a = 0) ∧ (∀ a, galleryEnd ≤ a → t.byteAt a = s.byteAt a) ∧
        (∀ w, w < 4 → t.hasWing w = s.upWing f w) ∧ t.fld RegF.pwrCfgSetpoint = 2800 ∧ t.fld RegF.pwrCfgTjThrottle = 95 ∧
        ∀ p, p < 16 → t.fld RegF.lnkCfgRetryLimit p = 8))

/-- An assertion of PERST_N resets a module whose rails are on, and its deassertion is t0. The supply follows its steps up, and every fall
of PWR_GOOD stops every unit and runs the steps of R426 down to the end of hold-up; the mirror stops once every record held is in NOR (R357,
R358, R427, R447, R448, R450). The model chose the fuses and NOR (logs 3 and 6), boot step 1 (log 43), and PWR_EN and the second power-up
(log 53). -/
def Obligations.SupplyAndFundamentalReset : Prop :=
  ∀ (s : State),
    (s.rail ≠ .on → exec .perstNAssert s = .next { s with pins := { s.pins with perst := true } }) ∧
    (s.rail = .on → ∃ t, exec .perstNAssert s = .next t ∧ t.pins.perst = true ∧ t.bootState = 0 ∧ t.ready = false ∧ t.ctx = [] ∧
      t.protAct = [] ∧ t.scope = [] ∧ t.hold = List.replicate 64 0 ∧ t.timeRun = false ∧ t.pwr.computeOn = false ∧ t.rail = .on ∧
      t.evr.norDay = s.evr.norDay ∧ t.evr.norAcc = s.evr.norAcc ∧ t.cond.copyA = s.cond.copyA ∧ t.cond.copyB = s.cond.copyB ∧
      t.fuse = s.fuse ∧ t.hmem = s.hmem ∧ t.fld RegF.glbStatusGeneration = s.fuse.generation % 256) ∧
    (s.pins.perst = false → exec .perstNDeassert s = .next s) ∧
    (s.pins.perst = true → s.rail = .on → s.pins.pwrGood = true → ∃ t, exec .perstNDeassert s = .next t ∧
      t.pins = { s.pins with perst := false, slotIdS := s.pins.slotId, btModeS := s.pins.btMode } ∧ t.boot.t0 = true ∧ t = { s with regs := t.regs, pins := t.pins, boot := t.boot } ∧
      s.OtherRegs t [.bootProgress, .btpCfg] ∧ t.fld RegF.bootProgressStep = 2 ∧ ∀ b, b < 4 → t.fld RegF.btpCfgMode b = bit s.pins.btMode) ∧
    (s.rail = .off → exec .inputReaches40v s = .next { s with pins := { s.pins with input := true }, rail := .charging, railTried := false }) ∧
    (s.rail = .charging →
      exec .powerUpDelayExpiry s = .next { s with rail := if s.pins.pwrEn = true then .rising else .ready } ∧
      exec .pwrEnAssert s = .next { s with pins := { s.pins with pwrEn := true } }) ∧
    (s.rail = .ready → exec .pwrEnAssert s = .next { s with pins := { s.pins with pwrEn := true }, rail := .rising }) ∧
    (s.rail = .rising →
      (s.pins.perst = true → exec (.railsInRegulation true) s =
        .next { s with rail := .on, railTried := false, pins := { s.pins with pwrGood := true } }) ∧
      exec (.railsInRegulation false) s =
        .next (if s.railTried = true then { s with rail := .off } else { s with rail := .ready, railTried := true }) ∧
      exec .pwrEnDeassert s = .next { s with pins := { s.pins with pwrEn := false }, rail := .ready }) ∧
    (s.rail = .on →
      exec .pwrGoodFall s = .next s.pwrFall ∧
      exec .pwrEnDeassert s = .next ({ s with pins := { s.pins with pwrEn := false } } : State).pwrFall ∧
      exec .inputUndervoltage s = .next ({ s with pins := { s.pins with input := false } } : State).pwrFall ∧
      s.pwrFall.rail = .falling ∧ s.pwrFall.pins = { s.pins with pwrGood := false, thermTrip := false, smbAlert := false } ∧ s.pwrFall.evr.falling = true ∧
      s.pwrFall.pwr.computeOn = false ∧ s.pwrFall.hostOn = false ∧ s.pwrFall.ready = false ∧ s.pwrFall.timeRun = false ∧ s.pwrFall.ctx = [] ∧
      ∀ p, s.pwrFall.portUp p = false) ∧
    (s.rail = .falling →
      exec .recorderClose s = .next { s with evr := { s.evr with closed := true } } ∧
      (s.evr.closed = true → s.evr.acc.length ≤ s.evr.accCopied → s.evr.last ≤ s.evr.copied →
        exec .mirrorStop s = .next { s with evr := { s.evr with mirrorOff := true } }) ∧
      ((s.evr.closed = false ∨ s.evr.accCopied < s.evr.acc.length ∨ s.evr.copied < s.evr.last) → exec .mirrorStop s = .next s) ∧
      exec .pwrGoodFall s = .next s ∧ exec .pwrEnAssert s = .next s ∧ exec .pwrEnDeassert s = .next s ∧
      (s.evr.mirrorOff = true → ∃ t, exec .holdupEnd s = .next t ∧ t.rail = (if s.pins.input = true then .ready else .off) ∧
        t.pins.pwrEn = false ∧ t.ctx = [] ∧ t.bootState = 0 ∧ t.evr.norDay = s.evr.norDay ∧ t.evr.norAcc = s.evr.norAcc ∧ t.fuse = s.fuse)) ∧
    (∀ e, (s.evr.falling = true → s.evr.copied + 4096 < s.evr.last + 1 → s.evr.store e = s.evr) ∧
      (s.evr.closed = true → s.evr.store e = s.evr))

/-! ### Power, heat, droop and voltage -/

/-- The level moves by one towards the greatest request, Lp follows the mean power of its windows within the other requests and 22, the
forced request holds while the register or the corridor asks for it, and VR_ALERT_N takes the module to level 22 while its rails are on. A
trip that is not on is no request (R384 to R386, R388, R389). The model chose the count of FORCED (log 37), the level 22 at once (log 38),
and an evaluation without samples (log 41). -/
def Obligations.LevelRequestsAndPowerLoop : Prop :=
  ∀ (s : State),
    (s.inService = true → s.pwr.target ≤ 22 → ∃ t, exec .levelStepComplete s = .next t ∧
      t.level = (if s.level < s.pwr.target then s.level + 1 else if s.pwr.target < s.level then s.level - 1 else s.level) ∧
      t = { s with regs := t.regs, pwr := t.pwr } ∧ s.OtherRegs t [.pwrSts, .pwrDie]) ∧
    (∀ x ∈ s.requests, x.1 ≤ s.wanted) ∧ (∃ x ∈ s.requests, x.1 = s.wanted ∧ x.2 = s.cause) ∧
    (∀ x ∈ s.requests, x.1 = s.wanted → x.2 ≤ s.cause) ∧ (s.pwr.trip = false → s.cause ≠ 7) ∧ (s.alertOn = false → s.cause ≠ 4) ∧
    (∀ on, s.ready = true → ∃ t, exec (.pwrForceLow on) s = .next t ∧ t.fld RegF.pwrCtlForceLow = bit on ∧
      t.pwr = { s.pwr with forceReg := on, target := t.wanted } ∧ (on = true → 22 ≤ t.pwr.target) ∧ t = { s with regs := t.regs, pwr := t.pwr } ∧
      s.OtherRegs t [.pwrCtl, .pwrEvt, .pwrSts, .pwrDie] ∧
      t.fld RegF.pwrEvtForced = satAdd 16 (s.fld RegF.pwrEvtForced) (bit (on && !s.pwr.forceReg)) ∧ t.fld RegF.pwrStsCause = t.cause % 8) ∧
    (∀ watts, s.tclkOn = false → exec (.powerSample watts) s = .next s) ∧
    (∀ watts, s.tclkOn = true → (∀ x ∈ s.pwr.samples, x ≤ 4095) → let l := (min watts 4095 :: s.pwr.samples).take 10000
      ∃ t, exec (.powerSample watts) s = .next t ∧ t = { s with regs := t.regs, pwr := { s.pwr with samples := l } } ∧ s.OtherRegs t [.pwrAvg] ∧ t.fld RegF.pwrAvgLastW = min watts 4095 ∧
        t.fld RegF.pwrAvgPeakW = max (min watts 4095) (s.fld RegF.pwrAvgPeakW) ∧
        t.fld RegF.pwrAvgAvgW = (l.take (1000 * s.window)).sum / (l.take (1000 * s.window)).length) ∧
    (1200 ≤ s.setpoint ∧ s.setpoint ≤ 3200 ∧ 1 ≤ s.window ∧ s.window ≤ 10) ∧
    (s.ready = true → let a := s.pwr.samples.take (1000 * s.window)
      let f := s.pwr.samples.take 10
      let fast := 125 * s.setpoint * f.length < 100 * f.sum
      let lp := if fast then s.pwr.lp + 2 else if s.setpoint * a.length < a.sum then s.pwr.lp + 1
        else if 100 * a.sum < 98 * (s.setpoint * a.length) then s.pwr.lp - 1 else s.pwr.lp
      a ≠ [] → ∃ t, exec .powerLoopEvaluation s = .next t ∧ t.pwr.lp = min 22 (max lp (maxReq (s.requests.drop 1))) ∧ t.pwr.lp ≤ 22 ∧
        t.pwr.target = t.wanted ∧ t.level = s.level ∧ t = { s with regs := t.regs, pwr := t.pwr } ∧ s.OtherRegs t [.pwrSts, .pwrDie]) ∧
    (s.rail = .on → s.pins.vrAlert = false → ∃ t, exec .vrAlertNFall s = .next t ∧ t.level = 22 ∧ t.pins = { s.pins with vrAlert := true } ∧
      t.pwr.alertHold = false ∧ 22 ≤ t.pwr.target ∧ t.fld RegF.pwrEvtAlerts = satAdd 16 (s.fld RegF.pwrEvtAlerts) 1 ∧
      t = { s with regs := t.regs, pwr := t.pwr, pins := t.pins, evr := t.evr } ∧ s.OtherRegs t [.pwrEvt, .evrMirror, .pwrSts, .pwrDie]) ∧
    (s.rail ≠ .on → s.pins.vrAlert = false → exec .vrAlertNFall s = .next { s with pins := { s.pins with vrAlert := true } }) ∧
    (s.rail ≠ .on → s.pins.vrAlert = true → exec .vrAlertNRise s = .next { s with pins := { s.pins with vrAlert := false } }) ∧
    (s.rail = .on → s.pins.vrAlert = true → ∃ t, exec .vrAlertNRise s = .next t ∧ t.pins = { s.pins with vrAlert := false } ∧ t.pwr.alertHold = true ∧
      22 ≤ t.pwr.target ∧ t = { s with regs := t.regs, pwr := t.pwr, pins := t.pins } ∧ s.OtherRegs t [.pwrSts, .pwrDie]) ∧
    (s.pwr.alertHold = true → ∃ t, exec .alertHoldExpiry s = .next t ∧ t.pwr.alertHold = false ∧ t.pwr.target = t.wanted ∧
      t = { s with regs := t.regs, pwr := t.pwr } ∧ s.OtherRegs t [.pwrSts, .pwrDie])

/-- The sensors show their readings and, once the image runs, set the thermal request, which moves after a trip too; a reading at the limit
trips the module for good; a CPLL that loses lock moves the compute family of both dies to FPLL ÷ 2, the other's loss then is recorded too,
and the loss of FPLL stops the compute family for good, in a module that has tripped or failed as well (R380, R387, R390). A droop stretches
a die's clocks and is counted, a long one raises the margin request; voltage scaling moves TRIM by one step inside its range, and the
applied voltage never passes VMAX. The monitors that the last plan left out decide nothing (R391, R393 to R395). The model chose the reading
of a failed sensor (log 35), level 22 and the stop within the step of a trip (log 38), the limit of Lm (log 36), the level without CPLL (log
39), and what stops with a PLL (log 40). -/
def Obligations.HeatDroopVoltageAndClocks : Prop :=
  (∀ (s : State),
     (∀ temps l, s.rail = .on → (∀ x ∈ temps, ∀ v, x = some v → v < 256) → ∃ t, exec (.thermalSensorRead temps l) s = .next t ∧
       (∀ i v, i < 96 → nth none temps i = some v → t.fld RegF.pwrTsensTemp i = v ∧ t.fld RegF.pwrTsensFailed i = 0 ∧
         t.fld RegF.pwrTsensMax i = max v (s.fld RegF.pwrTsensMax i)) ∧
       (∀ i, i < 96 → nth none temps i = none → t.fld RegF.pwrTsensFailed i = 1 ∧ t.fld RegF.pwrTsensTemp i = s.fld RegF.pwrTsensTemp i) ∧
       (s.timeRun = false → t.pwr.hot = s.pwr.hot ∧ t.pwr.cool = s.pwr.cool) ∧
       (s.timeRun = true → ∀ i v, i < 96 → nth none temps i = some v → min 95 (s.fld RegF.pwrCfgTjThrottle) ≤ v → t.pwr.hot = true ∧ t.pwr.cool = false) ∧
       (s.timeRun = true → ∀ k, k < 20 → s.hasStack k = true ∨ s.fld RegF.stkStsState k = 1 → 95 ≤ nth 0 l k → t.pwr.hot = true ∧ t.pwr.cool = false) ∧
       (tripBy temps = none → t.pwr.trip = s.pwr.trip ∧ t.pwr.computeOn = s.pwr.computeOn ∧ t.level = s.level ∧
         t = { s with regs := t.regs, pwr := t.pwr, stk := t.stk } ∧ s.OtherRegs t [.pwrTsens, .stkSts, .pwrSts]) ∧
       (s.pwr.trip = false → (∃ i v, i < 96 ∧ nth none temps i = some v ∧ (110 ≤ v ∨ (105 ≤ v ∧ 8 < failedIn temps (i / 24)))) →
         t.pwr.trip = true ∧ t.pins.thermTrip = true ∧ t.level = 22 ∧ 22 ≤ t.wanted ∧ t.pwr.computeOn = false)) ∧
     (s.tclkOn = true →
       (s.pwr.hot = true → ∃ t, exec .thermalThrottleStep s = .next t ∧ t.pwr.lt = min 22 (s.pwr.lt + 1) ∧ t.pwr.target = t.wanted ∧
         t = { s with regs := t.regs, pwr := t.pwr } ∧ s.OtherRegs t [.pwrEvt, .pwrSts, .pwrDie]) ∧
       (s.pwr.hot = false → s.pwr.cool = true → ∃ t, exec .thermalThrottleStep s = .next t ∧ t.pwr.lt = s.pwr.lt - 1 ∧
         t.pwr.target = t.wanted ∧ t = { s with regs := t.regs, pwr := t.pwr } ∧ s.OtherRegs t [.pwrSts, .pwrDie]) ∧
       (s.pwr.hot = false → s.pwr.cool = false → exec .thermalThrottleStep s = .next s)) ∧
     (s.tclkOn = false → exec .thermalThrottleStep s = .next s ∧ exec .fpllUnlock s = .next s) ∧
     (s.inService = true →
       (∀ d, d < 2 → nth false s.pwr.cpllLost d = false → ∃ t, exec (.cpllUnlock d) s = .next t ∧
         t.pwr = { s.pwr with cpll := false, cpllLost := setNth s.pwr.cpllLost d true, onFpll := true } ∧ t.cpllMhz = 5000 ∧
         t = { s with regs := t.regs, pwr := t.pwr, evr := t.evr } ∧ s.OtherRegs t [.evrMirror]) ∧
       (∀ d, d < 2 → nth false s.pwr.cpllLost d = true → exec (.cpllUnlock d) s = .next s) ∧
       (s.pwr.cpll = false → ∃ t, exec .cpllRelock s = .next t ∧
         t.pwr = { s.pwr with cpll := true, cpllLost := [false, false], onFpll := false, target := t.wanted } ∧
         t.cpllMhz = 12000 - 500 * levelState s.level ∧ t = { s with regs := t.regs, pwr := t.pwr } ∧ s.OtherRegs t [.pwrSts, .pwrDie])) ∧
     (s.tclkOn = true → (∃ t, exec .fpllUnlock s = .next t ∧ t.pwr.fpll = false ∧ t.pwr.computeOn = false ∧ t.hostOn = false ∧
         t.boot = s.boot ∧ t.fuse = s.fuse))) ∧
  (∀ (s : State) (d : Nat), d < 2 → s.pwr.stretch.length = 2 → s.pwr.stretched.length = 2 → s.pwr.trims.length = 2 →
     let steps := satAdd 16 (s.fld RegF.pwrEvtMarginSteps) 1
     s.voltage d ≤ nth 0 s.fuse.vmax d ∧
     (s.inService = true → s.stretching d = false → ∃ t, exec (.droopDetect d) s = .next t ∧ t.stretching d = true ∧
       t.stretching (1 - d) = s.stretching (1 - d) ∧ t.fld RegF.pwrDroopEvents d = satAdd 32 (s.fld RegF.pwrDroopEvents d) 1 ∧
       t = { s with regs := t.regs, pwr := t.pwr } ∧ s.OtherRegs t [.pwrDroop]) ∧
     (s.stretching d = true →
       (∀ cycles, let n := nth 0 s.pwr.stretched d + cycles
         ∃ t, exec (.droopRecoveryEnd d cycles) s = .next t ∧ t.stretching d = false ∧ nth 0 t.pwr.stretched d = n % 1024 ∧
           t.fld RegF.pwrDroopStretched d = satAdd 32 (s.fld RegF.pwrDroopStretched d) (n / 1024) ∧
           t = { s with regs := t.regs, pwr := t.pwr } ∧ s.OtherRegs t [.pwrDroop]) ∧
       (∀ us, 10 < us → ∃ t, exec (.droopLong d us) s = .next t ∧ t.pwr.lm = min 22 (s.pwr.lm + 1) ∧ t.stretching d = true ∧
         t.fld RegF.pwrEvtMarginSteps = steps ∧ t = { s with regs := t.regs, pwr := t.pwr, evr := t.evr } ∧
         s.OtherRegs t [.evrMirror, .pwrEvt, .pwrSts, .pwrDie]) ∧
       (∀ us, us ≤ 10 → exec (.droopLong d us) s = .next s)) ∧
     (s.inService = true → ∀ slacks long stuck, slacks.length = 128 →
       let works := fun (i v : Nat) => nth none slacks i = some v ∧ s.cond.rep.shifts[128 * d + i]? ≠ some none
       (∃ i v, works i v) →
       let low := ∃ i v, works i v ∧ v < 200
       let high := ∀ i v, works i v → 350 < v
       let r := nth 0 s.pwr.trims d
       ∃ t, exec (.avsEvaluation d slacks long stuck) s = .next t ∧ t = { s with regs := t.regs, pwr := t.pwr } ∧
         s.OtherRegs t [.condMon, .pwrSts, .pwrDie, .pwrEvt] ∧ t.voltage d ≤ nth 0 t.fuse.vmax d ∧
         (∀ i v, nth none slacks i = some v → t.fld RegF.condMonSlack (128 * d + i) = min 65535 v) ∧
         nth 0 t.pwr.trims (1 - d) = nth 0 s.pwr.trims (1 - d) ∧
         (low → nth 0 t.pwr.trims d = min 6 (r + 1)) ∧ (high → long = true → nth 0 t.pwr.trims d = r - 1) ∧
         (¬ low → (¬ high ∨ long = false) → nth 0 t.pwr.trims d = r) ∧
         (low → stuck = true → (6 ≤ r ∨ nth 0 s.fuse.vmax d ≤ s.voltage d) → t.pwr.lm = min 22 (s.pwr.lm + 1) ∧
           t.fld RegF.pwrEvtMarginSteps = steps) ∧
         ((¬ low ∨ stuck = false ∨ (r < 6 ∧ s.voltage d < nth 0 s.fuse.vmax d)) → t.pwr.lm = s.pwr.lm)) ∧
     (s.inService = true → ∃ t, exec .marginRelease s = .next t ∧ t.pwr.lm = s.pwr.lm - 1 ∧ t.pwr.target = t.wanted ∧
       t = { s with regs := t.regs, pwr := t.pwr } ∧ s.OtherRegs t [.pwrSts, .pwrDie]))

/-! ### Plans, records and the two windows -/

/-- A plan never lowers a guard band and never brings a retired state back, and its report goes to the copy that is not in use; the mirror
copies records to NOR in order, where the latest 4,096 of the day book stay; the aperture writes the gallery alone and reads it, with zeros
beyond its end (R331, R395, R397, R400, R417, R424, R427). The model chose the aperture without a free pair (log 50), the copy in NOR at
CLEAR_ACC (log 54), and the operating seconds (log 58). -/
def Obligations.PlansMirrorAndAperture : Prop :=
  ∀ (s : State),
    (s.ready = true → s.cond.planning = false → (∃ t, exec .planNow s = .next t ∧ t = { s with regs := t.regs, cond := t.cond } ∧
        t.cond = { s.cond with planning := true } ∧ t.fld RegF.condStsPlanning = 1) ∧
      (∃ t : State, exec .planDue s = .next t ∧ t.cond = { s.cond with planning := true } ∧ t.fld RegF.condStsPlanning = 1 ∧ s.time ≤ t.time ∧ t.ctx = s.ctx)) ∧
    (s.cond.planning = true → exec .planNow s = .next s ∧ exec .planDue s = .next s) ∧
    (∀ corrected, s.ready = true → s.cond.planning = true → let old := s.cond.rep
      ∃ t, exec (.planComplete corrected) s = .next t ∧ t.cond.planning = false ∧ t.cond.rep.plans = old.plans + 1 ∧ t.cond.rep.seq = old.seq + 1 ∧
        t = { s with regs := t.regs, cond := t.cond, evr := t.evr, pwr := t.pwr, hold := t.hold, freeCtr := t.freeCtr } ∧
        s.OtherRegs t [.condSts, .condDie, .condMon, .pwrSts, .pwrDie, .evrMirror] ∧
        (∀ d, d < 2 → (nth {} old.dies d).gb ≤ (nth {} t.cond.rep.dies d).gb ∧
          ∀ k, (nth {} old.dies d).retired.getLsbD k = true → (nth {} t.cond.rep.dies d).retired.getLsbD k = true) ∧
        (∀ d, d < 2 → d ∈ s.diesOn → ∀ k, k < 15 →
          nth 0 (nth {} t.cond.rep.dies d).vPlan k = (if k < (nth [] s.fuse.vFuse d).length then
            nth 0 (nth [] s.fuse.vFuse d) k + 25 * (nth {} t.cond.rep.dies d).gb else 0)) ∧
        (s.cond.useB = true → t.cond.useB = false ∧ t.cond.copyA = some t.cond.rep ∧ t.cond.copyB = s.cond.copyB) ∧
        (s.cond.useB = false → t.cond.useB = true ∧ t.cond.copyB = some t.cond.rep ∧ t.cond.copyA = s.cond.copyA) ∧
        (t.retired = s.retired → t.hold = s.hold) ∧
        (t.retired ≠ s.retired → s.hold.length = 64 → t.holdField 3 1 = t.topState ∧ t.holdField 18 2 = t.retired ∧
          t.holdField 32 8 = (s.holdField 32 8 + 1) % 2 ^ 64)) ∧
    (s.ready = true → ∃ t : State, exec .clearAcc s = .next t ∧ t.evr.norAcc = [] ∧ t.evr.accCopied = 0 ∧ t.evr.day.length ≤ s.evr.day.length + 1 ∧
      t = { s with regs := t.regs, evr := t.evr } ∧ s.OtherRegs t [.evrMirror] ∧
      (s.evr.restored = true → s.evr.closed = false → s.evr.falling = false → ∃ e, t.evr.acc = [e] ∧ e.code = 0x0401 ∧ e.seq = s.evr.last + 1)) ∧
    ((s.rail = .on ∨ s.rail = .falling) → s.evr.restored = true → s.evr.mirrorOff = false →
      exec .mirrorRecordWrite s = .next { s with evr := s.evr.mirrorOne }) ∧
    (∀ e, s.evr.acc[s.evr.accCopied]? = some e →
      s.evr.mirrorOne = { s.evr with norAcc := s.evr.norAcc ++ [e], accCopied := s.evr.accCopied + 1 }) ∧
    (s.evr.acc[s.evr.accCopied]? = none → let n := s.evr.copied + 1
      let e := Tbl.get {} s.evr.day (n % 4096)
      (s.evr.last < n → s.evr.mirrorOne = s.evr) ∧
      (n ≤ s.evr.last → e.seq = n →
        s.evr.mirrorOne = { s.evr with copied := n, norDay := (s.evr.norDay ++ [e]).drop (s.evr.norDay.length + 1 - 4096) }) ∧
      (n ≤ s.evr.last → e.seq ≠ n → s.evr.mirrorOne = { s.evr with copied := n })) ∧
    (∀ off size, s.ready = true → size ∈ [4, 8, 16, 32, 64] → off % size = 0 →
      exec (.galleryApertureAccess off size none) s = .next s ∧
      ∀ data a, data.length = size → s.apertureAddr off = some a → s.pairFree a = true →
        ∃ t, exec (.galleryApertureAccess off size (some data)) s = .next t ∧ t.rd a size = data ∧ t.regs = s.regs ∧ t.ctx = s.ctx ∧
          ∀ b, (b < a ∨ a + size ≤ b) → t.byteAt b = s.byteAt b) ∧
    (∀ off size, s.ready = true → size ∈ [4, 8, 16, 32, 64] → off % size = 0 → off < 0x8000000 →
      (∀ a, s.apertureAddr off = some a → (s.readBar4 off size).bytes = s.rd a size ∧ ((s.readBar4 off size).poisoned = true ↔ s.poisoned a size = true)) ∧
      (s.apertureAddr off = none → s.readBar4 off size = ⟨List.replicate size 0, false⟩)) ∧
    (∀ off a, s.apertureAddr off = some a → a < galleryEnd ∧ a = min 383 (s.fld RegF.glbBar4WinBase) * 2 ^ 20 + off)

/-! ### The corridor and the sideband -/

/-- The custodian answers each corridor command on its three paths once its ROM runs: READ commands reply with their data, the others make a
CORRIDOR_OP record, act and reply, and those that need READY are refused with FW_BUSY before it (R359, R433, R434, R454). MCTP control
messages and PLDM commands are answered on PCIe and SMBus; the sensors read the registers that R455 names for them, and the version and
terminus numbers are free values (R452, R453, R455; the framing is the model's, log 52). The model chose the framing of MCTP and PLDM (log
52), that corridor commands complete within their step and the record of a refused one (log 56), and the level at FORCE_LOW (log 38). -/
def Obligations.CorridorAndSidebandMessages : Prop :=
  (∀ (s : State) (path : Path),
     let op := fun (cmd arg : Nat) => s.corridorOp path cmd arg
     (s.answers path = true →
       (∀ area index e, s.recordAt area index = some e → exec (.readRecord path area index) s = .next (s.sendReply path 1 .ok e.bytes)) ∧
       (∀ area index, s.recordAt area index = none → exec (.readRecord path area index) s = .next (s.sendReply path 1 .unitAbsent [])) ∧
       exec (.readSensors path) s = .next (s.sendReply path 2 .ok (leBytes 8 (s.reg .pwrSts 0 0) ++ leBytes 8 (s.reg .pwrAvg 0 0) ++
         leBytes 4 (s.reg .pwrDie 0 0) ++ leBytes 4 (s.reg .pwrDie 1 0))) ∧
       (∃ t : State, exec (.forceLow path) s = .next (t.sendReply path 3 .ok []) ∧ t = ((op 3 0).force s.pwr.forceReg true).setLevel 22 ∧
         t.level = 22 ∧ t.pwr.forceCorr = true ∧ 22 ≤ t.pwr.target ∧ t.ctx = s.ctx) ∧
       (∃ t : State, exec (.releaseLow path) s = .next (t.sendReply path 4 .ok []) ∧ t = (op 4 0).force s.pwr.forceReg false ∧
         t.pwr.forceCorr = false ∧ t.pwr.forceReg = s.pwr.forceReg ∧ t.pwr.target = t.wanted) ∧
       (s.ready = true → exec (.abortAll path) s =
           .next (((op 5 0).abortContexts (op 5 0).liveCtx .revoked (op 5 0).abortDetail).sendReply path 5 .ok []) ∧
         (∀ p, exec (.isolate path p) s = .next (((op 6 p).isolatePort p).sendReply path 6 .ok [])) ∧
         exec (.readIdkey path) s = .next (s.sendReply path 9 .ok (pad 96 s.fuse.idKey))) ∧
       (s.ready = false → exec (.abortAll path) s = .next (s.sendReply path 5 .fwBusy []) ∧
         (∀ p, exec (.isolate path p) s = .next (s.sendReply path 6 .fwBusy [])) ∧
         exec (.readIdkey path) s = .next (s.sendReply path 9 .fwBusy [])) ∧
       exec (.readHoldings path) s = .next ((op 7 0).sendReply path 7 .ok (pad 64 s.hold)) ∧
       exec (.reset path) s = .next ((op 8 0).sendReply path 8 .ok []).fundamentalReset) ∧
     (s.answers path = false → ∀ a b, exec (.readRecord path a b) s = .next s ∧ exec (.readSensors path) s = .next s ∧
       exec (.forceLow path) s = .next s ∧ exec (.releaseLow path) s = .next s ∧ exec (.abortAll path) s = .next s ∧
       exec (.isolate path a) s = .next s ∧ exec (.readHoldings path) s = .next s ∧ exec (.reset path) s = .next s ∧
       exec (.readIdkey path) s = .next s) ∧
     (s.answers path = true ↔ s.rail = .on ∧ s.boot.t0 = true ∧ (path = .bar0 → s.ready = true)) ∧
     (∀ cmd st data, data.length ≤ 96 →
       (∀ i, i < 12 → (s.sendReply .bar0 cmd st data).fld RegF.glbCorrDataData i = field (pad 96 data) (8 * i) 8) ∧
       (s.sendReply .bar0 cmd st data).fld RegF.glbCorrStsDone = 1 ∧
       s.sendReply .pcie cmd st data = { s with replies := s.replies ++ [⟨.pcie, cmd, st, data⟩] } ∧
       s.sendReply .smbus cmd st data =
         { s with replies := s.replies ++ [⟨.smbus, cmd, st, data⟩], pins := { s.pins with smbAlert := true } })) ∧
  (∀ (s : State) (path : Path), path ≠ .bar0 → s.answers path = true →
     let say := fun (t : State) (cmd cc : Nat) (data : List Byte) => t.sendReply path cmd .ok (leBytes 1 cc ++ data)
     (∀ msg, 3 ≤ msg.length → let e := field msg 4 1
       (field msg 2 1 = 1 → field msg 3 1 % 4 < 2 → 8 ≤ e → e < 255 → ∃ t : State, exec (.mctpControlMessage path msg) s = .next t ∧ t.eid path = e ∧
         t.replies.length = s.replies.length + 1 ∧ ∀ q, q ≠ path → t.eid q = s.eid q) ∧
       (field msg 2 1 = 1 → (e < 8 ∨ e = 255) → exec (.mctpControlMessage path msg) s = .next (say s 0x101 2 [])) ∧
       (field msg 2 1 = 2 → exec (.mctpControlMessage path msg) s = .next (say s 0x102 0 (leBytes 1 (s.eid path) ++ leBytes 2 0))) ∧
       (field msg 2 1 = 4 → field msg 3 1 ∈ [0, 1, 0x7E, 0xFF] → exec (.mctpControlMessage path msg) s =
         .next (say s.free.2 0x104 0 (leBytes 1 1 ++ leBytes 4 s.free.1.toNat))) ∧
       (field msg 2 1 = 5 → exec (.mctpControlMessage path msg) s =
         .next (say s 0x105 0 (leBytes 1 3 ++ leBytes 1 0 ++ leBytes 1 1 ++ leBytes 1 0x7E))) ∧
       (field msg 2 1 ∉ [1, 2, 4, 5] → exec (.mctpControlMessage path msg) s = .next (say s (0x100 + field msg 2 1) 5 []))) ∧
     exec (.getTid path) s = .next (say s.free.2 0x202 0 (leBytes 1 s.free.1.toNat)) ∧
     (s.ready = true → ∀ (k : Nat) (f : Fld) (i : Nat), (k, f, i) ∈ [(1, RegF.pwrStsTjMax, 0), (2, RegF.pwrStsStackMax, 0), (3, RegF.pwrAvgAvgW, 0),
         (4, RegF.pwrAvgLastW, 0), (5, RegF.pwrDieVolt, 0), (6, RegF.pwrDieVolt, 1), (7, RegF.pwrStsLevel, 0)] →
       exec (.getSensorReading path k) s = .next (say s 0x211 0 (leBytes 1 2 ++ leBytes 1 0 ++ leBytes 4 0 ++ leBytes 2 (s.fld f i)))) ∧
     (s.ready = false → ∀ k, 1 ≤ k → k ≤ 7 →
       exec (.getSensorReading path k) s = .next (say s 0x211 0 (leBytes 1 2 ++ leBytes 1 2 ++ leBytes 4 0 ++ leBytes 2 0))) ∧
     (∀ k, (k = 0 ∨ 8 ≤ k) → exec (.getSensorReading path k) s = .next (say s 0x211 0x80 [])) ∧
     (s.ready = true → exec (.getStateSensorReadings path 16) s =
       .next (say s 0x221 0 (leBytes 1 1 ++ leBytes 1 0 ++ leBytes 1 (1 + s.fld RegF.pwrStsTripped) ++ leBytes 2 0))) ∧
     (s.ready = false → exec (.getStateSensorReadings path 16) s = .next (say s 0x221 0 (leBytes 1 1 ++ leBytes 1 2 ++ leBytes 3 0))) ∧
     exec (.getStateSensorReadings path 17) s =
       .next (say s 0x221 0 (leBytes 1 1 ++ leBytes 1 0 ++ leBytes 1 (s.bootState + 1) ++ leBytes 2 0)) ∧
     (∃ d, exec (.getPdrRepositoryInfo path) s = .next (say s 0x250 0 d) ∧ d.length = 40 ∧ field d 27 4 = 9) ∧
     (∀ h, h ≤ 9 → ∃ d, exec (.getPdr path h) s = .next (say s 0x251 0 d) ∧ d.length = 27 ∧
       field d 0 4 = (if h = 9 then 0 else max 1 h + 1) ∧ field d 11 4 = max 1 h) ∧
     (∀ h, 9 < h → exec (.getPdr path h) s = .next (say s 0x251 0x82 [])) ∧
     (∀ k, (k = 0 ∨ k = 2 → exec (.getPldmVersion path k) s =
         .next (say s.free.2 0x203 0 (leBytes 4 0 ++ leBytes 1 5 ++ leBytes 4 s.free.1.toNat))) ∧
       (k ≠ 0 → k ≠ 2 → exec (.getPldmVersion path k) s = .next (say s 0x203 0x83 []) ∧
         exec (.getPldmCommands path k) s = .next (say s 0x205 0x83 []))) ∧
     exec (.getPldmTypes path) s = .next (say s 0x204 0 (leBytes 8 5)) ∧
     exec (.getPldmCommands path 0) s = .next (say s 0x205 0 (leBytes 32 (2 ^ 3 + 2 ^ 4 + 2 ^ 5))) ∧
     exec (.getPldmCommands path 2) s = .next (say s 0x205 0 (leBytes 32 (2 ^ 2 + 2 ^ 0x11 + 2 ^ 0x21 + 2 ^ 0x50 + 2 ^ 0x51))))

/-! ### The whole block -/

/-- After a fundamental reset, before READY: the state of the first column of R459, and the reset values of the registers that R458's tables
give other than zero. The model chose the moment of State.reset, unwritten memory, the fuses and NOR (logs 2, 3, 4 and 6). -/
def Obligations.ResetLeavesTheModule : Prop :=
  let s := State.reset
  s.bootState = 0 ∧ s.ready = false ∧ s.fld RegF.glbStatusFailed = 0 ∧ s.fld RegF.bootProgressStep = 1 ∧ s.fld RegF.bootStsAttempts = 0 ∧
  (∀ c, s.flag RegF.ctxCtlEnable c = false ∧ s.cstate c = 0 ∧ s.prog c = none) ∧
  (∀ w, (s.wrota w).rota = { slots := [{ owner := none, fill := none, len := 1000 }], fillMax := 0 }) ∧
  (∀ d e, Tbl.get {} s.protAct (16 * d + e) = {}) ∧ s.fld RegF.protEpochEpoch = 0 ∧
  s.hold = List.replicate 64 0 ∧ s.time = 0 ∧ s.timeRun = false ∧ s.pwr.computeOn = false ∧
  (∀ r i j, r ≠ .wingRotaSlot → s.reg r i j = (r.rows.map (fun f => f.rst * 2 ^ f.lo)).sum) ∧
  (∀ p, s.fld RegF.lnkCfgSpareEn p = 1 ∧ s.fld RegF.lnkCfgHalfEn p = 1) ∧ (∀ d, s.fld RegF.kvaStsFreeSlots d = 2048) ∧
  (∀ p, s.portUp p = false) ∧ (∀ k, k < 96 → s.fld RegF.pwrTsensMax k = 0) ∧ s.evr.restored = false ∧ s.evr.held = [] ∧ s.pending = [] ∧
  s.MemoriesWf

/-- No command and no tick of the block stops it: every step answers a next state, with whatever status, record or flag the command leaves.
The model chose that a command that cannot act changes nothing (log 10), the idle tick (log 20), and what it counts and adapts (logs 100 and
120). -/
def Obligations.EveryStepCompletes : Prop :=
  (∀ (c : Instr) (s : State), ∃ t, exec c s = .next t) ∧ (∀ s : State, ∃ t, Machine.step s = .next t)

/-- Every step keeps each memory of the module and the host's memory in their canonical form, so that equal memories stay equal data. -/
def Obligations.StepsKeepMemoriesCanonical : Prop :=
  ∀ s t : State, s.MemoriesWf → Machine.step s = .next t → t.MemoriesWf

/-- No step writes a fuse, drops a record of the accession register that the mirror has put into NOR but by CLEAR_ACC, or touches the
commands that wait behind the one that runs; and the day book's copy in NOR changes by a copied record alone, which drops the oldest where
4,096 are kept (R357, R362, R392, R424, R427). The model chose the copy in NOR at CLEAR_ACC (log 54). -/
def Obligations.StepsKeepFusesAndQueue : Prop :=
  ∀ s t : State, Machine.step s = .next t → t.fuse = s.fuse ∧ t.pending = s.pending.tail ∧
    (s.pending.head? ≠ some .clearAcc → s.evr.norAcc <+: t.evr.norAcc) ∧
    (t.evr.norDay = s.evr.norDay ∨ ∃ e, t.evr.norDay = (s.evr.norDay ++ [e]).drop (s.evr.norDay.length + 1 - 4096))

/-! ### Rules in their own words -/

/-- R363: a GO in any state but WAIT_IMAGE is refused: GO_REFUSED and CODE = FW_BUSY (0x31) are set, REASON stays, and the boot is
unaffected. -/
def Obligations.GoOutsideWaitImageIsRefused : Prop :=
  ∀ s : State, s.rail = .on → s.bootState ≠ 1 → ∃ t, exec .go s = .next t ∧ t.fld RegF.bootStsGoRefused = 1 ∧ t.fld RegF.bootStsCode = 0x31 ∧
    t.fld RegF.bootStsReason = s.fld RegF.bootStsReason ∧ t.bootState = s.bootState ∧
    t.fld RegF.bootStsAttempts = s.fld RegF.bootStsAttempts ∧ t = { s with regs := t.regs } ∧ s.OtherRegs t [.bootSts]

/-- R25 and R28: E4M3 has no infinity, its NaN codes are 0x7F and 0xFF with 0x7F canonical, and its largest finite codes are 0x7E (+448) and
0xFE (−448); INT8, INT4 and INT32 are two's complement, and each uses its full range down to the most negative code. R24 and R26: the codes
of +Inf, of the canonical NaN and of the largest finite value in the formats that have infinities, and their negatives; the layout of E3M2,
E2M3 and E2M1, whose codes are all finite, with their largest codes and the eight non-negative values of E2M1. -/
def Obligations.CodesOfTheFormats : Prop :=
  ((∀ c neg, valueOf 7 c ≠ .inf neg) ∧ (∀ c, c < 256 → (valueOf 7 c = .nan ↔ c = 0x7F ∨ c = 0xFF)) ∧
   (∀ mode r e, (convert 7 mode r e .nan).code = 0x7F) ∧
   (∃ x y, valueOf 7 0x7E = .fin x ∧ valueOf 7 0xFE = .fin y ∧ x.units 0 = 448 ∧ y.units 0 = -448 ∧
     ∀ c d, c < 256 → valueOf 7 c = .fin d → d.ltMag x = true ∨ c = 0x7E ∨ c = 0xFE) ∧
   (∀ f w c, (f, w) ∈ [(0x0C, 8), (0x0D, 4), (0x0E, 32)] → c < 2 ^ w →
     ∃ d, valueOf f c = .fin d ∧ d.units 0 = (if c < 2 ^ (w - 1) then (c : Int) else (c : Int) - 2 ^ w) ∧
       ∀ mode r, convert f mode r 0 (valueOf f c) = { code := c })) ∧
  (let size := fun (v : XVal) => (match v with | .fin d => (d.m : ℚ) * (2 : ℚ) ^ d.e | _ => 0)
   (∀ fmt w inf nan big : Nat, (fmt, w, inf, nan, big) ∈ [(0x00, 64, 0x7FF0000000000000, 0x7FF8000000000000, 0x7FEFFFFFFFFFFFFF),
       (0x01, 32, 0x7F800000, 0x7FC00000, 0x7F7FFFFF), (0x02, 16, 0x7C00, 0x7E00, 0x7BFF), (0x03, 16, 0x7F80, 0x7FC0, 0x7F7F),
       (0x04, 16, 0x7FC0, 0x7FE0, 0x7FBF), (0x05, 48, 0x7F8000000000, 0x7FC000000000, 0x7F7FFFFFFFFF), (0x06, 8, 0x7C, 0x7E, 0x7B)] →
     valueOf fmt inf = .inf false ∧ valueOf fmt (inf + 2 ^ (w - 1)) = .inf true ∧ valueOf fmt nan = .nan ∧
     (∀ mode r s, (convert fmt mode r s .nan).code = nan) ∧
     (∃ d, valueOf fmt big = .fin d ∧ d.neg = false ∧ valueOf fmt (big + 2 ^ (w - 1)) = .fin { d with neg := true }) ∧
     (∀ c d, c < 2 ^ w → valueOf fmt c = .fin d → c ≠ big → c ≠ big + 2 ^ (w - 1) → size (.fin d) < size (valueOf fmt big))) ∧
   (∀ c, c ∈ [0x7D, 0x7E, 0x7F, 0xFD, 0xFE, 0xFF] → valueOf 0x06 c = .nan) ∧
   (∀ fmt w e f bias c : Nat, (fmt, w, e, f, bias) ∈ [(0x08, 6, 3, 2, 3), (0x09, 6, 2, 3, 1), (0x0A, 4, 2, 1, 1)] → c < 2 ^ w → ∃ d, valueOf fmt c = .fin d ∧
     d.neg = c.testBit (w - 1) ∧ d.units (1 - (bias : Int) - f) =
       (if c.testBit (w - 1) then -1 else 1) * (if bits c f e = 0 then (bits c 0 f : Int) else (bits c 0 f + 2 ^ f) * 2 ^ (bits c f e - 1))) ∧
   (∀ (fmt w big : Nat) (v : ℚ), (fmt, w, big, v) ∈ [(0x08, 6, 0x1F, 28), (0x09, 6, 0x1F, 15 / 2), (0x0A, 4, 0x7, 6)] →
     size (valueOf fmt big) = v ∧ size (valueOf fmt (big + 2 ^ (w - 1))) = v ∧
     ∀ c, c < 2 ^ w → c ≠ big → c ≠ big + 2 ^ (w - 1) → size (valueOf fmt c) < v) ∧
   (List.range 8).map (fun c => size (valueOf 0x0A c)) = [0, 1 / 2, 1, 3 / 2, 2, 3, 4, 6])

/-- R23: in the eleven floating formats a code has its sign S in its highest bit, then E of e bits, then F of f bits; its value is (−1)^S ×
2^(1−bias) × F/2^f for E = 0 and (−1)^S × 2^(E−bias) × (1 + F/2^f) above; with E all ones, formats with infinities have infinity for F = 0
and NaN for any other F, E4M3 has NaN for F = 111, and every other code is normal. -/
def Obligations.FloatingCodesHaveTheirValues : Prop :=
  ∀ fmt e f bias c : Nat, (fmt, e, f, bias) ∈ [(0x00, 11, 52, 1023), (0x01, 8, 23, 127), (0x02, 5, 10, 15), (0x03, 8, 7, 127), (0x04, 9, 6, 255),
      (0x05, 8, 39, 127), (0x06, 5, 2, 15), (0x07, 4, 3, 7), (0x08, 3, 2, 3), (0x09, 2, 3, 1), (0x0A, 2, 1, 1)] → c < 2 ^ (1 + e + f) →
    let S := c / 2 ^ (e + f)
    let E := c / 2 ^ f % 2 ^ e
    let F := c % 2 ^ f
    let top := 2 ^ e - 1
    let real := fun (d : Dy) => (if d.neg then (-1 : ℚ) else 1) * d.m * (2 : ℚ) ^ d.e
    let normal := ∃ d, valueOf fmt c = .fin d ∧ d.neg = (S == 1) ∧ real d = (-1) ^ S * (2 : ℚ) ^ ((E : Int) - bias) * (1 + F / 2 ^ f)
    (E = 0 → ∃ d, valueOf fmt c = .fin d ∧ d.neg = (S == 1) ∧ real d = (-1) ^ S * (2 : ℚ) ^ (1 - (bias : Int)) * (F / 2 ^ f)) ∧
    (0 < E → E < top → normal) ∧
    (E = top → (fmt ≤ 0x06 → valueOf fmt c = (if F = 0 then .inf (S == 1) else .nan)) ∧
      (fmt = 0x07 → F = 7 → valueOf fmt c = .nan) ∧ (fmt = 0x07 → F ≠ 7 → normal) ∧ (0x08 ≤ fmt → normal))

/-- Every finite value that a format holds converts into that format as its own code, in each rounding mode and with no report: no bit of a
code is dropped, and subnormal values and signed zeros are kept (R23, R24, R33, R35, R39 to R44). -/
def Obligations.CodesSurviveConversion : Prop :=
  (∀ fmt c mode r d, fmt ≤ 0x0E → c < 2 ^ fmtWidth fmt → valueOf fmt c = .fin d → convert fmt mode r 0 (.fin d) = { code := c }) ∧
  (∀ fmt b w c s mode r d, (fmt, w, b) ∈ [(0x0F, 64, 51), (0x10, 96, 63)] → c < 2 ^ w → valueOf fmt c s = .fin d →
    convert fmt mode r s (.fin d) = { code := c, breach := decide (2 ^ b ≤ (signed w c).natAbs) }) ∧
  (∀ fmt c t, floatFmt fmt = some t → c < 2 ^ fmtWidth fmt → bits c t.f t.e = 0 → bits c 0 t.f ≠ 0 → ∃ d, valueOf fmt c = .fin d ∧ d.m ≠ 0)
end

