-- ==== Sys2Proof/Laws/Control.lean ====
section
/-! SUPPORT. What the operations of the reduction control, of copies, of board-tier configuration and of the mirror can do. -/

namespace Sys2Proof.Machine

/-! ### Copies and scans (spec/12_rings_contexts_rota.md R342, spec/15_integrity_records_guarantees.md R407) -/

theorem State.allowedPrefix_le (s : State) (c : Nat) (old write : Bool) (k a n : Nat) : s.allowedPrefix c old write k a n ≤ n := by
  induction k generalizing a n with
  | zero => simp [State.allowedPrefix]
  | succ k ih =>
    simp only [State.allowedPrefix]
    split
    · omega
    · have := ih (a + min n (65536 - a % 65536)) (n - min n (65536 - a % 65536))
      omega

theorem foldl_min_le (l : List Nat) (n : Nat) : l.foldl min n ≤ n := by
  induction l generalizing n with
  | nil => simp
  | cons x l ih => exact Nat.le_trans (ih (min n x)) (Nat.min_le_left n x)

theorem State.sharedPrefix_le (s : State) (c a n : Nat) : s.sharedPrefix c a n ≤ n := foldl_min_le _ n

/-- The bytes that an aborted COPY or SCAN has done lie within its program's host-copy shares, and taking them uses one free value. -/
theorem State.partDone_spec (s : State) (c : Nat) (d : Desc) (write : Bool) (a n : Nat) :
    (s.partDone c d write a n).1 ≤ s.sharedPrefix c a n ∧ (s.partDone c d write a n).2 = s.free.2 := by
  refine ⟨?_, rfl⟩
  have h := Nat.mod_lt s.free.1.toNat (Nat.succ_pos (min (s.rangeReach c d.epochOld write a n).1 (s.sharedPrefix c a n)))
  exact Nat.le_trans (Nat.le_of_lt_succ h) (Nat.min_le_right _ _)

/-! ### Contributions (spec/02_number_formats.md R29, spec/09_ledger_reduction_update.md R254) -/

/-- Once a chunk has an exponent, a contribution with another changes nothing, and one with the same adds its elements. -/
theorem ChunkAcc.add_spec (w : Nat) (a : ChunkAcc) (h : ChunkHdr) (k : Int) (l : List Nat) (ha : a.elems ≠ []) :
    a.add w h k l = if a.scale = k then
      { a with hdr := a.hdr.merge h, elems := List.zipWith (fun x y => (x + y) % 2 ^ w) a.elems l } else a := by
  have : a.elems.isEmpty = false := by simpa [List.isEmpty_iff] using ha
  by_cases hk : a.scale = k <;> simp [ChunkAcc.add, this, hk]

/-! ### Board-tier configuration (spec/07_memory_tiers.md R203) -/

/-- A configuration request goes out for one header credit, and none without. -/
theorem BtPort.sendOne_spec (x : BtPort) :
    x.sendOne = x ∨ ∃ l t m, 0 < x.hdrCr ∧ x.sendOne =
      { x with cfgDue := l, cfgOut := x.cfgOut ++ [t], hdrCr := x.hdrCr - 1, sent := x.sent ++ [m] } := by
  unfold BtPort.sendOne
  split
  · split
    · exact .inl rfl
    · exact .inr ⟨_, _, _, by omega, rfl⟩
  · exact .inl rfl

/-! ### The mirror (spec/15_integrity_records_guarantees.md R424) -/

/-- NOR keeps at most 4,096 day-book records. -/
theorem Recorder.mirrorOne_norDay (r : Recorder) (h : r.norDay.length ≤ 4096) : r.mirrorOne.norDay.length ≤ 4096 := by
  unfold Recorder.mirrorOne
  split
  · exact h
  · dsimp only
    split
    · exact h
    · dsimp only
      split
      · rw [List.length_drop]; omega
      · exact h

end Sys2Proof.Machine
end

