-- ==== Sys2Proof/Laws/State.lean ====
section
/-! SUPPORT. What each update of the state leaves alone, field by field, and the larger updates in terms of these. -/

namespace Sys2Proof.Machine

variable (s : State)

/-! setReg changes regs. -/
@[simp] theorem State.setReg_mem (r : Reg) (i j v : Nat) : (s.setReg r i j v).mem = s.mem := rfl
@[simp] theorem State.setReg_hmem (r : Reg) (i j v : Nat) : (s.setReg r i j v).hmem = s.hmem := rfl
@[simp] theorem State.setReg_img (r : Reg) (i j v : Nat) : (s.setReg r i j v).img = s.img := rfl
@[simp] theorem State.setReg_land (r : Reg) (i j v : Nat) : (s.setReg r i j v).land = s.land := rfl
@[simp] theorem State.setReg_wcMem (r : Reg) (i j v : Nat) : (s.setReg r i j v).wcMem = s.wcMem := rfl
@[simp] theorem State.setReg_poison (r : Reg) (i j v : Nat) : (s.setReg r i j v).poison = s.poison := rfl
@[simp] theorem State.setReg_corrected (r : Reg) (i j v : Nat) : (s.setReg r i j v).corrected = s.corrected := rfl
@[simp] theorem State.setReg_fuse (r : Reg) (i j v : Nat) : (s.setReg r i j v).fuse = s.fuse := rfl
@[simp] theorem State.setReg_pins (r : Reg) (i j v : Nat) : (s.setReg r i j v).pins = s.pins := rfl
@[simp] theorem State.setReg_rail (r : Reg) (i j v : Nat) : (s.setReg r i j v).rail = s.rail := rfl
@[simp] theorem State.setReg_railTried (r : Reg) (i j v : Nat) : (s.setReg r i j v).railTried = s.railTried := rfl
@[simp] theorem State.setReg_boot (r : Reg) (i j v : Nat) : (s.setReg r i j v).boot = s.boot := rfl
@[simp] theorem State.setReg_time (r : Reg) (i j v : Nat) : (s.setReg r i j v).time = s.time := rfl
@[simp] theorem State.setReg_timeRun (r : Reg) (i j v : Nat) : (s.setReg r i j v).timeRun = s.timeRun := rfl
@[simp] theorem State.setReg_rate (r : Reg) (i j v : Nat) : (s.setReg r i j v).rate = s.rate := rfl
@[simp] theorem State.setReg_syncGood (r : Reg) (i j v : Nat) : (s.setReg r i j v).syncGood = s.syncGood := rfl
@[simp] theorem State.setReg_timeSet (r : Reg) (i j v : Nat) : (s.setReg r i j v).timeSet = s.timeSet := rfl
@[simp] theorem State.setReg_syncStamps (r : Reg) (i j v : Nat) : (s.setReg r i j v).syncStamps = s.syncStamps := rfl
@[simp] theorem State.setReg_certs (r : Reg) (i j v : Nat) : (s.setReg r i j v).certs = s.certs := rfl
@[simp] theorem State.setReg_ctx (r : Reg) (i j v : Nat) : (s.setReg r i j v).ctx = s.ctx := rfl
@[simp] theorem State.setReg_irqOut (r : Reg) (i j v : Nat) : (s.setReg r i j v).irqOut = s.irqOut := rfl
@[simp] theorem State.setReg_msixOpen (r : Reg) (i j v : Nat) : (s.setReg r i j v).msixOpen = s.msixOpen := rfl
@[simp] theorem State.setReg_msixPend (r : Reg) (i j v : Nat) : (s.setReg r i j v).msixPend = s.msixPend := rfl
@[simp] theorem State.setReg_ev (r : Reg) (i j v : Nat) : (s.setReg r i j v).ev = s.ev := rfl
@[simp] theorem State.setReg_evOwn (r : Reg) (i j v : Nat) : (s.setReg r i j v).evOwn = s.evOwn := rfl
@[simp] theorem State.setReg_arr (r : Reg) (i j v : Nat) : (s.setReg r i j v).arr = s.arr := rfl
@[simp] theorem State.setReg_starts (r : Reg) (i j v : Nat) : (s.setReg r i j v).starts = s.starts := rfl
@[simp] theorem State.setReg_eng (r : Reg) (i j v : Nat) : (s.setReg r i j v).eng = s.eng := rfl
@[simp] theorem State.setReg_strm (r : Reg) (i j v : Nat) : (s.setReg r i j v).strm = s.strm := rfl
@[simp] theorem State.setReg_mov (r : Reg) (i j v : Nat) : (s.setReg r i j v).mov = s.mov := rfl
@[simp] theorem State.setReg_cour (r : Reg) (i j v : Nat) : (s.setReg r i j v).cour = s.cour := rfl
@[simp] theorem State.setReg_shelf (r : Reg) (i j v : Nat) : (s.setReg r i j v).shelf = s.shelf := rfl
@[simp] theorem State.setReg_stk (r : Reg) (i j v : Nat) : (s.setReg r i j v).stk = s.stk := rfl
@[simp] theorem State.setReg_bt (r : Reg) (i j v : Nat) : (s.setReg r i j v).bt = s.bt := rfl
@[simp] theorem State.setReg_lf (r : Reg) (i j v : Nat) : (s.setReg r i j v).lf = s.lf := rfl
@[simp] theorem State.setReg_port (r : Reg) (i j v : Nat) : (s.setReg r i j v).port = s.port := rfl
@[simp] theorem State.setReg_rq (r : Reg) (i j v : Nat) : (s.setReg r i j v).rq = s.rq := rfl
@[simp] theorem State.setReg_seqs (r : Reg) (i j v : Nat) : (s.setReg r i j v).seqs = s.seqs := rfl
@[simp] theorem State.setReg_kvWait (r : Reg) (i j v : Nat) : (s.setReg r i j v).kvWait = s.kvWait := rfl
@[simp] theorem State.setReg_smq (r : Reg) (i j v : Nat) : (s.setReg r i j v).smq = s.smq := rfl
@[simp] theorem State.setReg_rota (r : Reg) (i j v : Nat) : (s.setReg r i j v).rota = s.rota := rfl
@[simp] theorem State.setReg_rotaPend (r : Reg) (i j v : Nat) : (s.setReg r i j v).rotaPend = s.rotaPend := rfl
@[simp] theorem State.setReg_rotaAt (r : Reg) (i j v : Nat) : (s.setReg r i j v).rotaAt = s.rotaAt := rfl
@[simp] theorem State.setReg_accs (r : Reg) (i j v : Nat) : (s.setReg r i j v).accs = s.accs := rfl
@[simp] theorem State.setReg_protStage (r : Reg) (i j v : Nat) : (s.setReg r i j v).protStage = s.protStage := rfl
@[simp] theorem State.setReg_protAct (r : Reg) (i j v : Nat) : (s.setReg r i j v).protAct = s.protAct := rfl
@[simp] theorem State.setReg_protPrev (r : Reg) (i j v : Nat) : (s.setReg r i j v).protPrev = s.protPrev := rfl
@[simp] theorem State.setReg_protHeld (r : Reg) (i j v : Nat) : (s.setReg r i j v).protHeld = s.protHeld := rfl
@[simp] theorem State.setReg_scope (r : Reg) (i j v : Nat) : (s.setReg r i j v).scope = s.scope := rfl
@[simp] theorem State.setReg_hold (r : Reg) (i j v : Nat) : (s.setReg r i j v).hold = s.hold := rfl
@[simp] theorem State.setReg_evr (r : Reg) (i j v : Nat) : (s.setReg r i j v).evr = s.evr := rfl
@[simp] theorem State.setReg_cond (r : Reg) (i j v : Nat) : (s.setReg r i j v).cond = s.cond := rfl
@[simp] theorem State.setReg_pwr (r : Reg) (i j v : Nat) : (s.setReg r i j v).pwr = s.pwr := rfl
@[simp] theorem State.setReg_scans (r : Reg) (i j v : Nat) : (s.setReg r i j v).scans = s.scans := rfl
@[simp] theorem State.setReg_digs (r : Reg) (i j v : Nat) : (s.setReg r i j v).digs = s.digs := rfl
@[simp] theorem State.setReg_atts (r : Reg) (i j v : Nat) : (s.setReg r i j v).atts = s.atts := rfl
@[simp] theorem State.setReg_slots (r : Reg) (i j v : Nat) : (s.setReg r i j v).slots = s.slots := rfl
@[simp] theorem State.setReg_chan (r : Reg) (i j v : Nat) : (s.setReg r i j v).chan = s.chan := rfl
@[simp] theorem State.setReg_replies (r : Reg) (i j v : Nat) : (s.setReg r i j v).replies = s.replies := rfl
@[simp] theorem State.setReg_eids (r : Reg) (i j v : Nat) : (s.setReg r i j v).eids = s.eids := rfl
@[simp] theorem State.setReg_freeCtr (r : Reg) (i j v : Nat) : (s.setReg r i j v).freeCtr = s.freeCtr := rfl
@[simp] theorem State.setReg_pending (r : Reg) (i j v : Nat) : (s.setReg r i j v).pending = s.pending := rfl

/-! setFld changes regs. -/
@[simp] theorem State.setFld_mem (f : Fld) (v i j : Nat) : (s.setFld f v i j).mem = s.mem := rfl
@[simp] theorem State.setFld_hmem (f : Fld) (v i j : Nat) : (s.setFld f v i j).hmem = s.hmem := rfl
@[simp] theorem State.setFld_img (f : Fld) (v i j : Nat) : (s.setFld f v i j).img = s.img := rfl
@[simp] theorem State.setFld_land (f : Fld) (v i j : Nat) : (s.setFld f v i j).land = s.land := rfl
@[simp] theorem State.setFld_wcMem (f : Fld) (v i j : Nat) : (s.setFld f v i j).wcMem = s.wcMem := rfl
@[simp] theorem State.setFld_poison (f : Fld) (v i j : Nat) : (s.setFld f v i j).poison = s.poison := rfl
@[simp] theorem State.setFld_corrected (f : Fld) (v i j : Nat) : (s.setFld f v i j).corrected = s.corrected := rfl
@[simp] theorem State.setFld_fuse (f : Fld) (v i j : Nat) : (s.setFld f v i j).fuse = s.fuse := rfl
@[simp] theorem State.setFld_pins (f : Fld) (v i j : Nat) : (s.setFld f v i j).pins = s.pins := rfl
@[simp] theorem State.setFld_rail (f : Fld) (v i j : Nat) : (s.setFld f v i j).rail = s.rail := rfl
@[simp] theorem State.setFld_railTried (f : Fld) (v i j : Nat) : (s.setFld f v i j).railTried = s.railTried := rfl
@[simp] theorem State.setFld_boot (f : Fld) (v i j : Nat) : (s.setFld f v i j).boot = s.boot := rfl
@[simp] theorem State.setFld_time (f : Fld) (v i j : Nat) : (s.setFld f v i j).time = s.time := rfl
@[simp] theorem State.setFld_timeRun (f : Fld) (v i j : Nat) : (s.setFld f v i j).timeRun = s.timeRun := rfl
@[simp] theorem State.setFld_rate (f : Fld) (v i j : Nat) : (s.setFld f v i j).rate = s.rate := rfl
@[simp] theorem State.setFld_syncGood (f : Fld) (v i j : Nat) : (s.setFld f v i j).syncGood = s.syncGood := rfl
@[simp] theorem State.setFld_timeSet (f : Fld) (v i j : Nat) : (s.setFld f v i j).timeSet = s.timeSet := rfl
@[simp] theorem State.setFld_syncStamps (f : Fld) (v i j : Nat) : (s.setFld f v i j).syncStamps = s.syncStamps := rfl
@[simp] theorem State.setFld_certs (f : Fld) (v i j : Nat) : (s.setFld f v i j).certs = s.certs := rfl
@[simp] theorem State.setFld_ctx (f : Fld) (v i j : Nat) : (s.setFld f v i j).ctx = s.ctx := rfl
@[simp] theorem State.setFld_irqOut (f : Fld) (v i j : Nat) : (s.setFld f v i j).irqOut = s.irqOut := rfl
@[simp] theorem State.setFld_msixOpen (f : Fld) (v i j : Nat) : (s.setFld f v i j).msixOpen = s.msixOpen := rfl
@[simp] theorem State.setFld_msixPend (f : Fld) (v i j : Nat) : (s.setFld f v i j).msixPend = s.msixPend := rfl
@[simp] theorem State.setFld_ev (f : Fld) (v i j : Nat) : (s.setFld f v i j).ev = s.ev := rfl
@[simp] theorem State.setFld_evOwn (f : Fld) (v i j : Nat) : (s.setFld f v i j).evOwn = s.evOwn := rfl
@[simp] theorem State.setFld_arr (f : Fld) (v i j : Nat) : (s.setFld f v i j).arr = s.arr := rfl
@[simp] theorem State.setFld_starts (f : Fld) (v i j : Nat) : (s.setFld f v i j).starts = s.starts := rfl
@[simp] theorem State.setFld_eng (f : Fld) (v i j : Nat) : (s.setFld f v i j).eng = s.eng := rfl
@[simp] theorem State.setFld_strm (f : Fld) (v i j : Nat) : (s.setFld f v i j).strm = s.strm := rfl
@[simp] theorem State.setFld_mov (f : Fld) (v i j : Nat) : (s.setFld f v i j).mov = s.mov := rfl
@[simp] theorem State.setFld_cour (f : Fld) (v i j : Nat) : (s.setFld f v i j).cour = s.cour := rfl
@[simp] theorem State.setFld_shelf (f : Fld) (v i j : Nat) : (s.setFld f v i j).shelf = s.shelf := rfl
@[simp] theorem State.setFld_stk (f : Fld) (v i j : Nat) : (s.setFld f v i j).stk = s.stk := rfl
@[simp] theorem State.setFld_bt (f : Fld) (v i j : Nat) : (s.setFld f v i j).bt = s.bt := rfl
@[simp] theorem State.setFld_lf (f : Fld) (v i j : Nat) : (s.setFld f v i j).lf = s.lf := rfl
@[simp] theorem State.setFld_port (f : Fld) (v i j : Nat) : (s.setFld f v i j).port = s.port := rfl
@[simp] theorem State.setFld_rq (f : Fld) (v i j : Nat) : (s.setFld f v i j).rq = s.rq := rfl
@[simp] theorem State.setFld_seqs (f : Fld) (v i j : Nat) : (s.setFld f v i j).seqs = s.seqs := rfl
@[simp] theorem State.setFld_kvWait (f : Fld) (v i j : Nat) : (s.setFld f v i j).kvWait = s.kvWait := rfl
@[simp] theorem State.setFld_smq (f : Fld) (v i j : Nat) : (s.setFld f v i j).smq = s.smq := rfl
@[simp] theorem State.setFld_rota (f : Fld) (v i j : Nat) : (s.setFld f v i j).rota = s.rota := rfl
@[simp] theorem State.setFld_rotaPend (f : Fld) (v i j : Nat) : (s.setFld f v i j).rotaPend = s.rotaPend := rfl
@[simp] theorem State.setFld_rotaAt (f : Fld) (v i j : Nat) : (s.setFld f v i j).rotaAt = s.rotaAt := rfl
@[simp] theorem State.setFld_accs (f : Fld) (v i j : Nat) : (s.setFld f v i j).accs = s.accs := rfl
@[simp] theorem State.setFld_protStage (f : Fld) (v i j : Nat) : (s.setFld f v i j).protStage = s.protStage := rfl
@[simp] theorem State.setFld_protAct (f : Fld) (v i j : Nat) : (s.setFld f v i j).protAct = s.protAct := rfl
@[simp] theorem State.setFld_protPrev (f : Fld) (v i j : Nat) : (s.setFld f v i j).protPrev = s.protPrev := rfl
@[simp] theorem State.setFld_protHeld (f : Fld) (v i j : Nat) : (s.setFld f v i j).protHeld = s.protHeld := rfl
@[simp] theorem State.setFld_scope (f : Fld) (v i j : Nat) : (s.setFld f v i j).scope = s.scope := rfl
@[simp] theorem State.setFld_hold (f : Fld) (v i j : Nat) : (s.setFld f v i j).hold = s.hold := rfl
@[simp] theorem State.setFld_evr (f : Fld) (v i j : Nat) : (s.setFld f v i j).evr = s.evr := rfl
@[simp] theorem State.setFld_cond (f : Fld) (v i j : Nat) : (s.setFld f v i j).cond = s.cond := rfl
@[simp] theorem State.setFld_pwr (f : Fld) (v i j : Nat) : (s.setFld f v i j).pwr = s.pwr := rfl
@[simp] theorem State.setFld_scans (f : Fld) (v i j : Nat) : (s.setFld f v i j).scans = s.scans := rfl
@[simp] theorem State.setFld_digs (f : Fld) (v i j : Nat) : (s.setFld f v i j).digs = s.digs := rfl
@[simp] theorem State.setFld_atts (f : Fld) (v i j : Nat) : (s.setFld f v i j).atts = s.atts := rfl
@[simp] theorem State.setFld_slots (f : Fld) (v i j : Nat) : (s.setFld f v i j).slots = s.slots := rfl
@[simp] theorem State.setFld_chan (f : Fld) (v i j : Nat) : (s.setFld f v i j).chan = s.chan := rfl
@[simp] theorem State.setFld_replies (f : Fld) (v i j : Nat) : (s.setFld f v i j).replies = s.replies := rfl
@[simp] theorem State.setFld_eids (f : Fld) (v i j : Nat) : (s.setFld f v i j).eids = s.eids := rfl
@[simp] theorem State.setFld_freeCtr (f : Fld) (v i j : Nat) : (s.setFld f v i j).freeCtr = s.freeCtr := rfl
@[simp] theorem State.setFld_pending (f : Fld) (v i j : Nat) : (s.setFld f v i j).pending = s.pending := rfl

/-! setCx changes ctx. -/
@[simp] theorem State.setCx_regs (c : Nat) (x : Context) : (s.setCx c x).regs = s.regs := rfl
@[simp] theorem State.setCx_mem (c : Nat) (x : Context) : (s.setCx c x).mem = s.mem := rfl
@[simp] theorem State.setCx_hmem (c : Nat) (x : Context) : (s.setCx c x).hmem = s.hmem := rfl
@[simp] theorem State.setCx_img (c : Nat) (x : Context) : (s.setCx c x).img = s.img := rfl
@[simp] theorem State.setCx_land (c : Nat) (x : Context) : (s.setCx c x).land = s.land := rfl
@[simp] theorem State.setCx_wcMem (c : Nat) (x : Context) : (s.setCx c x).wcMem = s.wcMem := rfl
@[simp] theorem State.setCx_poison (c : Nat) (x : Context) : (s.setCx c x).poison = s.poison := rfl
@[simp] theorem State.setCx_corrected (c : Nat) (x : Context) : (s.setCx c x).corrected = s.corrected := rfl
@[simp] theorem State.setCx_fuse (c : Nat) (x : Context) : (s.setCx c x).fuse = s.fuse := rfl
@[simp] theorem State.setCx_pins (c : Nat) (x : Context) : (s.setCx c x).pins = s.pins := rfl
@[simp] theorem State.setCx_rail (c : Nat) (x : Context) : (s.setCx c x).rail = s.rail := rfl
@[simp] theorem State.setCx_railTried (c : Nat) (x : Context) : (s.setCx c x).railTried = s.railTried := rfl
@[simp] theorem State.setCx_boot (c : Nat) (x : Context) : (s.setCx c x).boot = s.boot := rfl
@[simp] theorem State.setCx_time (c : Nat) (x : Context) : (s.setCx c x).time = s.time := rfl
@[simp] theorem State.setCx_timeRun (c : Nat) (x : Context) : (s.setCx c x).timeRun = s.timeRun := rfl
@[simp] theorem State.setCx_rate (c : Nat) (x : Context) : (s.setCx c x).rate = s.rate := rfl
@[simp] theorem State.setCx_syncGood (c : Nat) (x : Context) : (s.setCx c x).syncGood = s.syncGood := rfl
@[simp] theorem State.setCx_timeSet (c : Nat) (x : Context) : (s.setCx c x).timeSet = s.timeSet := rfl
@[simp] theorem State.setCx_syncStamps (c : Nat) (x : Context) : (s.setCx c x).syncStamps = s.syncStamps := rfl
@[simp] theorem State.setCx_certs (c : Nat) (x : Context) : (s.setCx c x).certs = s.certs := rfl
@[simp] theorem State.setCx_irqOut (c : Nat) (x : Context) : (s.setCx c x).irqOut = s.irqOut := rfl
@[simp] theorem State.setCx_msixOpen (c : Nat) (x : Context) : (s.setCx c x).msixOpen = s.msixOpen := rfl
@[simp] theorem State.setCx_msixPend (c : Nat) (x : Context) : (s.setCx c x).msixPend = s.msixPend := rfl
@[simp] theorem State.setCx_ev (c : Nat) (x : Context) : (s.setCx c x).ev = s.ev := rfl
@[simp] theorem State.setCx_evOwn (c : Nat) (x : Context) : (s.setCx c x).evOwn = s.evOwn := rfl
@[simp] theorem State.setCx_arr (c : Nat) (x : Context) : (s.setCx c x).arr = s.arr := rfl
@[simp] theorem State.setCx_starts (c : Nat) (x : Context) : (s.setCx c x).starts = s.starts := rfl
@[simp] theorem State.setCx_eng (c : Nat) (x : Context) : (s.setCx c x).eng = s.eng := rfl
@[simp] theorem State.setCx_strm (c : Nat) (x : Context) : (s.setCx c x).strm = s.strm := rfl
@[simp] theorem State.setCx_mov (c : Nat) (x : Context) : (s.setCx c x).mov = s.mov := rfl
@[simp] theorem State.setCx_cour (c : Nat) (x : Context) : (s.setCx c x).cour = s.cour := rfl
@[simp] theorem State.setCx_shelf (c : Nat) (x : Context) : (s.setCx c x).shelf = s.shelf := rfl
@[simp] theorem State.setCx_stk (c : Nat) (x : Context) : (s.setCx c x).stk = s.stk := rfl
@[simp] theorem State.setCx_bt (c : Nat) (x : Context) : (s.setCx c x).bt = s.bt := rfl
@[simp] theorem State.setCx_lf (c : Nat) (x : Context) : (s.setCx c x).lf = s.lf := rfl
@[simp] theorem State.setCx_port (c : Nat) (x : Context) : (s.setCx c x).port = s.port := rfl
@[simp] theorem State.setCx_rq (c : Nat) (x : Context) : (s.setCx c x).rq = s.rq := rfl
@[simp] theorem State.setCx_seqs (c : Nat) (x : Context) : (s.setCx c x).seqs = s.seqs := rfl
@[simp] theorem State.setCx_kvWait (c : Nat) (x : Context) : (s.setCx c x).kvWait = s.kvWait := rfl
@[simp] theorem State.setCx_smq (c : Nat) (x : Context) : (s.setCx c x).smq = s.smq := rfl
@[simp] theorem State.setCx_rota (c : Nat) (x : Context) : (s.setCx c x).rota = s.rota := rfl
@[simp] theorem State.setCx_rotaPend (c : Nat) (x : Context) : (s.setCx c x).rotaPend = s.rotaPend := rfl
@[simp] theorem State.setCx_rotaAt (c : Nat) (x : Context) : (s.setCx c x).rotaAt = s.rotaAt := rfl
@[simp] theorem State.setCx_accs (c : Nat) (x : Context) : (s.setCx c x).accs = s.accs := rfl
@[simp] theorem State.setCx_protStage (c : Nat) (x : Context) : (s.setCx c x).protStage = s.protStage := rfl
@[simp] theorem State.setCx_protAct (c : Nat) (x : Context) : (s.setCx c x).protAct = s.protAct := rfl
@[simp] theorem State.setCx_protPrev (c : Nat) (x : Context) : (s.setCx c x).protPrev = s.protPrev := rfl
@[simp] theorem State.setCx_protHeld (c : Nat) (x : Context) : (s.setCx c x).protHeld = s.protHeld := rfl
@[simp] theorem State.setCx_scope (c : Nat) (x : Context) : (s.setCx c x).scope = s.scope := rfl
@[simp] theorem State.setCx_hold (c : Nat) (x : Context) : (s.setCx c x).hold = s.hold := rfl
@[simp] theorem State.setCx_evr (c : Nat) (x : Context) : (s.setCx c x).evr = s.evr := rfl
@[simp] theorem State.setCx_cond (c : Nat) (x : Context) : (s.setCx c x).cond = s.cond := rfl
@[simp] theorem State.setCx_pwr (c : Nat) (x : Context) : (s.setCx c x).pwr = s.pwr := rfl
@[simp] theorem State.setCx_scans (c : Nat) (x : Context) : (s.setCx c x).scans = s.scans := rfl
@[simp] theorem State.setCx_digs (c : Nat) (x : Context) : (s.setCx c x).digs = s.digs := rfl
@[simp] theorem State.setCx_atts (c : Nat) (x : Context) : (s.setCx c x).atts = s.atts := rfl
@[simp] theorem State.setCx_slots (c : Nat) (x : Context) : (s.setCx c x).slots = s.slots := rfl
@[simp] theorem State.setCx_chan (c : Nat) (x : Context) : (s.setCx c x).chan = s.chan := rfl
@[simp] theorem State.setCx_replies (c : Nat) (x : Context) : (s.setCx c x).replies = s.replies := rfl
@[simp] theorem State.setCx_eids (c : Nat) (x : Context) : (s.setCx c x).eids = s.eids := rfl
@[simp] theorem State.setCx_freeCtr (c : Nat) (x : Context) : (s.setCx c x).freeCtr = s.freeCtr := rfl
@[simp] theorem State.setCx_pending (c : Nat) (x : Context) : (s.setCx c x).pending = s.pending := rfl

/-! setEngine changes eng. -/
@[simp] theorem State.setEngine_regs (e : Nat) (x : Engine) : (s.setEngine e x).regs = s.regs := rfl
@[simp] theorem State.setEngine_mem (e : Nat) (x : Engine) : (s.setEngine e x).mem = s.mem := rfl
@[simp] theorem State.setEngine_hmem (e : Nat) (x : Engine) : (s.setEngine e x).hmem = s.hmem := rfl
@[simp] theorem State.setEngine_img (e : Nat) (x : Engine) : (s.setEngine e x).img = s.img := rfl
@[simp] theorem State.setEngine_land (e : Nat) (x : Engine) : (s.setEngine e x).land = s.land := rfl
@[simp] theorem State.setEngine_wcMem (e : Nat) (x : Engine) : (s.setEngine e x).wcMem = s.wcMem := rfl
@[simp] theorem State.setEngine_poison (e : Nat) (x : Engine) : (s.setEngine e x).poison = s.poison := rfl
@[simp] theorem State.setEngine_corrected (e : Nat) (x : Engine) : (s.setEngine e x).corrected = s.corrected := rfl
@[simp] theorem State.setEngine_fuse (e : Nat) (x : Engine) : (s.setEngine e x).fuse = s.fuse := rfl
@[simp] theorem State.setEngine_pins (e : Nat) (x : Engine) : (s.setEngine e x).pins = s.pins := rfl
@[simp] theorem State.setEngine_rail (e : Nat) (x : Engine) : (s.setEngine e x).rail = s.rail := rfl
@[simp] theorem State.setEngine_railTried (e : Nat) (x : Engine) : (s.setEngine e x).railTried = s.railTried := rfl
@[simp] theorem State.setEngine_boot (e : Nat) (x : Engine) : (s.setEngine e x).boot = s.boot := rfl
@[simp] theorem State.setEngine_time (e : Nat) (x : Engine) : (s.setEngine e x).time = s.time := rfl
@[simp] theorem State.setEngine_timeRun (e : Nat) (x : Engine) : (s.setEngine e x).timeRun = s.timeRun := rfl
@[simp] theorem State.setEngine_rate (e : Nat) (x : Engine) : (s.setEngine e x).rate = s.rate := rfl
@[simp] theorem State.setEngine_syncGood (e : Nat) (x : Engine) : (s.setEngine e x).syncGood = s.syncGood := rfl
@[simp] theorem State.setEngine_timeSet (e : Nat) (x : Engine) : (s.setEngine e x).timeSet = s.timeSet := rfl
@[simp] theorem State.setEngine_syncStamps (e : Nat) (x : Engine) : (s.setEngine e x).syncStamps = s.syncStamps := rfl
@[simp] theorem State.setEngine_certs (e : Nat) (x : Engine) : (s.setEngine e x).certs = s.certs := rfl
@[simp] theorem State.setEngine_ctx (e : Nat) (x : Engine) : (s.setEngine e x).ctx = s.ctx := rfl
@[simp] theorem State.setEngine_irqOut (e : Nat) (x : Engine) : (s.setEngine e x).irqOut = s.irqOut := rfl
@[simp] theorem State.setEngine_msixOpen (e : Nat) (x : Engine) : (s.setEngine e x).msixOpen = s.msixOpen := rfl
@[simp] theorem State.setEngine_msixPend (e : Nat) (x : Engine) : (s.setEngine e x).msixPend = s.msixPend := rfl
@[simp] theorem State.setEngine_ev (e : Nat) (x : Engine) : (s.setEngine e x).ev = s.ev := rfl
@[simp] theorem State.setEngine_evOwn (e : Nat) (x : Engine) : (s.setEngine e x).evOwn = s.evOwn := rfl
@[simp] theorem State.setEngine_arr (e : Nat) (x : Engine) : (s.setEngine e x).arr = s.arr := rfl
@[simp] theorem State.setEngine_starts (e : Nat) (x : Engine) : (s.setEngine e x).starts = s.starts := rfl
@[simp] theorem State.setEngine_strm (e : Nat) (x : Engine) : (s.setEngine e x).strm = s.strm := rfl
@[simp] theorem State.setEngine_mov (e : Nat) (x : Engine) : (s.setEngine e x).mov = s.mov := rfl
@[simp] theorem State.setEngine_cour (e : Nat) (x : Engine) : (s.setEngine e x).cour = s.cour := rfl
@[simp] theorem State.setEngine_shelf (e : Nat) (x : Engine) : (s.setEngine e x).shelf = s.shelf := rfl
@[simp] theorem State.setEngine_stk (e : Nat) (x : Engine) : (s.setEngine e x).stk = s.stk := rfl
@[simp] theorem State.setEngine_bt (e : Nat) (x : Engine) : (s.setEngine e x).bt = s.bt := rfl
@[simp] theorem State.setEngine_lf (e : Nat) (x : Engine) : (s.setEngine e x).lf = s.lf := rfl
@[simp] theorem State.setEngine_port (e : Nat) (x : Engine) : (s.setEngine e x).port = s.port := rfl
@[simp] theorem State.setEngine_rq (e : Nat) (x : Engine) : (s.setEngine e x).rq = s.rq := rfl
@[simp] theorem State.setEngine_seqs (e : Nat) (x : Engine) : (s.setEngine e x).seqs = s.seqs := rfl
@[simp] theorem State.setEngine_kvWait (e : Nat) (x : Engine) : (s.setEngine e x).kvWait = s.kvWait := rfl
@[simp] theorem State.setEngine_smq (e : Nat) (x : Engine) : (s.setEngine e x).smq = s.smq := rfl
@[simp] theorem State.setEngine_rota (e : Nat) (x : Engine) : (s.setEngine e x).rota = s.rota := rfl
@[simp] theorem State.setEngine_rotaPend (e : Nat) (x : Engine) : (s.setEngine e x).rotaPend = s.rotaPend := rfl
@[simp] theorem State.setEngine_rotaAt (e : Nat) (x : Engine) : (s.setEngine e x).rotaAt = s.rotaAt := rfl
@[simp] theorem State.setEngine_accs (e : Nat) (x : Engine) : (s.setEngine e x).accs = s.accs := rfl
@[simp] theorem State.setEngine_protStage (e : Nat) (x : Engine) : (s.setEngine e x).protStage = s.protStage := rfl
@[simp] theorem State.setEngine_protAct (e : Nat) (x : Engine) : (s.setEngine e x).protAct = s.protAct := rfl
@[simp] theorem State.setEngine_protPrev (e : Nat) (x : Engine) : (s.setEngine e x).protPrev = s.protPrev := rfl
@[simp] theorem State.setEngine_protHeld (e : Nat) (x : Engine) : (s.setEngine e x).protHeld = s.protHeld := rfl
@[simp] theorem State.setEngine_scope (e : Nat) (x : Engine) : (s.setEngine e x).scope = s.scope := rfl
@[simp] theorem State.setEngine_hold (e : Nat) (x : Engine) : (s.setEngine e x).hold = s.hold := rfl
@[simp] theorem State.setEngine_evr (e : Nat) (x : Engine) : (s.setEngine e x).evr = s.evr := rfl
@[simp] theorem State.setEngine_cond (e : Nat) (x : Engine) : (s.setEngine e x).cond = s.cond := rfl
@[simp] theorem State.setEngine_pwr (e : Nat) (x : Engine) : (s.setEngine e x).pwr = s.pwr := rfl
@[simp] theorem State.setEngine_scans (e : Nat) (x : Engine) : (s.setEngine e x).scans = s.scans := rfl
@[simp] theorem State.setEngine_digs (e : Nat) (x : Engine) : (s.setEngine e x).digs = s.digs := rfl
@[simp] theorem State.setEngine_atts (e : Nat) (x : Engine) : (s.setEngine e x).atts = s.atts := rfl
@[simp] theorem State.setEngine_slots (e : Nat) (x : Engine) : (s.setEngine e x).slots = s.slots := rfl
@[simp] theorem State.setEngine_chan (e : Nat) (x : Engine) : (s.setEngine e x).chan = s.chan := rfl
@[simp] theorem State.setEngine_replies (e : Nat) (x : Engine) : (s.setEngine e x).replies = s.replies := rfl
@[simp] theorem State.setEngine_eids (e : Nat) (x : Engine) : (s.setEngine e x).eids = s.eids := rfl
@[simp] theorem State.setEngine_freeCtr (e : Nat) (x : Engine) : (s.setEngine e x).freeCtr = s.freeCtr := rfl
@[simp] theorem State.setEngine_pending (e : Nat) (x : Engine) : (s.setEngine e x).pending = s.pending := rfl

/-! setArray changes arr. -/
@[simp] theorem State.setArray_regs (a : Nat) (x : ArrayU) : (s.setArray a x).regs = s.regs := rfl
@[simp] theorem State.setArray_mem (a : Nat) (x : ArrayU) : (s.setArray a x).mem = s.mem := rfl
@[simp] theorem State.setArray_hmem (a : Nat) (x : ArrayU) : (s.setArray a x).hmem = s.hmem := rfl
@[simp] theorem State.setArray_img (a : Nat) (x : ArrayU) : (s.setArray a x).img = s.img := rfl
@[simp] theorem State.setArray_land (a : Nat) (x : ArrayU) : (s.setArray a x).land = s.land := rfl
@[simp] theorem State.setArray_wcMem (a : Nat) (x : ArrayU) : (s.setArray a x).wcMem = s.wcMem := rfl
@[simp] theorem State.setArray_poison (a : Nat) (x : ArrayU) : (s.setArray a x).poison = s.poison := rfl
@[simp] theorem State.setArray_corrected (a : Nat) (x : ArrayU) : (s.setArray a x).corrected = s.corrected := rfl
@[simp] theorem State.setArray_fuse (a : Nat) (x : ArrayU) : (s.setArray a x).fuse = s.fuse := rfl
@[simp] theorem State.setArray_pins (a : Nat) (x : ArrayU) : (s.setArray a x).pins = s.pins := rfl
@[simp] theorem State.setArray_rail (a : Nat) (x : ArrayU) : (s.setArray a x).rail = s.rail := rfl
@[simp] theorem State.setArray_railTried (a : Nat) (x : ArrayU) : (s.setArray a x).railTried = s.railTried := rfl
@[simp] theorem State.setArray_boot (a : Nat) (x : ArrayU) : (s.setArray a x).boot = s.boot := rfl
@[simp] theorem State.setArray_time (a : Nat) (x : ArrayU) : (s.setArray a x).time = s.time := rfl
@[simp] theorem State.setArray_timeRun (a : Nat) (x : ArrayU) : (s.setArray a x).timeRun = s.timeRun := rfl
@[simp] theorem State.setArray_rate (a : Nat) (x : ArrayU) : (s.setArray a x).rate = s.rate := rfl
@[simp] theorem State.setArray_syncGood (a : Nat) (x : ArrayU) : (s.setArray a x).syncGood = s.syncGood := rfl
@[simp] theorem State.setArray_timeSet (a : Nat) (x : ArrayU) : (s.setArray a x).timeSet = s.timeSet := rfl
@[simp] theorem State.setArray_syncStamps (a : Nat) (x : ArrayU) : (s.setArray a x).syncStamps = s.syncStamps := rfl
@[simp] theorem State.setArray_certs (a : Nat) (x : ArrayU) : (s.setArray a x).certs = s.certs := rfl
@[simp] theorem State.setArray_ctx (a : Nat) (x : ArrayU) : (s.setArray a x).ctx = s.ctx := rfl
@[simp] theorem State.setArray_irqOut (a : Nat) (x : ArrayU) : (s.setArray a x).irqOut = s.irqOut := rfl
@[simp] theorem State.setArray_msixOpen (a : Nat) (x : ArrayU) : (s.setArray a x).msixOpen = s.msixOpen := rfl
@[simp] theorem State.setArray_msixPend (a : Nat) (x : ArrayU) : (s.setArray a x).msixPend = s.msixPend := rfl
@[simp] theorem State.setArray_ev (a : Nat) (x : ArrayU) : (s.setArray a x).ev = s.ev := rfl
@[simp] theorem State.setArray_evOwn (a : Nat) (x : ArrayU) : (s.setArray a x).evOwn = s.evOwn := rfl
@[simp] theorem State.setArray_starts (a : Nat) (x : ArrayU) : (s.setArray a x).starts = s.starts := rfl
@[simp] theorem State.setArray_eng (a : Nat) (x : ArrayU) : (s.setArray a x).eng = s.eng := rfl
@[simp] theorem State.setArray_strm (a : Nat) (x : ArrayU) : (s.setArray a x).strm = s.strm := rfl
@[simp] theorem State.setArray_mov (a : Nat) (x : ArrayU) : (s.setArray a x).mov = s.mov := rfl
@[simp] theorem State.setArray_cour (a : Nat) (x : ArrayU) : (s.setArray a x).cour = s.cour := rfl
@[simp] theorem State.setArray_shelf (a : Nat) (x : ArrayU) : (s.setArray a x).shelf = s.shelf := rfl
@[simp] theorem State.setArray_stk (a : Nat) (x : ArrayU) : (s.setArray a x).stk = s.stk := rfl
@[simp] theorem State.setArray_bt (a : Nat) (x : ArrayU) : (s.setArray a x).bt = s.bt := rfl
@[simp] theorem State.setArray_lf (a : Nat) (x : ArrayU) : (s.setArray a x).lf = s.lf := rfl
@[simp] theorem State.setArray_port (a : Nat) (x : ArrayU) : (s.setArray a x).port = s.port := rfl
@[simp] theorem State.setArray_rq (a : Nat) (x : ArrayU) : (s.setArray a x).rq = s.rq := rfl
@[simp] theorem State.setArray_seqs (a : Nat) (x : ArrayU) : (s.setArray a x).seqs = s.seqs := rfl
@[simp] theorem State.setArray_kvWait (a : Nat) (x : ArrayU) : (s.setArray a x).kvWait = s.kvWait := rfl
@[simp] theorem State.setArray_smq (a : Nat) (x : ArrayU) : (s.setArray a x).smq = s.smq := rfl
@[simp] theorem State.setArray_rota (a : Nat) (x : ArrayU) : (s.setArray a x).rota = s.rota := rfl
@[simp] theorem State.setArray_rotaPend (a : Nat) (x : ArrayU) : (s.setArray a x).rotaPend = s.rotaPend := rfl
@[simp] theorem State.setArray_rotaAt (a : Nat) (x : ArrayU) : (s.setArray a x).rotaAt = s.rotaAt := rfl
@[simp] theorem State.setArray_accs (a : Nat) (x : ArrayU) : (s.setArray a x).accs = s.accs := rfl
@[simp] theorem State.setArray_protStage (a : Nat) (x : ArrayU) : (s.setArray a x).protStage = s.protStage := rfl
@[simp] theorem State.setArray_protAct (a : Nat) (x : ArrayU) : (s.setArray a x).protAct = s.protAct := rfl
@[simp] theorem State.setArray_protPrev (a : Nat) (x : ArrayU) : (s.setArray a x).protPrev = s.protPrev := rfl
@[simp] theorem State.setArray_protHeld (a : Nat) (x : ArrayU) : (s.setArray a x).protHeld = s.protHeld := rfl
@[simp] theorem State.setArray_scope (a : Nat) (x : ArrayU) : (s.setArray a x).scope = s.scope := rfl
@[simp] theorem State.setArray_hold (a : Nat) (x : ArrayU) : (s.setArray a x).hold = s.hold := rfl
@[simp] theorem State.setArray_evr (a : Nat) (x : ArrayU) : (s.setArray a x).evr = s.evr := rfl
@[simp] theorem State.setArray_cond (a : Nat) (x : ArrayU) : (s.setArray a x).cond = s.cond := rfl
@[simp] theorem State.setArray_pwr (a : Nat) (x : ArrayU) : (s.setArray a x).pwr = s.pwr := rfl
@[simp] theorem State.setArray_scans (a : Nat) (x : ArrayU) : (s.setArray a x).scans = s.scans := rfl
@[simp] theorem State.setArray_digs (a : Nat) (x : ArrayU) : (s.setArray a x).digs = s.digs := rfl
@[simp] theorem State.setArray_atts (a : Nat) (x : ArrayU) : (s.setArray a x).atts = s.atts := rfl
@[simp] theorem State.setArray_slots (a : Nat) (x : ArrayU) : (s.setArray a x).slots = s.slots := rfl
@[simp] theorem State.setArray_chan (a : Nat) (x : ArrayU) : (s.setArray a x).chan = s.chan := rfl
@[simp] theorem State.setArray_replies (a : Nat) (x : ArrayU) : (s.setArray a x).replies = s.replies := rfl
@[simp] theorem State.setArray_eids (a : Nat) (x : ArrayU) : (s.setArray a x).eids = s.eids := rfl
@[simp] theorem State.setArray_freeCtr (a : Nat) (x : ArrayU) : (s.setArray a x).freeCtr = s.freeCtr := rfl
@[simp] theorem State.setArray_pending (a : Nat) (x : ArrayU) : (s.setArray a x).pending = s.pending := rfl

/-! setStream changes strm. -/
@[simp] theorem State.setStream_regs (u : Nat) (x : Stream) : (s.setStream u x).regs = s.regs := rfl
@[simp] theorem State.setStream_mem (u : Nat) (x : Stream) : (s.setStream u x).mem = s.mem := rfl
@[simp] theorem State.setStream_hmem (u : Nat) (x : Stream) : (s.setStream u x).hmem = s.hmem := rfl
@[simp] theorem State.setStream_img (u : Nat) (x : Stream) : (s.setStream u x).img = s.img := rfl
@[simp] theorem State.setStream_land (u : Nat) (x : Stream) : (s.setStream u x).land = s.land := rfl
@[simp] theorem State.setStream_wcMem (u : Nat) (x : Stream) : (s.setStream u x).wcMem = s.wcMem := rfl
@[simp] theorem State.setStream_poison (u : Nat) (x : Stream) : (s.setStream u x).poison = s.poison := rfl
@[simp] theorem State.setStream_corrected (u : Nat) (x : Stream) : (s.setStream u x).corrected = s.corrected := rfl
@[simp] theorem State.setStream_fuse (u : Nat) (x : Stream) : (s.setStream u x).fuse = s.fuse := rfl
@[simp] theorem State.setStream_pins (u : Nat) (x : Stream) : (s.setStream u x).pins = s.pins := rfl
@[simp] theorem State.setStream_rail (u : Nat) (x : Stream) : (s.setStream u x).rail = s.rail := rfl
@[simp] theorem State.setStream_railTried (u : Nat) (x : Stream) : (s.setStream u x).railTried = s.railTried := rfl
@[simp] theorem State.setStream_boot (u : Nat) (x : Stream) : (s.setStream u x).boot = s.boot := rfl
@[simp] theorem State.setStream_time (u : Nat) (x : Stream) : (s.setStream u x).time = s.time := rfl
@[simp] theorem State.setStream_timeRun (u : Nat) (x : Stream) : (s.setStream u x).timeRun = s.timeRun := rfl
@[simp] theorem State.setStream_rate (u : Nat) (x : Stream) : (s.setStream u x).rate = s.rate := rfl
@[simp] theorem State.setStream_syncGood (u : Nat) (x : Stream) : (s.setStream u x).syncGood = s.syncGood := rfl
@[simp] theorem State.setStream_timeSet (u : Nat) (x : Stream) : (s.setStream u x).timeSet = s.timeSet := rfl
@[simp] theorem State.setStream_syncStamps (u : Nat) (x : Stream) : (s.setStream u x).syncStamps = s.syncStamps := rfl
@[simp] theorem State.setStream_certs (u : Nat) (x : Stream) : (s.setStream u x).certs = s.certs := rfl
@[simp] theorem State.setStream_ctx (u : Nat) (x : Stream) : (s.setStream u x).ctx = s.ctx := rfl
@[simp] theorem State.setStream_irqOut (u : Nat) (x : Stream) : (s.setStream u x).irqOut = s.irqOut := rfl
@[simp] theorem State.setStream_msixOpen (u : Nat) (x : Stream) : (s.setStream u x).msixOpen = s.msixOpen := rfl
@[simp] theorem State.setStream_msixPend (u : Nat) (x : Stream) : (s.setStream u x).msixPend = s.msixPend := rfl
@[simp] theorem State.setStream_ev (u : Nat) (x : Stream) : (s.setStream u x).ev = s.ev := rfl
@[simp] theorem State.setStream_evOwn (u : Nat) (x : Stream) : (s.setStream u x).evOwn = s.evOwn := rfl
@[simp] theorem State.setStream_arr (u : Nat) (x : Stream) : (s.setStream u x).arr = s.arr := rfl
@[simp] theorem State.setStream_starts (u : Nat) (x : Stream) : (s.setStream u x).starts = s.starts := rfl
@[simp] theorem State.setStream_eng (u : Nat) (x : Stream) : (s.setStream u x).eng = s.eng := rfl
@[simp] theorem State.setStream_mov (u : Nat) (x : Stream) : (s.setStream u x).mov = s.mov := rfl
@[simp] theorem State.setStream_cour (u : Nat) (x : Stream) : (s.setStream u x).cour = s.cour := rfl
@[simp] theorem State.setStream_shelf (u : Nat) (x : Stream) : (s.setStream u x).shelf = s.shelf := rfl
@[simp] theorem State.setStream_stk (u : Nat) (x : Stream) : (s.setStream u x).stk = s.stk := rfl
@[simp] theorem State.setStream_bt (u : Nat) (x : Stream) : (s.setStream u x).bt = s.bt := rfl
@[simp] theorem State.setStream_lf (u : Nat) (x : Stream) : (s.setStream u x).lf = s.lf := rfl
@[simp] theorem State.setStream_port (u : Nat) (x : Stream) : (s.setStream u x).port = s.port := rfl
@[simp] theorem State.setStream_rq (u : Nat) (x : Stream) : (s.setStream u x).rq = s.rq := rfl
@[simp] theorem State.setStream_seqs (u : Nat) (x : Stream) : (s.setStream u x).seqs = s.seqs := rfl
@[simp] theorem State.setStream_kvWait (u : Nat) (x : Stream) : (s.setStream u x).kvWait = s.kvWait := rfl
@[simp] theorem State.setStream_smq (u : Nat) (x : Stream) : (s.setStream u x).smq = s.smq := rfl
@[simp] theorem State.setStream_rota (u : Nat) (x : Stream) : (s.setStream u x).rota = s.rota := rfl
@[simp] theorem State.setStream_rotaPend (u : Nat) (x : Stream) : (s.setStream u x).rotaPend = s.rotaPend := rfl
@[simp] theorem State.setStream_rotaAt (u : Nat) (x : Stream) : (s.setStream u x).rotaAt = s.rotaAt := rfl
@[simp] theorem State.setStream_accs (u : Nat) (x : Stream) : (s.setStream u x).accs = s.accs := rfl
@[simp] theorem State.setStream_protStage (u : Nat) (x : Stream) : (s.setStream u x).protStage = s.protStage := rfl
@[simp] theorem State.setStream_protAct (u : Nat) (x : Stream) : (s.setStream u x).protAct = s.protAct := rfl
@[simp] theorem State.setStream_protPrev (u : Nat) (x : Stream) : (s.setStream u x).protPrev = s.protPrev := rfl
@[simp] theorem State.setStream_protHeld (u : Nat) (x : Stream) : (s.setStream u x).protHeld = s.protHeld := rfl
@[simp] theorem State.setStream_scope (u : Nat) (x : Stream) : (s.setStream u x).scope = s.scope := rfl
@[simp] theorem State.setStream_hold (u : Nat) (x : Stream) : (s.setStream u x).hold = s.hold := rfl
@[simp] theorem State.setStream_evr (u : Nat) (x : Stream) : (s.setStream u x).evr = s.evr := rfl
@[simp] theorem State.setStream_cond (u : Nat) (x : Stream) : (s.setStream u x).cond = s.cond := rfl
@[simp] theorem State.setStream_pwr (u : Nat) (x : Stream) : (s.setStream u x).pwr = s.pwr := rfl
@[simp] theorem State.setStream_scans (u : Nat) (x : Stream) : (s.setStream u x).scans = s.scans := rfl
@[simp] theorem State.setStream_digs (u : Nat) (x : Stream) : (s.setStream u x).digs = s.digs := rfl
@[simp] theorem State.setStream_atts (u : Nat) (x : Stream) : (s.setStream u x).atts = s.atts := rfl
@[simp] theorem State.setStream_slots (u : Nat) (x : Stream) : (s.setStream u x).slots = s.slots := rfl
@[simp] theorem State.setStream_chan (u : Nat) (x : Stream) : (s.setStream u x).chan = s.chan := rfl
@[simp] theorem State.setStream_replies (u : Nat) (x : Stream) : (s.setStream u x).replies = s.replies := rfl
@[simp] theorem State.setStream_eids (u : Nat) (x : Stream) : (s.setStream u x).eids = s.eids := rfl
@[simp] theorem State.setStream_freeCtr (u : Nat) (x : Stream) : (s.setStream u x).freeCtr = s.freeCtr := rfl
@[simp] theorem State.setStream_pending (u : Nat) (x : Stream) : (s.setStream u x).pending = s.pending := rfl

/-! setMover changes mov. -/
@[simp] theorem State.setMover_regs (m : Nat) (x : Mover) : (s.setMover m x).regs = s.regs := rfl
@[simp] theorem State.setMover_mem (m : Nat) (x : Mover) : (s.setMover m x).mem = s.mem := rfl
@[simp] theorem State.setMover_hmem (m : Nat) (x : Mover) : (s.setMover m x).hmem = s.hmem := rfl
@[simp] theorem State.setMover_img (m : Nat) (x : Mover) : (s.setMover m x).img = s.img := rfl
@[simp] theorem State.setMover_land (m : Nat) (x : Mover) : (s.setMover m x).land = s.land := rfl
@[simp] theorem State.setMover_wcMem (m : Nat) (x : Mover) : (s.setMover m x).wcMem = s.wcMem := rfl
@[simp] theorem State.setMover_poison (m : Nat) (x : Mover) : (s.setMover m x).poison = s.poison := rfl
@[simp] theorem State.setMover_corrected (m : Nat) (x : Mover) : (s.setMover m x).corrected = s.corrected := rfl
@[simp] theorem State.setMover_fuse (m : Nat) (x : Mover) : (s.setMover m x).fuse = s.fuse := rfl
@[simp] theorem State.setMover_pins (m : Nat) (x : Mover) : (s.setMover m x).pins = s.pins := rfl
@[simp] theorem State.setMover_rail (m : Nat) (x : Mover) : (s.setMover m x).rail = s.rail := rfl
@[simp] theorem State.setMover_railTried (m : Nat) (x : Mover) : (s.setMover m x).railTried = s.railTried := rfl
@[simp] theorem State.setMover_boot (m : Nat) (x : Mover) : (s.setMover m x).boot = s.boot := rfl
@[simp] theorem State.setMover_time (m : Nat) (x : Mover) : (s.setMover m x).time = s.time := rfl
@[simp] theorem State.setMover_timeRun (m : Nat) (x : Mover) : (s.setMover m x).timeRun = s.timeRun := rfl
@[simp] theorem State.setMover_rate (m : Nat) (x : Mover) : (s.setMover m x).rate = s.rate := rfl
@[simp] theorem State.setMover_syncGood (m : Nat) (x : Mover) : (s.setMover m x).syncGood = s.syncGood := rfl
@[simp] theorem State.setMover_timeSet (m : Nat) (x : Mover) : (s.setMover m x).timeSet = s.timeSet := rfl
@[simp] theorem State.setMover_syncStamps (m : Nat) (x : Mover) : (s.setMover m x).syncStamps = s.syncStamps := rfl
@[simp] theorem State.setMover_certs (m : Nat) (x : Mover) : (s.setMover m x).certs = s.certs := rfl
@[simp] theorem State.setMover_ctx (m : Nat) (x : Mover) : (s.setMover m x).ctx = s.ctx := rfl
@[simp] theorem State.setMover_irqOut (m : Nat) (x : Mover) : (s.setMover m x).irqOut = s.irqOut := rfl
@[simp] theorem State.setMover_msixOpen (m : Nat) (x : Mover) : (s.setMover m x).msixOpen = s.msixOpen := rfl
@[simp] theorem State.setMover_msixPend (m : Nat) (x : Mover) : (s.setMover m x).msixPend = s.msixPend := rfl
@[simp] theorem State.setMover_ev (m : Nat) (x : Mover) : (s.setMover m x).ev = s.ev := rfl
@[simp] theorem State.setMover_evOwn (m : Nat) (x : Mover) : (s.setMover m x).evOwn = s.evOwn := rfl
@[simp] theorem State.setMover_arr (m : Nat) (x : Mover) : (s.setMover m x).arr = s.arr := rfl
@[simp] theorem State.setMover_starts (m : Nat) (x : Mover) : (s.setMover m x).starts = s.starts := rfl
@[simp] theorem State.setMover_eng (m : Nat) (x : Mover) : (s.setMover m x).eng = s.eng := rfl
@[simp] theorem State.setMover_strm (m : Nat) (x : Mover) : (s.setMover m x).strm = s.strm := rfl
@[simp] theorem State.setMover_cour (m : Nat) (x : Mover) : (s.setMover m x).cour = s.cour := rfl
@[simp] theorem State.setMover_shelf (m : Nat) (x : Mover) : (s.setMover m x).shelf = s.shelf := rfl
@[simp] theorem State.setMover_stk (m : Nat) (x : Mover) : (s.setMover m x).stk = s.stk := rfl
@[simp] theorem State.setMover_bt (m : Nat) (x : Mover) : (s.setMover m x).bt = s.bt := rfl
@[simp] theorem State.setMover_lf (m : Nat) (x : Mover) : (s.setMover m x).lf = s.lf := rfl
@[simp] theorem State.setMover_port (m : Nat) (x : Mover) : (s.setMover m x).port = s.port := rfl
@[simp] theorem State.setMover_rq (m : Nat) (x : Mover) : (s.setMover m x).rq = s.rq := rfl
@[simp] theorem State.setMover_seqs (m : Nat) (x : Mover) : (s.setMover m x).seqs = s.seqs := rfl
@[simp] theorem State.setMover_kvWait (m : Nat) (x : Mover) : (s.setMover m x).kvWait = s.kvWait := rfl
@[simp] theorem State.setMover_smq (m : Nat) (x : Mover) : (s.setMover m x).smq = s.smq := rfl
@[simp] theorem State.setMover_rota (m : Nat) (x : Mover) : (s.setMover m x).rota = s.rota := rfl
@[simp] theorem State.setMover_rotaPend (m : Nat) (x : Mover) : (s.setMover m x).rotaPend = s.rotaPend := rfl
@[simp] theorem State.setMover_rotaAt (m : Nat) (x : Mover) : (s.setMover m x).rotaAt = s.rotaAt := rfl
@[simp] theorem State.setMover_accs (m : Nat) (x : Mover) : (s.setMover m x).accs = s.accs := rfl
@[simp] theorem State.setMover_protStage (m : Nat) (x : Mover) : (s.setMover m x).protStage = s.protStage := rfl
@[simp] theorem State.setMover_protAct (m : Nat) (x : Mover) : (s.setMover m x).protAct = s.protAct := rfl
@[simp] theorem State.setMover_protPrev (m : Nat) (x : Mover) : (s.setMover m x).protPrev = s.protPrev := rfl
@[simp] theorem State.setMover_protHeld (m : Nat) (x : Mover) : (s.setMover m x).protHeld = s.protHeld := rfl
@[simp] theorem State.setMover_scope (m : Nat) (x : Mover) : (s.setMover m x).scope = s.scope := rfl
@[simp] theorem State.setMover_hold (m : Nat) (x : Mover) : (s.setMover m x).hold = s.hold := rfl
@[simp] theorem State.setMover_evr (m : Nat) (x : Mover) : (s.setMover m x).evr = s.evr := rfl
@[simp] theorem State.setMover_cond (m : Nat) (x : Mover) : (s.setMover m x).cond = s.cond := rfl
@[simp] theorem State.setMover_pwr (m : Nat) (x : Mover) : (s.setMover m x).pwr = s.pwr := rfl
@[simp] theorem State.setMover_scans (m : Nat) (x : Mover) : (s.setMover m x).scans = s.scans := rfl
@[simp] theorem State.setMover_digs (m : Nat) (x : Mover) : (s.setMover m x).digs = s.digs := rfl
@[simp] theorem State.setMover_atts (m : Nat) (x : Mover) : (s.setMover m x).atts = s.atts := rfl
@[simp] theorem State.setMover_slots (m : Nat) (x : Mover) : (s.setMover m x).slots = s.slots := rfl
@[simp] theorem State.setMover_chan (m : Nat) (x : Mover) : (s.setMover m x).chan = s.chan := rfl
@[simp] theorem State.setMover_replies (m : Nat) (x : Mover) : (s.setMover m x).replies = s.replies := rfl
@[simp] theorem State.setMover_eids (m : Nat) (x : Mover) : (s.setMover m x).eids = s.eids := rfl
@[simp] theorem State.setMover_freeCtr (m : Nat) (x : Mover) : (s.setMover m x).freeCtr = s.freeCtr := rfl
@[simp] theorem State.setMover_pending (m : Nat) (x : Mover) : (s.setMover m x).pending = s.pending := rfl

/-! setCourier changes cour. -/
@[simp] theorem State.setCourier_regs (q : Nat) (x : Courier) : (s.setCourier q x).regs = s.regs := rfl
@[simp] theorem State.setCourier_mem (q : Nat) (x : Courier) : (s.setCourier q x).mem = s.mem := rfl
@[simp] theorem State.setCourier_hmem (q : Nat) (x : Courier) : (s.setCourier q x).hmem = s.hmem := rfl
@[simp] theorem State.setCourier_img (q : Nat) (x : Courier) : (s.setCourier q x).img = s.img := rfl
@[simp] theorem State.setCourier_land (q : Nat) (x : Courier) : (s.setCourier q x).land = s.land := rfl
@[simp] theorem State.setCourier_wcMem (q : Nat) (x : Courier) : (s.setCourier q x).wcMem = s.wcMem := rfl
@[simp] theorem State.setCourier_poison (q : Nat) (x : Courier) : (s.setCourier q x).poison = s.poison := rfl
@[simp] theorem State.setCourier_corrected (q : Nat) (x : Courier) : (s.setCourier q x).corrected = s.corrected := rfl
@[simp] theorem State.setCourier_fuse (q : Nat) (x : Courier) : (s.setCourier q x).fuse = s.fuse := rfl
@[simp] theorem State.setCourier_pins (q : Nat) (x : Courier) : (s.setCourier q x).pins = s.pins := rfl
@[simp] theorem State.setCourier_rail (q : Nat) (x : Courier) : (s.setCourier q x).rail = s.rail := rfl
@[simp] theorem State.setCourier_railTried (q : Nat) (x : Courier) : (s.setCourier q x).railTried = s.railTried := rfl
@[simp] theorem State.setCourier_boot (q : Nat) (x : Courier) : (s.setCourier q x).boot = s.boot := rfl
@[simp] theorem State.setCourier_time (q : Nat) (x : Courier) : (s.setCourier q x).time = s.time := rfl
@[simp] theorem State.setCourier_timeRun (q : Nat) (x : Courier) : (s.setCourier q x).timeRun = s.timeRun := rfl
@[simp] theorem State.setCourier_rate (q : Nat) (x : Courier) : (s.setCourier q x).rate = s.rate := rfl
@[simp] theorem State.setCourier_syncGood (q : Nat) (x : Courier) : (s.setCourier q x).syncGood = s.syncGood := rfl
@[simp] theorem State.setCourier_timeSet (q : Nat) (x : Courier) : (s.setCourier q x).timeSet = s.timeSet := rfl
@[simp] theorem State.setCourier_syncStamps (q : Nat) (x : Courier) : (s.setCourier q x).syncStamps = s.syncStamps := rfl
@[simp] theorem State.setCourier_certs (q : Nat) (x : Courier) : (s.setCourier q x).certs = s.certs := rfl
@[simp] theorem State.setCourier_ctx (q : Nat) (x : Courier) : (s.setCourier q x).ctx = s.ctx := rfl
@[simp] theorem State.setCourier_irqOut (q : Nat) (x : Courier) : (s.setCourier q x).irqOut = s.irqOut := rfl
@[simp] theorem State.setCourier_msixOpen (q : Nat) (x : Courier) : (s.setCourier q x).msixOpen = s.msixOpen := rfl
@[simp] theorem State.setCourier_msixPend (q : Nat) (x : Courier) : (s.setCourier q x).msixPend = s.msixPend := rfl
@[simp] theorem State.setCourier_ev (q : Nat) (x : Courier) : (s.setCourier q x).ev = s.ev := rfl
@[simp] theorem State.setCourier_evOwn (q : Nat) (x : Courier) : (s.setCourier q x).evOwn = s.evOwn := rfl
@[simp] theorem State.setCourier_arr (q : Nat) (x : Courier) : (s.setCourier q x).arr = s.arr := rfl
@[simp] theorem State.setCourier_starts (q : Nat) (x : Courier) : (s.setCourier q x).starts = s.starts := rfl
@[simp] theorem State.setCourier_eng (q : Nat) (x : Courier) : (s.setCourier q x).eng = s.eng := rfl
@[simp] theorem State.setCourier_strm (q : Nat) (x : Courier) : (s.setCourier q x).strm = s.strm := rfl
@[simp] theorem State.setCourier_mov (q : Nat) (x : Courier) : (s.setCourier q x).mov = s.mov := rfl
@[simp] theorem State.setCourier_shelf (q : Nat) (x : Courier) : (s.setCourier q x).shelf = s.shelf := rfl
@[simp] theorem State.setCourier_stk (q : Nat) (x : Courier) : (s.setCourier q x).stk = s.stk := rfl
@[simp] theorem State.setCourier_bt (q : Nat) (x : Courier) : (s.setCourier q x).bt = s.bt := rfl
@[simp] theorem State.setCourier_lf (q : Nat) (x : Courier) : (s.setCourier q x).lf = s.lf := rfl
@[simp] theorem State.setCourier_port (q : Nat) (x : Courier) : (s.setCourier q x).port = s.port := rfl
@[simp] theorem State.setCourier_rq (q : Nat) (x : Courier) : (s.setCourier q x).rq = s.rq := rfl
@[simp] theorem State.setCourier_seqs (q : Nat) (x : Courier) : (s.setCourier q x).seqs = s.seqs := rfl
@[simp] theorem State.setCourier_kvWait (q : Nat) (x : Courier) : (s.setCourier q x).kvWait = s.kvWait := rfl
@[simp] theorem State.setCourier_smq (q : Nat) (x : Courier) : (s.setCourier q x).smq = s.smq := rfl
@[simp] theorem State.setCourier_rota (q : Nat) (x : Courier) : (s.setCourier q x).rota = s.rota := rfl
@[simp] theorem State.setCourier_rotaPend (q : Nat) (x : Courier) : (s.setCourier q x).rotaPend = s.rotaPend := rfl
@[simp] theorem State.setCourier_rotaAt (q : Nat) (x : Courier) : (s.setCourier q x).rotaAt = s.rotaAt := rfl
@[simp] theorem State.setCourier_accs (q : Nat) (x : Courier) : (s.setCourier q x).accs = s.accs := rfl
@[simp] theorem State.setCourier_protStage (q : Nat) (x : Courier) : (s.setCourier q x).protStage = s.protStage := rfl
@[simp] theorem State.setCourier_protAct (q : Nat) (x : Courier) : (s.setCourier q x).protAct = s.protAct := rfl
@[simp] theorem State.setCourier_protPrev (q : Nat) (x : Courier) : (s.setCourier q x).protPrev = s.protPrev := rfl
@[simp] theorem State.setCourier_protHeld (q : Nat) (x : Courier) : (s.setCourier q x).protHeld = s.protHeld := rfl
@[simp] theorem State.setCourier_scope (q : Nat) (x : Courier) : (s.setCourier q x).scope = s.scope := rfl
@[simp] theorem State.setCourier_hold (q : Nat) (x : Courier) : (s.setCourier q x).hold = s.hold := rfl
@[simp] theorem State.setCourier_evr (q : Nat) (x : Courier) : (s.setCourier q x).evr = s.evr := rfl
@[simp] theorem State.setCourier_cond (q : Nat) (x : Courier) : (s.setCourier q x).cond = s.cond := rfl
@[simp] theorem State.setCourier_pwr (q : Nat) (x : Courier) : (s.setCourier q x).pwr = s.pwr := rfl
@[simp] theorem State.setCourier_scans (q : Nat) (x : Courier) : (s.setCourier q x).scans = s.scans := rfl
@[simp] theorem State.setCourier_digs (q : Nat) (x : Courier) : (s.setCourier q x).digs = s.digs := rfl
@[simp] theorem State.setCourier_atts (q : Nat) (x : Courier) : (s.setCourier q x).atts = s.atts := rfl
@[simp] theorem State.setCourier_slots (q : Nat) (x : Courier) : (s.setCourier q x).slots = s.slots := rfl
@[simp] theorem State.setCourier_chan (q : Nat) (x : Courier) : (s.setCourier q x).chan = s.chan := rfl
@[simp] theorem State.setCourier_replies (q : Nat) (x : Courier) : (s.setCourier q x).replies = s.replies := rfl
@[simp] theorem State.setCourier_eids (q : Nat) (x : Courier) : (s.setCourier q x).eids = s.eids := rfl
@[simp] theorem State.setCourier_freeCtr (q : Nat) (x : Courier) : (s.setCourier q x).freeCtr = s.freeCtr := rfl
@[simp] theorem State.setCourier_pending (q : Nat) (x : Courier) : (s.setCourier q x).pending = s.pending := rfl

/-! setShelf changes shelf. -/
@[simp] theorem State.setShelf_regs (w h : Nat) (x : Shelf) : (s.setShelf w h x).regs = s.regs := rfl
@[simp] theorem State.setShelf_mem (w h : Nat) (x : Shelf) : (s.setShelf w h x).mem = s.mem := rfl
@[simp] theorem State.setShelf_hmem (w h : Nat) (x : Shelf) : (s.setShelf w h x).hmem = s.hmem := rfl
@[simp] theorem State.setShelf_img (w h : Nat) (x : Shelf) : (s.setShelf w h x).img = s.img := rfl
@[simp] theorem State.setShelf_land (w h : Nat) (x : Shelf) : (s.setShelf w h x).land = s.land := rfl
@[simp] theorem State.setShelf_wcMem (w h : Nat) (x : Shelf) : (s.setShelf w h x).wcMem = s.wcMem := rfl
@[simp] theorem State.setShelf_poison (w h : Nat) (x : Shelf) : (s.setShelf w h x).poison = s.poison := rfl
@[simp] theorem State.setShelf_corrected (w h : Nat) (x : Shelf) : (s.setShelf w h x).corrected = s.corrected := rfl
@[simp] theorem State.setShelf_fuse (w h : Nat) (x : Shelf) : (s.setShelf w h x).fuse = s.fuse := rfl
@[simp] theorem State.setShelf_pins (w h : Nat) (x : Shelf) : (s.setShelf w h x).pins = s.pins := rfl
@[simp] theorem State.setShelf_rail (w h : Nat) (x : Shelf) : (s.setShelf w h x).rail = s.rail := rfl
@[simp] theorem State.setShelf_railTried (w h : Nat) (x : Shelf) : (s.setShelf w h x).railTried = s.railTried := rfl
@[simp] theorem State.setShelf_boot (w h : Nat) (x : Shelf) : (s.setShelf w h x).boot = s.boot := rfl
@[simp] theorem State.setShelf_time (w h : Nat) (x : Shelf) : (s.setShelf w h x).time = s.time := rfl
@[simp] theorem State.setShelf_timeRun (w h : Nat) (x : Shelf) : (s.setShelf w h x).timeRun = s.timeRun := rfl
@[simp] theorem State.setShelf_rate (w h : Nat) (x : Shelf) : (s.setShelf w h x).rate = s.rate := rfl
@[simp] theorem State.setShelf_syncGood (w h : Nat) (x : Shelf) : (s.setShelf w h x).syncGood = s.syncGood := rfl
@[simp] theorem State.setShelf_timeSet (w h : Nat) (x : Shelf) : (s.setShelf w h x).timeSet = s.timeSet := rfl
@[simp] theorem State.setShelf_syncStamps (w h : Nat) (x : Shelf) : (s.setShelf w h x).syncStamps = s.syncStamps := rfl
@[simp] theorem State.setShelf_certs (w h : Nat) (x : Shelf) : (s.setShelf w h x).certs = s.certs := rfl
@[simp] theorem State.setShelf_ctx (w h : Nat) (x : Shelf) : (s.setShelf w h x).ctx = s.ctx := rfl
@[simp] theorem State.setShelf_irqOut (w h : Nat) (x : Shelf) : (s.setShelf w h x).irqOut = s.irqOut := rfl
@[simp] theorem State.setShelf_msixOpen (w h : Nat) (x : Shelf) : (s.setShelf w h x).msixOpen = s.msixOpen := rfl
@[simp] theorem State.setShelf_msixPend (w h : Nat) (x : Shelf) : (s.setShelf w h x).msixPend = s.msixPend := rfl
@[simp] theorem State.setShelf_ev (w h : Nat) (x : Shelf) : (s.setShelf w h x).ev = s.ev := rfl
@[simp] theorem State.setShelf_evOwn (w h : Nat) (x : Shelf) : (s.setShelf w h x).evOwn = s.evOwn := rfl
@[simp] theorem State.setShelf_arr (w h : Nat) (x : Shelf) : (s.setShelf w h x).arr = s.arr := rfl
@[simp] theorem State.setShelf_starts (w h : Nat) (x : Shelf) : (s.setShelf w h x).starts = s.starts := rfl
@[simp] theorem State.setShelf_eng (w h : Nat) (x : Shelf) : (s.setShelf w h x).eng = s.eng := rfl
@[simp] theorem State.setShelf_strm (w h : Nat) (x : Shelf) : (s.setShelf w h x).strm = s.strm := rfl
@[simp] theorem State.setShelf_mov (w h : Nat) (x : Shelf) : (s.setShelf w h x).mov = s.mov := rfl
@[simp] theorem State.setShelf_cour (w h : Nat) (x : Shelf) : (s.setShelf w h x).cour = s.cour := rfl
@[simp] theorem State.setShelf_stk (w h : Nat) (x : Shelf) : (s.setShelf w h x).stk = s.stk := rfl
@[simp] theorem State.setShelf_bt (w h : Nat) (x : Shelf) : (s.setShelf w h x).bt = s.bt := rfl
@[simp] theorem State.setShelf_lf (w h : Nat) (x : Shelf) : (s.setShelf w h x).lf = s.lf := rfl
@[simp] theorem State.setShelf_port (w h : Nat) (x : Shelf) : (s.setShelf w h x).port = s.port := rfl
@[simp] theorem State.setShelf_rq (w h : Nat) (x : Shelf) : (s.setShelf w h x).rq = s.rq := rfl
@[simp] theorem State.setShelf_seqs (w h : Nat) (x : Shelf) : (s.setShelf w h x).seqs = s.seqs := rfl
@[simp] theorem State.setShelf_kvWait (w h : Nat) (x : Shelf) : (s.setShelf w h x).kvWait = s.kvWait := rfl
@[simp] theorem State.setShelf_smq (w h : Nat) (x : Shelf) : (s.setShelf w h x).smq = s.smq := rfl
@[simp] theorem State.setShelf_rota (w h : Nat) (x : Shelf) : (s.setShelf w h x).rota = s.rota := rfl
@[simp] theorem State.setShelf_rotaPend (w h : Nat) (x : Shelf) : (s.setShelf w h x).rotaPend = s.rotaPend := rfl
@[simp] theorem State.setShelf_rotaAt (w h : Nat) (x : Shelf) : (s.setShelf w h x).rotaAt = s.rotaAt := rfl
@[simp] theorem State.setShelf_accs (w h : Nat) (x : Shelf) : (s.setShelf w h x).accs = s.accs := rfl
@[simp] theorem State.setShelf_protStage (w h : Nat) (x : Shelf) : (s.setShelf w h x).protStage = s.protStage := rfl
@[simp] theorem State.setShelf_protAct (w h : Nat) (x : Shelf) : (s.setShelf w h x).protAct = s.protAct := rfl
@[simp] theorem State.setShelf_protPrev (w h : Nat) (x : Shelf) : (s.setShelf w h x).protPrev = s.protPrev := rfl
@[simp] theorem State.setShelf_protHeld (w h : Nat) (x : Shelf) : (s.setShelf w h x).protHeld = s.protHeld := rfl
@[simp] theorem State.setShelf_scope (w h : Nat) (x : Shelf) : (s.setShelf w h x).scope = s.scope := rfl
@[simp] theorem State.setShelf_hold (w h : Nat) (x : Shelf) : (s.setShelf w h x).hold = s.hold := rfl
@[simp] theorem State.setShelf_evr (w h : Nat) (x : Shelf) : (s.setShelf w h x).evr = s.evr := rfl
@[simp] theorem State.setShelf_cond (w h : Nat) (x : Shelf) : (s.setShelf w h x).cond = s.cond := rfl
@[simp] theorem State.setShelf_pwr (w h : Nat) (x : Shelf) : (s.setShelf w h x).pwr = s.pwr := rfl
@[simp] theorem State.setShelf_scans (w h : Nat) (x : Shelf) : (s.setShelf w h x).scans = s.scans := rfl
@[simp] theorem State.setShelf_digs (w h : Nat) (x : Shelf) : (s.setShelf w h x).digs = s.digs := rfl
@[simp] theorem State.setShelf_atts (w h : Nat) (x : Shelf) : (s.setShelf w h x).atts = s.atts := rfl
@[simp] theorem State.setShelf_slots (w h : Nat) (x : Shelf) : (s.setShelf w h x).slots = s.slots := rfl
@[simp] theorem State.setShelf_chan (w h : Nat) (x : Shelf) : (s.setShelf w h x).chan = s.chan := rfl
@[simp] theorem State.setShelf_replies (w h : Nat) (x : Shelf) : (s.setShelf w h x).replies = s.replies := rfl
@[simp] theorem State.setShelf_eids (w h : Nat) (x : Shelf) : (s.setShelf w h x).eids = s.eids := rfl
@[simp] theorem State.setShelf_freeCtr (w h : Nat) (x : Shelf) : (s.setShelf w h x).freeCtr = s.freeCtr := rfl
@[simp] theorem State.setShelf_pending (w h : Nat) (x : Shelf) : (s.setShelf w h x).pending = s.pending := rfl

/-! setStack changes stk. -/
@[simp] theorem State.setStack_regs (k : Nat) (x : Stack) : (s.setStack k x).regs = s.regs := rfl
@[simp] theorem State.setStack_mem (k : Nat) (x : Stack) : (s.setStack k x).mem = s.mem := rfl
@[simp] theorem State.setStack_hmem (k : Nat) (x : Stack) : (s.setStack k x).hmem = s.hmem := rfl
@[simp] theorem State.setStack_img (k : Nat) (x : Stack) : (s.setStack k x).img = s.img := rfl
@[simp] theorem State.setStack_land (k : Nat) (x : Stack) : (s.setStack k x).land = s.land := rfl
@[simp] theorem State.setStack_wcMem (k : Nat) (x : Stack) : (s.setStack k x).wcMem = s.wcMem := rfl
@[simp] theorem State.setStack_poison (k : Nat) (x : Stack) : (s.setStack k x).poison = s.poison := rfl
@[simp] theorem State.setStack_corrected (k : Nat) (x : Stack) : (s.setStack k x).corrected = s.corrected := rfl
@[simp] theorem State.setStack_fuse (k : Nat) (x : Stack) : (s.setStack k x).fuse = s.fuse := rfl
@[simp] theorem State.setStack_pins (k : Nat) (x : Stack) : (s.setStack k x).pins = s.pins := rfl
@[simp] theorem State.setStack_rail (k : Nat) (x : Stack) : (s.setStack k x).rail = s.rail := rfl
@[simp] theorem State.setStack_railTried (k : Nat) (x : Stack) : (s.setStack k x).railTried = s.railTried := rfl
@[simp] theorem State.setStack_boot (k : Nat) (x : Stack) : (s.setStack k x).boot = s.boot := rfl
@[simp] theorem State.setStack_time (k : Nat) (x : Stack) : (s.setStack k x).time = s.time := rfl
@[simp] theorem State.setStack_timeRun (k : Nat) (x : Stack) : (s.setStack k x).timeRun = s.timeRun := rfl
@[simp] theorem State.setStack_rate (k : Nat) (x : Stack) : (s.setStack k x).rate = s.rate := rfl
@[simp] theorem State.setStack_syncGood (k : Nat) (x : Stack) : (s.setStack k x).syncGood = s.syncGood := rfl
@[simp] theorem State.setStack_timeSet (k : Nat) (x : Stack) : (s.setStack k x).timeSet = s.timeSet := rfl
@[simp] theorem State.setStack_syncStamps (k : Nat) (x : Stack) : (s.setStack k x).syncStamps = s.syncStamps := rfl
@[simp] theorem State.setStack_certs (k : Nat) (x : Stack) : (s.setStack k x).certs = s.certs := rfl
@[simp] theorem State.setStack_ctx (k : Nat) (x : Stack) : (s.setStack k x).ctx = s.ctx := rfl
@[simp] theorem State.setStack_irqOut (k : Nat) (x : Stack) : (s.setStack k x).irqOut = s.irqOut := rfl
@[simp] theorem State.setStack_msixOpen (k : Nat) (x : Stack) : (s.setStack k x).msixOpen = s.msixOpen := rfl
@[simp] theorem State.setStack_msixPend (k : Nat) (x : Stack) : (s.setStack k x).msixPend = s.msixPend := rfl
@[simp] theorem State.setStack_ev (k : Nat) (x : Stack) : (s.setStack k x).ev = s.ev := rfl
@[simp] theorem State.setStack_evOwn (k : Nat) (x : Stack) : (s.setStack k x).evOwn = s.evOwn := rfl
@[simp] theorem State.setStack_arr (k : Nat) (x : Stack) : (s.setStack k x).arr = s.arr := rfl
@[simp] theorem State.setStack_starts (k : Nat) (x : Stack) : (s.setStack k x).starts = s.starts := rfl
@[simp] theorem State.setStack_eng (k : Nat) (x : Stack) : (s.setStack k x).eng = s.eng := rfl
@[simp] theorem State.setStack_strm (k : Nat) (x : Stack) : (s.setStack k x).strm = s.strm := rfl
@[simp] theorem State.setStack_mov (k : Nat) (x : Stack) : (s.setStack k x).mov = s.mov := rfl
@[simp] theorem State.setStack_cour (k : Nat) (x : Stack) : (s.setStack k x).cour = s.cour := rfl
@[simp] theorem State.setStack_shelf (k : Nat) (x : Stack) : (s.setStack k x).shelf = s.shelf := rfl
@[simp] theorem State.setStack_bt (k : Nat) (x : Stack) : (s.setStack k x).bt = s.bt := rfl
@[simp] theorem State.setStack_lf (k : Nat) (x : Stack) : (s.setStack k x).lf = s.lf := rfl
@[simp] theorem State.setStack_port (k : Nat) (x : Stack) : (s.setStack k x).port = s.port := rfl
@[simp] theorem State.setStack_rq (k : Nat) (x : Stack) : (s.setStack k x).rq = s.rq := rfl
@[simp] theorem State.setStack_seqs (k : Nat) (x : Stack) : (s.setStack k x).seqs = s.seqs := rfl
@[simp] theorem State.setStack_kvWait (k : Nat) (x : Stack) : (s.setStack k x).kvWait = s.kvWait := rfl
@[simp] theorem State.setStack_smq (k : Nat) (x : Stack) : (s.setStack k x).smq = s.smq := rfl
@[simp] theorem State.setStack_rota (k : Nat) (x : Stack) : (s.setStack k x).rota = s.rota := rfl
@[simp] theorem State.setStack_rotaPend (k : Nat) (x : Stack) : (s.setStack k x).rotaPend = s.rotaPend := rfl
@[simp] theorem State.setStack_rotaAt (k : Nat) (x : Stack) : (s.setStack k x).rotaAt = s.rotaAt := rfl
@[simp] theorem State.setStack_accs (k : Nat) (x : Stack) : (s.setStack k x).accs = s.accs := rfl
@[simp] theorem State.setStack_protStage (k : Nat) (x : Stack) : (s.setStack k x).protStage = s.protStage := rfl
@[simp] theorem State.setStack_protAct (k : Nat) (x : Stack) : (s.setStack k x).protAct = s.protAct := rfl
@[simp] theorem State.setStack_protPrev (k : Nat) (x : Stack) : (s.setStack k x).protPrev = s.protPrev := rfl
@[simp] theorem State.setStack_protHeld (k : Nat) (x : Stack) : (s.setStack k x).protHeld = s.protHeld := rfl
@[simp] theorem State.setStack_scope (k : Nat) (x : Stack) : (s.setStack k x).scope = s.scope := rfl
@[simp] theorem State.setStack_hold (k : Nat) (x : Stack) : (s.setStack k x).hold = s.hold := rfl
@[simp] theorem State.setStack_evr (k : Nat) (x : Stack) : (s.setStack k x).evr = s.evr := rfl
@[simp] theorem State.setStack_cond (k : Nat) (x : Stack) : (s.setStack k x).cond = s.cond := rfl
@[simp] theorem State.setStack_pwr (k : Nat) (x : Stack) : (s.setStack k x).pwr = s.pwr := rfl
@[simp] theorem State.setStack_scans (k : Nat) (x : Stack) : (s.setStack k x).scans = s.scans := rfl
@[simp] theorem State.setStack_digs (k : Nat) (x : Stack) : (s.setStack k x).digs = s.digs := rfl
@[simp] theorem State.setStack_atts (k : Nat) (x : Stack) : (s.setStack k x).atts = s.atts := rfl
@[simp] theorem State.setStack_slots (k : Nat) (x : Stack) : (s.setStack k x).slots = s.slots := rfl
@[simp] theorem State.setStack_chan (k : Nat) (x : Stack) : (s.setStack k x).chan = s.chan := rfl
@[simp] theorem State.setStack_replies (k : Nat) (x : Stack) : (s.setStack k x).replies = s.replies := rfl
@[simp] theorem State.setStack_eids (k : Nat) (x : Stack) : (s.setStack k x).eids = s.eids := rfl
@[simp] theorem State.setStack_freeCtr (k : Nat) (x : Stack) : (s.setStack k x).freeCtr = s.freeCtr := rfl
@[simp] theorem State.setStack_pending (k : Nat) (x : Stack) : (s.setStack k x).pending = s.pending := rfl

/-! setBt changes bt. -/
@[simp] theorem State.setBt_regs (b : Nat) (x : BtPort) : (s.setBt b x).regs = s.regs := rfl
@[simp] theorem State.setBt_mem (b : Nat) (x : BtPort) : (s.setBt b x).mem = s.mem := rfl
@[simp] theorem State.setBt_hmem (b : Nat) (x : BtPort) : (s.setBt b x).hmem = s.hmem := rfl
@[simp] theorem State.setBt_img (b : Nat) (x : BtPort) : (s.setBt b x).img = s.img := rfl
@[simp] theorem State.setBt_land (b : Nat) (x : BtPort) : (s.setBt b x).land = s.land := rfl
@[simp] theorem State.setBt_wcMem (b : Nat) (x : BtPort) : (s.setBt b x).wcMem = s.wcMem := rfl
@[simp] theorem State.setBt_poison (b : Nat) (x : BtPort) : (s.setBt b x).poison = s.poison := rfl
@[simp] theorem State.setBt_corrected (b : Nat) (x : BtPort) : (s.setBt b x).corrected = s.corrected := rfl
@[simp] theorem State.setBt_fuse (b : Nat) (x : BtPort) : (s.setBt b x).fuse = s.fuse := rfl
@[simp] theorem State.setBt_pins (b : Nat) (x : BtPort) : (s.setBt b x).pins = s.pins := rfl
@[simp] theorem State.setBt_rail (b : Nat) (x : BtPort) : (s.setBt b x).rail = s.rail := rfl
@[simp] theorem State.setBt_railTried (b : Nat) (x : BtPort) : (s.setBt b x).railTried = s.railTried := rfl
@[simp] theorem State.setBt_boot (b : Nat) (x : BtPort) : (s.setBt b x).boot = s.boot := rfl
@[simp] theorem State.setBt_time (b : Nat) (x : BtPort) : (s.setBt b x).time = s.time := rfl
@[simp] theorem State.setBt_timeRun (b : Nat) (x : BtPort) : (s.setBt b x).timeRun = s.timeRun := rfl
@[simp] theorem State.setBt_rate (b : Nat) (x : BtPort) : (s.setBt b x).rate = s.rate := rfl
@[simp] theorem State.setBt_syncGood (b : Nat) (x : BtPort) : (s.setBt b x).syncGood = s.syncGood := rfl
@[simp] theorem State.setBt_timeSet (b : Nat) (x : BtPort) : (s.setBt b x).timeSet = s.timeSet := rfl
@[simp] theorem State.setBt_syncStamps (b : Nat) (x : BtPort) : (s.setBt b x).syncStamps = s.syncStamps := rfl
@[simp] theorem State.setBt_certs (b : Nat) (x : BtPort) : (s.setBt b x).certs = s.certs := rfl
@[simp] theorem State.setBt_ctx (b : Nat) (x : BtPort) : (s.setBt b x).ctx = s.ctx := rfl
@[simp] theorem State.setBt_irqOut (b : Nat) (x : BtPort) : (s.setBt b x).irqOut = s.irqOut := rfl
@[simp] theorem State.setBt_msixOpen (b : Nat) (x : BtPort) : (s.setBt b x).msixOpen = s.msixOpen := rfl
@[simp] theorem State.setBt_msixPend (b : Nat) (x : BtPort) : (s.setBt b x).msixPend = s.msixPend := rfl
@[simp] theorem State.setBt_ev (b : Nat) (x : BtPort) : (s.setBt b x).ev = s.ev := rfl
@[simp] theorem State.setBt_evOwn (b : Nat) (x : BtPort) : (s.setBt b x).evOwn = s.evOwn := rfl
@[simp] theorem State.setBt_arr (b : Nat) (x : BtPort) : (s.setBt b x).arr = s.arr := rfl
@[simp] theorem State.setBt_starts (b : Nat) (x : BtPort) : (s.setBt b x).starts = s.starts := rfl
@[simp] theorem State.setBt_eng (b : Nat) (x : BtPort) : (s.setBt b x).eng = s.eng := rfl
@[simp] theorem State.setBt_strm (b : Nat) (x : BtPort) : (s.setBt b x).strm = s.strm := rfl
@[simp] theorem State.setBt_mov (b : Nat) (x : BtPort) : (s.setBt b x).mov = s.mov := rfl
@[simp] theorem State.setBt_cour (b : Nat) (x : BtPort) : (s.setBt b x).cour = s.cour := rfl
@[simp] theorem State.setBt_shelf (b : Nat) (x : BtPort) : (s.setBt b x).shelf = s.shelf := rfl
@[simp] theorem State.setBt_stk (b : Nat) (x : BtPort) : (s.setBt b x).stk = s.stk := rfl
@[simp] theorem State.setBt_lf (b : Nat) (x : BtPort) : (s.setBt b x).lf = s.lf := rfl
@[simp] theorem State.setBt_port (b : Nat) (x : BtPort) : (s.setBt b x).port = s.port := rfl
@[simp] theorem State.setBt_rq (b : Nat) (x : BtPort) : (s.setBt b x).rq = s.rq := rfl
@[simp] theorem State.setBt_seqs (b : Nat) (x : BtPort) : (s.setBt b x).seqs = s.seqs := rfl
@[simp] theorem State.setBt_kvWait (b : Nat) (x : BtPort) : (s.setBt b x).kvWait = s.kvWait := rfl
@[simp] theorem State.setBt_smq (b : Nat) (x : BtPort) : (s.setBt b x).smq = s.smq := rfl
@[simp] theorem State.setBt_rota (b : Nat) (x : BtPort) : (s.setBt b x).rota = s.rota := rfl
@[simp] theorem State.setBt_rotaPend (b : Nat) (x : BtPort) : (s.setBt b x).rotaPend = s.rotaPend := rfl
@[simp] theorem State.setBt_rotaAt (b : Nat) (x : BtPort) : (s.setBt b x).rotaAt = s.rotaAt := rfl
@[simp] theorem State.setBt_accs (b : Nat) (x : BtPort) : (s.setBt b x).accs = s.accs := rfl
@[simp] theorem State.setBt_protStage (b : Nat) (x : BtPort) : (s.setBt b x).protStage = s.protStage := rfl
@[simp] theorem State.setBt_protAct (b : Nat) (x : BtPort) : (s.setBt b x).protAct = s.protAct := rfl
@[simp] theorem State.setBt_protPrev (b : Nat) (x : BtPort) : (s.setBt b x).protPrev = s.protPrev := rfl
@[simp] theorem State.setBt_protHeld (b : Nat) (x : BtPort) : (s.setBt b x).protHeld = s.protHeld := rfl
@[simp] theorem State.setBt_scope (b : Nat) (x : BtPort) : (s.setBt b x).scope = s.scope := rfl
@[simp] theorem State.setBt_hold (b : Nat) (x : BtPort) : (s.setBt b x).hold = s.hold := rfl
@[simp] theorem State.setBt_evr (b : Nat) (x : BtPort) : (s.setBt b x).evr = s.evr := rfl
@[simp] theorem State.setBt_cond (b : Nat) (x : BtPort) : (s.setBt b x).cond = s.cond := rfl
@[simp] theorem State.setBt_pwr (b : Nat) (x : BtPort) : (s.setBt b x).pwr = s.pwr := rfl
@[simp] theorem State.setBt_scans (b : Nat) (x : BtPort) : (s.setBt b x).scans = s.scans := rfl
@[simp] theorem State.setBt_digs (b : Nat) (x : BtPort) : (s.setBt b x).digs = s.digs := rfl
@[simp] theorem State.setBt_atts (b : Nat) (x : BtPort) : (s.setBt b x).atts = s.atts := rfl
@[simp] theorem State.setBt_slots (b : Nat) (x : BtPort) : (s.setBt b x).slots = s.slots := rfl
@[simp] theorem State.setBt_chan (b : Nat) (x : BtPort) : (s.setBt b x).chan = s.chan := rfl
@[simp] theorem State.setBt_replies (b : Nat) (x : BtPort) : (s.setBt b x).replies = s.replies := rfl
@[simp] theorem State.setBt_eids (b : Nat) (x : BtPort) : (s.setBt b x).eids = s.eids := rfl
@[simp] theorem State.setBt_freeCtr (b : Nat) (x : BtPort) : (s.setBt b x).freeCtr = s.freeCtr := rfl
@[simp] theorem State.setBt_pending (b : Nat) (x : BtPort) : (s.setBt b x).pending = s.pending := rfl

/-! setFlash changes lf. -/
@[simp] theorem State.setFlash_regs (n : Nat) (x : FlashNs) : (s.setFlash n x).regs = s.regs := rfl
@[simp] theorem State.setFlash_mem (n : Nat) (x : FlashNs) : (s.setFlash n x).mem = s.mem := rfl
@[simp] theorem State.setFlash_hmem (n : Nat) (x : FlashNs) : (s.setFlash n x).hmem = s.hmem := rfl
@[simp] theorem State.setFlash_img (n : Nat) (x : FlashNs) : (s.setFlash n x).img = s.img := rfl
@[simp] theorem State.setFlash_land (n : Nat) (x : FlashNs) : (s.setFlash n x).land = s.land := rfl
@[simp] theorem State.setFlash_wcMem (n : Nat) (x : FlashNs) : (s.setFlash n x).wcMem = s.wcMem := rfl
@[simp] theorem State.setFlash_poison (n : Nat) (x : FlashNs) : (s.setFlash n x).poison = s.poison := rfl
@[simp] theorem State.setFlash_corrected (n : Nat) (x : FlashNs) : (s.setFlash n x).corrected = s.corrected := rfl
@[simp] theorem State.setFlash_fuse (n : Nat) (x : FlashNs) : (s.setFlash n x).fuse = s.fuse := rfl
@[simp] theorem State.setFlash_pins (n : Nat) (x : FlashNs) : (s.setFlash n x).pins = s.pins := rfl
@[simp] theorem State.setFlash_rail (n : Nat) (x : FlashNs) : (s.setFlash n x).rail = s.rail := rfl
@[simp] theorem State.setFlash_railTried (n : Nat) (x : FlashNs) : (s.setFlash n x).railTried = s.railTried := rfl
@[simp] theorem State.setFlash_boot (n : Nat) (x : FlashNs) : (s.setFlash n x).boot = s.boot := rfl
@[simp] theorem State.setFlash_time (n : Nat) (x : FlashNs) : (s.setFlash n x).time = s.time := rfl
@[simp] theorem State.setFlash_timeRun (n : Nat) (x : FlashNs) : (s.setFlash n x).timeRun = s.timeRun := rfl
@[simp] theorem State.setFlash_rate (n : Nat) (x : FlashNs) : (s.setFlash n x).rate = s.rate := rfl
@[simp] theorem State.setFlash_syncGood (n : Nat) (x : FlashNs) : (s.setFlash n x).syncGood = s.syncGood := rfl
@[simp] theorem State.setFlash_timeSet (n : Nat) (x : FlashNs) : (s.setFlash n x).timeSet = s.timeSet := rfl
@[simp] theorem State.setFlash_syncStamps (n : Nat) (x : FlashNs) : (s.setFlash n x).syncStamps = s.syncStamps := rfl
@[simp] theorem State.setFlash_certs (n : Nat) (x : FlashNs) : (s.setFlash n x).certs = s.certs := rfl
@[simp] theorem State.setFlash_ctx (n : Nat) (x : FlashNs) : (s.setFlash n x).ctx = s.ctx := rfl
@[simp] theorem State.setFlash_irqOut (n : Nat) (x : FlashNs) : (s.setFlash n x).irqOut = s.irqOut := rfl
@[simp] theorem State.setFlash_msixOpen (n : Nat) (x : FlashNs) : (s.setFlash n x).msixOpen = s.msixOpen := rfl
@[simp] theorem State.setFlash_msixPend (n : Nat) (x : FlashNs) : (s.setFlash n x).msixPend = s.msixPend := rfl
@[simp] theorem State.setFlash_ev (n : Nat) (x : FlashNs) : (s.setFlash n x).ev = s.ev := rfl
@[simp] theorem State.setFlash_evOwn (n : Nat) (x : FlashNs) : (s.setFlash n x).evOwn = s.evOwn := rfl
@[simp] theorem State.setFlash_arr (n : Nat) (x : FlashNs) : (s.setFlash n x).arr = s.arr := rfl
@[simp] theorem State.setFlash_starts (n : Nat) (x : FlashNs) : (s.setFlash n x).starts = s.starts := rfl
@[simp] theorem State.setFlash_eng (n : Nat) (x : FlashNs) : (s.setFlash n x).eng = s.eng := rfl
@[simp] theorem State.setFlash_strm (n : Nat) (x : FlashNs) : (s.setFlash n x).strm = s.strm := rfl
@[simp] theorem State.setFlash_mov (n : Nat) (x : FlashNs) : (s.setFlash n x).mov = s.mov := rfl
@[simp] theorem State.setFlash_cour (n : Nat) (x : FlashNs) : (s.setFlash n x).cour = s.cour := rfl
@[simp] theorem State.setFlash_shelf (n : Nat) (x : FlashNs) : (s.setFlash n x).shelf = s.shelf := rfl
@[simp] theorem State.setFlash_stk (n : Nat) (x : FlashNs) : (s.setFlash n x).stk = s.stk := rfl
@[simp] theorem State.setFlash_bt (n : Nat) (x : FlashNs) : (s.setFlash n x).bt = s.bt := rfl
@[simp] theorem State.setFlash_port (n : Nat) (x : FlashNs) : (s.setFlash n x).port = s.port := rfl
@[simp] theorem State.setFlash_rq (n : Nat) (x : FlashNs) : (s.setFlash n x).rq = s.rq := rfl
@[simp] theorem State.setFlash_seqs (n : Nat) (x : FlashNs) : (s.setFlash n x).seqs = s.seqs := rfl
@[simp] theorem State.setFlash_kvWait (n : Nat) (x : FlashNs) : (s.setFlash n x).kvWait = s.kvWait := rfl
@[simp] theorem State.setFlash_smq (n : Nat) (x : FlashNs) : (s.setFlash n x).smq = s.smq := rfl
@[simp] theorem State.setFlash_rota (n : Nat) (x : FlashNs) : (s.setFlash n x).rota = s.rota := rfl
@[simp] theorem State.setFlash_rotaPend (n : Nat) (x : FlashNs) : (s.setFlash n x).rotaPend = s.rotaPend := rfl
@[simp] theorem State.setFlash_rotaAt (n : Nat) (x : FlashNs) : (s.setFlash n x).rotaAt = s.rotaAt := rfl
@[simp] theorem State.setFlash_accs (n : Nat) (x : FlashNs) : (s.setFlash n x).accs = s.accs := rfl
@[simp] theorem State.setFlash_protStage (n : Nat) (x : FlashNs) : (s.setFlash n x).protStage = s.protStage := rfl
@[simp] theorem State.setFlash_protAct (n : Nat) (x : FlashNs) : (s.setFlash n x).protAct = s.protAct := rfl
@[simp] theorem State.setFlash_protPrev (n : Nat) (x : FlashNs) : (s.setFlash n x).protPrev = s.protPrev := rfl
@[simp] theorem State.setFlash_protHeld (n : Nat) (x : FlashNs) : (s.setFlash n x).protHeld = s.protHeld := rfl
@[simp] theorem State.setFlash_scope (n : Nat) (x : FlashNs) : (s.setFlash n x).scope = s.scope := rfl
@[simp] theorem State.setFlash_hold (n : Nat) (x : FlashNs) : (s.setFlash n x).hold = s.hold := rfl
@[simp] theorem State.setFlash_evr (n : Nat) (x : FlashNs) : (s.setFlash n x).evr = s.evr := rfl
@[simp] theorem State.setFlash_cond (n : Nat) (x : FlashNs) : (s.setFlash n x).cond = s.cond := rfl
@[simp] theorem State.setFlash_pwr (n : Nat) (x : FlashNs) : (s.setFlash n x).pwr = s.pwr := rfl
@[simp] theorem State.setFlash_scans (n : Nat) (x : FlashNs) : (s.setFlash n x).scans = s.scans := rfl
@[simp] theorem State.setFlash_digs (n : Nat) (x : FlashNs) : (s.setFlash n x).digs = s.digs := rfl
@[simp] theorem State.setFlash_atts (n : Nat) (x : FlashNs) : (s.setFlash n x).atts = s.atts := rfl
@[simp] theorem State.setFlash_slots (n : Nat) (x : FlashNs) : (s.setFlash n x).slots = s.slots := rfl
@[simp] theorem State.setFlash_chan (n : Nat) (x : FlashNs) : (s.setFlash n x).chan = s.chan := rfl
@[simp] theorem State.setFlash_replies (n : Nat) (x : FlashNs) : (s.setFlash n x).replies = s.replies := rfl
@[simp] theorem State.setFlash_eids (n : Nat) (x : FlashNs) : (s.setFlash n x).eids = s.eids := rfl
@[simp] theorem State.setFlash_freeCtr (n : Nat) (x : FlashNs) : (s.setFlash n x).freeCtr = s.freeCtr := rfl
@[simp] theorem State.setFlash_pending (n : Nat) (x : FlashNs) : (s.setFlash n x).pending = s.pending := rfl

/-! setPort changes port. -/
@[simp] theorem State.setPort_regs (p : Nat) (x : Port) : (s.setPort p x).regs = s.regs := rfl
@[simp] theorem State.setPort_mem (p : Nat) (x : Port) : (s.setPort p x).mem = s.mem := rfl
@[simp] theorem State.setPort_hmem (p : Nat) (x : Port) : (s.setPort p x).hmem = s.hmem := rfl
@[simp] theorem State.setPort_img (p : Nat) (x : Port) : (s.setPort p x).img = s.img := rfl
@[simp] theorem State.setPort_land (p : Nat) (x : Port) : (s.setPort p x).land = s.land := rfl
@[simp] theorem State.setPort_wcMem (p : Nat) (x : Port) : (s.setPort p x).wcMem = s.wcMem := rfl
@[simp] theorem State.setPort_poison (p : Nat) (x : Port) : (s.setPort p x).poison = s.poison := rfl
@[simp] theorem State.setPort_corrected (p : Nat) (x : Port) : (s.setPort p x).corrected = s.corrected := rfl
@[simp] theorem State.setPort_fuse (p : Nat) (x : Port) : (s.setPort p x).fuse = s.fuse := rfl
@[simp] theorem State.setPort_pins (p : Nat) (x : Port) : (s.setPort p x).pins = s.pins := rfl
@[simp] theorem State.setPort_rail (p : Nat) (x : Port) : (s.setPort p x).rail = s.rail := rfl
@[simp] theorem State.setPort_railTried (p : Nat) (x : Port) : (s.setPort p x).railTried = s.railTried := rfl
@[simp] theorem State.setPort_boot (p : Nat) (x : Port) : (s.setPort p x).boot = s.boot := rfl
@[simp] theorem State.setPort_time (p : Nat) (x : Port) : (s.setPort p x).time = s.time := rfl
@[simp] theorem State.setPort_timeRun (p : Nat) (x : Port) : (s.setPort p x).timeRun = s.timeRun := rfl
@[simp] theorem State.setPort_rate (p : Nat) (x : Port) : (s.setPort p x).rate = s.rate := rfl
@[simp] theorem State.setPort_syncGood (p : Nat) (x : Port) : (s.setPort p x).syncGood = s.syncGood := rfl
@[simp] theorem State.setPort_timeSet (p : Nat) (x : Port) : (s.setPort p x).timeSet = s.timeSet := rfl
@[simp] theorem State.setPort_syncStamps (p : Nat) (x : Port) : (s.setPort p x).syncStamps = s.syncStamps := rfl
@[simp] theorem State.setPort_certs (p : Nat) (x : Port) : (s.setPort p x).certs = s.certs := rfl
@[simp] theorem State.setPort_ctx (p : Nat) (x : Port) : (s.setPort p x).ctx = s.ctx := rfl
@[simp] theorem State.setPort_irqOut (p : Nat) (x : Port) : (s.setPort p x).irqOut = s.irqOut := rfl
@[simp] theorem State.setPort_msixOpen (p : Nat) (x : Port) : (s.setPort p x).msixOpen = s.msixOpen := rfl
@[simp] theorem State.setPort_msixPend (p : Nat) (x : Port) : (s.setPort p x).msixPend = s.msixPend := rfl
@[simp] theorem State.setPort_ev (p : Nat) (x : Port) : (s.setPort p x).ev = s.ev := rfl
@[simp] theorem State.setPort_evOwn (p : Nat) (x : Port) : (s.setPort p x).evOwn = s.evOwn := rfl
@[simp] theorem State.setPort_arr (p : Nat) (x : Port) : (s.setPort p x).arr = s.arr := rfl
@[simp] theorem State.setPort_starts (p : Nat) (x : Port) : (s.setPort p x).starts = s.starts := rfl
@[simp] theorem State.setPort_eng (p : Nat) (x : Port) : (s.setPort p x).eng = s.eng := rfl
@[simp] theorem State.setPort_strm (p : Nat) (x : Port) : (s.setPort p x).strm = s.strm := rfl
@[simp] theorem State.setPort_mov (p : Nat) (x : Port) : (s.setPort p x).mov = s.mov := rfl
@[simp] theorem State.setPort_cour (p : Nat) (x : Port) : (s.setPort p x).cour = s.cour := rfl
@[simp] theorem State.setPort_shelf (p : Nat) (x : Port) : (s.setPort p x).shelf = s.shelf := rfl
@[simp] theorem State.setPort_stk (p : Nat) (x : Port) : (s.setPort p x).stk = s.stk := rfl
@[simp] theorem State.setPort_bt (p : Nat) (x : Port) : (s.setPort p x).bt = s.bt := rfl
@[simp] theorem State.setPort_lf (p : Nat) (x : Port) : (s.setPort p x).lf = s.lf := rfl
@[simp] theorem State.setPort_rq (p : Nat) (x : Port) : (s.setPort p x).rq = s.rq := rfl
@[simp] theorem State.setPort_seqs (p : Nat) (x : Port) : (s.setPort p x).seqs = s.seqs := rfl
@[simp] theorem State.setPort_kvWait (p : Nat) (x : Port) : (s.setPort p x).kvWait = s.kvWait := rfl
@[simp] theorem State.setPort_smq (p : Nat) (x : Port) : (s.setPort p x).smq = s.smq := rfl
@[simp] theorem State.setPort_rota (p : Nat) (x : Port) : (s.setPort p x).rota = s.rota := rfl
@[simp] theorem State.setPort_rotaPend (p : Nat) (x : Port) : (s.setPort p x).rotaPend = s.rotaPend := rfl
@[simp] theorem State.setPort_rotaAt (p : Nat) (x : Port) : (s.setPort p x).rotaAt = s.rotaAt := rfl
@[simp] theorem State.setPort_accs (p : Nat) (x : Port) : (s.setPort p x).accs = s.accs := rfl
@[simp] theorem State.setPort_protStage (p : Nat) (x : Port) : (s.setPort p x).protStage = s.protStage := rfl
@[simp] theorem State.setPort_protAct (p : Nat) (x : Port) : (s.setPort p x).protAct = s.protAct := rfl
@[simp] theorem State.setPort_protPrev (p : Nat) (x : Port) : (s.setPort p x).protPrev = s.protPrev := rfl
@[simp] theorem State.setPort_protHeld (p : Nat) (x : Port) : (s.setPort p x).protHeld = s.protHeld := rfl
@[simp] theorem State.setPort_scope (p : Nat) (x : Port) : (s.setPort p x).scope = s.scope := rfl
@[simp] theorem State.setPort_hold (p : Nat) (x : Port) : (s.setPort p x).hold = s.hold := rfl
@[simp] theorem State.setPort_evr (p : Nat) (x : Port) : (s.setPort p x).evr = s.evr := rfl
@[simp] theorem State.setPort_cond (p : Nat) (x : Port) : (s.setPort p x).cond = s.cond := rfl
@[simp] theorem State.setPort_pwr (p : Nat) (x : Port) : (s.setPort p x).pwr = s.pwr := rfl
@[simp] theorem State.setPort_scans (p : Nat) (x : Port) : (s.setPort p x).scans = s.scans := rfl
@[simp] theorem State.setPort_digs (p : Nat) (x : Port) : (s.setPort p x).digs = s.digs := rfl
@[simp] theorem State.setPort_atts (p : Nat) (x : Port) : (s.setPort p x).atts = s.atts := rfl
@[simp] theorem State.setPort_slots (p : Nat) (x : Port) : (s.setPort p x).slots = s.slots := rfl
@[simp] theorem State.setPort_chan (p : Nat) (x : Port) : (s.setPort p x).chan = s.chan := rfl
@[simp] theorem State.setPort_replies (p : Nat) (x : Port) : (s.setPort p x).replies = s.replies := rfl
@[simp] theorem State.setPort_eids (p : Nat) (x : Port) : (s.setPort p x).eids = s.eids := rfl
@[simp] theorem State.setPort_freeCtr (p : Nat) (x : Port) : (s.setPort p x).freeCtr = s.freeCtr := rfl
@[simp] theorem State.setPort_pending (p : Nat) (x : Port) : (s.setPort p x).pending = s.pending := rfl

/-! setRq changes rq. -/
@[simp] theorem State.setRq_regs (w q : Nat) (x : RQueue) : (s.setRq w q x).regs = s.regs := rfl
@[simp] theorem State.setRq_mem (w q : Nat) (x : RQueue) : (s.setRq w q x).mem = s.mem := rfl
@[simp] theorem State.setRq_hmem (w q : Nat) (x : RQueue) : (s.setRq w q x).hmem = s.hmem := rfl
@[simp] theorem State.setRq_img (w q : Nat) (x : RQueue) : (s.setRq w q x).img = s.img := rfl
@[simp] theorem State.setRq_land (w q : Nat) (x : RQueue) : (s.setRq w q x).land = s.land := rfl
@[simp] theorem State.setRq_wcMem (w q : Nat) (x : RQueue) : (s.setRq w q x).wcMem = s.wcMem := rfl
@[simp] theorem State.setRq_poison (w q : Nat) (x : RQueue) : (s.setRq w q x).poison = s.poison := rfl
@[simp] theorem State.setRq_corrected (w q : Nat) (x : RQueue) : (s.setRq w q x).corrected = s.corrected := rfl
@[simp] theorem State.setRq_fuse (w q : Nat) (x : RQueue) : (s.setRq w q x).fuse = s.fuse := rfl
@[simp] theorem State.setRq_pins (w q : Nat) (x : RQueue) : (s.setRq w q x).pins = s.pins := rfl
@[simp] theorem State.setRq_rail (w q : Nat) (x : RQueue) : (s.setRq w q x).rail = s.rail := rfl
@[simp] theorem State.setRq_railTried (w q : Nat) (x : RQueue) : (s.setRq w q x).railTried = s.railTried := rfl
@[simp] theorem State.setRq_boot (w q : Nat) (x : RQueue) : (s.setRq w q x).boot = s.boot := rfl
@[simp] theorem State.setRq_time (w q : Nat) (x : RQueue) : (s.setRq w q x).time = s.time := rfl
@[simp] theorem State.setRq_timeRun (w q : Nat) (x : RQueue) : (s.setRq w q x).timeRun = s.timeRun := rfl
@[simp] theorem State.setRq_rate (w q : Nat) (x : RQueue) : (s.setRq w q x).rate = s.rate := rfl
@[simp] theorem State.setRq_syncGood (w q : Nat) (x : RQueue) : (s.setRq w q x).syncGood = s.syncGood := rfl
@[simp] theorem State.setRq_timeSet (w q : Nat) (x : RQueue) : (s.setRq w q x).timeSet = s.timeSet := rfl
@[simp] theorem State.setRq_syncStamps (w q : Nat) (x : RQueue) : (s.setRq w q x).syncStamps = s.syncStamps := rfl
@[simp] theorem State.setRq_certs (w q : Nat) (x : RQueue) : (s.setRq w q x).certs = s.certs := rfl
@[simp] theorem State.setRq_ctx (w q : Nat) (x : RQueue) : (s.setRq w q x).ctx = s.ctx := rfl
@[simp] theorem State.setRq_irqOut (w q : Nat) (x : RQueue) : (s.setRq w q x).irqOut = s.irqOut := rfl
@[simp] theorem State.setRq_msixOpen (w q : Nat) (x : RQueue) : (s.setRq w q x).msixOpen = s.msixOpen := rfl
@[simp] theorem State.setRq_msixPend (w q : Nat) (x : RQueue) : (s.setRq w q x).msixPend = s.msixPend := rfl
@[simp] theorem State.setRq_ev (w q : Nat) (x : RQueue) : (s.setRq w q x).ev = s.ev := rfl
@[simp] theorem State.setRq_evOwn (w q : Nat) (x : RQueue) : (s.setRq w q x).evOwn = s.evOwn := rfl
@[simp] theorem State.setRq_arr (w q : Nat) (x : RQueue) : (s.setRq w q x).arr = s.arr := rfl
@[simp] theorem State.setRq_starts (w q : Nat) (x : RQueue) : (s.setRq w q x).starts = s.starts := rfl
@[simp] theorem State.setRq_eng (w q : Nat) (x : RQueue) : (s.setRq w q x).eng = s.eng := rfl
@[simp] theorem State.setRq_strm (w q : Nat) (x : RQueue) : (s.setRq w q x).strm = s.strm := rfl
@[simp] theorem State.setRq_mov (w q : Nat) (x : RQueue) : (s.setRq w q x).mov = s.mov := rfl
@[simp] theorem State.setRq_cour (w q : Nat) (x : RQueue) : (s.setRq w q x).cour = s.cour := rfl
@[simp] theorem State.setRq_shelf (w q : Nat) (x : RQueue) : (s.setRq w q x).shelf = s.shelf := rfl
@[simp] theorem State.setRq_stk (w q : Nat) (x : RQueue) : (s.setRq w q x).stk = s.stk := rfl
@[simp] theorem State.setRq_bt (w q : Nat) (x : RQueue) : (s.setRq w q x).bt = s.bt := rfl
@[simp] theorem State.setRq_lf (w q : Nat) (x : RQueue) : (s.setRq w q x).lf = s.lf := rfl
@[simp] theorem State.setRq_port (w q : Nat) (x : RQueue) : (s.setRq w q x).port = s.port := rfl
@[simp] theorem State.setRq_seqs (w q : Nat) (x : RQueue) : (s.setRq w q x).seqs = s.seqs := rfl
@[simp] theorem State.setRq_kvWait (w q : Nat) (x : RQueue) : (s.setRq w q x).kvWait = s.kvWait := rfl
@[simp] theorem State.setRq_smq (w q : Nat) (x : RQueue) : (s.setRq w q x).smq = s.smq := rfl
@[simp] theorem State.setRq_rota (w q : Nat) (x : RQueue) : (s.setRq w q x).rota = s.rota := rfl
@[simp] theorem State.setRq_rotaPend (w q : Nat) (x : RQueue) : (s.setRq w q x).rotaPend = s.rotaPend := rfl
@[simp] theorem State.setRq_rotaAt (w q : Nat) (x : RQueue) : (s.setRq w q x).rotaAt = s.rotaAt := rfl
@[simp] theorem State.setRq_accs (w q : Nat) (x : RQueue) : (s.setRq w q x).accs = s.accs := rfl
@[simp] theorem State.setRq_protStage (w q : Nat) (x : RQueue) : (s.setRq w q x).protStage = s.protStage := rfl
@[simp] theorem State.setRq_protAct (w q : Nat) (x : RQueue) : (s.setRq w q x).protAct = s.protAct := rfl
@[simp] theorem State.setRq_protPrev (w q : Nat) (x : RQueue) : (s.setRq w q x).protPrev = s.protPrev := rfl
@[simp] theorem State.setRq_protHeld (w q : Nat) (x : RQueue) : (s.setRq w q x).protHeld = s.protHeld := rfl
@[simp] theorem State.setRq_scope (w q : Nat) (x : RQueue) : (s.setRq w q x).scope = s.scope := rfl
@[simp] theorem State.setRq_hold (w q : Nat) (x : RQueue) : (s.setRq w q x).hold = s.hold := rfl
@[simp] theorem State.setRq_evr (w q : Nat) (x : RQueue) : (s.setRq w q x).evr = s.evr := rfl
@[simp] theorem State.setRq_cond (w q : Nat) (x : RQueue) : (s.setRq w q x).cond = s.cond := rfl
@[simp] theorem State.setRq_pwr (w q : Nat) (x : RQueue) : (s.setRq w q x).pwr = s.pwr := rfl
@[simp] theorem State.setRq_scans (w q : Nat) (x : RQueue) : (s.setRq w q x).scans = s.scans := rfl
@[simp] theorem State.setRq_digs (w q : Nat) (x : RQueue) : (s.setRq w q x).digs = s.digs := rfl
@[simp] theorem State.setRq_atts (w q : Nat) (x : RQueue) : (s.setRq w q x).atts = s.atts := rfl
@[simp] theorem State.setRq_slots (w q : Nat) (x : RQueue) : (s.setRq w q x).slots = s.slots := rfl
@[simp] theorem State.setRq_chan (w q : Nat) (x : RQueue) : (s.setRq w q x).chan = s.chan := rfl
@[simp] theorem State.setRq_replies (w q : Nat) (x : RQueue) : (s.setRq w q x).replies = s.replies := rfl
@[simp] theorem State.setRq_eids (w q : Nat) (x : RQueue) : (s.setRq w q x).eids = s.eids := rfl
@[simp] theorem State.setRq_freeCtr (w q : Nat) (x : RQueue) : (s.setRq w q x).freeCtr = s.freeCtr := rfl
@[simp] theorem State.setRq_pending (w q : Nat) (x : RQueue) : (s.setRq w q x).pending = s.pending := rfl

/-! setSeq changes seqs. -/
@[simp] theorem State.setSeq_regs (n : Nat) (x : Seq) : (s.setSeq n x).regs = s.regs := rfl
@[simp] theorem State.setSeq_mem (n : Nat) (x : Seq) : (s.setSeq n x).mem = s.mem := rfl
@[simp] theorem State.setSeq_hmem (n : Nat) (x : Seq) : (s.setSeq n x).hmem = s.hmem := rfl
@[simp] theorem State.setSeq_img (n : Nat) (x : Seq) : (s.setSeq n x).img = s.img := rfl
@[simp] theorem State.setSeq_land (n : Nat) (x : Seq) : (s.setSeq n x).land = s.land := rfl
@[simp] theorem State.setSeq_wcMem (n : Nat) (x : Seq) : (s.setSeq n x).wcMem = s.wcMem := rfl
@[simp] theorem State.setSeq_poison (n : Nat) (x : Seq) : (s.setSeq n x).poison = s.poison := rfl
@[simp] theorem State.setSeq_corrected (n : Nat) (x : Seq) : (s.setSeq n x).corrected = s.corrected := rfl
@[simp] theorem State.setSeq_fuse (n : Nat) (x : Seq) : (s.setSeq n x).fuse = s.fuse := rfl
@[simp] theorem State.setSeq_pins (n : Nat) (x : Seq) : (s.setSeq n x).pins = s.pins := rfl
@[simp] theorem State.setSeq_rail (n : Nat) (x : Seq) : (s.setSeq n x).rail = s.rail := rfl
@[simp] theorem State.setSeq_railTried (n : Nat) (x : Seq) : (s.setSeq n x).railTried = s.railTried := rfl
@[simp] theorem State.setSeq_boot (n : Nat) (x : Seq) : (s.setSeq n x).boot = s.boot := rfl
@[simp] theorem State.setSeq_time (n : Nat) (x : Seq) : (s.setSeq n x).time = s.time := rfl
@[simp] theorem State.setSeq_timeRun (n : Nat) (x : Seq) : (s.setSeq n x).timeRun = s.timeRun := rfl
@[simp] theorem State.setSeq_rate (n : Nat) (x : Seq) : (s.setSeq n x).rate = s.rate := rfl
@[simp] theorem State.setSeq_syncGood (n : Nat) (x : Seq) : (s.setSeq n x).syncGood = s.syncGood := rfl
@[simp] theorem State.setSeq_timeSet (n : Nat) (x : Seq) : (s.setSeq n x).timeSet = s.timeSet := rfl
@[simp] theorem State.setSeq_syncStamps (n : Nat) (x : Seq) : (s.setSeq n x).syncStamps = s.syncStamps := rfl
@[simp] theorem State.setSeq_certs (n : Nat) (x : Seq) : (s.setSeq n x).certs = s.certs := rfl
@[simp] theorem State.setSeq_ctx (n : Nat) (x : Seq) : (s.setSeq n x).ctx = s.ctx := rfl
@[simp] theorem State.setSeq_irqOut (n : Nat) (x : Seq) : (s.setSeq n x).irqOut = s.irqOut := rfl
@[simp] theorem State.setSeq_msixOpen (n : Nat) (x : Seq) : (s.setSeq n x).msixOpen = s.msixOpen := rfl
@[simp] theorem State.setSeq_msixPend (n : Nat) (x : Seq) : (s.setSeq n x).msixPend = s.msixPend := rfl
@[simp] theorem State.setSeq_ev (n : Nat) (x : Seq) : (s.setSeq n x).ev = s.ev := rfl
@[simp] theorem State.setSeq_evOwn (n : Nat) (x : Seq) : (s.setSeq n x).evOwn = s.evOwn := rfl
@[simp] theorem State.setSeq_arr (n : Nat) (x : Seq) : (s.setSeq n x).arr = s.arr := rfl
@[simp] theorem State.setSeq_starts (n : Nat) (x : Seq) : (s.setSeq n x).starts = s.starts := rfl
@[simp] theorem State.setSeq_eng (n : Nat) (x : Seq) : (s.setSeq n x).eng = s.eng := rfl
@[simp] theorem State.setSeq_strm (n : Nat) (x : Seq) : (s.setSeq n x).strm = s.strm := rfl
@[simp] theorem State.setSeq_mov (n : Nat) (x : Seq) : (s.setSeq n x).mov = s.mov := rfl
@[simp] theorem State.setSeq_cour (n : Nat) (x : Seq) : (s.setSeq n x).cour = s.cour := rfl
@[simp] theorem State.setSeq_shelf (n : Nat) (x : Seq) : (s.setSeq n x).shelf = s.shelf := rfl
@[simp] theorem State.setSeq_stk (n : Nat) (x : Seq) : (s.setSeq n x).stk = s.stk := rfl
@[simp] theorem State.setSeq_bt (n : Nat) (x : Seq) : (s.setSeq n x).bt = s.bt := rfl
@[simp] theorem State.setSeq_lf (n : Nat) (x : Seq) : (s.setSeq n x).lf = s.lf := rfl
@[simp] theorem State.setSeq_port (n : Nat) (x : Seq) : (s.setSeq n x).port = s.port := rfl
@[simp] theorem State.setSeq_rq (n : Nat) (x : Seq) : (s.setSeq n x).rq = s.rq := rfl
@[simp] theorem State.setSeq_kvWait (n : Nat) (x : Seq) : (s.setSeq n x).kvWait = s.kvWait := rfl
@[simp] theorem State.setSeq_smq (n : Nat) (x : Seq) : (s.setSeq n x).smq = s.smq := rfl
@[simp] theorem State.setSeq_rota (n : Nat) (x : Seq) : (s.setSeq n x).rota = s.rota := rfl
@[simp] theorem State.setSeq_rotaPend (n : Nat) (x : Seq) : (s.setSeq n x).rotaPend = s.rotaPend := rfl
@[simp] theorem State.setSeq_rotaAt (n : Nat) (x : Seq) : (s.setSeq n x).rotaAt = s.rotaAt := rfl
@[simp] theorem State.setSeq_accs (n : Nat) (x : Seq) : (s.setSeq n x).accs = s.accs := rfl
@[simp] theorem State.setSeq_protStage (n : Nat) (x : Seq) : (s.setSeq n x).protStage = s.protStage := rfl
@[simp] theorem State.setSeq_protAct (n : Nat) (x : Seq) : (s.setSeq n x).protAct = s.protAct := rfl
@[simp] theorem State.setSeq_protPrev (n : Nat) (x : Seq) : (s.setSeq n x).protPrev = s.protPrev := rfl
@[simp] theorem State.setSeq_protHeld (n : Nat) (x : Seq) : (s.setSeq n x).protHeld = s.protHeld := rfl
@[simp] theorem State.setSeq_scope (n : Nat) (x : Seq) : (s.setSeq n x).scope = s.scope := rfl
@[simp] theorem State.setSeq_hold (n : Nat) (x : Seq) : (s.setSeq n x).hold = s.hold := rfl
@[simp] theorem State.setSeq_evr (n : Nat) (x : Seq) : (s.setSeq n x).evr = s.evr := rfl
@[simp] theorem State.setSeq_cond (n : Nat) (x : Seq) : (s.setSeq n x).cond = s.cond := rfl
@[simp] theorem State.setSeq_pwr (n : Nat) (x : Seq) : (s.setSeq n x).pwr = s.pwr := rfl
@[simp] theorem State.setSeq_scans (n : Nat) (x : Seq) : (s.setSeq n x).scans = s.scans := rfl
@[simp] theorem State.setSeq_digs (n : Nat) (x : Seq) : (s.setSeq n x).digs = s.digs := rfl
@[simp] theorem State.setSeq_atts (n : Nat) (x : Seq) : (s.setSeq n x).atts = s.atts := rfl
@[simp] theorem State.setSeq_slots (n : Nat) (x : Seq) : (s.setSeq n x).slots = s.slots := rfl
@[simp] theorem State.setSeq_chan (n : Nat) (x : Seq) : (s.setSeq n x).chan = s.chan := rfl
@[simp] theorem State.setSeq_replies (n : Nat) (x : Seq) : (s.setSeq n x).replies = s.replies := rfl
@[simp] theorem State.setSeq_eids (n : Nat) (x : Seq) : (s.setSeq n x).eids = s.eids := rfl
@[simp] theorem State.setSeq_freeCtr (n : Nat) (x : Seq) : (s.setSeq n x).freeCtr = s.freeCtr := rfl
@[simp] theorem State.setSeq_pending (n : Nat) (x : Seq) : (s.setSeq n x).pending = s.pending := rfl

/-! setCh changes chan. -/
@[simp] theorem State.setCh_regs (k : Nat) (x : Chan) : (s.setCh k x).regs = s.regs := rfl
@[simp] theorem State.setCh_mem (k : Nat) (x : Chan) : (s.setCh k x).mem = s.mem := rfl
@[simp] theorem State.setCh_hmem (k : Nat) (x : Chan) : (s.setCh k x).hmem = s.hmem := rfl
@[simp] theorem State.setCh_img (k : Nat) (x : Chan) : (s.setCh k x).img = s.img := rfl
@[simp] theorem State.setCh_land (k : Nat) (x : Chan) : (s.setCh k x).land = s.land := rfl
@[simp] theorem State.setCh_wcMem (k : Nat) (x : Chan) : (s.setCh k x).wcMem = s.wcMem := rfl
@[simp] theorem State.setCh_poison (k : Nat) (x : Chan) : (s.setCh k x).poison = s.poison := rfl
@[simp] theorem State.setCh_corrected (k : Nat) (x : Chan) : (s.setCh k x).corrected = s.corrected := rfl
@[simp] theorem State.setCh_fuse (k : Nat) (x : Chan) : (s.setCh k x).fuse = s.fuse := rfl
@[simp] theorem State.setCh_pins (k : Nat) (x : Chan) : (s.setCh k x).pins = s.pins := rfl
@[simp] theorem State.setCh_rail (k : Nat) (x : Chan) : (s.setCh k x).rail = s.rail := rfl
@[simp] theorem State.setCh_railTried (k : Nat) (x : Chan) : (s.setCh k x).railTried = s.railTried := rfl
@[simp] theorem State.setCh_boot (k : Nat) (x : Chan) : (s.setCh k x).boot = s.boot := rfl
@[simp] theorem State.setCh_time (k : Nat) (x : Chan) : (s.setCh k x).time = s.time := rfl
@[simp] theorem State.setCh_timeRun (k : Nat) (x : Chan) : (s.setCh k x).timeRun = s.timeRun := rfl
@[simp] theorem State.setCh_rate (k : Nat) (x : Chan) : (s.setCh k x).rate = s.rate := rfl
@[simp] theorem State.setCh_syncGood (k : Nat) (x : Chan) : (s.setCh k x).syncGood = s.syncGood := rfl
@[simp] theorem State.setCh_timeSet (k : Nat) (x : Chan) : (s.setCh k x).timeSet = s.timeSet := rfl
@[simp] theorem State.setCh_syncStamps (k : Nat) (x : Chan) : (s.setCh k x).syncStamps = s.syncStamps := rfl
@[simp] theorem State.setCh_certs (k : Nat) (x : Chan) : (s.setCh k x).certs = s.certs := rfl
@[simp] theorem State.setCh_ctx (k : Nat) (x : Chan) : (s.setCh k x).ctx = s.ctx := rfl
@[simp] theorem State.setCh_irqOut (k : Nat) (x : Chan) : (s.setCh k x).irqOut = s.irqOut := rfl
@[simp] theorem State.setCh_msixOpen (k : Nat) (x : Chan) : (s.setCh k x).msixOpen = s.msixOpen := rfl
@[simp] theorem State.setCh_msixPend (k : Nat) (x : Chan) : (s.setCh k x).msixPend = s.msixPend := rfl
@[simp] theorem State.setCh_ev (k : Nat) (x : Chan) : (s.setCh k x).ev = s.ev := rfl
@[simp] theorem State.setCh_evOwn (k : Nat) (x : Chan) : (s.setCh k x).evOwn = s.evOwn := rfl
@[simp] theorem State.setCh_arr (k : Nat) (x : Chan) : (s.setCh k x).arr = s.arr := rfl
@[simp] theorem State.setCh_starts (k : Nat) (x : Chan) : (s.setCh k x).starts = s.starts := rfl
@[simp] theorem State.setCh_eng (k : Nat) (x : Chan) : (s.setCh k x).eng = s.eng := rfl
@[simp] theorem State.setCh_strm (k : Nat) (x : Chan) : (s.setCh k x).strm = s.strm := rfl
@[simp] theorem State.setCh_mov (k : Nat) (x : Chan) : (s.setCh k x).mov = s.mov := rfl
@[simp] theorem State.setCh_cour (k : Nat) (x : Chan) : (s.setCh k x).cour = s.cour := rfl
@[simp] theorem State.setCh_shelf (k : Nat) (x : Chan) : (s.setCh k x).shelf = s.shelf := rfl
@[simp] theorem State.setCh_stk (k : Nat) (x : Chan) : (s.setCh k x).stk = s.stk := rfl
@[simp] theorem State.setCh_bt (k : Nat) (x : Chan) : (s.setCh k x).bt = s.bt := rfl
@[simp] theorem State.setCh_lf (k : Nat) (x : Chan) : (s.setCh k x).lf = s.lf := rfl
@[simp] theorem State.setCh_port (k : Nat) (x : Chan) : (s.setCh k x).port = s.port := rfl
@[simp] theorem State.setCh_rq (k : Nat) (x : Chan) : (s.setCh k x).rq = s.rq := rfl
@[simp] theorem State.setCh_seqs (k : Nat) (x : Chan) : (s.setCh k x).seqs = s.seqs := rfl
@[simp] theorem State.setCh_kvWait (k : Nat) (x : Chan) : (s.setCh k x).kvWait = s.kvWait := rfl
@[simp] theorem State.setCh_smq (k : Nat) (x : Chan) : (s.setCh k x).smq = s.smq := rfl
@[simp] theorem State.setCh_rota (k : Nat) (x : Chan) : (s.setCh k x).rota = s.rota := rfl
@[simp] theorem State.setCh_rotaPend (k : Nat) (x : Chan) : (s.setCh k x).rotaPend = s.rotaPend := rfl
@[simp] theorem State.setCh_rotaAt (k : Nat) (x : Chan) : (s.setCh k x).rotaAt = s.rotaAt := rfl
@[simp] theorem State.setCh_accs (k : Nat) (x : Chan) : (s.setCh k x).accs = s.accs := rfl
@[simp] theorem State.setCh_protStage (k : Nat) (x : Chan) : (s.setCh k x).protStage = s.protStage := rfl
@[simp] theorem State.setCh_protAct (k : Nat) (x : Chan) : (s.setCh k x).protAct = s.protAct := rfl
@[simp] theorem State.setCh_protPrev (k : Nat) (x : Chan) : (s.setCh k x).protPrev = s.protPrev := rfl
@[simp] theorem State.setCh_protHeld (k : Nat) (x : Chan) : (s.setCh k x).protHeld = s.protHeld := rfl
@[simp] theorem State.setCh_scope (k : Nat) (x : Chan) : (s.setCh k x).scope = s.scope := rfl
@[simp] theorem State.setCh_hold (k : Nat) (x : Chan) : (s.setCh k x).hold = s.hold := rfl
@[simp] theorem State.setCh_evr (k : Nat) (x : Chan) : (s.setCh k x).evr = s.evr := rfl
@[simp] theorem State.setCh_cond (k : Nat) (x : Chan) : (s.setCh k x).cond = s.cond := rfl
@[simp] theorem State.setCh_pwr (k : Nat) (x : Chan) : (s.setCh k x).pwr = s.pwr := rfl
@[simp] theorem State.setCh_scans (k : Nat) (x : Chan) : (s.setCh k x).scans = s.scans := rfl
@[simp] theorem State.setCh_digs (k : Nat) (x : Chan) : (s.setCh k x).digs = s.digs := rfl
@[simp] theorem State.setCh_atts (k : Nat) (x : Chan) : (s.setCh k x).atts = s.atts := rfl
@[simp] theorem State.setCh_slots (k : Nat) (x : Chan) : (s.setCh k x).slots = s.slots := rfl
@[simp] theorem State.setCh_replies (k : Nat) (x : Chan) : (s.setCh k x).replies = s.replies := rfl
@[simp] theorem State.setCh_eids (k : Nat) (x : Chan) : (s.setCh k x).eids = s.eids := rfl
@[simp] theorem State.setCh_freeCtr (k : Nat) (x : Chan) : (s.setCh k x).freeCtr = s.freeCtr := rfl
@[simp] theorem State.setCh_pending (k : Nat) (x : Chan) : (s.setCh k x).pending = s.pending := rfl

/-! setWrota changes rota. -/
@[simp] theorem State.setWrota_regs (w : Nat) (x : WingRota) : (s.setWrota w x).regs = s.regs := rfl
@[simp] theorem State.setWrota_mem (w : Nat) (x : WingRota) : (s.setWrota w x).mem = s.mem := rfl
@[simp] theorem State.setWrota_hmem (w : Nat) (x : WingRota) : (s.setWrota w x).hmem = s.hmem := rfl
@[simp] theorem State.setWrota_img (w : Nat) (x : WingRota) : (s.setWrota w x).img = s.img := rfl
@[simp] theorem State.setWrota_land (w : Nat) (x : WingRota) : (s.setWrota w x).land = s.land := rfl
@[simp] theorem State.setWrota_wcMem (w : Nat) (x : WingRota) : (s.setWrota w x).wcMem = s.wcMem := rfl
@[simp] theorem State.setWrota_poison (w : Nat) (x : WingRota) : (s.setWrota w x).poison = s.poison := rfl
@[simp] theorem State.setWrota_corrected (w : Nat) (x : WingRota) : (s.setWrota w x).corrected = s.corrected := rfl
@[simp] theorem State.setWrota_fuse (w : Nat) (x : WingRota) : (s.setWrota w x).fuse = s.fuse := rfl
@[simp] theorem State.setWrota_pins (w : Nat) (x : WingRota) : (s.setWrota w x).pins = s.pins := rfl
@[simp] theorem State.setWrota_rail (w : Nat) (x : WingRota) : (s.setWrota w x).rail = s.rail := rfl
@[simp] theorem State.setWrota_railTried (w : Nat) (x : WingRota) : (s.setWrota w x).railTried = s.railTried := rfl
@[simp] theorem State.setWrota_boot (w : Nat) (x : WingRota) : (s.setWrota w x).boot = s.boot := rfl
@[simp] theorem State.setWrota_time (w : Nat) (x : WingRota) : (s.setWrota w x).time = s.time := rfl
@[simp] theorem State.setWrota_timeRun (w : Nat) (x : WingRota) : (s.setWrota w x).timeRun = s.timeRun := rfl
@[simp] theorem State.setWrota_rate (w : Nat) (x : WingRota) : (s.setWrota w x).rate = s.rate := rfl
@[simp] theorem State.setWrota_syncGood (w : Nat) (x : WingRota) : (s.setWrota w x).syncGood = s.syncGood := rfl
@[simp] theorem State.setWrota_timeSet (w : Nat) (x : WingRota) : (s.setWrota w x).timeSet = s.timeSet := rfl
@[simp] theorem State.setWrota_syncStamps (w : Nat) (x : WingRota) : (s.setWrota w x).syncStamps = s.syncStamps := rfl
@[simp] theorem State.setWrota_certs (w : Nat) (x : WingRota) : (s.setWrota w x).certs = s.certs := rfl
@[simp] theorem State.setWrota_ctx (w : Nat) (x : WingRota) : (s.setWrota w x).ctx = s.ctx := rfl
@[simp] theorem State.setWrota_irqOut (w : Nat) (x : WingRota) : (s.setWrota w x).irqOut = s.irqOut := rfl
@[simp] theorem State.setWrota_msixOpen (w : Nat) (x : WingRota) : (s.setWrota w x).msixOpen = s.msixOpen := rfl
@[simp] theorem State.setWrota_msixPend (w : Nat) (x : WingRota) : (s.setWrota w x).msixPend = s.msixPend := rfl
@[simp] theorem State.setWrota_ev (w : Nat) (x : WingRota) : (s.setWrota w x).ev = s.ev := rfl
@[simp] theorem State.setWrota_evOwn (w : Nat) (x : WingRota) : (s.setWrota w x).evOwn = s.evOwn := rfl
@[simp] theorem State.setWrota_arr (w : Nat) (x : WingRota) : (s.setWrota w x).arr = s.arr := rfl
@[simp] theorem State.setWrota_starts (w : Nat) (x : WingRota) : (s.setWrota w x).starts = s.starts := rfl
@[simp] theorem State.setWrota_eng (w : Nat) (x : WingRota) : (s.setWrota w x).eng = s.eng := rfl
@[simp] theorem State.setWrota_strm (w : Nat) (x : WingRota) : (s.setWrota w x).strm = s.strm := rfl
@[simp] theorem State.setWrota_mov (w : Nat) (x : WingRota) : (s.setWrota w x).mov = s.mov := rfl
@[simp] theorem State.setWrota_cour (w : Nat) (x : WingRota) : (s.setWrota w x).cour = s.cour := rfl
@[simp] theorem State.setWrota_shelf (w : Nat) (x : WingRota) : (s.setWrota w x).shelf = s.shelf := rfl
@[simp] theorem State.setWrota_stk (w : Nat) (x : WingRota) : (s.setWrota w x).stk = s.stk := rfl
@[simp] theorem State.setWrota_bt (w : Nat) (x : WingRota) : (s.setWrota w x).bt = s.bt := rfl
@[simp] theorem State.setWrota_lf (w : Nat) (x : WingRota) : (s.setWrota w x).lf = s.lf := rfl
@[simp] theorem State.setWrota_port (w : Nat) (x : WingRota) : (s.setWrota w x).port = s.port := rfl
@[simp] theorem State.setWrota_rq (w : Nat) (x : WingRota) : (s.setWrota w x).rq = s.rq := rfl
@[simp] theorem State.setWrota_seqs (w : Nat) (x : WingRota) : (s.setWrota w x).seqs = s.seqs := rfl
@[simp] theorem State.setWrota_kvWait (w : Nat) (x : WingRota) : (s.setWrota w x).kvWait = s.kvWait := rfl
@[simp] theorem State.setWrota_smq (w : Nat) (x : WingRota) : (s.setWrota w x).smq = s.smq := rfl
@[simp] theorem State.setWrota_rotaPend (w : Nat) (x : WingRota) : (s.setWrota w x).rotaPend = s.rotaPend := rfl
@[simp] theorem State.setWrota_rotaAt (w : Nat) (x : WingRota) : (s.setWrota w x).rotaAt = s.rotaAt := rfl
@[simp] theorem State.setWrota_accs (w : Nat) (x : WingRota) : (s.setWrota w x).accs = s.accs := rfl
@[simp] theorem State.setWrota_protStage (w : Nat) (x : WingRota) : (s.setWrota w x).protStage = s.protStage := rfl
@[simp] theorem State.setWrota_protAct (w : Nat) (x : WingRota) : (s.setWrota w x).protAct = s.protAct := rfl
@[simp] theorem State.setWrota_protPrev (w : Nat) (x : WingRota) : (s.setWrota w x).protPrev = s.protPrev := rfl
@[simp] theorem State.setWrota_protHeld (w : Nat) (x : WingRota) : (s.setWrota w x).protHeld = s.protHeld := rfl
@[simp] theorem State.setWrota_scope (w : Nat) (x : WingRota) : (s.setWrota w x).scope = s.scope := rfl
@[simp] theorem State.setWrota_hold (w : Nat) (x : WingRota) : (s.setWrota w x).hold = s.hold := rfl
@[simp] theorem State.setWrota_evr (w : Nat) (x : WingRota) : (s.setWrota w x).evr = s.evr := rfl
@[simp] theorem State.setWrota_cond (w : Nat) (x : WingRota) : (s.setWrota w x).cond = s.cond := rfl
@[simp] theorem State.setWrota_pwr (w : Nat) (x : WingRota) : (s.setWrota w x).pwr = s.pwr := rfl
@[simp] theorem State.setWrota_scans (w : Nat) (x : WingRota) : (s.setWrota w x).scans = s.scans := rfl
@[simp] theorem State.setWrota_digs (w : Nat) (x : WingRota) : (s.setWrota w x).digs = s.digs := rfl
@[simp] theorem State.setWrota_atts (w : Nat) (x : WingRota) : (s.setWrota w x).atts = s.atts := rfl
@[simp] theorem State.setWrota_slots (w : Nat) (x : WingRota) : (s.setWrota w x).slots = s.slots := rfl
@[simp] theorem State.setWrota_chan (w : Nat) (x : WingRota) : (s.setWrota w x).chan = s.chan := rfl
@[simp] theorem State.setWrota_replies (w : Nat) (x : WingRota) : (s.setWrota w x).replies = s.replies := rfl
@[simp] theorem State.setWrota_eids (w : Nat) (x : WingRota) : (s.setWrota w x).eids = s.eids := rfl
@[simp] theorem State.setWrota_freeCtr (w : Nat) (x : WingRota) : (s.setWrota w x).freeCtr = s.freeCtr := rfl
@[simp] theorem State.setWrota_pending (w : Nat) (x : WingRota) : (s.setWrota w x).pending = s.pending := rfl

/-! setScp changes scope. -/
@[simp] theorem State.setScp_regs (k : Nat) (x : Scope) : (s.setScp k x).regs = s.regs := rfl
@[simp] theorem State.setScp_mem (k : Nat) (x : Scope) : (s.setScp k x).mem = s.mem := rfl
@[simp] theorem State.setScp_hmem (k : Nat) (x : Scope) : (s.setScp k x).hmem = s.hmem := rfl
@[simp] theorem State.setScp_img (k : Nat) (x : Scope) : (s.setScp k x).img = s.img := rfl
@[simp] theorem State.setScp_land (k : Nat) (x : Scope) : (s.setScp k x).land = s.land := rfl
@[simp] theorem State.setScp_wcMem (k : Nat) (x : Scope) : (s.setScp k x).wcMem = s.wcMem := rfl
@[simp] theorem State.setScp_poison (k : Nat) (x : Scope) : (s.setScp k x).poison = s.poison := rfl
@[simp] theorem State.setScp_corrected (k : Nat) (x : Scope) : (s.setScp k x).corrected = s.corrected := rfl
@[simp] theorem State.setScp_fuse (k : Nat) (x : Scope) : (s.setScp k x).fuse = s.fuse := rfl
@[simp] theorem State.setScp_pins (k : Nat) (x : Scope) : (s.setScp k x).pins = s.pins := rfl
@[simp] theorem State.setScp_rail (k : Nat) (x : Scope) : (s.setScp k x).rail = s.rail := rfl
@[simp] theorem State.setScp_railTried (k : Nat) (x : Scope) : (s.setScp k x).railTried = s.railTried := rfl
@[simp] theorem State.setScp_boot (k : Nat) (x : Scope) : (s.setScp k x).boot = s.boot := rfl
@[simp] theorem State.setScp_time (k : Nat) (x : Scope) : (s.setScp k x).time = s.time := rfl
@[simp] theorem State.setScp_timeRun (k : Nat) (x : Scope) : (s.setScp k x).timeRun = s.timeRun := rfl
@[simp] theorem State.setScp_rate (k : Nat) (x : Scope) : (s.setScp k x).rate = s.rate := rfl
@[simp] theorem State.setScp_syncGood (k : Nat) (x : Scope) : (s.setScp k x).syncGood = s.syncGood := rfl
@[simp] theorem State.setScp_timeSet (k : Nat) (x : Scope) : (s.setScp k x).timeSet = s.timeSet := rfl
@[simp] theorem State.setScp_syncStamps (k : Nat) (x : Scope) : (s.setScp k x).syncStamps = s.syncStamps := rfl
@[simp] theorem State.setScp_certs (k : Nat) (x : Scope) : (s.setScp k x).certs = s.certs := rfl
@[simp] theorem State.setScp_ctx (k : Nat) (x : Scope) : (s.setScp k x).ctx = s.ctx := rfl
@[simp] theorem State.setScp_irqOut (k : Nat) (x : Scope) : (s.setScp k x).irqOut = s.irqOut := rfl
@[simp] theorem State.setScp_msixOpen (k : Nat) (x : Scope) : (s.setScp k x).msixOpen = s.msixOpen := rfl
@[simp] theorem State.setScp_msixPend (k : Nat) (x : Scope) : (s.setScp k x).msixPend = s.msixPend := rfl
@[simp] theorem State.setScp_ev (k : Nat) (x : Scope) : (s.setScp k x).ev = s.ev := rfl
@[simp] theorem State.setScp_evOwn (k : Nat) (x : Scope) : (s.setScp k x).evOwn = s.evOwn := rfl
@[simp] theorem State.setScp_arr (k : Nat) (x : Scope) : (s.setScp k x).arr = s.arr := rfl
@[simp] theorem State.setScp_starts (k : Nat) (x : Scope) : (s.setScp k x).starts = s.starts := rfl
@[simp] theorem State.setScp_eng (k : Nat) (x : Scope) : (s.setScp k x).eng = s.eng := rfl
@[simp] theorem State.setScp_strm (k : Nat) (x : Scope) : (s.setScp k x).strm = s.strm := rfl
@[simp] theorem State.setScp_mov (k : Nat) (x : Scope) : (s.setScp k x).mov = s.mov := rfl
@[simp] theorem State.setScp_cour (k : Nat) (x : Scope) : (s.setScp k x).cour = s.cour := rfl
@[simp] theorem State.setScp_shelf (k : Nat) (x : Scope) : (s.setScp k x).shelf = s.shelf := rfl
@[simp] theorem State.setScp_stk (k : Nat) (x : Scope) : (s.setScp k x).stk = s.stk := rfl
@[simp] theorem State.setScp_bt (k : Nat) (x : Scope) : (s.setScp k x).bt = s.bt := rfl
@[simp] theorem State.setScp_lf (k : Nat) (x : Scope) : (s.setScp k x).lf = s.lf := rfl
@[simp] theorem State.setScp_port (k : Nat) (x : Scope) : (s.setScp k x).port = s.port := rfl
@[simp] theorem State.setScp_rq (k : Nat) (x : Scope) : (s.setScp k x).rq = s.rq := rfl
@[simp] theorem State.setScp_seqs (k : Nat) (x : Scope) : (s.setScp k x).seqs = s.seqs := rfl
@[simp] theorem State.setScp_kvWait (k : Nat) (x : Scope) : (s.setScp k x).kvWait = s.kvWait := rfl
@[simp] theorem State.setScp_smq (k : Nat) (x : Scope) : (s.setScp k x).smq = s.smq := rfl
@[simp] theorem State.setScp_rota (k : Nat) (x : Scope) : (s.setScp k x).rota = s.rota := rfl
@[simp] theorem State.setScp_rotaPend (k : Nat) (x : Scope) : (s.setScp k x).rotaPend = s.rotaPend := rfl
@[simp] theorem State.setScp_rotaAt (k : Nat) (x : Scope) : (s.setScp k x).rotaAt = s.rotaAt := rfl
@[simp] theorem State.setScp_accs (k : Nat) (x : Scope) : (s.setScp k x).accs = s.accs := rfl
@[simp] theorem State.setScp_protStage (k : Nat) (x : Scope) : (s.setScp k x).protStage = s.protStage := rfl
@[simp] theorem State.setScp_protAct (k : Nat) (x : Scope) : (s.setScp k x).protAct = s.protAct := rfl
@[simp] theorem State.setScp_protPrev (k : Nat) (x : Scope) : (s.setScp k x).protPrev = s.protPrev := rfl
@[simp] theorem State.setScp_protHeld (k : Nat) (x : Scope) : (s.setScp k x).protHeld = s.protHeld := rfl
@[simp] theorem State.setScp_hold (k : Nat) (x : Scope) : (s.setScp k x).hold = s.hold := rfl
@[simp] theorem State.setScp_evr (k : Nat) (x : Scope) : (s.setScp k x).evr = s.evr := rfl
@[simp] theorem State.setScp_cond (k : Nat) (x : Scope) : (s.setScp k x).cond = s.cond := rfl
@[simp] theorem State.setScp_pwr (k : Nat) (x : Scope) : (s.setScp k x).pwr = s.pwr := rfl
@[simp] theorem State.setScp_scans (k : Nat) (x : Scope) : (s.setScp k x).scans = s.scans := rfl
@[simp] theorem State.setScp_digs (k : Nat) (x : Scope) : (s.setScp k x).digs = s.digs := rfl
@[simp] theorem State.setScp_atts (k : Nat) (x : Scope) : (s.setScp k x).atts = s.atts := rfl
@[simp] theorem State.setScp_slots (k : Nat) (x : Scope) : (s.setScp k x).slots = s.slots := rfl
@[simp] theorem State.setScp_chan (k : Nat) (x : Scope) : (s.setScp k x).chan = s.chan := rfl
@[simp] theorem State.setScp_replies (k : Nat) (x : Scope) : (s.setScp k x).replies = s.replies := rfl
@[simp] theorem State.setScp_eids (k : Nat) (x : Scope) : (s.setScp k x).eids = s.eids := rfl
@[simp] theorem State.setScp_freeCtr (k : Nat) (x : Scope) : (s.setScp k x).freeCtr = s.freeCtr := rfl
@[simp] theorem State.setScp_pending (k : Nat) (x : Scope) : (s.setScp k x).pending = s.pending := rfl

/-! evAdd changes ev. -/
@[simp] theorem State.evAdd_regs (w e n : Nat) : (s.evAdd w e n).regs = s.regs := rfl
@[simp] theorem State.evAdd_mem (w e n : Nat) : (s.evAdd w e n).mem = s.mem := rfl
@[simp] theorem State.evAdd_hmem (w e n : Nat) : (s.evAdd w e n).hmem = s.hmem := rfl
@[simp] theorem State.evAdd_img (w e n : Nat) : (s.evAdd w e n).img = s.img := rfl
@[simp] theorem State.evAdd_land (w e n : Nat) : (s.evAdd w e n).land = s.land := rfl
@[simp] theorem State.evAdd_wcMem (w e n : Nat) : (s.evAdd w e n).wcMem = s.wcMem := rfl
@[simp] theorem State.evAdd_poison (w e n : Nat) : (s.evAdd w e n).poison = s.poison := rfl
@[simp] theorem State.evAdd_corrected (w e n : Nat) : (s.evAdd w e n).corrected = s.corrected := rfl
@[simp] theorem State.evAdd_fuse (w e n : Nat) : (s.evAdd w e n).fuse = s.fuse := rfl
@[simp] theorem State.evAdd_pins (w e n : Nat) : (s.evAdd w e n).pins = s.pins := rfl
@[simp] theorem State.evAdd_rail (w e n : Nat) : (s.evAdd w e n).rail = s.rail := rfl
@[simp] theorem State.evAdd_railTried (w e n : Nat) : (s.evAdd w e n).railTried = s.railTried := rfl
@[simp] theorem State.evAdd_boot (w e n : Nat) : (s.evAdd w e n).boot = s.boot := rfl
@[simp] theorem State.evAdd_time (w e n : Nat) : (s.evAdd w e n).time = s.time := rfl
@[simp] theorem State.evAdd_timeRun (w e n : Nat) : (s.evAdd w e n).timeRun = s.timeRun := rfl
@[simp] theorem State.evAdd_rate (w e n : Nat) : (s.evAdd w e n).rate = s.rate := rfl
@[simp] theorem State.evAdd_syncGood (w e n : Nat) : (s.evAdd w e n).syncGood = s.syncGood := rfl
@[simp] theorem State.evAdd_timeSet (w e n : Nat) : (s.evAdd w e n).timeSet = s.timeSet := rfl
@[simp] theorem State.evAdd_syncStamps (w e n : Nat) : (s.evAdd w e n).syncStamps = s.syncStamps := rfl
@[simp] theorem State.evAdd_certs (w e n : Nat) : (s.evAdd w e n).certs = s.certs := rfl
@[simp] theorem State.evAdd_ctx (w e n : Nat) : (s.evAdd w e n).ctx = s.ctx := rfl
@[simp] theorem State.evAdd_irqOut (w e n : Nat) : (s.evAdd w e n).irqOut = s.irqOut := rfl
@[simp] theorem State.evAdd_msixOpen (w e n : Nat) : (s.evAdd w e n).msixOpen = s.msixOpen := rfl
@[simp] theorem State.evAdd_msixPend (w e n : Nat) : (s.evAdd w e n).msixPend = s.msixPend := rfl
@[simp] theorem State.evAdd_evOwn (w e n : Nat) : (s.evAdd w e n).evOwn = s.evOwn := rfl
@[simp] theorem State.evAdd_arr (w e n : Nat) : (s.evAdd w e n).arr = s.arr := rfl
@[simp] theorem State.evAdd_starts (w e n : Nat) : (s.evAdd w e n).starts = s.starts := rfl
@[simp] theorem State.evAdd_eng (w e n : Nat) : (s.evAdd w e n).eng = s.eng := rfl
@[simp] theorem State.evAdd_strm (w e n : Nat) : (s.evAdd w e n).strm = s.strm := rfl
@[simp] theorem State.evAdd_mov (w e n : Nat) : (s.evAdd w e n).mov = s.mov := rfl
@[simp] theorem State.evAdd_cour (w e n : Nat) : (s.evAdd w e n).cour = s.cour := rfl
@[simp] theorem State.evAdd_shelf (w e n : Nat) : (s.evAdd w e n).shelf = s.shelf := rfl
@[simp] theorem State.evAdd_stk (w e n : Nat) : (s.evAdd w e n).stk = s.stk := rfl
@[simp] theorem State.evAdd_bt (w e n : Nat) : (s.evAdd w e n).bt = s.bt := rfl
@[simp] theorem State.evAdd_lf (w e n : Nat) : (s.evAdd w e n).lf = s.lf := rfl
@[simp] theorem State.evAdd_port (w e n : Nat) : (s.evAdd w e n).port = s.port := rfl
@[simp] theorem State.evAdd_rq (w e n : Nat) : (s.evAdd w e n).rq = s.rq := rfl
@[simp] theorem State.evAdd_seqs (w e n : Nat) : (s.evAdd w e n).seqs = s.seqs := rfl
@[simp] theorem State.evAdd_kvWait (w e n : Nat) : (s.evAdd w e n).kvWait = s.kvWait := rfl
@[simp] theorem State.evAdd_smq (w e n : Nat) : (s.evAdd w e n).smq = s.smq := rfl
@[simp] theorem State.evAdd_rota (w e n : Nat) : (s.evAdd w e n).rota = s.rota := rfl
@[simp] theorem State.evAdd_rotaPend (w e n : Nat) : (s.evAdd w e n).rotaPend = s.rotaPend := rfl
@[simp] theorem State.evAdd_rotaAt (w e n : Nat) : (s.evAdd w e n).rotaAt = s.rotaAt := rfl
@[simp] theorem State.evAdd_accs (w e n : Nat) : (s.evAdd w e n).accs = s.accs := rfl
@[simp] theorem State.evAdd_protStage (w e n : Nat) : (s.evAdd w e n).protStage = s.protStage := rfl
@[simp] theorem State.evAdd_protAct (w e n : Nat) : (s.evAdd w e n).protAct = s.protAct := rfl
@[simp] theorem State.evAdd_protPrev (w e n : Nat) : (s.evAdd w e n).protPrev = s.protPrev := rfl
@[simp] theorem State.evAdd_protHeld (w e n : Nat) : (s.evAdd w e n).protHeld = s.protHeld := rfl
@[simp] theorem State.evAdd_scope (w e n : Nat) : (s.evAdd w e n).scope = s.scope := rfl
@[simp] theorem State.evAdd_hold (w e n : Nat) : (s.evAdd w e n).hold = s.hold := rfl
@[simp] theorem State.evAdd_evr (w e n : Nat) : (s.evAdd w e n).evr = s.evr := rfl
@[simp] theorem State.evAdd_cond (w e n : Nat) : (s.evAdd w e n).cond = s.cond := rfl
@[simp] theorem State.evAdd_pwr (w e n : Nat) : (s.evAdd w e n).pwr = s.pwr := rfl
@[simp] theorem State.evAdd_scans (w e n : Nat) : (s.evAdd w e n).scans = s.scans := rfl
@[simp] theorem State.evAdd_digs (w e n : Nat) : (s.evAdd w e n).digs = s.digs := rfl
@[simp] theorem State.evAdd_atts (w e n : Nat) : (s.evAdd w e n).atts = s.atts := rfl
@[simp] theorem State.evAdd_slots (w e n : Nat) : (s.evAdd w e n).slots = s.slots := rfl
@[simp] theorem State.evAdd_chan (w e n : Nat) : (s.evAdd w e n).chan = s.chan := rfl
@[simp] theorem State.evAdd_replies (w e n : Nat) : (s.evAdd w e n).replies = s.replies := rfl
@[simp] theorem State.evAdd_eids (w e n : Nat) : (s.evAdd w e n).eids = s.eids := rfl
@[simp] theorem State.evAdd_freeCtr (w e n : Nat) : (s.evAdd w e n).freeCtr = s.freeCtr := rfl
@[simp] theorem State.evAdd_pending (w e n : Nat) : (s.evAdd w e n).pending = s.pending := rfl

/-! wr changes mem, poison, corrected. -/
@[simp] theorem State.wr_regs (a : Nat) (bs : List Byte) : (s.wr a bs).regs = s.regs := rfl
@[simp] theorem State.wr_hmem (a : Nat) (bs : List Byte) : (s.wr a bs).hmem = s.hmem := rfl
@[simp] theorem State.wr_img (a : Nat) (bs : List Byte) : (s.wr a bs).img = s.img := rfl
@[simp] theorem State.wr_land (a : Nat) (bs : List Byte) : (s.wr a bs).land = s.land := rfl
@[simp] theorem State.wr_wcMem (a : Nat) (bs : List Byte) : (s.wr a bs).wcMem = s.wcMem := rfl
@[simp] theorem State.wr_fuse (a : Nat) (bs : List Byte) : (s.wr a bs).fuse = s.fuse := rfl
@[simp] theorem State.wr_pins (a : Nat) (bs : List Byte) : (s.wr a bs).pins = s.pins := rfl
@[simp] theorem State.wr_rail (a : Nat) (bs : List Byte) : (s.wr a bs).rail = s.rail := rfl
@[simp] theorem State.wr_railTried (a : Nat) (bs : List Byte) : (s.wr a bs).railTried = s.railTried := rfl
@[simp] theorem State.wr_boot (a : Nat) (bs : List Byte) : (s.wr a bs).boot = s.boot := rfl
@[simp] theorem State.wr_time (a : Nat) (bs : List Byte) : (s.wr a bs).time = s.time := rfl
@[simp] theorem State.wr_timeRun (a : Nat) (bs : List Byte) : (s.wr a bs).timeRun = s.timeRun := rfl
@[simp] theorem State.wr_rate (a : Nat) (bs : List Byte) : (s.wr a bs).rate = s.rate := rfl
@[simp] theorem State.wr_syncGood (a : Nat) (bs : List Byte) : (s.wr a bs).syncGood = s.syncGood := rfl
@[simp] theorem State.wr_timeSet (a : Nat) (bs : List Byte) : (s.wr a bs).timeSet = s.timeSet := rfl
@[simp] theorem State.wr_syncStamps (a : Nat) (bs : List Byte) : (s.wr a bs).syncStamps = s.syncStamps := rfl
@[simp] theorem State.wr_certs (a : Nat) (bs : List Byte) : (s.wr a bs).certs = s.certs := rfl
@[simp] theorem State.wr_ctx (a : Nat) (bs : List Byte) : (s.wr a bs).ctx = s.ctx := rfl
@[simp] theorem State.wr_irqOut (a : Nat) (bs : List Byte) : (s.wr a bs).irqOut = s.irqOut := rfl
@[simp] theorem State.wr_msixOpen (a : Nat) (bs : List Byte) : (s.wr a bs).msixOpen = s.msixOpen := rfl
@[simp] theorem State.wr_msixPend (a : Nat) (bs : List Byte) : (s.wr a bs).msixPend = s.msixPend := rfl
@[simp] theorem State.wr_ev (a : Nat) (bs : List Byte) : (s.wr a bs).ev = s.ev := rfl
@[simp] theorem State.wr_evOwn (a : Nat) (bs : List Byte) : (s.wr a bs).evOwn = s.evOwn := rfl
@[simp] theorem State.wr_arr (a : Nat) (bs : List Byte) : (s.wr a bs).arr = s.arr := rfl
@[simp] theorem State.wr_starts (a : Nat) (bs : List Byte) : (s.wr a bs).starts = s.starts := rfl
@[simp] theorem State.wr_eng (a : Nat) (bs : List Byte) : (s.wr a bs).eng = s.eng := rfl
@[simp] theorem State.wr_strm (a : Nat) (bs : List Byte) : (s.wr a bs).strm = s.strm := rfl
@[simp] theorem State.wr_mov (a : Nat) (bs : List Byte) : (s.wr a bs).mov = s.mov := rfl
@[simp] theorem State.wr_cour (a : Nat) (bs : List Byte) : (s.wr a bs).cour = s.cour := rfl
@[simp] theorem State.wr_shelf (a : Nat) (bs : List Byte) : (s.wr a bs).shelf = s.shelf := rfl
@[simp] theorem State.wr_stk (a : Nat) (bs : List Byte) : (s.wr a bs).stk = s.stk := rfl
@[simp] theorem State.wr_bt (a : Nat) (bs : List Byte) : (s.wr a bs).bt = s.bt := rfl
@[simp] theorem State.wr_lf (a : Nat) (bs : List Byte) : (s.wr a bs).lf = s.lf := rfl
@[simp] theorem State.wr_port (a : Nat) (bs : List Byte) : (s.wr a bs).port = s.port := rfl
@[simp] theorem State.wr_rq (a : Nat) (bs : List Byte) : (s.wr a bs).rq = s.rq := rfl
@[simp] theorem State.wr_seqs (a : Nat) (bs : List Byte) : (s.wr a bs).seqs = s.seqs := rfl
@[simp] theorem State.wr_kvWait (a : Nat) (bs : List Byte) : (s.wr a bs).kvWait = s.kvWait := rfl
@[simp] theorem State.wr_smq (a : Nat) (bs : List Byte) : (s.wr a bs).smq = s.smq := rfl
@[simp] theorem State.wr_rota (a : Nat) (bs : List Byte) : (s.wr a bs).rota = s.rota := rfl
@[simp] theorem State.wr_rotaPend (a : Nat) (bs : List Byte) : (s.wr a bs).rotaPend = s.rotaPend := rfl
@[simp] theorem State.wr_rotaAt (a : Nat) (bs : List Byte) : (s.wr a bs).rotaAt = s.rotaAt := rfl
@[simp] theorem State.wr_accs (a : Nat) (bs : List Byte) : (s.wr a bs).accs = s.accs := rfl
@[simp] theorem State.wr_protStage (a : Nat) (bs : List Byte) : (s.wr a bs).protStage = s.protStage := rfl
@[simp] theorem State.wr_protAct (a : Nat) (bs : List Byte) : (s.wr a bs).protAct = s.protAct := rfl
@[simp] theorem State.wr_protPrev (a : Nat) (bs : List Byte) : (s.wr a bs).protPrev = s.protPrev := rfl
@[simp] theorem State.wr_protHeld (a : Nat) (bs : List Byte) : (s.wr a bs).protHeld = s.protHeld := rfl
@[simp] theorem State.wr_scope (a : Nat) (bs : List Byte) : (s.wr a bs).scope = s.scope := rfl
@[simp] theorem State.wr_hold (a : Nat) (bs : List Byte) : (s.wr a bs).hold = s.hold := rfl
@[simp] theorem State.wr_evr (a : Nat) (bs : List Byte) : (s.wr a bs).evr = s.evr := rfl
@[simp] theorem State.wr_cond (a : Nat) (bs : List Byte) : (s.wr a bs).cond = s.cond := rfl
@[simp] theorem State.wr_pwr (a : Nat) (bs : List Byte) : (s.wr a bs).pwr = s.pwr := rfl
@[simp] theorem State.wr_scans (a : Nat) (bs : List Byte) : (s.wr a bs).scans = s.scans := rfl
@[simp] theorem State.wr_digs (a : Nat) (bs : List Byte) : (s.wr a bs).digs = s.digs := rfl
@[simp] theorem State.wr_atts (a : Nat) (bs : List Byte) : (s.wr a bs).atts = s.atts := rfl
@[simp] theorem State.wr_slots (a : Nat) (bs : List Byte) : (s.wr a bs).slots = s.slots := rfl
@[simp] theorem State.wr_chan (a : Nat) (bs : List Byte) : (s.wr a bs).chan = s.chan := rfl
@[simp] theorem State.wr_replies (a : Nat) (bs : List Byte) : (s.wr a bs).replies = s.replies := rfl
@[simp] theorem State.wr_eids (a : Nat) (bs : List Byte) : (s.wr a bs).eids = s.eids := rfl
@[simp] theorem State.wr_freeCtr (a : Nat) (bs : List Byte) : (s.wr a bs).freeCtr = s.freeCtr := rfl
@[simp] theorem State.wr_pending (a : Nat) (bs : List Byte) : (s.wr a bs).pending = s.pending := rfl

/-! hwr changes hmem. -/
@[simp] theorem State.hwr_regs (a : Nat) (bs : List Byte) : (s.hwr a bs).regs = s.regs := rfl
@[simp] theorem State.hwr_mem (a : Nat) (bs : List Byte) : (s.hwr a bs).mem = s.mem := rfl
@[simp] theorem State.hwr_img (a : Nat) (bs : List Byte) : (s.hwr a bs).img = s.img := rfl
@[simp] theorem State.hwr_land (a : Nat) (bs : List Byte) : (s.hwr a bs).land = s.land := rfl
@[simp] theorem State.hwr_wcMem (a : Nat) (bs : List Byte) : (s.hwr a bs).wcMem = s.wcMem := rfl
@[simp] theorem State.hwr_poison (a : Nat) (bs : List Byte) : (s.hwr a bs).poison = s.poison := rfl
@[simp] theorem State.hwr_corrected (a : Nat) (bs : List Byte) : (s.hwr a bs).corrected = s.corrected := rfl
@[simp] theorem State.hwr_fuse (a : Nat) (bs : List Byte) : (s.hwr a bs).fuse = s.fuse := rfl
@[simp] theorem State.hwr_pins (a : Nat) (bs : List Byte) : (s.hwr a bs).pins = s.pins := rfl
@[simp] theorem State.hwr_rail (a : Nat) (bs : List Byte) : (s.hwr a bs).rail = s.rail := rfl
@[simp] theorem State.hwr_railTried (a : Nat) (bs : List Byte) : (s.hwr a bs).railTried = s.railTried := rfl
@[simp] theorem State.hwr_boot (a : Nat) (bs : List Byte) : (s.hwr a bs).boot = s.boot := rfl
@[simp] theorem State.hwr_time (a : Nat) (bs : List Byte) : (s.hwr a bs).time = s.time := rfl
@[simp] theorem State.hwr_timeRun (a : Nat) (bs : List Byte) : (s.hwr a bs).timeRun = s.timeRun := rfl
@[simp] theorem State.hwr_rate (a : Nat) (bs : List Byte) : (s.hwr a bs).rate = s.rate := rfl
@[simp] theorem State.hwr_syncGood (a : Nat) (bs : List Byte) : (s.hwr a bs).syncGood = s.syncGood := rfl
@[simp] theorem State.hwr_timeSet (a : Nat) (bs : List Byte) : (s.hwr a bs).timeSet = s.timeSet := rfl
@[simp] theorem State.hwr_syncStamps (a : Nat) (bs : List Byte) : (s.hwr a bs).syncStamps = s.syncStamps := rfl
@[simp] theorem State.hwr_certs (a : Nat) (bs : List Byte) : (s.hwr a bs).certs = s.certs := rfl
@[simp] theorem State.hwr_ctx (a : Nat) (bs : List Byte) : (s.hwr a bs).ctx = s.ctx := rfl
@[simp] theorem State.hwr_irqOut (a : Nat) (bs : List Byte) : (s.hwr a bs).irqOut = s.irqOut := rfl
@[simp] theorem State.hwr_msixOpen (a : Nat) (bs : List Byte) : (s.hwr a bs).msixOpen = s.msixOpen := rfl
@[simp] theorem State.hwr_msixPend (a : Nat) (bs : List Byte) : (s.hwr a bs).msixPend = s.msixPend := rfl
@[simp] theorem State.hwr_ev (a : Nat) (bs : List Byte) : (s.hwr a bs).ev = s.ev := rfl
@[simp] theorem State.hwr_evOwn (a : Nat) (bs : List Byte) : (s.hwr a bs).evOwn = s.evOwn := rfl
@[simp] theorem State.hwr_arr (a : Nat) (bs : List Byte) : (s.hwr a bs).arr = s.arr := rfl
@[simp] theorem State.hwr_starts (a : Nat) (bs : List Byte) : (s.hwr a bs).starts = s.starts := rfl
@[simp] theorem State.hwr_eng (a : Nat) (bs : List Byte) : (s.hwr a bs).eng = s.eng := rfl
@[simp] theorem State.hwr_strm (a : Nat) (bs : List Byte) : (s.hwr a bs).strm = s.strm := rfl
@[simp] theorem State.hwr_mov (a : Nat) (bs : List Byte) : (s.hwr a bs).mov = s.mov := rfl
@[simp] theorem State.hwr_cour (a : Nat) (bs : List Byte) : (s.hwr a bs).cour = s.cour := rfl
@[simp] theorem State.hwr_shelf (a : Nat) (bs : List Byte) : (s.hwr a bs).shelf = s.shelf := rfl
@[simp] theorem State.hwr_stk (a : Nat) (bs : List Byte) : (s.hwr a bs).stk = s.stk := rfl
@[simp] theorem State.hwr_bt (a : Nat) (bs : List Byte) : (s.hwr a bs).bt = s.bt := rfl
@[simp] theorem State.hwr_lf (a : Nat) (bs : List Byte) : (s.hwr a bs).lf = s.lf := rfl
@[simp] theorem State.hwr_port (a : Nat) (bs : List Byte) : (s.hwr a bs).port = s.port := rfl
@[simp] theorem State.hwr_rq (a : Nat) (bs : List Byte) : (s.hwr a bs).rq = s.rq := rfl
@[simp] theorem State.hwr_seqs (a : Nat) (bs : List Byte) : (s.hwr a bs).seqs = s.seqs := rfl
@[simp] theorem State.hwr_kvWait (a : Nat) (bs : List Byte) : (s.hwr a bs).kvWait = s.kvWait := rfl
@[simp] theorem State.hwr_smq (a : Nat) (bs : List Byte) : (s.hwr a bs).smq = s.smq := rfl
@[simp] theorem State.hwr_rota (a : Nat) (bs : List Byte) : (s.hwr a bs).rota = s.rota := rfl
@[simp] theorem State.hwr_rotaPend (a : Nat) (bs : List Byte) : (s.hwr a bs).rotaPend = s.rotaPend := rfl
@[simp] theorem State.hwr_rotaAt (a : Nat) (bs : List Byte) : (s.hwr a bs).rotaAt = s.rotaAt := rfl
@[simp] theorem State.hwr_accs (a : Nat) (bs : List Byte) : (s.hwr a bs).accs = s.accs := rfl
@[simp] theorem State.hwr_protStage (a : Nat) (bs : List Byte) : (s.hwr a bs).protStage = s.protStage := rfl
@[simp] theorem State.hwr_protAct (a : Nat) (bs : List Byte) : (s.hwr a bs).protAct = s.protAct := rfl
@[simp] theorem State.hwr_protPrev (a : Nat) (bs : List Byte) : (s.hwr a bs).protPrev = s.protPrev := rfl
@[simp] theorem State.hwr_protHeld (a : Nat) (bs : List Byte) : (s.hwr a bs).protHeld = s.protHeld := rfl
@[simp] theorem State.hwr_scope (a : Nat) (bs : List Byte) : (s.hwr a bs).scope = s.scope := rfl
@[simp] theorem State.hwr_hold (a : Nat) (bs : List Byte) : (s.hwr a bs).hold = s.hold := rfl
@[simp] theorem State.hwr_evr (a : Nat) (bs : List Byte) : (s.hwr a bs).evr = s.evr := rfl
@[simp] theorem State.hwr_cond (a : Nat) (bs : List Byte) : (s.hwr a bs).cond = s.cond := rfl
@[simp] theorem State.hwr_pwr (a : Nat) (bs : List Byte) : (s.hwr a bs).pwr = s.pwr := rfl
@[simp] theorem State.hwr_scans (a : Nat) (bs : List Byte) : (s.hwr a bs).scans = s.scans := rfl
@[simp] theorem State.hwr_digs (a : Nat) (bs : List Byte) : (s.hwr a bs).digs = s.digs := rfl
@[simp] theorem State.hwr_atts (a : Nat) (bs : List Byte) : (s.hwr a bs).atts = s.atts := rfl
@[simp] theorem State.hwr_slots (a : Nat) (bs : List Byte) : (s.hwr a bs).slots = s.slots := rfl
@[simp] theorem State.hwr_chan (a : Nat) (bs : List Byte) : (s.hwr a bs).chan = s.chan := rfl
@[simp] theorem State.hwr_replies (a : Nat) (bs : List Byte) : (s.hwr a bs).replies = s.replies := rfl
@[simp] theorem State.hwr_eids (a : Nat) (bs : List Byte) : (s.hwr a bs).eids = s.eids := rfl
@[simp] theorem State.hwr_freeCtr (a : Nat) (bs : List Byte) : (s.hwr a bs).freeCtr = s.freeCtr := rfl
@[simp] theorem State.hwr_pending (a : Nat) (bs : List Byte) : (s.hwr a bs).pending = s.pending := rfl

theorem State.updCx_eq (c : Nat) (f : Context → Context) : s.updCx c f = s.setCx c (f (s.cx c)) := rfl
theorem State.updEngine_eq (e : Nat) (f : Engine → Engine) : s.updEngine e f = s.setEngine e (f (s.engine e)) := rfl
theorem State.setProg_eq (c : Nat) (p : Prog) : s.setProg c p = s.setCx c { s.cx c with prog := some p } := rfl
theorem State.incFld_eq (f : Fld) (n i j : Nat) : s.incFld f n i j = s.setFld f (satAdd f.w (s.fld f i j) n) i j := rfl
theorem State.wrapFld_eq (f : Fld) (n i j : Nat) : s.wrapFld f n i j = s.setFld f (s.fld f i j + n) i j := rfl

end Sys2Proof.Machine
end

