-- ==== Sys2Proof/Laws/Tables.lean ====
section
/-! SUPPORT. Reading back what a table operation wrote, and the canonical form. -/

namespace Sys2Proof.Machine

variable {α : Type} [DecidableEq α]

theorem Tbl.cells_lower (d : α) : ∀ (xs : List α) (k : Nat) (c : Nat × α), c ∈ Tbl.cells d k xs → k ≤ c.1
  | [], _, _, h => by simp [Tbl.cells] at h
  | x :: xs, k, c, h => by
    unfold Tbl.cells at h
    split at h
    · exact Nat.le_of_succ_le (Tbl.cells_lower d xs (k + 1) c h)
    · rcases List.mem_cons.1 h with rfl | h
      · exact Nat.le_refl _
      · exact Nat.le_of_succ_le (Tbl.cells_lower d xs (k + 1) c h)

theorem Tbl.cells_upper (d : α) : ∀ (xs : List α) (k : Nat) (c : Nat × α), c ∈ Tbl.cells d k xs → c.1 < k + xs.length
  | [], _, _, h => by simp [Tbl.cells] at h
  | x :: xs, k, c, h => by
    unfold Tbl.cells at h
    have step := Tbl.cells_upper d xs (k + 1) c
    split at h
    · have := step h; simp only [List.length_cons]; omega
    · rcases List.mem_cons.1 h with rfl | h
      · simp
      · have := step h; simp only [List.length_cons]; omega

theorem Tbl.cells_ne (d : α) : ∀ (xs : List α) (k : Nat) (c : Nat × α), c ∈ Tbl.cells d k xs → ¬ c.2 = d
  | [], _, _, h => by simp [Tbl.cells] at h
  | x :: xs, k, c, h => by
    unfold Tbl.cells at h
    split at h
    · exact Tbl.cells_ne d xs (k + 1) c h
    · rcases List.mem_cons.1 h with rfl | h
      · assumption
      · exact Tbl.cells_ne d xs (k + 1) c h

theorem Tbl.cells_sorted (d : α) : ∀ (xs : List α) (k : Nat), (Tbl.cells d k xs).Pairwise (fun a b => a.1 < b.1)
  | [], _ => by simp [Tbl.cells]
  | x :: xs, k => by
    unfold Tbl.cells
    split
    · exact Tbl.cells_sorted d xs (k + 1)
    · exact List.pairwise_cons.2 ⟨fun c h => Nat.lt_of_succ_le (Tbl.cells_lower d xs (k + 1) c h), Tbl.cells_sorted d xs (k + 1)⟩

/-- Writing a run keeps the canonical form. -/
theorem Tbl.setRun_wf (d : α) (m : Tbl α) (k : Nat) (xs : List α) (h : Tbl.Wf d m) : Tbl.Wf d (Tbl.setRun d m k xs) := by
  constructor
  · unfold Tbl.setRun
    refine List.pairwise_append.2 ⟨List.pairwise_append.2 ⟨h.1.filter _, Tbl.cells_sorted d xs k, ?_⟩, h.1.filter _, ?_⟩
    · intro a ha b hb
      have := Tbl.cells_lower d xs k b hb
      simp only [List.mem_filter, decide_eq_true_eq] at ha
      omega
    · intro a ha b hb
      simp only [List.mem_append, List.mem_filter, decide_eq_true_eq] at ha hb
      rcases ha with ha | ha
      · omega
      · have := Tbl.cells_upper d xs k a ha
        omega
  · intro c hc
    unfold Tbl.setRun at hc
    simp only [List.mem_append, List.mem_filter] at hc
    rcases hc with (hc | hc) | hc
    · exact h.2 c hc.1
    · exact Tbl.cells_ne d xs k c hc
    · exact h.2 c hc.1

theorem Tbl.set_wf (d : α) (m : Tbl α) (k : Nat) (x : α) (h : Tbl.Wf d m) : Tbl.Wf d (Tbl.set d m k x) := Tbl.setRun_wf d m k [x] h

/-- Leaving entries out keeps the canonical form. -/
theorem Tbl.filter_wf (d : α) (m : Tbl α) (f : Nat × α → Bool) (h : Tbl.Wf d m) : Tbl.Wf d (m.filter f) :=
  ⟨h.1.filter _, fun c hc => h.2 c (List.mem_filter.1 hc).1⟩

theorem Tbl.nil_wf (d : α) : Tbl.Wf d ([] : Tbl α) := by simp [Tbl.Wf]

/-! ### Reading -/

omit [DecidableEq α] in
theorem Tbl.get_append (d : α) (k : Nat) : ∀ (m n : Tbl α), (∀ c ∈ m, c.1 ≠ k) → Tbl.get d (m ++ n) k = Tbl.get d n k
  | [], _, _ => rfl
  | c :: m, n, h => by
    have hc : ¬ c.1 = k := h c (List.mem_cons_self ..)
    simp only [List.cons_append, Tbl.get, hc, if_false]
    exact Tbl.get_append d k m n (fun x hx => h x (List.mem_cons_of_mem _ hx))

omit [DecidableEq α] in
theorem Tbl.get_append_none (d : α) (k : Nat) : ∀ (m n : Tbl α), (∀ c ∈ n, c.1 ≠ k) → Tbl.get d (m ++ n) k = Tbl.get d m k
  | [], [], _ => rfl
  | [], c :: n, h => by
    have hc : ¬ c.1 = k := h c (List.mem_cons_self ..)
    have := Tbl.get_append_none d k [] n (fun x hx => h x (List.mem_cons_of_mem _ hx))
    simp only [List.nil_append] at this ⊢
    simp only [Tbl.get, hc, if_false, this]
  | c :: m, n, h => by
    simp only [List.cons_append, Tbl.get]
    split
    · rfl
    · exact Tbl.get_append_none d k m n h

omit [DecidableEq α] in
theorem Tbl.get_filter (d : α) (f : Nat × α → Bool) (k : Nat) :
    ∀ (m : Tbl α), (∀ c, c.1 = k → f c = true) → Tbl.get d (m.filter f) k = Tbl.get d m k
  | [], _ => rfl
  | c :: m, h => by
    by_cases hf : f c = true
    · simp only [List.filter_cons, hf, if_true, Tbl.get]
      split
      · rfl
      · exact Tbl.get_filter d f k m h
    · have hc : ¬ c.1 = k := fun e => hf (h c e)
      simp only [List.filter_cons, hf, Tbl.get, hc, if_false]
      exact Tbl.get_filter d f k m h

/-- The cells of a run read back the run. -/
theorem Tbl.get_cells (d : α) : ∀ (xs : List α) (k i : Nat), i < xs.length → Tbl.get d (Tbl.cells d k xs) (k + i) = nth d xs i
  | [], _, _, h => by simp at h
  | x :: xs, k, 0, _ => by
    unfold Tbl.cells
    split
    · rename_i hx
      subst hx
      have : ∀ c ∈ Tbl.cells x (k + 1) xs, c.1 ≠ k := fun c hc => by have := Tbl.cells_lower x xs (k + 1) c hc; omega
      have := Tbl.get_append_none x k [] _ this
      simpa [nth, Tbl.get] using this
    · simp [Tbl.get, nth]
  | x :: xs, k, i + 1, h => by
    have h' : i < xs.length := by simpa using h
    have ih := Tbl.get_cells d xs (k + 1) i h'
    have e : k + (i + 1) = k + 1 + i := by omega
    unfold Tbl.cells
    split
    · rw [e, ih]; simp [nth]
    · have : ¬ k = k + 1 + i := by omega
      rw [e]; simp only [Tbl.get, this, if_false, ih]; simp [nth]

/-- Outside a run that is written, every value is as before. -/
theorem Tbl.get_setRun_out (d e : α) (m : Tbl α) (k : Nat) (xs : List α) (a : Nat) (h : a < k ∨ k + xs.length ≤ a) :
    Tbl.get e (Tbl.setRun d m k xs) a = Tbl.get e m a := by
  unfold Tbl.setRun
  have hc : ∀ c ∈ Tbl.cells d k xs, c.1 ≠ a := fun c hc => by
    have := Tbl.cells_lower d xs k c hc
    have := Tbl.cells_upper d xs k c hc
    omega
  rcases h with h | h
  · rw [List.append_assoc, Tbl.get_append_none, Tbl.get_filter]
    · intro c hc; simp only [decide_eq_true_eq]; omega
    · intro c hm
      rcases List.mem_append.1 hm with hm | hm
      · exact hc c hm
      · simp only [List.mem_filter, decide_eq_true_eq] at hm; omega
  · rw [Tbl.get_append, Tbl.get_filter]
    · intro c hc; simp only [decide_eq_true_eq]; omega
    · intro c hm
      rcases List.mem_append.1 hm with hm | hm
      · simp only [List.mem_filter, decide_eq_true_eq] at hm; omega
      · exact hc c hm

/-- Inside a run that is written, the run reads back. -/
theorem Tbl.get_setRun_in (d : α) (m : Tbl α) (k : Nat) (xs : List α) (i : Nat) (h : i < xs.length) :
    Tbl.get d (Tbl.setRun d m k xs) (k + i) = nth d xs i := by
  unfold Tbl.setRun
  rw [List.append_assoc, Tbl.get_append, Tbl.get_append_none, Tbl.get_cells d xs k i h]
  · intro c hm; simp only [List.mem_filter, decide_eq_true_eq] at hm; omega
  · intro c hm; simp only [List.mem_filter, decide_eq_true_eq] at hm; omega

@[simp] theorem Tbl.get_set_same (d : α) (m : Tbl α) (k : Nat) (x : α) : Tbl.get d (Tbl.set d m k x) k = x := by
  have := Tbl.get_setRun_in d m k [x] 0 (by simp)
  simpa [Tbl.set, nth] using this

theorem Tbl.get_set_other (d e : α) (m : Tbl α) (k a : Nat) (x : α) (h : a ≠ k) : Tbl.get e (Tbl.set d m k x) a = Tbl.get e m a :=
  Tbl.get_setRun_out d e m k [x] a (by simp; omega)

@[simp] theorem Tbl.get_upd_same (d : α) (m : Tbl α) (k : Nat) (f : α → α) : Tbl.get d (Tbl.upd d m k f) k = f (Tbl.get d m k) := by
  simp [Tbl.upd]

theorem Tbl.get_upd_other (d e : α) (m : Tbl α) (k a : Nat) (f : α → α) (h : a ≠ k) : Tbl.get e (Tbl.upd d m k f) a = Tbl.get e m a :=
  Tbl.get_set_other d e m k a _ h

theorem Tbl.upd_wf (d : α) (m : Tbl α) (k : Nat) (f : α → α) (h : Tbl.Wf d m) : Tbl.Wf d (Tbl.upd d m k f) := Tbl.set_wf d m k _ h

omit [DecidableEq α] in
theorem Tbl.runFrom_length (d : α) : ∀ (n k : Nat) (m : Tbl α), (Tbl.runFrom d n k m).length = n
  | 0, _, _ => rfl
  | n + 1, k, [] => by simp [Tbl.runFrom, Tbl.runFrom_length d n]
  | n + 1, k, c :: m => by
    unfold Tbl.runFrom
    split <;> simp [Tbl.runFrom_length d n]

omit [DecidableEq α] in
@[simp] theorem Tbl.getRun_length (d : α) (m : Tbl α) (k n : Nat) : (Tbl.getRun d m k n).length = n := Tbl.runFrom_length d n k _

omit [DecidableEq α] in
/-- No entry lies at a key below every entry. -/
theorem Tbl.get_below (d : α) (k : Nat) : ∀ (m : Tbl α), (∀ c ∈ m, k < c.1) → Tbl.get d m k = d
  | [], _ => rfl
  | c :: m, h => by
    have hc : ¬ c.1 = k := by have := h c (List.mem_cons_self ..); omega
    simp only [Tbl.get, hc, if_false]
    exact Tbl.get_below d k m (fun x hx => h x (List.mem_cons_of_mem _ hx))

/-- A run read from rising entries gives the value at each key. -/
theorem Tbl.nth_runFrom (d : α) : ∀ (n k : Nat) (m : Tbl α), m.Pairwise (fun a b => a.1 < b.1) → (∀ c ∈ m, k ≤ c.1) → ∀ i, i < n →
    nth d (Tbl.runFrom d n k m) i = Tbl.get d m (k + i)
  | 0, _, _, _, _, _, h => by omega
  | n + 1, k, [], _, _, 0, _ => by simp [Tbl.runFrom, nth, Tbl.get]
  | n + 1, k, [], hp, _, i + 1, h => by
    have := Tbl.nth_runFrom d n (k + 1) [] hp (by simp) i (by omega)
    simpa [Tbl.runFrom, nth, Tbl.get] using this
  | n + 1, k, c :: m, hp, hk, i, h => by
    have hc := hk c (List.mem_cons_self ..)
    have hlt : ∀ x ∈ m, c.1 < x.1 := (List.pairwise_cons.1 hp).1
    unfold Tbl.runFrom
    split
    · rename_i he
      match i with
      | 0 => simp [nth, Tbl.get, he]
      | i + 1 =>
        have := Tbl.nth_runFrom d n (k + 1) m (List.pairwise_cons.1 hp).2 (fun x hx => by have := hlt x hx; omega) i (by omega)
        have hne : ¬ c.1 = k + (i + 1) := by omega
        have e : k + (i + 1) = k + 1 + i := by omega
        simp only [Tbl.get, hne, if_false]
        rw [e, ← this]; simp [nth]
    · match i with
      | 0 =>
        have : Tbl.get d (c :: m) k = d := Tbl.get_below d k _ (fun x hx => by
          rcases List.mem_cons.1 hx with rfl | hx
          · omega
          · have := hlt x hx; omega)
        simp [nth, this]
      | i + 1 =>
        have := Tbl.nth_runFrom d n (k + 1) (c :: m) hp (fun x hx => by
          rcases List.mem_cons.1 hx with rfl | hx
          · omega
          · have := hlt x hx; omega) i (by omega)
        have e : k + (i + 1) = k + 1 + i := by omega
        rw [e, ← this]; simp [nth]

/-- Value i of a run of a table in canonical form. -/
theorem Tbl.nth_getRun (d : α) (m : Tbl α) (k n i : Nat) (hm : Tbl.Wf d m) (h : i < n) :
    nth d (Tbl.getRun d m k n) i = Tbl.get d m (k + i) := by
  unfold Tbl.getRun
  rw [Tbl.nth_runFrom d n k _ (hm.1.filter _) _ i h, Tbl.get_filter]
  · intro c hc; simp only [Bool.and_eq_true, decide_eq_true_eq]; omega
  · intro c hc
    simp only [List.mem_filter, Bool.and_eq_true, decide_eq_true_eq] at hc
    exact hc.2.1

omit [DecidableEq α] in
theorem Tbl.runFrom_none (d : α) : ∀ (n k : Nat), Tbl.runFrom d n k ([] : Tbl α) = List.replicate n d
  | 0, _ => rfl
  | n + 1, k => by simp [Tbl.runFrom, Tbl.runFrom_none d n, List.replicate_succ]

/-- The cells of a run read back the run. -/
theorem Tbl.runFrom_cells (d : α) : ∀ (xs : List α) (k : Nat), Tbl.runFrom d xs.length k (Tbl.cells d k xs) = xs
  | [], _ => rfl
  | x :: xs, k => by
    have ih := Tbl.runFrom_cells d xs (k + 1)
    unfold Tbl.cells
    split
    · rename_i hx
      have hl := Tbl.cells_lower d xs (k + 1)
      generalize Tbl.cells d (k + 1) xs = m at ih hl
      rcases m with _ | ⟨c, m⟩
      · simp [Tbl.runFrom, ih, hx]
      · have : ¬ c.1 = k := by have := hl c (by simp); omega
        simp [Tbl.runFrom, this, ih, hx]
    · simp [Tbl.runFrom, ih]

/-- A run that is written reads back whole. -/
theorem Tbl.getRun_setRun (d : α) (m : Tbl α) (k : Nat) (xs : List α) :
    Tbl.getRun d (Tbl.setRun d m k xs) k xs.length = xs := by
  have e : (Tbl.setRun d m k xs).filter (fun c => decide (k ≤ c.1) && decide (c.1 < k + xs.length)) = Tbl.cells d k xs := by
    unfold Tbl.setRun
    rw [List.filter_append, List.filter_append, List.filter_filter, List.filter_filter]
    rw [List.filter_eq_nil_iff.2, List.filter_eq_self.2, List.filter_eq_nil_iff.2]
    · simp
    · intro c _; simp
    · intro c hc
      have := Tbl.cells_lower d xs k c hc
      have := Tbl.cells_upper d xs k c hc
      simp; omega
    · intro c _; simp; omega
  unfold Tbl.getRun
  rw [e, Tbl.runFrom_cells]

/-- A run beside a run that is written reads as before. -/
theorem Tbl.getRun_setRun_out (d e : α) (m : Tbl α) (k n a : Nat) (xs : List α) (h : a + n ≤ k ∨ k + xs.length ≤ a) :
    Tbl.getRun e (Tbl.setRun d m k xs) a n = Tbl.getRun e m a n := by
  unfold Tbl.getRun
  congr 1
  unfold Tbl.setRun
  rw [List.filter_append, List.filter_append, List.filter_filter, List.filter_filter,
    (List.filter_eq_nil_iff (l := Tbl.cells d k xs)).2]
  · rcases h with h | h
    · have e2 : m.filter (fun c => (decide (a ≤ c.1) && decide (c.1 < a + n)) && decide (k + xs.length ≤ c.1)) = [] :=
        List.filter_eq_nil_iff.2 (fun c _ => by simp; omega)
      rw [e2, List.append_nil, List.append_nil]
      exact List.filter_congr (fun c _ => by rw [Bool.eq_iff_iff]; simp; omega)
    · have e2 : m.filter (fun c => (decide (a ≤ c.1) && decide (c.1 < a + n)) && decide (c.1 < k)) = [] :=
        List.filter_eq_nil_iff.2 (fun c _ => by simp; omega)
      rw [e2, List.nil_append, List.nil_append]
      exact List.filter_congr (fun c _ => by rw [Bool.eq_iff_iff]; simp; omega)
  · intro c hc
    have := Tbl.cells_lower d xs k c hc
    have := Tbl.cells_upper d xs k c hc
    simp; omega
end Sys2Proof.Machine
end

