-- ==== Sys2Proof/Laws/Ops.lean ====
section
/-! SUPPORT. What the shared operations do: reading back register fields, units and memory, and the records and completions that a command
makes. -/

namespace Sys2Proof.Machine

/-! ### Bit fields -/

theorem bits_lt (x lo w : Nat) : bits x lo w < 2 ^ w := Nat.mod_lt _ (Nat.two_pow_pos w)

/-- A number in three parts: above a field, the field, and below it. -/
theorem bits_split (x lo w : Nat) : x = x / 2 ^ lo / 2 ^ w * (2 ^ w * 2 ^ lo) + bits x lo w * 2 ^ lo + x % 2 ^ lo := by
  have h1 := Nat.div_add_mod x (2 ^ lo)
  have h2 := Nat.div_add_mod (x / 2 ^ lo) (2 ^ w)
  unfold bits
  have : x / 2 ^ lo / 2 ^ w * (2 ^ w * 2 ^ lo) + x / 2 ^ lo % 2 ^ w * 2 ^ lo = (x / 2 ^ lo) * 2 ^ lo := by
    rw [← Nat.mul_assoc, ← Nat.add_mul, Nat.mul_comm (x / 2 ^ lo / 2 ^ w), h2]
  rw [this, Nat.mul_comm]; omega

theorem setBits_split (x lo w v : Nat) :
    setBits x lo w v = x / 2 ^ lo / 2 ^ w * (2 ^ w * 2 ^ lo) + v % 2 ^ w * 2 ^ lo + x % 2 ^ lo := by
  have h := bits_split x lo w
  unfold setBits
  omega

/-- A field that is set reads back its value, cut to its width. -/
@[simp] theorem bits_setBits_same (x lo w v : Nat) : bits (setBits x lo w v) lo w = v % 2 ^ w := by
  rw [setBits_split]
  unfold bits
  have hp : 0 < 2 ^ lo := Nat.two_pow_pos lo
  have e : x / 2 ^ lo / 2 ^ w * (2 ^ w * 2 ^ lo) + v % 2 ^ w * 2 ^ lo + x % 2 ^ lo
      = (x / 2 ^ lo / 2 ^ w * 2 ^ w + v % 2 ^ w) * 2 ^ lo + x % 2 ^ lo := by rw [Nat.add_mul, Nat.mul_assoc]
  rw [e, Nat.mul_comm, Nat.mul_add_div hp, Nat.div_eq_of_lt (Nat.mod_lt _ hp), Nat.add_zero, Nat.mul_comm, Nat.mul_add_mod,
    Nat.mod_mod]

/-- Setting a field leaves the fields below it and above it. -/
theorem bits_setBits_other (x lo w v lo' w' : Nat) (h : lo' + w' ≤ lo ∨ lo + w ≤ lo') :
    bits (setBits x lo w v) lo' w' = bits x lo' w' := by
  rcases h with h | h
  · obtain ⟨k, rfl⟩ : ∃ k, lo = lo' + w' + k := ⟨lo - (lo' + w'), by omega⟩
    have hb : ∀ y, bits y lo' w' = y % 2 ^ (lo' + w' + k) / 2 ^ lo' % 2 ^ w' := fun y => by
      unfold bits
      rw [show 2 ^ (lo' + w' + k) = 2 ^ lo' * (2 ^ w' * 2 ^ k) by rw [Nat.pow_add, Nat.pow_add, Nat.mul_assoc],
        Nat.mod_mul_right_div_self, Nat.mod_mul_right_mod]
    rw [hb, hb x, setBits_split]
    congr 2
    have : x / 2 ^ (lo' + w' + k) / 2 ^ w * (2 ^ w * 2 ^ (lo' + w' + k)) + v % 2 ^ w * 2 ^ (lo' + w' + k)
        = 2 ^ (lo' + w' + k) * (x / 2 ^ (lo' + w' + k) / 2 ^ w * 2 ^ w + v % 2 ^ w) := by
      rw [Nat.mul_add, ← Nat.mul_assoc, Nat.mul_comm (2 ^ (lo' + w' + k)), Nat.mul_comm (2 ^ (lo' + w' + k))]
    rw [this, Nat.mul_add_mod, Nat.mod_mod]
  · obtain ⟨k, rfl⟩ : ∃ k, lo' = lo + w + k := ⟨lo' - (lo + w), by omega⟩
    have hb : ∀ y, y / 2 ^ (lo + w + k) = y / 2 ^ lo / 2 ^ w / 2 ^ k := fun y => by
      rw [Nat.div_div_eq_div_mul, Nat.div_div_eq_div_mul, ← Nat.pow_add, ← Nat.pow_add, Nat.add_assoc]
    have hp : 0 < 2 ^ lo := Nat.two_pow_pos lo
    have hw : 0 < 2 ^ w := Nat.two_pow_pos w
    have : setBits x lo w v / 2 ^ lo / 2 ^ w = x / 2 ^ lo / 2 ^ w := by
      rw [setBits_split]
      have e : x / 2 ^ lo / 2 ^ w * (2 ^ w * 2 ^ lo) + v % 2 ^ w * 2 ^ lo + x % 2 ^ lo
          = 2 ^ lo * (x / 2 ^ lo / 2 ^ w * 2 ^ w + v % 2 ^ w) + x % 2 ^ lo := by
        rw [Nat.mul_comm (2 ^ lo), Nat.add_mul, Nat.mul_assoc]
      rw [e, Nat.mul_add_div hp, Nat.div_eq_of_lt (Nat.mod_lt _ hp), Nat.add_zero, Nat.mul_comm, Nat.mul_add_div hw,
        Nat.div_eq_of_lt (Nat.mod_lt _ hw), Nat.add_zero]
    unfold bits
    rw [hb, hb x, this]

/-! ### Registers -/

theorem Reg.index_inj (a b : Reg) (h : a.index = b.index) : a = b := by
  have := congrArg Reg.ofNat h
  simpa [Reg.index, Reg.ofNat_ctorIdx] using this

theorem Reg.index_lt (r : Reg) : r.index < 256 := by cases r <;> decide

/-- Every register word has a key of its own. -/
theorem Reg.key_inj (r r' : Reg) (i j i' j' : Nat) (h : r.key i j = r'.key i' j') : r = r' ∧ i = i' ∧ j = j' := by
  have a := r.index_lt
  have b := r'.index_lt
  unfold Reg.key at h
  split at h <;> split at h
  · have : r.index = r'.index ∧ i = i' ∧ j = j' := by omega
    exact ⟨Reg.index_inj _ _ this.1, this.2⟩
  · omega
  · omega
  · have : r.index = r'.index ∧ Nat.pair i j = Nat.pair i' j' := by omega
    exact ⟨Reg.index_inj _ _ this.1, Nat.pair_eq_pair.1 this.2⟩

theorem Reg.key_eq_iff (r r' : Reg) (i j i' j' : Nat) : r.key i j = r'.key i' j' ↔ r = r' ∧ i = i' ∧ j = j' :=
  ⟨Reg.key_inj r r' i j i' j', fun h => by rw [h.1, h.2.1, h.2.2]⟩

@[simp] theorem State.reg_setReg_same (s : State) (r : Reg) (i j v : Nat) : (s.setReg r i j v).reg r i j = v := by
  simp [State.reg, State.setReg]

theorem State.reg_setReg_other (s : State) (r r' : Reg) (i j i' j' v : Nat) (h : r'.key i' j' ≠ r.key i j) :
    (s.setReg r i j v).reg r' i' j' = s.reg r' i' j' := by
  simp [State.reg, State.setReg, Tbl.get_set_other _ _ _ _ _ _ h]

/-- A field that is set reads back. -/
@[simp] theorem State.fld_setFld_same (s : State) (f : Fld) (v i j : Nat) : (s.setFld f v i j).fld f i j = v % 2 ^ f.w := by
  simp [State.fld, State.setFld]

/-- Another field of the same word stays. -/
theorem State.fld_setFld_beside (s : State) (f g : Fld) (v i j : Nat) (hr : g.reg = f.reg) (h : g.lo + g.w ≤ f.lo ∨ f.lo + f.w ≤ g.lo) :
    (s.setFld f v i j).fld g i j = s.fld g i j := by
  simp only [State.fld, State.setFld, hr, State.reg_setReg_same]
  exact bits_setBits_other _ _ _ _ _ _ h

/-- A field of another word stays. -/
theorem State.fld_setFld_other (s : State) (f g : Fld) (v i j i' j' : Nat) (h : g.reg.key i' j' ≠ f.reg.key i j) :
    (s.setFld f v i j).fld g i' j' = s.fld g i' j' := by
  simp [State.fld, State.setFld, State.reg_setReg_other _ _ _ _ _ _ _ _ h]

/-- A word of another register stays: the usual case of `fld_setFld_other`. -/
theorem State.fld_setFld_reg (s : State) (f g : Fld) (v i j i' j' : Nat) (h : g.reg ≠ f.reg) :
    (s.setFld f v i j).fld g i' j' = s.fld g i' j' :=
  s.fld_setFld_other f g v i j i' j' (fun e => h (Reg.key_inj _ _ _ _ _ _ e).1)

/-- A field of another word of the same register stays. -/
theorem State.fld_setFld_word (s : State) (f g : Fld) (v i j i' j' : Nat) (h : i' ≠ i ∨ j' ≠ j) :
    (s.setFld f v i j).fld g i' j' = s.fld g i' j' :=
  s.fld_setFld_other f g v i j i' j' (fun e => by have := (Reg.key_inj _ _ _ _ _ _ e).2; omega)

/-- A register word that is set reads its value, and every other word stays. -/
theorem State.reg_setReg (s : State) (r r' : Reg) (i j i' j' v : Nat) :
    (s.setReg r i j v).reg r' i' j' = if r' = r ∧ i' = i ∧ j' = j then v else s.reg r' i' j' := by
  split
  · rename_i h; obtain ⟨rfl, rfl, rfl⟩ := h; exact s.reg_setReg_same _ _ _ _
  · rename_i h; exact s.reg_setReg_other _ _ _ _ _ _ _ (fun e => h (Reg.key_inj _ _ _ _ _ _ e))

/-! ### Units -/

@[simp] theorem State.cx_setCx (s : State) (c : Nat) (x : Context) : (s.setCx c x).cx c = x := by simp [State.cx, State.setCx]
theorem State.cx_setCx_other (s : State) (c b : Nat) (x : Context) (h : b ≠ c) : (s.setCx c x).cx b = s.cx b := by
  simp [State.cx, State.setCx, Tbl.get_set_other _ _ _ _ _ _ h]
@[simp] theorem State.engine_setEngine (s : State) (e : Nat) (x : Engine) : (s.setEngine e x).engine e = x := by
  simp [State.engine, State.setEngine]
theorem State.engine_setEngine_other (s : State) (e b : Nat) (x : Engine) (h : b ≠ e) : (s.setEngine e x).engine b = s.engine b := by
  simp [State.engine, State.setEngine, Tbl.get_set_other _ _ _ _ _ _ h]
@[simp] theorem State.array_setArray (s : State) (a : Nat) (x : ArrayU) : (s.setArray a x).array a = x := by
  simp [State.array, State.setArray]
theorem State.array_setArray_other (s : State) (a b : Nat) (x : ArrayU) (h : b ≠ a) : (s.setArray a x).array b = s.array b := by
  simp [State.array, State.setArray, Tbl.get_set_other _ _ _ _ _ _ h]
@[simp] theorem State.stream_setStream (s : State) (u : Nat) (x : Stream) : (s.setStream u x).stream u = x := by
  simp [State.stream, State.setStream]
@[simp] theorem State.mover_setMover (s : State) (m : Nat) (x : Mover) : (s.setMover m x).mover m = x := by
  simp [State.mover, State.setMover]
@[simp] theorem State.courier_setCourier (s : State) (q : Nat) (x : Courier) : (s.setCourier q x).courier q = x := by
  simp [State.courier, State.setCourier]
@[simp] theorem State.stack_setStack (s : State) (k : Nat) (x : Stack) : (s.setStack k x).stack k = x := by
  simp [State.stack, State.setStack]
@[simp] theorem State.btPort_setBt (s : State) (b : Nat) (x : BtPort) : (s.setBt b x).btPort b = x := by
  simp [State.btPort, State.setBt]
@[simp] theorem State.lport_setPort (s : State) (p : Nat) (x : Port) : (s.setPort p x).lport p = x := by
  simp [State.lport, State.setPort]
@[simp] theorem State.seqOf_setSeq (s : State) (n : Nat) (x : Seq) : (s.setSeq n x).seqOf n = x := by
  simp [State.seqOf, State.setSeq]
@[simp] theorem State.ch_setCh (s : State) (k : Nat) (x : Chan) : (s.setCh k x).ch k = x := by simp [State.ch, State.setCh]
@[simp] theorem State.scp_setScp (s : State) (k : Nat) (x : Scope) : (s.setScp k x).scp k = x := by simp [State.scp, State.setScp]

/-! ### Memory -/

theorem State.wr_mem (s : State) (a : Nat) (bs : List Byte) : (s.wr a bs).mem = Tbl.setRun 0 s.mem a bs := rfl
theorem State.hwr_hmem (s : State) (a : Nat) (bs : List Byte) : (s.hwr a bs).hmem = Tbl.setRun 0 s.hmem a bs := rfl

/-- A write keeps the canonical form of the device memory. -/
theorem State.wr_wf (s : State) (a : Nat) (bs : List Byte) (h : Tbl.Wf 0 s.mem) : Tbl.Wf 0 (s.wr a bs).mem := Tbl.setRun_wf _ _ _ _ h
theorem State.hwr_wf (s : State) (a : Nat) (bs : List Byte) (h : Tbl.Wf 0 s.hmem) : Tbl.Wf 0 (s.hwr a bs).hmem := Tbl.setRun_wf _ _ _ _ h

/-- What is written reads back. -/
theorem State.rd_wr (s : State) (a : Nat) (bs : List Byte) : (s.wr a bs).rd a bs.length = bs := Tbl.getRun_setRun _ _ _ _

/-- A range beside what is written reads as before. -/
theorem State.rd_wr_other (s : State) (a : Nat) (bs : List Byte) (b n : Nat) (h : b + n ≤ a ∨ a + bs.length ≤ b) :
    (s.wr a bs).rd b n = s.rd b n := Tbl.getRun_setRun_out _ _ _ _ _ _ _ h

/-- Every other byte stays. -/
theorem State.wr_other (s : State) (a : Nat) (bs : List Byte) (b : Nat) (h : b < a ∨ a + bs.length ≤ b) :
    Tbl.get 0 (s.wr a bs).mem b = Tbl.get 0 s.mem b := Tbl.get_setRun_out _ _ _ _ _ _ h

/-! ### Lists of changes -/

@[simp] theorem overList_nil {α : Type} (f : α → State → State) (s : State) : overList [] f s = s := rfl
@[simp] theorem overList_cons {α : Type} (x : α) (l : List α) (f : α → State → State) (s : State) :
    overList (x :: l) f s = overList l f (f x s) := rfl

/-- A property that each change keeps holds after all of them. -/
theorem overList_keeps {α : Type} (P : State → Prop) (f : α → State → State) (hf : ∀ x s, P s → P (f x s)) :
    ∀ (l : List α) (s : State), P s → P (overList l f s)
  | [], _, h => h
  | x :: l, s, h => overList_keeps P f hf l (f x s) (hf x s h)

/-- A projection that no change touches is as before. -/
theorem overList_same {α β : Type} (g : State → β) (f : α → State → State) (hf : ∀ x s, g (f x s) = g s) :
    ∀ (l : List α) (s : State), g (overList l f s) = g s
  | [], _ => rfl
  | x :: l, s => by rw [overList_cons, overList_same g f hf l, hf]

/-! ### Events and completions -/

/-- Storing a record changes the recorder and, where a record is skipped, EVR_MIRROR alone. -/
theorem State.storeEv_eq (s : State) (e : EvRec) : ∃ r x, s.storeEv e = { s with regs := r, evr := x } := by
  refine ⟨(s.storeEv e).regs, (s.storeEv e).evr, ?_⟩
  simp only [State.storeEv]
  generalize (!s.evr.closed && !s.evr.falling && decide (s.evr.copied + 4096 < s.evr.last + 1)) = b
  cases b <;> rfl

/-- An event changes the recorder and, where a record is skipped, EVR_MIRROR alone. -/
theorem State.event_eq (s : State) (source code severity : Nat) (ctx : Option Nat) (pl : List (Nat × Nat × Nat)) :
    ∃ r e, s.event source code severity ctx pl = { s with regs := r, evr := e } := by
  unfold State.event
  split
  · exact State.storeEv_eq s _
  · split
    · exact ⟨s.regs, _, rfl⟩
    · exact ⟨s.regs, s.evr, rfl⟩

/-- A completion changes its context and CTX_STS alone. -/
theorem State.complete_eq (s : State) (c : Nat) (r : CRec) : ∃ g x, s.complete c r = { s with regs := g, ctx := x } := by
  unfold State.complete
  split
  · exact ⟨s.regs, s.ctx, rfl⟩
  · exact ⟨_, _, rfl⟩

/-- An MSI-X interrupt changes the interrupts alone. -/
theorem State.msix_eq (s : State) (fn v : Nat) : ∃ o p, s.msix fn v = { s with irqOut := o, msixPend := p } := by
  unfold State.msix
  split
  · exact ⟨_, s.msixPend, rfl⟩
  · exact ⟨s.irqOut, _, rfl⟩

/-- Finishing a descriptor changes its context and CTX_STS alone. -/
theorem State.finish_eq (s : State) (c i : Nat) (st : Status) (d : W64) (t : Nat) (rem : Bool) :
    ∃ g x, s.finish c i st d t rem = { s with regs := g, ctx := x } := by
  unfold State.finish
  split
  · exact ⟨s.regs, s.ctx, rfl⟩
  · split
    · exact ⟨s.regs, s.ctx, rfl⟩
    · obtain ⟨g, x, h⟩ := State.complete_eq (s.updDesc c i (fun d => { d with st := .done })) c _
      exact ⟨g, x, by rw [h]; rfl⟩

end Sys2Proof.Machine
end

