-- ==== Sys2Proof/Laws/Tiles.lean ====
section
/-! SUPPORT. Byte lists, check values and tile images: a number survives its bytes, a check value fits in the width of its
function, and a tile image made from a header and a payload reads back as that header with a good seal. -/

namespace Sys2Proof.Machine

@[simp] theorem leBytes_length : ∀ (n x : Nat), (leBytes n x).length = n
  | 0, _ => rfl
  | n + 1, x => by simp [leBytes, leBytes_length n]

theorem leNat_leBytes : ∀ (n x : Nat), leNat (leBytes n x) = x % 2 ^ (8 * n)
  | 0, x => by simp [leBytes, leNat, Nat.mod_one]
  | n + 1, x => by
    have h : 2 ^ (8 * (n + 1)) = 256 * 2 ^ (8 * n) := by rw [Nat.mul_add, Nat.pow_add, Nat.mul_comm]
    simp only [leBytes, leNat, leNat_leBytes n, BitVec.toNat_ofNat, h, Nat.mod_mul]

theorem leNat_lt : ∀ l : List (BitVec 8), leNat l < 2 ^ (8 * l.length)
  | [] => by simp [leNat]
  | b :: l => by
    have h : 2 ^ (8 * (l.length + 1)) = 256 * 2 ^ (8 * l.length) := by rw [Nat.mul_add, Nat.pow_add, Nat.mul_comm]
    have hb := b.isLt
    have hl := leNat_lt l
    simp only [leNat, List.length_cons, h]
    omega

@[simp] theorem pad_length (n : Nat) (l : List (BitVec 8)) : (pad n l).length = n := by
  simp [pad]
  omega

/-- A number in n bytes after o bytes reads back. -/
theorem field_mid (p q : List (BitVec 8)) (n x : Nat) : field (p ++ leBytes n x ++ q) p.length n = x % 2 ^ (8 * n) := by
  have h : ((p ++ leBytes n x ++ q).drop p.length).take n = leBytes n x := by
    rw [List.append_assoc, List.drop_left, List.take_left' (leBytes_length n x)]
  rw [field, h, leNat_leBytes]

/-! ### Check values -/

theorem times_keeps {α : Type} (P : α → Prop) (f : α → α) (hf : ∀ x, P x → P (f x)) : ∀ (n : Nat) (x : α), P x → P (times n f x)
  | 0, _, h => h
  | n + 1, x, h => times_keeps P f hf n (f x) (hf x h)

/-- The constants of a check-value function fit in its width. -/
def CrcFn.Fits (f : CrcFn) : Prop := 8 ≤ f.width ∧ f.poly < 2 ^ f.width ∧ f.init < 2 ^ f.width ∧ f.xorOut < 2 ^ f.width

theorem CrcFn.bit_lt {f : CrcFn} (hf : f.Fits) (c : Nat) (h : c < 2 ^ f.width) : f.bit c < 2 ^ f.width := by
  have h2 : c / 2 < 2 ^ f.width := by omega
  obtain ⟨hw, hp, -⟩ := hf
  rw [CrcFn.bit]
  split
  · split
    · exact Nat.xor_lt_two_pow h2 hp
    · exact h2
  · split
    · exact Nat.xor_lt_two_pow (Nat.mod_lt _ (by positivity)) hp
    · rename_i ht
      obtain ⟨k, hk⟩ : ∃ k, f.width = k + 1 := ⟨f.width - 1, by omega⟩
      rw [hk] at h ht ⊢
      have hc : c < 2 ^ k := by
        by_contra hc
        exact ht (by rw [Nat.add_sub_cancel, Nat.testBit_eq_decide_div_mod_eq]
                     have : c / 2 ^ k = 1 := Nat.div_eq_of_lt_le (by omega) (by omega)
                     simp [this])
      omega

theorem CrcFn.run_lt {f : CrcFn} (hf : f.Fits) : ∀ (l : List (BitVec 8)) (c : Nat), c < 2 ^ f.width → f.run c l < 2 ^ f.width
  | [], _, h => h
  | b :: l, c, h => by
    refine CrcFn.run_lt hf l _ (times_keeps (· < 2 ^ f.width) _ (CrcFn.bit_lt hf) 8 _ ?_)
    have hb := b.isLt
    have hs : 2 ^ f.width = 256 * 2 ^ (f.width - 8) := by rw [← Nat.pow_add 2 8]; congr 1; have := hf.1; omega
    split
    · exact Nat.xor_lt_two_pow h (by have : 0 < 2 ^ (f.width - 8) := by positivity
                                     nlinarith)
    · exact Nat.xor_lt_two_pow h (by rw [hs]; exact Nat.mul_lt_mul_of_pos_right hb (by positivity))

theorem CrcFn.of_lt {f : CrcFn} (hf : f.Fits) (l : List (BitVec 8)) : f.of l < 2 ^ f.width :=
  Nat.xor_lt_two_pow (CrcFn.run_lt hf l _ hf.2.2.1) hf.2.2.2

/-- Each of the four functions fits (R405). -/
theorem crcFn_fits (n : Nat) : (crcFn n).Fits := by
  match n with
  | 0 => exact ⟨by decide, by decide, by decide, by decide⟩
  | 1 => exact ⟨by decide, by decide, by decide, by decide⟩
  | 2 => exact ⟨by decide, by decide, by decide, by decide⟩
  | _ + 3 => exact (⟨by decide, by decide, by decide, by decide⟩ : crc16.Fits)

theorem crc32c_of_lt (l : List (BitVec 8)) : crc32c.of l < 2 ^ 32 := CrcFn.of_lt (crcFn_fits 0) l

theorem crc64_of_lt (l : List (BitVec 8)) : crc64.of l < 2 ^ 64 := CrcFn.of_lt (crcFn_fits 2) l

/-! ### Tile images -/

@[simp] theorem Hdr.bytes_length (h : Hdr) : h.bytes.length = 60 := by simp [Hdr.bytes]

@[simp] theorem tileImage_length (h : Hdr) (pay : List (BitVec 8)) : (tileImage h pay).length = tileBytes := by
  simp [tileImage, tileBytes, payloadBytes]

theorem tileImage_head (h : Hdr) (pay : List (BitVec 8)) : (tileImage h pay).take 60 = h.bytes := by
  rw [tileImage, List.append_assoc, List.take_left' (Hdr.bytes_length h)]

theorem tileImage_payload (h : Hdr) (pay : List (BitVec 8)) : (tileImage h pay).drop 64 = pad payloadBytes pay := by
  rw [tileImage, List.drop_left' (by simp)]

theorem tileImage_seal (h : Hdr) (pay : List (BitVec 8)) : field (tileImage h pay) 60 4 = sealOf h.bytes (pad payloadBytes pay) := by
  rw [tileImage, ← Hdr.bytes_length h, field_mid]
  exact Nat.mod_eq_of_lt (crc32c_of_lt _)

theorem sealOf_head (a b pay : List (BitVec 8)) (h : a.take 60 = b.take 60) : sealOf a pay = sealOf b pay := by rw [sealOf, sealOf, h]

/-- The seal of a tile image is good: the image passes its check where its header is not malformed. -/
theorem tileGood_tileImage (h : Hdr) (pay : List (BitVec 8)) : tileGood (tileImage h pay) none = !hdrMalformed (tileImage h pay) := by
  have h5 : sealOf (tileImage h pay) ((tileImage h pay).drop 64) = field (tileImage h pay) 60 4 := by
    rw [tileImage_seal, tileImage_payload]
    apply sealOf_head
    rw [tileImage_head, List.take_of_length_le (by simp)]
  rw [tileGood, h5]
  simp

/-- The same for a user that names a format. -/
theorem tileGood_tileImage_fmt (h : Hdr) (pay : List (BitVec 8)) (f : Nat) : tileGood (tileImage h pay) (some f) =
    (!hdrMalformed (tileImage h pay) && (field (tileImage h pay) 0 1 % 32 == f)) := by
  have h5 := tileGood_tileImage h pay
  simp only [tileGood, Bool.and_true] at h5 ⊢
  rw [h5]

end Sys2Proof.Machine
end

