-- ==== Sys2Proof/Laws/Vector.lean ====
section
/-! SUPPORT. What a vector instruction leaves in the registers of its engine: the words of registers after a write, and the lanes of a
result in general mode. -/

namespace Sys2Proof.Machine

@[simp] theorem lanes_length : lanes.length = 64 := by simp [lanes]

theorem nth_map_lanes {α : Type} (d : α) (f : Nat → α) (i : Nat) (h : i < 64) : nth d (lanes.map f) i = f i := by
  simp [nth, lanes, h]

theorem nth_map_of_lt {α β : Type} (d : α) (e : β) (f : β → α) (xs : List β) (i : Nat) (h : i < xs.length) :
    nth d (xs.map f) i = f (nth e xs i) := by
  simp [nth, h]

/-- A register that is written reads back, and every other register stays. -/
theorem Engine.word_putReg (x : Engine) (r r' i : Nat) (xs : List W32) (hl : xs.length = 64) (hi : i < 64) :
    (x.putReg r xs).word r' i = if r' = r then nth 0 xs i else x.word r' i := by
  unfold Engine.putReg Engine.word
  split
  · rename_i h
    subst h
    exact Tbl.get_setRun_in 0 x.v (64 * r') xs i (by omega)
  · exact Tbl.get_setRun_out 0 0 x.v (64 * r) xs (64 * r' + i) (by omega)

/-- Registers below the written ones stay, and so do those above them. -/
theorem Engine.word_putElems (r' i : Nat) (hi : i < 64) : ∀ (n r : Nat) (xs : List Nat) (x : Engine), xs.length = 64 →
    r' < r ∨ r + n ≤ r' → (x.putElems n r xs).word r' i = x.word r' i
  | 0, _, _, _, _, _ => rfl
  | n + 1, r, xs, x, hl, h => by
    unfold Engine.putElems
    rw [Engine.word_putElems r' i hi n (r + 1) _ _ (by simpa using hl) (by omega),
      Engine.word_putReg _ _ _ _ _ (by simpa using hl) hi, if_neg (by omega)]

theorem Engine.elem_congr (x y : Engine) (i : Nat) : ∀ (n r : Nat), (∀ r', r ≤ r' → r' < r + n → x.word r' i = y.word r' i) →
    x.elem n r i = y.elem n r i
  | 0, _, _ => rfl
  | n + 1, r, h => by
    unfold Engine.elem
    rw [h r (Nat.le_refl _) (by omega), Engine.elem_congr x y i n (r + 1) (fun r' h1 h2 => h r' (by omega) (by omega))]

/-- Elements that are written read back, cut to their words. -/
theorem Engine.elem_putElems (i : Nat) (hi : i < 64) : ∀ (n r : Nat) (xs : List Nat) (x : Engine), xs.length = 64 →
    (x.putElems n r xs).elem n r i = nth 0 xs i % 2 ^ (32 * n)
  | 0, _, _, _, _ => by simp [Engine.elem, Nat.mod_one]
  | n + 1, r, xs, x, hl => by
    have hi' : i < xs.length := by omega
    have ih := Engine.elem_putElems i hi n (r + 1) (xs.map (fun x => x / 2 ^ 32)) (x.putReg r (xs.map (BitVec.ofNat 32))) (by simpa using hl)
    unfold Engine.putElems Engine.elem
    rw [ih, Engine.word_putElems r i hi n (r + 1) _ _ (by simpa using hl) (by omega),
      Engine.word_putReg _ _ _ _ _ (by simpa using hl) hi, if_pos rfl, nth_map_of_lt 0 0 _ xs i hi', nth_map_of_lt 0 0 _ xs i hi',
      BitVec.toNat_ofNat, show 32 * (n + 1) = 32 + 32 * n by omega, Nat.pow_add, Nat.mod_mul]

theorem Engine.putElems_rest : ∀ (n r : Nat) (xs : List Nat) (x : Engine), x.putElems n r xs = { x with v := (x.putElems n r xs).v }
  | 0, _, _, _ => rfl
  | n + 1, r, xs, x => by
    unfold Engine.putElems
    rw [Engine.putElems_rest n (r + 1)]
    rfl

/-- In general mode an instruction acts on one window with all 64 lanes present. -/
theorem Engine.lanesOp_general (x : Engine) (o : VOp) (n : Nat) (f : Engine → Nat → Nat → LaneRes) (h : x.update = false) :
    x.lanesOp o n f = x.writeLanes o n (0, BitVec.allOnes 64) (f x 0) := by
  simp [Engine.lanesOp, Engine.windows, h]

/-- What the result of a lane operation is in lane i of a window. -/
theorem Engine.elem_writeLanes (x : Engine) (o : VOp) (n : Nat) (w : Nat × W64) (f : Nat → LaneRes) (i : Nat) (hi : i < 64) :
    (x.writeLanes o n w f).elem n (w.1 + o.vd.toNat) i =
      (if x.active o w.2 i then (f i).val else if o.zm then 0 else x.elem n (w.1 + o.vd.toNat) i) % 2 ^ (32 * n) := by
  have h := Engine.elem_putElems i hi n (w.1 + o.vd.toNat)
    (lanes.map (fun i => if x.active o w.2 i then (f i).val else if o.zm then 0 else x.elem n (w.1 + o.vd.toNat) i)) x (by simp)
  rw [nth_map_lanes 0 _ i hi] at h
  rw [← h]
  exact Engine.elem_congr _ _ i n _ (fun _ _ _ => rfl)

theorem Engine.word_writeLanes (x : Engine) (o : VOp) (n : Nat) (w : Nat × W64) (f : Nat → LaneRes) (r i : Nat) (hi : i < 64)
    (h : r < w.1 + o.vd.toNat ∨ w.1 + o.vd.toNat + n ≤ r) : (x.writeLanes o n w f).word r i = x.word r i :=
  Engine.word_putElems r i hi n _ _ _ (by simp) h

/-- A lane operation changes the vector registers and the flag word alone. -/
theorem Engine.writeLanes_rest (x : Engine) (o : VOp) (n : Nat) (w : Nat × W64) (f : Nat → LaneRes) :
    x.writeLanes o n w f = { x with v := (x.writeLanes o n w f).v, flags := x.flags ||| flagsOf ((lanes.filter (fun i => x.active o w.2 i)).map f) } := by
  have h := Engine.putElems_rest n (w.1 + o.vd.toNat)
    (lanes.map (fun i => if x.active o w.2 i then (f i).val else if o.zm then 0 else x.elem n (w.1 + o.vd.toNat) i)) x
  simp only [Engine.writeLanes]
  generalize x.putElems n _ _ = y at h ⊢
  rw [h]

theorem Engine.elem_lt (x : Engine) (i : Nat) : ∀ (n r : Nat), x.elem n r i < 2 ^ (32 * n)
  | 0, _ => by simp [Engine.elem]
  | n + 1, r => by
    have := Engine.elem_lt x i n (r + 1)
    have hw := (x.word r i).isLt
    unfold Engine.elem
    rw [show 32 * (n + 1) = 32 + 32 * n by omega, Nat.pow_add]
    have : 2 ^ 32 * x.elem n (r + 1) i ≤ 2 ^ 32 * (2 ^ (32 * n) - 1) := Nat.mul_le_mul_left _ (by omega)
    have h2 : 2 ^ 32 * (2 ^ (32 * n) - 1) = 2 ^ 32 * 2 ^ (32 * n) - 2 ^ 32 := by rw [Nat.mul_sub, Nat.mul_one]
    have h3 : 2 ^ 32 ≤ 2 ^ 32 * 2 ^ (32 * n) := Nat.le_mul_of_pos_right _ (Nat.two_pow_pos _)
    omega

/-! ### Every window at once -/

theorem foldl_or_bit (k : Nat) : ∀ (l : List LaneRes) (f : BitVec 4),
    (l.foldl (fun f r => f ||| r.flags) f).getLsbD k = (f.getLsbD k || l.any (fun r => r.flags.getLsbD k))
  | [], f => by simp
  | r :: l, f => by
    rw [List.foldl_cons, foldl_or_bit k l, BitVec.getLsbD_or, List.any_cons, Bool.or_assoc]

/-- The flags of active lanes are those that some active lane sets. -/
theorem flagsOf_bit (x : Engine) (o : VOp) (p : W64) (f : Nat → LaneRes) (k : Nat) :
    (flagsOf ((lanes.filter (fun i => x.active o p i)).map f)).getLsbD k =
      lanes.any (fun i => x.active o p i && (f i).flags.getLsbD k) := by
  rw [flagsOf, foldl_or_bit, List.any_map, List.any_filter]
  simp

theorem Engine.frame_trans (x0 x y : Engine) (hx : x = { x0 with v := x.v, flags := x.flags })
    (hy : y = { x with v := y.v, flags := y.flags }) : y = { x0 with v := y.v, flags := y.flags } := by
  rw [hy, hx]

theorem Engine.writeLanes_frame (x : Engine) (o : VOp) (n : Nat) (w : Nat × W64) (f : Nat → LaneRes) :
    x.writeLanes o n w f = { x with v := (x.writeLanes o n w f).v, flags := (x.writeLanes o n w f).flags } := by
  rw [Engine.writeLanes_rest]

theorem Engine.writeLanes_flags (x : Engine) (o : VOp) (n : Nat) (w : Nat × W64) (f : Nat → LaneRes) :
    (x.writeLanes o n w f).flags = x.flags ||| flagsOf ((lanes.filter (fun i => x.active o w.2 i)).map f) := by
  rw [Engine.writeLanes_rest]

/-- Going on to the next instruction leaves every register. -/
theorem Engine.advance_elem (x : Engine) (n r i : Nat) : x.advance.elem n r i = x.elem n r i :=
  Engine.elem_congr _ _ i n r (fun _ _ _ => rfl)

/-- Two engines have the same words in the registers from b to b + 15. -/
def Engine.sameFrom (x y : Engine) (b : Nat) : Prop := ∀ r i, i < 64 → b ≤ r → r < b + 16 → y.word r i = x.word r i

/-- What the windows of a list hold after an instruction has acted on each in turn. -/
theorem Engine.foldl_windows (o : VOp) (n : Nat) (f : Engine → Nat → Nat → LaneRes) (g : Nat → Nat → LaneRes) (x0 : Engine)
    (hvn : o.vd.toNat + n ≤ 16) : ∀ (ws : List (Nat × W64)) (x : Engine), ws.Pairwise (fun a b => a.1 + 16 ≤ b.1) →
    x = { x0 with v := x.v, flags := x.flags } → (∀ w ∈ ws, x0.sameFrom x w.1) →
    (∀ w ∈ ws, ∀ x' : Engine, x' = { x0 with v := x'.v, flags := x'.flags } → x0.sameFrom x' w.1 →
      ∀ i, i < 64 → f x' w.1 i = g w.1 i) →
    let y := ws.foldl (fun x w => x.writeLanes o n w (f x w.1)) x
    (∀ w ∈ ws, ∀ i, i < 64 → y.elem n (w.1 + o.vd.toNat) i =
      if x0.active o w.2 i then (g w.1 i).val % 2 ^ (32 * n) else if o.zm then 0 else x0.elem n (w.1 + o.vd.toNat) i) ∧
    (∀ r i, i < 64 → (∀ w ∈ ws, r < w.1 + o.vd.toNat ∨ w.1 + o.vd.toNat + n ≤ r) → y.word r i = x.word r i) ∧
    (∀ k, y.flags.getLsbD k =
      (x.flags.getLsbD k || ws.any (fun w => lanes.any (fun i => x0.active o w.2 i && (g w.1 i).flags.getLsbD k)))) ∧
    y = { x0 with v := y.v, flags := y.flags }
  | [], x, _, hx, _, _ => by simpa using hx
  | w :: ws, x, hp, hx, hs, hf => by
    obtain ⟨hw, hp'⟩ := List.pairwise_cons.mp hp
    have hact : ∀ p i, x.active o p i = x0.active o p i := by intro p i; rw [hx]; rfl
    have hfw : ∀ i, i < 64 → f x w.1 i = g w.1 i := hf w (by simp) x hx (hs w (by simp))
    let z := x.writeLanes o n w (f x w.1)
    have hz : z = { x0 with v := z.v, flags := z.flags } := Engine.frame_trans x0 x z hx (Engine.writeLanes_frame x o n w _)
    have hzw : ∀ r i, i < 64 → (r < w.1 + o.vd.toNat ∨ w.1 + o.vd.toNat + n ≤ r) → z.word r i = x.word r i :=
      fun r i hi h => Engine.word_writeLanes x o n w _ r i hi h
    obtain ⟨h1, h2, h3, h4⟩ := Engine.foldl_windows o n f g x0 hvn ws z hp' hz
      (fun v hv r i hi hb ht => by rw [hzw r i hi (by have := hw v hv; omega)]; exact hs v (by simp [hv]) r i hi hb ht)
      (fun v hv => hf v (by simp [hv]))
    refine ⟨?_, ?_, ?_, h4⟩
    · intro v hv i hi
      rcases List.mem_cons.mp hv with rfl | hv
      · have hy : (ws.foldl (fun x w => x.writeLanes o n w (f x w.1)) z).elem n (v.1 + o.vd.toNat) i = z.elem n (v.1 + o.vd.toNat) i :=
          Engine.elem_congr _ _ i n _ (fun r hr1 hr2 => h2 r i hi (fun u hu => by have := hw u hu; omega))
        rw [List.foldl_cons, hy]
        have hx0 : x.elem n (v.1 + o.vd.toNat) i = x0.elem n (v.1 + o.vd.toNat) i :=
          Engine.elem_congr _ _ i n _ (fun r hr1 hr2 => hs v (by simp) r i hi (by omega) (by omega))
        rw [Engine.elem_writeLanes x o n v _ i hi, hact, hfw i hi, hx0]
        split
        · rfl
        · split
          · simp
          · exact Nat.mod_eq_of_lt (Engine.elem_lt x0 i n _)
      · exact h1 v hv i hi
    · intro r i hi h
      rw [List.foldl_cons, h2 r i hi (fun u hu => h u (by simp [hu])), hzw r i hi (h w (by simp))]
    · intro k
      have hzf : z.flags = x.flags ||| flagsOf ((lanes.filter (fun i => x.active o w.2 i)).map (f x w.1)) :=
        Engine.writeLanes_flags x o n w _
      rw [List.foldl_cons, h3 k, hzf, BitVec.getLsbD_or, flagsOf_bit, List.any_cons, Bool.or_assoc]
      refine congrArg₂ _ rfl (congrArg₂ _ ?_ rfl)
      apply Bool.eq_iff_iff.mpr
      simp only [List.any_eq_true, Bool.and_eq_true, hact]
      constructor
      · rintro ⟨i, hi, ha, hb⟩; exact ⟨i, hi, ha, by rw [← hfw i (by simpa [lanes] using hi)]; exact hb⟩
      · rintro ⟨i, hi, ha, hb⟩; exact ⟨i, hi, ha, by rw [hfw i (by simpa [lanes] using hi)]; exact hb⟩

/-- A lane operation whose operands in a window are read from that window alone has the lane effect, in general and in update mode. -/
theorem Engine.lanesOp_effect (x : Engine) (o : VOp) (n : Nat) (f : Engine → Nat → Nat → LaneRes) (g : Nat → Nat → LaneRes)
    (hv : x.update = true → o.vd.toNat + n ≤ 16)
    (hf : ∀ b x', x' = { x with v := x'.v, flags := x'.flags } → (x.update = true → x.sameFrom x' b) →
      (x.update = false → x' = x ∧ b = 0) → ∀ i, i < 64 → f x' b i = g b i) :
    LaneEffect x (x.lanesOp o n f).advance o n g := by
  by_cases hu : x.update = true
  · obtain ⟨h1, h2, h3, h4⟩ := Engine.foldl_windows o n f g x (hv hu) x.windows x
      (by simp [Engine.windows, hu]) rfl (fun _ _ _ _ _ _ _ => rfl)
      (fun w _ x' he hs => hf w.1 x' he (fun _ => hs) (fun h => by simp [hu] at h))
    refine ⟨fun w hw i hi => (Engine.advance_elem _ _ _ _).trans (h1 w hw i hi), h2, fun k _ => h3 k, ?_⟩
    show ({ x.lanesOp o n f with pc := (x.lanesOp o n f).pc + 1 } : Engine) = _
    have h4' : x.lanesOp o n f = { x with v := (x.lanesOp o n f).v, flags := (x.lanesOp o n f).flags } := h4
    generalize x.lanesOp o n f = y at h4' ⊢
    rw [h4']
    rfl
  · have hu' : x.update = false := by simpa using hu
    have hw : x.windows = [(0, BitVec.allOnes 64)] := by simp [Engine.windows, hu']
    rw [Engine.lanesOp_general x o n f hu']
    have hfg : ∀ i, i < 64 → f x 0 i = g 0 i := hf 0 x rfl (fun h => absurd h hu) (fun _ => ⟨rfl, rfl⟩)
    have hr := Engine.writeLanes_frame x o n (0, BitVec.allOnes 64) (f x 0)
    refine ⟨?_, ?_, ?_, ?_⟩
    · intro w hm i hi
      rw [hw] at hm
      obtain rfl := List.mem_singleton.mp hm
      refine (Engine.advance_elem _ _ _ _).trans ((Engine.elem_writeLanes x o n (0, BitVec.allOnes 64) (f x 0) i hi).trans ?_)
      rw [hfg i hi]
      split
      · rfl
      · split
        · simp
        · exact Nat.mod_eq_of_lt (Engine.elem_lt x i n _)
    · intro r i hi h
      exact Engine.word_writeLanes x o n (0, BitVec.allOnes 64) (f x 0) r i hi (h _ (by simp [hw]))
    · intro k _
      show (x.writeLanes o n (0, BitVec.allOnes 64) (f x 0)).flags.getLsbD k = _
      rw [Engine.writeLanes_flags]
      simp only [BitVec.getLsbD_or, flagsOf_bit, hw, List.any_cons, List.any_nil, Bool.or_false]
      refine congrArg₂ _ rfl ?_
      apply Bool.eq_iff_iff.mpr
      simp only [List.any_eq_true, Bool.and_eq_true]
      constructor
      · rintro ⟨i, hi, ha, hb⟩; exact ⟨i, hi, ha, by rw [← hfg i (by simpa [lanes] using hi)]; exact hb⟩
      · rintro ⟨i, hi, ha, hb⟩; exact ⟨i, hi, ha, by rw [hfg i (by simpa [lanes] using hi)]; exact hb⟩
    · show ({ x.writeLanes o n (0, BitVec.allOnes 64) (f x 0) with pc := _ } : Engine) = _
      generalize x.writeLanes o n (0, BitVec.allOnes 64) (f x 0) = y at hr ⊢
      rw [hr]
      rfl

/-- One step of an engine changes the engines alone, and of these one. -/
theorem vecStep_eq (s : State) (e op : Nat) (o : VOp) (f : Engine → Engine) (h : (s.engine e).at op o = true) :
    vecStep s e op o f = s.setEngine e (f (s.engine e)).advance := by simp [vecStep, h]

/-- Word k of elements that are written. -/
theorem Engine.word_putElems_at (i : Nat) (hi : i < 64) : ∀ (n r : Nat) (xs : List Nat) (x : Engine), xs.length = 64 → ∀ k, k < n →
   (x.putElems n r xs).word (r + k) i = BitVec.ofNat 32 (nth 0 xs i / 2 ^ (32 * k))
  | 0, _, _, _, _, k, h => by omega
  | n + 1, r, xs, x, hl, 0, _ => by
    unfold Engine.putElems
    rw [Engine.word_putElems _ i hi n (r + 1) _ _ (by simpa using hl) (by omega), Engine.word_putReg _ _ _ _ _ (by simpa using hl) hi]
    rw [if_pos (by omega), nth_map_of_lt (0 : W32) (0 : Nat) _ xs i (by omega)]
    simp
  | n + 1, r, xs, x, hl, k + 1, h => by
    unfold Engine.putElems
    rw [show r + (k + 1) = r + 1 + k by omega, Engine.word_putElems_at i hi n (r+1) _ _ (by simpa using hl) k (by omega),
      nth_map_of_lt (0 : Nat) (0 : Nat) _ xs i (by omega), Nat.div_div_eq_div_mul, ← Nat.pow_add]
    congr 3; omega

/-- The lane effect depends on the values of lanes modulo their words and on their flags alone. -/
theorem laneEffect_congr {x y : Engine} {o : VOp} {n : Nat} {f g : Nat → Nat → LaneRes} (h : LaneEffect x y o n f)
    (hv : ∀ w ∈ x.windows, ∀ i < 64, (f w.1 i).val % 2 ^ (32 * n) = (g w.1 i).val % 2 ^ (32 * n) ∧ (f w.1 i).flags = (g w.1 i).flags) : LaneEffect x y o n g := by
  refine ⟨?_, h.rest, ?_, h.other⟩
  · intro w hw i hi
    rw [h.lane w hw i hi, (hv w hw i hi).1]
  · intro k hk
    rw [h.flags k hk]
    congr 1
    apply Bool.eq_iff_iff.mpr
    simp only [List.any_eq_true, Bool.and_eq_true]
    constructor
    · rintro ⟨w, hw, i, hi, ha, hb⟩; exact ⟨w, hw, i, hi, ha, by rw [← (hv w hw i (by simpa [lanes] using hi)).2]; exact hb⟩
    · rintro ⟨w, hw, i, hi, ha, hb⟩; exact ⟨w, hw, i, hi, ha, by rw [(hv w hw i (by simpa [lanes] using hi)).2]; exact hb⟩

/-- A lane operation in general mode has the lane effect. -/
theorem Engine.lanesOp_effect_general (x : Engine) (o : VOp) (n : Nat) (f : Engine → Nat → Nat → LaneRes) (h : x.update = false) :
    LaneEffect x (x.lanesOp o n f).advance o n (f x) :=
  Engine.lanesOp_effect x o n f _ (by simp [h]) (fun b x' _ _ h2 i hi => by obtain ⟨rfl, rfl⟩ := h2 h; rfl)

/-- The state that an issued instruction leaves. -/
theorem vecStep_next (s : State) (e op : Nat) (o : VOp) (f : Engine → Engine) (h : (s.engine e).at op o = true) (P : Engine → Prop)
    (hp : P (f (s.engine e)).advance) : ∃ y, (Host.Outcome.next (vecStep s e op o f) : Host.Outcome State Fault Refusal) = .next (s.setEngine e y) ∧ P y :=
  ⟨_, by rw [vecStep_eq s e op o f h], hp⟩

theorem Engine.elem_one (x : Engine) (r i : Nat) : x.elem 1 r i = (x.word r i).toNat := by simp [Engine.elem]
theorem Engine.selem_one (x : Engine) (r : Nat) : x.selem 1 r = (x.scalar r).toNat := by simp [Engine.selem]
theorem Engine.scalar_mod (x : Engine) (r : Nat) : x.scalar (r % 32) = x.scalar r := by simp [Engine.scalar]
theorem signed_toInt (w : Nat) (x : Nat) : signed w x = (BitVec.ofNat w x).toInt := by
  simp only [signed, BitVec.toInt, BitVec.toNat_ofNat]
  rcases w with _ | w
  · simp [Nat.mod_one]
  · have : 2 ^ (w + 1) = 2 * 2 ^ w := by rw [Nat.pow_succ]; omega
    (split <;> split) <;> first | omega | (simp_all; done) | (simp_all; omega)
theorem unsigned_toNat (w : Nat) (x : Int) : unsigned w x = (BitVec.ofInt w x).toNat := by
  simp [unsigned, BitVec.toNat_ofInt]


/-- Operands of a window are read from the window, whatever other windows hold. -/
theorem Engine.operands_window {x x' : Engine} {b : Nat} (o : VOp) (n : Nat) (h : x' = { x with v := x'.v, flags := x'.flags })
   (hs : x.update = true → x.sameFrom x' b) (hg : x.update = false → x' = x ∧ b = 0) (hw : x.inWindow o n) (i : Nat) (hi : i < 64) :
   x'.opA o n b i = x.opA o n b i ∧ x'.opB o n b i = x.opB o n b i ∧ x'.opC o n b i = x.opC o n b i := by
  by_cases hu : x.update = true
  · obtain ⟨h1, h2, h3, h4⟩ := hw hu
    have hsc : ∀ r, x'.scalar r = x.scalar r := by intro r; rw [h]; rfl
    have hsel : ∀ n r, x'.selem n r = x.selem n r := by
      intro n; induction n with
      | zero => intro r; rfl
      | succ n ih => intro r; simp only [Engine.selem, hsc, ih]
    have he : ∀ r, r + n ≤ 16 → x'.elem n (b + r) i = x.elem n (b + r) i := fun r hr =>
      Engine.elem_congr _ _ i n _ (fun r' a c => hs hu r' i hi (by omega) (by omega))
    simp only [Engine.opA, Engine.opB, Engine.opC, hsel, he _ h2, he _ h3, he _ h4, and_self]
  · obtain ⟨rfl, rfl⟩ := hg (by simpa using hu); exact ⟨rfl, rfl, rfl⟩

end Sys2Proof.Machine
end

