-- ==== Sys2Proof/Tests/Slice0.lean ====
section
/-! SUPPORT. The model's own tests: terms that the well-formedness check refuses, states and operands that meet the hypotheses of each
statement (`test_meets_…`), and single steps with results worked out from the specification's examples and tables. -/

open Sys2Proof Sys2Proof.Machine

/-! ### Helpers -/

/-- The next state of a step; the state itself where there is none. -/
def testNext (i : Instr) (s : State) : State := match exec i s with | .next t => t | _ => s

/-- An engine that stands before one instruction. -/
def testEngine (op : Nat) (o : VOp) : Engine := { run := .running, prog := [o.word op] }

/-- The same in update mode, with its four windows loaded. -/
def testUpdate (op : Nat) (o : VOp) : Engine :=
  { run := .running, prog := [o.word op], update := true, loaded := true, present := List.replicate 4 (BitVec.allOnes 64) }

/-- An operation on v8 with sources v0, v4 and v12. -/
def testOp (fmt : Nat) (imm : Nat := 0) : VOp := ⟨8, 0, 4, 12, 0, BitVec.ofNat 5 fmt, BitVec.ofNat 24 imm⟩

/-- A state with one engine at work. -/
def onEngine (x : Engine) : State := { State.reset with eng := [(0, x)] }

/-- A state whose context 1 holds a program with one task, which runs, with the allotments of its certificate. -/
def onTask (k : Task) (s : State := State.reset) (al : List Allot := []) : State :=
  { s with ctx := [(1, { prog := some { cert := { tasks := [k], allots := al }, tasks := [(0, { st := .running })] } })] }

/-- Gallery pairs that give a unit every bank of wing 0, in cycle 0. -/
def testPairs (unit : Nat) : List Allot := (List.range 1024).map (fun i => { res := .galleryLane 0 i, slot := 0, frame := 1024, unit := unit })

/-- Slots of a resource in cycle 8 of frames of 1,024. -/
def testSlots (l : List Resource) : List Allot := l.map (fun r => { res := r, slot := 8, frame := 1024 })

/-- With these pairs a unit of wing 0 reaches every gallery range there. -/
theorem test_reach (s : State) (q : Requester) (a n : Nat) (w : q.wing = 0) (m : q.num = none ∨ q.num = some 0)
    (h : ∀ x ∈ testPairs q.unit, x ∈ (s.cert q.ctx).allots) (k : a + n < 0x6000000) : s.slotted q a n = true := by
  rw [State.slotted]
  by_cases z : n = 0
  · simp [z]
  have g : homeOf a = .gallery := by simp [homeOf, galleryEnd]; omega
  simp only [g, State.linesIn, List.all_eq_true, linesOf, List.mem_map, List.mem_range, Bool.or_eq_true, Bool.and_eq_true]
  right
  rintro x ⟨i, hi, rfl⟩
  have v : galleryWing (64 * (a / 64 + i)) = 0 := by simp [galleryWing]; omega
  refine ⟨by simp [State.netOk, v, w], ?_⟩
  rw [List.any_eq_true]
  refine ⟨{ res := .galleryLane 0 ((a / 64 + i) % 1024), slot := 0, frame := 1024, unit := q.unit }, ?_, ?_⟩
  · rw [State.pairsOf, List.mem_filter]
    refine ⟨h _ (List.mem_map.2 ⟨_, List.mem_range.2 (Nat.mod_lt _ (by decide)), rfl⟩), ?_⟩
    rcases m with m | m <;> simp [Allot.meets, Allot.serves, m]
  · simp [Allot.bank, v, w, Requester.on]

/-- With a slot of each of its channels a unit of wing 0 reaches all of stack 0. -/
theorem test_reach_near (s : State) (q : Requester) (a n : Nat) (w : q.wing = 0) (m : q.num = none ∨ q.num = some 0)
    (h : ∀ i, i < 64 → ({ res := .stackPc 0 i, slot := 8, frame := 1024 } : Allot) ∈ (s.cert q.ctx).allots) (k : homeOf a = .near 0) :
    s.slotted q a n = true := by
  rw [State.slotted, k]
  simp only [State.netOk, w, Bool.or_eq_true, Bool.and_eq_true, List.all_eq_true]
  right
  refine ⟨by simp, fun i _ => ?_⟩
  rw [State.hasSlot, List.any_eq_true]
  refine ⟨_, List.mem_filter.2 ⟨h ((runOf a + i) % 64) (Nat.mod_lt _ (by decide)), ?_⟩, by simp⟩
  rcases m with m | m <;> simp [Allot.meets, Allot.serves, m]

/-- The gallery banks of wing 0 and the channels of stack 0 that some units have. -/
def testReach (units : List Nat) : List Allot := testSlots ((List.range 64).map (.stackPc 0)) ++ (units.map testPairs).flatten

theorem test_in_reach (units : List Nat) (u : Nat) (h : u ∈ units) : ∀ x ∈ testPairs u, x ∈ testReach units :=
  fun _ k => List.mem_append_right _ (List.mem_flatten.2 ⟨_, List.mem_map.2 ⟨u, h, rfl⟩, k⟩)

theorem test_in_reach_near (units : List Nat) : ∀ i, i < 64 → ({ res := .stackPc 0 i, slot := 8, frame := 1024 } : Allot) ∈ testReach units :=
  fun _ h => List.mem_append_left _ (List.mem_map.2 ⟨_, List.mem_map.2 ⟨_, List.mem_range.2 h, rfl⟩, rfl⟩)

/-- Every unit present, and protection domain 0 open. -/
def testUnits : State :=
  { State.reset with hold := 0 :: List.replicate 63 255, protAct := [(0, ⟨true, true, true, 0, 2 ^ 48⟩)],
                     protPrev := [(0, ⟨true, true, true, 0, 2 ^ 48⟩)] }

/-- A general vector job whose windows hold gallery addresses from 0x10000, with an engine whose s0 is 0x10000. -/
def testJob (x : Engine) : State :=
  { onTask { vecJobs := [{ windows := [(0x10000, 0x20000)], slots := [{ fmt := 1 }] }] } testUnits (testSlots [.stackPc 0 0] ++ testPairs 0x100) with
    eng := [(0, { x with ctx := 1, s := [(0, 0x10000)] })] }

/-! ### Well-formed commands -/

theorem test_wf_function : (Instr.ctxEnable 64 0).wf = false ∧ (Instr.ctxEnable 63 16383).wf = true := by decide
theorem test_wf_context : (Instr.descriptorFetch 16384).wf = false ∧ (Instr.descriptorFetch 16383).wf = true := by decide
theorem test_wf_descriptor : (Instr.load 0 (2 ^ 32)).wf = false ∧ (Instr.load 0 (2 ^ 32 - 1)).wf = true := by decide
theorem test_wf_sequence : (Instr.kvReleaseFinish 0 65536).wf = false := by decide
theorem test_wf_virtual_function : (Instr.functionLevelReset 0).wf = false ∧ (Instr.functionLevelReset 64).wf = false := by decide
theorem test_wf_task : (Instr.taskComplete 0 (2 ^ 24)).wf = false := by decide
theorem test_wf_array : (Instr.arrayJobStart 8).wf = false ∧ (Instr.arrayParityError 0 65536).wf = false := by decide
theorem test_wf_column_group : (Instr.columnGroupUngate 0 16).wf = false := by decide
theorem test_wf_vector_job : (Instr.vectorJobStart 0 0 256).wf = false := by decide
theorem test_wf_engine : (Instr.barMet 256).wf = false ∧ (Instr.add 256 (testOp 1)).wf = false := by decide
theorem test_wf_wing : (Instr.wingVeCntClr 4).wf = false := by decide
theorem test_wf_stream : (Instr.streamFetchStart 512).wf = false ∧ (Instr.slotFillComplete 0 16 .done).wf = false := by decide
theorem test_wf_mover : (Instr.moveTile 64 .done).wf = false := by decide
theorem test_wf_prefetch : (Instr.prefetchEntryStart 4 0).wf = false := by decide
theorem test_wf_courier : (Instr.courierEntryTake 64).wf = false := by decide
theorem test_wf_shelf : (Instr.depositSpill 0 16 .done).wf = false := by decide
theorem test_wf_stack : (Instr.stackRetrainEnd 20).wf = false ∧ (Instr.stackRefresh 0 64 0).wf = false := by decide
theorem test_wf_channel : (Instr.stackChannelRetrain 0 32 0).wf = false := by decide
theorem test_wf_board_tier : (Instr.btLinkDown 4).wf = false := by decide
theorem test_wf_flash : (Instr.legacyFlashTimeout 16 0).wf = false := by decide
theorem test_wf_send : (Instr.transportSend 0 0 256 0).wf = false ∧ (Instr.transportSend 0 0 0 16).wf = false := by decide
theorem test_wf_port : (Instr.laneReplacementComplete 16).wf = false ∧ (Instr.write 16).wf = false := by decide
theorem test_wf_rota_slot : (Instr.rotaSlotStart 0 64).wf = false := by decide
theorem test_wf_scope : (Instr.heldRehangEffect 14).wf = false := by decide
theorem test_wf_setup_function : (Instr.setupRegisterWrite 64 0 8 0).wf = false := by decide
theorem test_wf_entry : (Instr.clearFlags 0 65536).wf = false ∧ (Instr.freeze 0 65536).wf = false := by decide
theorem test_wf_slot : (Instr.free 64).wf = false := by decide
theorem test_wf_die : (Instr.cpllUnlock 2).wf = false := by decide
theorem test_wf_vector : (Instr.msixVectorUnmask 0 2048).wf = false := by decide
theorem test_wf_lane : (Instr.laneFailed 0 9 .lock).wf = false := by decide
theorem test_wf_record : (Instr.readRecord .bar0 2 0).wf = false := by decide
theorem test_wf_examples : (Instr.add 255 (testOp 1)).wf = true ∧ (Instr.go).wf = true ∧ (Instr.transportSend 0 0 255 15).wf = true := by
  decide

/-! ### The queue and the step -/

theorem test_meets_step : ({ State.reset with pending := [.go] } : State).pending = .go :: [] ∧ State.reset.pending = [] := by decide

theorem test_step_takes_the_front : step { State.reset with pending := [.rotaTakeEffect, .go] } =
    exec .rotaTakeEffect { State.reset with pending := [.go] } := rfl

/-! ### Vector engines -/

theorem test_meets_engine_registers : (List.replicate 64 (0 : W32)).length = 64 ∧ (List.replicate 64 (0 : Nat)).length = 64 ∧
    63 < 64 ∧ 31 < 32 ∧ 7 < 8 ∧ (2 < 3) ∧ (7 < 8 ∨ 8 + 3 ≤ 7) := by decide

theorem test_meets_integer_lanes :
    (∀ op ∈ [0x90, 0x91, 0x92, 0x93, 0x94, 0x95, 0x96, 0x97, 0x98, 0x99, 0x9A],
      0x90 ≤ op ∧ ((onEngine (testEngine op (testOp 0xE))).engine 0).at op (testOp 0xE) = true ∧
      ((onEngine (testEngine op (testOp 0xE))).engine 0).update = false) ∧
    (∀ op ∈ [0x70, 0x71, 0x72, 0x73, 0x74, 0x75, 0x76], ∀ f ∈ [0xF, 0x10],
      ((testOp f).f = 0xF ∨ (testOp f).f = 0x10) ∧ ((onEngine (testEngine op (testOp f))).engine 0).at op (testOp f) = true ∧
      ((onEngine (testEngine op (testOp f))).engine 0).update = false) := by decide

theorem test_meets_wide_lanes : ∀ op ∈ [0x78, 0x79, 0x7A, 0x7B, 0x7C, 0x7D],
    ((onEngine (testEngine op (testOp 0xF))).engine 0).update = false ∧
    ((onEngine (testEngine op (testOp 0xF))).engine 0).at op (testOp 0xF) = true ∧ (testOp 0xF).sb = false := by decide

theorem test_meets_ledger_quantise : ∀ f ∈ [0xF, 0x10], ∀ k ∈ [0, 1],
    ((testOp f k).f = 0xF ∨ (testOp f k).f = 0x10) ∧ bits (testOp f k).imm.toNat 0 5 ≤ 1 ∧
    ((onEngine (testEngine 0x77 (testOp f k))).engine 0).at 0x77 (testOp f k) = true ∧
    ((onEngine (testEngine 0x77 (testOp f k))).engine 0).update = false ∧
    ((onEngine (testEngine 0x77 (testOp f k))).engine 0).led.nfcount < 2 ^ 32 ∧
    ((onEngine (testEngine 0x77 (testOp f k))).engine 0).led.excess ≤ 255 := by decide

theorem test_meets_master_update :
    (∀ op ∈ [0x10, 0x11], let o : VOp := ⟨0, 0, 15, 0, 0, 5, 0⟩
      o.f = 5 ∧ o.vd = 0 ∧ ((onEngine (testUpdate op o)).engine 0).update = true ∧ o.va = 0 ∧ o.vb.toNat < 16 ∧
      ((onEngine (testUpdate op o)).engine 0).at op o = true) ∧
    (let o : VOp := ⟨0, 15, 15, 0, 0, 5, 0⟩
     o.f = 5 ∧ o.vd = 0 ∧ ((onEngine (testUpdate 0x13 o)).engine 0).update = true ∧ o.vc = 0 ∧ o.va.toNat < 16 ∧ o.vb.toNat < 16 ∧
      ((onEngine (testUpdate 0x13 o)).engine 0).at 0x13 o = true) := by decide

theorem test_meets_float_lanes : ∀ op ∈ [0x10, 0x11, 0x12, 0x13, 0x14, 0x15, 0x16, 0x17, 0x18, 0x19, 0x1A, 0x1B, 0x1C, 0x1D, 0x1E, 0x1F,
    0x50, 0x51], ∀ f ∈ [0, 1], (testOp f).f ≤ 1 ∧ ((onEngine (testEngine op (testOp f))).engine 0).at op (testOp f) = true ∧
      (testUpdate op (testOp f)).at op (testOp f) = true ∧ (testOp f).vd.toNat + (testOp f).words ≤ 16 ∧
      (testOp f).va.toNat + (testOp f).words ≤ 16 ∧ (testOp f).vb.toNat + (testOp f).words ≤ 16 ∧
      (testOp f).vc.toNat + (testOp f).words ≤ 16 := by decide

theorem test_meets_in_window (f : Nat) (h : f = 0 ∨ f = 1) : (testUpdate 0x10 (testOp f)).inWindow (testOp f) (testOp f).words := by
  rcases h with rfl | rfl <;> intro _ <;> decide

theorem test_meets_moves : ∀ op ∈ [0x38, 0x39, 0x3B, 0x3C, 0x3D], ∀ f ∈ [0, 0x10], (testOp f).f ≤ 0x10 ∧
    ((onEngine (testEngine op (testOp f))).engine 0).update = false ∧
    ((onEngine (testEngine op (testOp f))).engine 0).at op (testOp f) = true := by decide

theorem test_meets_scaleb_cvt :
    (∀ f ∈ [0, 1], (testOp f).f ≤ 1 ∧ ((onEngine (testEngine 0x20 (testOp f))).engine 0).update = false ∧
      ((onEngine (testEngine 0x20 (testOp f))).engine 0).at 0x20 (testOp f) = true) ∧
    (∀ f ∈ [0, 6, 0xE, 0xF, 0x10], ∀ k ∈ [0x01, 0x30, 0x70], (testOp f k).f ≤ 0x10 ∧ bits (testOp f k).imm.toNat 0 5 ≤ 0x10 ∧
      ((onEngine (testEngine 0x40 (testOp f k))).engine 0).at 0x40 (testOp f k) = true ∧
      ((onEngine (testEngine 0x40 (testOp f k))).engine 0).update = false ∧
      -32768 ≤ (((onEngine (testEngine 0x40 (testOp f k))).engine 0).scalar (testOp f k).vb.toNat).toInt ∧
      (((onEngine (testEngine 0x40 (testOp f k))).engine 0).scalar (testOp f k).vb.toNat).toInt ≤ 32767) ∧
    (let o := testOp 1 0x20
     let x := { testEngine 0x40 o with s := [(4, BitVec.ofInt 32 (-32768))] }
     o.imm.toNat.testBit 5 = true ∧ (x.scalar o.vb.toNat).toInt = -32768 ∧ x.at 0x40 o = true) ∧
    (let o := testOp 1 0x01
     (testUpdate 0x40 o).update = true ∧ o.vd.toNat < 16 ∧ o.va.toNat < 16 ∧ fmtWidth o.f ≤ 32 ∧ fmtWidth (bits o.imm.toNat 0 5) ≤ 32 ∧
       (testUpdate 0x40 o).at 0x40 o = true) := by decide

theorem test_meets_compares : ∀ op ∈ [0x30, 0x31, 0x32, 0x33, 0x34, 0x35, 0x36], ∀ f ∈ [0, 0xE, 0x10], (testOp f).f ≤ 0x10 ∧
    ((onEngine (testEngine op (testOp f))).engine 0).update = false ∧
    ((onEngine (testEngine op (testOp f))).engine 0).at op (testOp f) = true := by decide

theorem test_meets_scalars : ∀ op ∈ [0xA0, 0xA1, 0xA2, 0xA3, 0xA4, 0xA5, 0xA6, 0x3A], (testOp 0x10).f ≤ 0x10 ∧
    ((onEngine (testEngine op (testOp 0x10))).engine 0).at op (testOp 0x10) = true := by decide

theorem test_meets_reductions :
    (∀ op ∈ [0x60, 0x61, 0x62], ∀ f ∈ [0, 1], (testOp f).f ≤ 1 ∧ (floatFmt (testOp f).f).isSome = true ∧
      ((onEngine (testEngine op (testOp f))).engine 0).at op (testOp f) = true) ∧
    (∀ op ∈ [0x61, 0x62, 0x63], ∀ f ∈ [0xE, 0xF, 0x10], 0xE ≤ (testOp f).f ∧ (testOp f).f ≤ 0x10 ∧
      ((onEngine (testEngine op (testOp f))).engine 0).at op (testOp f) = true) := by decide

/-- Two engines of one vector job that wait at a BAR. -/
def testBar : State :=
  { onTask { vecJobs := [{ engFirst := 0, engCount := 2 }] } with
    eng := [(0, { run := .atBar, ctx := 1 }), (1, { run := .atBar, ctx := 1 })] }

theorem test_meets_control :
    (∀ op ∈ [0x00, 0x01, 0x02, 0x04, 0x05, 0x06, 0x07, 0x08, 0x0A], ((onEngine (testEngine op (testOp 0))).engine 0).at op (testOp 0) = true) ∧
    (∀ n ∈ [0, 1], let x := ({ testEngine 0x03 (testOp 0) with loops := [(0, n)] } : Engine)
      ((onEngine x).engine 0).loops = (0, n) :: [] ∧ ((onEngine x).engine 0).at 0x03 (testOp 0) = true) := by decide

theorem test_meets_bar : (testBar.engine 1).run = .atBar ∧ (testBar.jobOfEngine 1).engCount ≤ 64 ∧
    64 * (1 / 64) + (testBar.jobOfEngine 1).engFirst ≤ 1 ∧ 1 < 64 * (1 / 64) + (testBar.jobOfEngine 1).engFirst + (testBar.jobOfEngine 1).engCount ∧
    ∀ g, g < 2 → (testBar.engine g).run = .atBar ∧ (testBar.engine g).pc = (testBar.engine 1).pc ∧
      (testBar.engine g).ctx = (testBar.engine 1).ctx ∧ (testBar.engine g).task = (testBar.engine 1).task ∧
      (testBar.engine g).job = (testBar.engine 1).job := by decide

theorem test_bar_met : (testNext (.barMet 1) testBar).engine 0 = { run := .running, ctx := 1, pc := 1 } := by decide

theorem test_meets_wait_ends :
    (let s := ({ onEngine { run := .atWait 5 3 } with ev := [(5, 3)] } : State)
     (s.engine 0).run = .atWait 5 3 ∧ 3 ≤ (s.evGet 0 5).toNat) ∧
    (let s := ({ onEngine { run := .atChunk 2 7, ctx := 1 } with rq := [(2, { held := true, ctx := 1, used := 1 })] } : State)
     (s.engine 0).run = .atChunk 2 7 ∧ (s.rqueue 0 2).held = true ∧ (s.rqueue 0 2).ctx = (s.engine 0).ctx ∧
       (s.rqueue 0 2).taken < (s.rqueue 0 2).used) ∧
    ((onEngine { run := .atFence }).engine 0).run = .atFence ∧
    (let s := ({ onEngine { run := .running, ctx := 1, sigs := [9] } with evOwn := [(9, 2)] } : State)
     (s.engine 0).sigs = 9 :: [] ∧ s.evOwner 0 9 = some (s.engine 0).ctx) ∧
    (let s := onEngine { run := .running, ctx := 1, sigs := [9] }
     (s.engine 0).sigs = 9 :: [] ∧ s.evOwner 0 9 ≠ some (s.engine 0).ctx) := by decide

/-! ### Gallery, tile buffers and jobs -/

theorem test_meets_gallery : ∀ op ∈ [0xB0, 0xB1],
    (let s := testJob (testEngine op (testOp 1))
     let x := s.engine 0
     let a := (x.scalar (testOp 1).va.toNat).toNat + bits (testOp 1).imm.toNat 0 16 * 256
     x.update = false ∧ x.at op (testOp 1) = true ∧ lanes.any (fun i => x.active (testOp 1) (BitVec.allOnes 64) i) = true ∧ a % 256 = 0 ∧
      ∀ i, i < 64 → (∃ w ∈ (s.jobOfEngine 0).windows, w.1 ≤ a + 4 * i ∧ a + 4 * i + 4 ≤ w.1 + w.2) ∧
        s.engReach 0 (a + 64 * (i / 16)) 64 = true ∧ s.poisoned (a + 64 * (i / 16)) 64 = false) ∧
    (let o := { testOp 1 with pred := 1 }
     let x := (testJob (testEngine op o)).engine 0
     x.at op o = true ∧ lanes.any (fun i => x.active o (BitVec.allOnes 64) i) = false) := by decide +kernel

theorem test_gst_gld (a : Nat) (h : a = 0x10000) :
    let s := testJob { testEngine 0xB1 ⟨0, 0, 4, 0, 0, 1, 0⟩ with v := [(256 + 63, 0x11223344)] }
    (testNext (.gst 0 ⟨0, 0, 4, 0, 0, 1, 0⟩) s).rd (a + 252) 4 = [0x44, 0x33, 0x22, 0x11] := by subst h; decide +kernel

theorem test_meets_gallery_faults :
    (∀ op ∈ [0xB0, 0xB1], ∀ imm ∈ [0x200], let s := testJob (testEngine op (testOp 1 imm))
      let x := s.engine 0
      let a := (x.scalar (testOp 1 imm).va.toNat).toNat + bits (testOp 1 imm).imm.toNat 0 16 * 256
      x.at op (testOp 1 imm) = true ∧ a % 256 = 0 ∧ x.active (testOp 1 imm) (BitVec.allOnes 64) 0 = true ∧
      ∀ w ∈ (s.jobOfEngine 0).windows, a < w.1 ∨ w.1 + w.2 < a + 4) ∧
    (∀ op ∈ [0xB0, 0xB1], let s := testJob (testEngine op (testOp 1))
      let x : Engine := { s.engine 0 with s := [(0, 0x10004)] }
      x.at op (testOp 1) = true ∧ x.active (testOp 1) (BitVec.allOnes 64) 63 = true ∧
      ((x.scalar 0).toNat + bits (testOp 1).imm.toNat 0 16 * 256) % 256 ≠ 0) ∧
    (∀ op ∈ [0xB2, 0xB3], ∀ imm ∈ [0x800], let s := testJob (testEngine op (testOp 1 imm))
      let x := s.engine 0
      let a := (x.scalar (testOp 1 imm).va.toNat).toNat + bits (testOp 1 imm).imm.toNat 0 16 * 64
      x.at op (testOp 1 imm) = true ∧ (a % 64 ≠ 0 ∨ ∀ w ∈ (s.jobOfEngine 0).windows, a < w.1 ∨ w.1 + w.2 < a + 16448)) ∧
    (∀ op ∈ [0xB2, 0xB3], let s := onTask { vecJobs := [{ windows := [(0x10000, 0x20000)] }] } { testUnits with eng := [(0, { testEngine op (testOp 1) with ctx := 1, s := [(0, 0x10000)] })] }
      (s.engine 0).at op (testOp 1) = true ∧ s.engReach 0 0x10000 16448 = false) ∧
    ((testJob (testEngine 0x09 (testOp 1))).engine 0).at 0x09 (testOp 1) = true := by decide +kernel

/-- A tile in format F32 of one row and one column. -/
def testTile : List Byte := tileImage { fmt := 1, rows := 1, cols := 1 } []

theorem test_tile_good : tileGood testTile none = true := by rw [testTile, tileGood_tileImage]; decide

theorem test_engine_reach (op : Nat) : (testJob (testEngine op (testOp 1))).engReach 0 0x10000 16448 = true := by
  show (testJob (testEngine op (testOp 1))).slotted { ctx := 1, task := some 0, wing := 0, unit := 0x100 } 0x10000 16448 = true
  exact test_reach _ _ _ _ rfl (.inl rfl) (fun _ h => List.mem_append_right _ h) (by decide)

/-- A job whose window begins with that tile. -/
def testTin : State := (testJob (testEngine 0xB2 (testOp 1))).wr 0x10000 testTile

theorem test_meets_tin_engine : (testTin.engine 0).at 0xB2 (testOp 1) = true ∧ ((testTin.engine 0).scalar 0).toNat = 0x10000 ∧
    (testTin.jobOfEngine 0).windows = [(0x10000, 0x20000)] ∧ testTin.engReach 0 0x10000 16448 = true ∧
    testTin.ringAt (0 / 64) 0x10000 false = none := by
  have h : testTin.engine 0 = (testJob (testEngine 0xB2 (testOp 1))).engine 0 := rfl
  have k : testTin.jobOfEngine 0 = (testJob (testEngine 0xB2 (testOp 1))).jobOfEngine 0 := rfl
  have r : testTin.ringAt (0 / 64) 0x10000 false = (testJob (testEngine 0xB2 (testOp 1))).ringAt (0 / 64) 0x10000 false := rfl
  have g : testTin.engReach 0 0x10000 16448 = (testJob (testEngine 0xB2 (testOp 1))).engReach 0 0x10000 16448 := rfl
  rw [h, k, r, g]
  exact ⟨by decide +kernel, by decide +kernel, by decide +kernel, test_engine_reach _, by decide +kernel⟩

theorem test_meets_tin_tile : testTin.poisoned 0x10000 16448 = false ∧ tileGood (testTin.rd 0x10000 16448) none = true := by
  have h := State.rd_wr (testJob (testEngine 0xB2 (testOp 1))) 0x10000 testTile
  rw [show testTile.length = 16448 from tileImage_length _ _] at h
  exact ⟨by simp [State.poisoned, State.wr, testTin, testJob, testUnits, onTask, State.reset, clearLines], h ▸ test_tile_good⟩

theorem test_meets_tin_unsound :
    let s := testJob (testEngine 0xB2 (testOp 1))
    (s.engine 0).at 0xB2 (testOp 1) = true ∧ s.ringAt 0 0x10000 false = none ∧ s.poisoned 0x10000 16448 = false ∧
      field (s.rd 0x10000 64) 2 2 = 0 := by decide +kernel

theorem test_meets_tout :
    let s := testJob (testEngine 0xB3 (testOp 1))
    (s.engine 0).at 0xB3 (testOp 1) = true ∧ s.ringAt 0 0x10000 true = none ∧ (0x10000 : Nat) % 64 = 0 ∧
      (∃ w ∈ (s.jobOfEngine 0).windows, w.1 ≤ 0x10000 ∧ 0x10000 + 16448 ≤ w.1 + w.2) ∧ s.engReach 0 0x10000 16448 = true :=
  ⟨by decide +kernel, by decide +kernel, by decide, by decide +kernel, test_engine_reach _⟩

theorem test_meets_tld_tst :
    (let s := testJob { testEngine 0xB4 (testOp 1) with tb := [(0, { filled := true, fmt := 1 })] }
     let x := { s.engine 0 with s := ([] : Tbl W32) }
     x.at 0xB4 (testOp 1) = true ∧ (Tbl.get ({} : TileBuf) x.tb ((testOp 1).vb.toNat % 4)).filled = true ∧
      ∀ i, i < 64 → elemFits 1 ((x.scalar 0).toNat + i) = true) ∧
    (let s := testJob { testEngine 0xB5 (testOp 1) with tb := [(0, { filled := true, fmt := 1 })] }
     let x := s.engine 0
     x.at 0xB5 (testOp 1) = true ∧ lanes.any (fun i => x.active (testOp 1) (BitVec.allOnes 64) i) = true ∧
      (nth {} (s.jobOfEngine 0).slots 0).fmt = 1 ∧ (∀ i, i < 64 → elemFits 1 ((x.scalar 12).toNat + i) = true) ∧
      s.smEnt x.ctx (nth {} (s.jobOfEngine 0).slots 0).sm = none) := by decide +kernel

theorem test_meets_vector_job_start :
    let s := onTask { vecJobs := [{ engCount := 2, progLen := 1 }] } testUnits (testPairs 0x100 ++ testPairs 0x101)
    let x := nth {} (s.task 1 0).vecJobs 0
    s.running 1 0 = true ∧ 0 < (s.task 1 0).vecJobs.length ∧ (s.rt 1 0).jobs.contains 0 = false ∧ s.eng = [] ∧
      (∀ r, r < x.engCount → (s.engine (64 * 0 + x.engFirst + r)).run = .idle ∧ s.hasEngine (64 * 0 + x.engFirst + r) = true) ∧
      s.poisoned x.progBase (8 * x.progLen) = false ∧ s.poisoned x.argBase 128 = false ∧
      ∀ r, r < x.engCount → let q := s.asker 1 0 (0x100 + (64 * 0 + x.engFirst + r))
        s.slotted q x.progBase (8 * x.progLen) = true ∧ s.slotted q x.argBase 128 = true := by decide +kernel

theorem test_meets_vector_errors_and_ends :
    (testUnits.hasEngine 255 = true ∧ (testUnits.engine 255).run = .idle) ∧
    ((testJob { run := .running }).hasEngine 0 = true ∧ ((testJob { run := .running }).engine 0).run ≠ .idle) ∧
    (let s := testJob { run := .ended }
     s.running 1 0 = true ∧ 0 < (s.task 1 0).vecJobs.length ∧ (nth {} (s.task 1 0).vecJobs 0).chunk = none ∧ (s.task 1 0).role = .plain ∧
      (nth {} (s.task 1 0).vecJobs 0).engCount = 1 ∧ (s.engine 0).run = .ended ∧ (s.engine 0).ctx = 1 ∧ (s.engine 0).task = 0 ∧
      (s.engine 0).job = 0 ∧ (s.engine 0).sigs = []) := by decide

/-- An engine of an update job of 65 records, in stack 0. -/
def testUpd (x : Engine) : State :=
  { onTask { vecJobs := [{ mode := 1, recordBase := nearBase, gradBase := nearBase + 0x10000, recordCount := 65 }] } testUnits
      (testSlots [.stackPc 0 0, .stackPc 0 1, .stackPc 0 2]) with
    eng := [(0, { x with ctx := 1, update := true })] }

theorem test_meets_update :
    (let s := testUpd (testUpdate 0xC0 (testOp 1))
     (s.engine 0).update = true ∧ (testOp 1).vd.toNat < 16 ∧ (s.engine 0).at 0xC0 (testOp 1) = true) ∧
    (let s := testUpd { run := .running, batch := 1 }
     (s.engine 0).update = true ∧ (s.engine 0).run = .running ∧ (s.engine 0).loaded = false ∧
      (s.jobOfEngine 0).sets (s.engine 0).rank ≤ (s.engine 0).batch) := by decide

theorem test_meets_update_load :
    let s := testUpd { run := .running }
    let x := s.engine 0
    let j := s.jobOfEngine 0
    x.update = true ∧ x.run = .running ∧ x.loaded = false ∧ x.batch < j.sets x.rank ∧
      (∀ b, b < 4 → let n := x.rank + j.engCount * (4 * x.batch + b)
        s.engReach 0 (j.recordBase + 1024 * n) (16 * min 64 (j.recordCount - 64 * n)) = true ∧
        s.engReach 0 (j.gradBase + 512 * n) (8 * min 64 (j.recordCount - 64 * n)) = true) ∧
      ∀ n, n < 65 → s.allows x.ctx (s.rt x.ctx x.task).epochOld false (j.recordBase + 16 * n) 16 = true ∧
        s.poisoned (j.recordBase + 16 * n) 16 = false ∧
        s.allows x.ctx (s.rt x.ctx x.task).epochOld false (j.gradBase + 8 * n) 8 = true ∧ s.poisoned (j.gradBase + 8 * n) 8 = false := by
  decide +kernel

theorem test_meets_record_write :
    let s := testUpd { run := .running, loaded := true }
    let x := s.engine 0
    let j := s.jobOfEngine 0
    x.update = true ∧ x.run = .running ∧ x.loaded = true ∧ x.prog.length ≤ x.pc ∧ field (s.groupBytes x.ctx j.group) 4 1 % 32 ≤ 0x10 ∧
      1 ≤ j.engCount ∧ (∀ b, b < 4 → let n := x.rank + j.engCount * (4 * x.batch + b)
        s.engReach 0 (j.recordBase + 1024 * n) (16 * min 64 (j.recordCount - 64 * n)) = true) ∧ ∀ n, n < 65 → s.allows x.ctx (s.rt x.ctx x.task).epochOld true (j.recordBase + 16 * n) 16 = true := by decide +kernel

/-! ### The exact path and the arrays -/

theorem test_meets_exact : valueOf 7 0x38 = .fin ⟨false, 8, -3⟩ ∧ (7 ∈ [6, 7, 8, 9, 0xA, 0xC, 0xD]) ∧ 0x38 < 2 ^ fmtWidth 7 ∧
    valueOf 0xD 8 = .fin ⟨true, 8, 0⟩ ∧ (0xD ∈ [6, 7, 8, 9, 0xA, 0xC, 0xD]) ∧ 8 < 2 ^ fmtWidth 0xD := by decide

theorem test_meets_exact_order : ([(.nan, .inf false), (.inf true, .nan)] : List (XVal × XVal)).Perm [(.inf true, .nan), (.nan, .inf false)] :=
  List.Perm.swap _ _ _

theorem test_meets_chain_records :
    (let st : ChainSt := { x := -2 ^ 127, sp := .nan };
     -2 ^ 127 ≤ st.x ∧ st.x < 2 ^ 127 ∧ st.s = {} ∧ st.ovf = false ∧ st.anchor = 0 ∧ st.sigLo = 0 ∧ st.sigHi = 0) ∧
    (let st : ChainSt := { x := 2 ^ 127 - 1, anchor := -2 ^ 15, sigLo := -2 ^ 15, sigHi := 2 ^ 15 - 1, seen := true };
     -2 ^ 127 ≤ st.x ∧ st.x < 2 ^ 127 ∧ st.s = {} ∧ st.ovf = false ∧ ∀ v ∈ [st.anchor, st.sigLo, st.sigHi], -2 ^ 15 ≤ v ∧ v < 2 ^ 15) ∧
    (let l : List ChainSt := [{ x := -1 }, { x := 2 ^ 87 }]
     l.length ≤ 4096 ∧ (l.map (fun st => st.x.natAbs)).sum < 2 ^ 88) := by decide

/-- A job of one element whose operands are the F32 tile of one row and one column. -/
def testMaJob : ArrayJob :=
  { fmtS := 1, fmtM := 1, fmtO := 1, nCount := 1, mCount := 1, kEnd := 1, kTotal := 1, statBase := 0x10000, movBase := 0x10000,
    outBase := 0x20000, outRows := 1, outCols := 1, tensorCols := 1 }

/-- Array 0 at work on a job for context 1, with all its ports and the gallery banks of the operands. -/
def testMa (x : ArrayU) (j : ArrayJob := testMaJob) : State :=
  { onTask { arrayJobs := [j] } testUnits (testSlots ((List.range 41).map (.arrayPort 0)) ++ testPairs 0) with
    arr := [(0, { x with busy := true, ctx := 1 })] }

theorem test_meets_array_start :
    (let s := testMa {}
     (s.array 0).busy = true ∧ (s.array 0).started = false ∧ s.running 1 0 = true ∧ 0 < (s.task 1 0).arrayJobs.length ∧
      (nth ({} : ArrayJob) (s.task 1 0).arrayJobs 0).array = 0 % 2 ∧ (s.array 0).doneJobs.contains 0 = false ∧ s.starts = [] ∧
      ¬ ((nth ({} : ArrayJob) (s.task 1 0).arrayJobs 0).role = 2)) ∧
    (let s := ({ testMa {} with starts := [{ queue := [(0, 5), (1, 6)] }] } : State)
     s.starts = { queue := (0, 5) :: [(1, 6)] } :: [] ∧ (s.array 0).busy = true ∧ s.running 1 0 = true) ∧
    (let s := { testMa {} { testMaJob with role := 2, group := 3 } with
       ctx := [(1, { prog := some { cert := { tasks := [{ arrayJobs := [{ testMaJob with role := 2, group := 3 }] }] },
                                    tasks := [(0, { st := .running })], frozen := [3] } })] }
     let j := nth ({} : ArrayJob) (s.task 1 0).arrayJobs 0
     s.running 1 0 = true ∧ j.role = 2 ∧ j.group ≠ 0xFFFF ∧ ((s.prog 1).getD {}).frozen.contains j.group = true) := by decide

theorem test_tile_good_fmt : tileGood testTile (some 1) = true := by rw [testTile, tileGood_tileImage_fmt]; decide

theorem test_tile_read (s : State) : (s.wr 0x10000 testTile).rd 0x10000 16448 = testTile := by
  have := State.rd_wr s 0x10000 testTile
  rwa [show testTile.length = 16448 from tileImage_length _ _] at this

/-- The operand tiles of the job. -/
theorem test_operand_tiles (x : ArrayU) : ((testMa x).wr 0x10000 testTile).opTiles 0 0x10000 1 = [⟨0x10000, testTile, none⟩] := by
  have h := test_tile_read (testMa x)
  have r : ((testMa x).wr 0x10000 testTile).ringAt 0 0x10000 false = none := rfl
  simp [State.opTiles, r, tileBytes, h, List.range_succ]

/-- A load with its tile in the gallery, and one whose place holds no tile. -/
theorem test_meets_array_load :
    (let s := testMa { load := some { job := 0, pass := 0 } }
     let j := nth ({} : ArrayJob) (s.task 1 0).arrayJobs 0
     (s.array 0).load = some { job := 0, pass := 0 } ∧ (0 < j.statTiles) ∧ s.ringAt 0 j.statBase false = none ∧ s.portSlot 0 40 = true ∧
      s.arrayReach 0 0x10000 16448 = true ∧ s.poisoned 0x10000 16448 = false ∧ field (s.rd 0x10000 64) 2 2 = 0) ∧
    (let s := (testMa { load := some { job := 0, pass := 0 } }).wr 0x10000 testTile
     s.arrayReach 0 0x10000 16448 = true ∧ s.portSlot 0 40 = true ∧ s.ringAt 0 0x10000 false = none ∧ s.poisoned 0x10000 16448 = false ∧
      testMaJob.tileOk 1 true ⟨0x10000, s.rd 0x10000 16448, none⟩ = true) := by
  refine ⟨⟨by decide, by decide, by decide, by decide, test_reach _ _ _ _ rfl (.inl rfl) (fun _ h => List.mem_append_right _ h) (by decide), by decide, by decide +kernel⟩, ?_⟩
  have h := test_tile_read (testMa { load := some { job := 0, pass := 0 } })
  refine ⟨test_reach _ _ _ _ rfl (.inl rfl) (fun _ h => List.mem_append_right _ h) (by decide), ?_, rfl, ?_, ?_⟩
  · show (testMa { load := some { job := 0, pass := 0 } }).portSlot 0 40 = true
    decide
  · simp [State.poisoned, State.wr, testMa, testUnits, onTask, State.reset, clearLines]
  · rw [h, ArrayJob.tileOk, test_tile_good_fmt]
    decide

/-- A load bus without a slot moves nothing (spec/01 R18), so that the load stays where it is. -/
theorem test_load_waits_for_its_port :
    let s := { testMa { load := some { job := 0, pass := 0 } } with
      ctx := [(1, { prog := some { cert := { tasks := [{ arrayJobs := [testMaJob] }], allots := testPairs 0 }, tasks := [(0, { st := .running })] } })] }
    s.portSlot 0 40 = false ∧ (s.takeTiles 0 1).1 = s := by decide +kernel

/-- A job of a frozen group that was skipped, with the stream that it alone would read; and a load that passes a known tile by. -/
theorem test_meets_idle_ring :
    (let s := ({ testMa { doneJobs := [0] } { testMaJob with role := 2, group := 3 } with
       ctx := [(1, { prog := some { cert := { tasks := [{ arrayJobs := [{ testMaJob with role := 2, group := 3 }] }] },
                                    tasks := [(0, { st := .running })], frozen := [3] } })]
       strm := [(0, { held := true, ctx := 1, ent := { bufBase := 0x10000 }, slots := [.empty, .full 1], listCount := 5, next := 2 })] } : State)
     s.idleRing 1 0 (s.stream 0) = true) ∧
    ((testMa {}).task 1 0).arrayJobs.all (fun i => !(testMa {}).frozenJob 1 i) = true ∧
    (let s := testMa { load := some { job := 0, pass := 0, next := 0, seen := [(1, 3)] } } { testMaJob with statTiles := 2 }
     let l : StatLoad := { job := 0, pass := 0, next := 0, seen := [(1, 3)] }
     (s.array 0).load = some l ∧ l.next < (s.jobAt 0 0).statTiles ∧ l.seen[l.next]? = some (1, 3) ∧ (s.jobAt 0 0).passHi l.pass ≤ 1) := by decide

/-- While a pass waits for its end the ports go on (R103). -/
theorem test_ports_go_on :
    let s := testMa { started := true, loaded := true, vec := 1, skidOut := List.replicate 16 2 }
    (s.jobOf 0).blockRows (s.array 0).block ≤ (s.array 0).vec ∧
      nth 0 ((testNext (.arrayIssue 0 0 1) s).array 0).skidOut 0 = 1 := by decide +kernel

theorem test_meets_array_issue :
    let x : ArrayU := { started := true, loaded := true, skidIn := List.replicate 24 1 }
    let s := testMa x { testMaJob with movTiles := 0 }
    let p := (s.ports 0 1 1).loadOn 0
    (s.array 0).started = true ∧ s.running 1 0 = true ∧ (s.array 0).ramp = false ∧ (s.array 0).lastOut = false ∧
      (s.array 0).vec < (s.jobOf 0).blockRows (s.array 0).block ∧ (p.array 0).started = true ∧ (p.array 0).ramp = false ∧
      (p.array 0).loaded = true ∧ (∀ g ∈ (s.jobOf 0).rowGroups 0, 1 ≤ nth 0 (p.array 0).skidIn g) ∧
      (p.issueTiles 0) = ([], none) ∧ p.ringAt 0 (s.jobOf 0).movBase false = none ∧ p.handRange 0 = none ∧
      (∀ g ∈ (s.jobOf 0).colGroups, nth 0 (p.array 0).skidOut g < 8) ∧ s.portSlot 0 0 = true ∧ s.portSlot 0 24 = true ∧
      nth 0 (p.array 0).skidIn 0 = 2 := by
  decide +kernel

theorem test_meets_array_stall :
    (let p := (testMa { started := true, loaded := true }).ports 0 0 0
     ¬ ∀ g ∈ (p.jobOf 0).rowGroups 0, 1 ≤ nth 0 (p.array 0).skidIn g) ∧
    (let s := testMa { started := true, loaded := true, skidIn := List.replicate 24 1, skidOut := List.replicate 16 8 } { testMaJob with movTiles := 0 }
     let p := s.ports 0 0 0
     (∀ g ∈ (s.jobOf 0).rowGroups 0, 1 ≤ nth 0 (p.array 0).skidIn g) ∧ (p.issueTiles 0).2 = none ∧
      ¬ ∀ g ∈ (s.jobOf 0).colGroups, nth 0 (p.array 0).skidOut g < 8) ∧
    (let s := ({ testMa { started := true, loaded := true, skidIn := List.replicate 24 1 } with
       strm := [(0, { held := true, ctx := 1, ent := { bufBase := 0x10000 }, slots := [.empty, .empty] })] } : State)
     let p := s.ports 0 0 0
     (p.issueTiles 0) = ([], none) ∧ p.ringAt 0 0x10000 false = some (0, 0) ∧ p.issueHere 0 [] = false) ∧
    (let s := testMa { started := true, loaded := true, skidIn := List.replicate 24 1 }
     let p := s.ports 0 0 0
     p.arrayReach 0 0x10000 16448 = true ∧ p.poisoned 0x10000 16448 = false ∧ field (p.rd 0x10000 64) 2 2 = 0) :=
  ⟨by decide, by decide +kernel, by decide +kernel, test_reach _ _ _ _ rfl (.inl rfl) (fun _ h => List.mem_append_right _ h) (by decide), by decide, by decide +kernel⟩

theorem test_meets_array_pass :
    (let s := testMa { started := true, vec := 1 } { testMaJob with form := 3, kEnd := 97, kTotal := 97 }
     let x := s.array 0
     x.started = true ∧ s.running 1 0 = true ∧ x.lastOut = false ∧ (s.jobOf 0).blockRows x.block ≤ x.vec ∧
       x.pass + 1 < (s.jobOf 0).passes ∧ x.block < (s.jobOf 0).blocks ∧ x.force = false) ∧
    (let s := testMa { started := true, vec := 1, force := true } { testMaJob with form := 3, kEnd := 97, kTotal := 97 }
     (s.array 0).force = true ∧ (s.array 0).pass + 1 < (s.jobOf 0).passes) ∧
    (let s := testMa { started := true, load := some { job := 0, pass := 0, done := true } }
     (s.array 0).load = some { job := 0, pass := 0, done := true } ∧ (s.array 0).job = 0 ∧ (s.array 0).pass = 0 ∧ (s.array 0).loaded = false) ∧
    (let s := testMa { started := true, vec := 1 }
     let x := s.array 0
     x.started = true ∧ x.lastOut = false ∧ (s.jobOf 0).blockRows x.block ≤ x.vec ∧ (s.jobOf 0).passes ≤ x.pass + 1 ∧
       (s.jobOf 0).blocks ≤ x.block + 1) ∧
    (let s := testMa { started := true, lastOut := true }
     (s.array 0).started = true ∧ (s.array 0).lastOut = true) ∧
    (({ testMaJob with chainOut := true } : ArrayJob).chainOut = true ∧ 0 < testMaJob.nCount ∧ testMaJob.nCount ≤ 6144) := by decide

/-- ARRAY_JOB_END frees the array for its next job. -/
theorem test_array_job_end : (testNext (.arrayJobEnd 0) (testMa { started := true, lastOut := true })).array 0 =
    { busy := true, ctx := 1, doneJobs := [0] } := by decide

theorem test_meets_array_gating :
    (let s := ({ testUnits with arr := [(0, { groupsOn := 0xFFFF, cfg := some (0, 0xFFF) })] } : State)
     s.hasArray 0 = true ∧ ((s.array 0).cfg.getD (0, 0x05E)).2 ≠ 0 ∧ (s.array 0).groupsOn ≠ 0) ∧
    ((testMa { ramp := true, groupsOn := 0x3FFF }).array 0).groupsOn = BitVec.ofNat 16 (2 ^ 14 - 1) ∧
    ((testMa { ramp := true, groupsOn := 0x7FFF }).array 0).ramp = true ∧
    (let s := testMa { started := true }
     s.hasArray 0 = true ∧ (s.array 0).started = true ∧ s.running 1 0 = true) ∧
    (testUnits.hasArray 7 = true ∧ (testUnits.array 7).started = false) := by decide

/-! ### Rings, descriptors and contexts -/

/-- Context 1 enabled, with an open program state, the host running, and READY. -/
def testCtx (st : Nat := 1) (x : Context := {}) : State :=
  ((({ testUnits with pwr := { testUnits.pwr with fpll := true, computeOn := true }, ctx := [(1, x)] } : State).setFld RegF.ctxCtlEnable 1 1).setFld
    RegF.ctxStsState st 1).setFld RegF.glbStatusReady 1

theorem test_meets_doorbell :
    (let s := testCtx
     s.hostOn = true ∧ s.fld RegF.ctxCtlEnable 1 = 1 ∧ s.cstate 1 ≠ 5 ∧ s.cstate 1 ≠ 0 ∧ s.fld RegF.ctxStsRingErr 1 = 0 ∧
      ¬ dist32 (s.fld RegF.ctxCqStsCqHead 1) (s.fld RegF.ctxCqStsCqTail 1) < dist32 (s.fld RegF.ctxCqStsCqHead 1) 0 ∧
      ¬ s.sqLen 1 < dist32 (s.fld RegF.ctxStsSqHead 1) 64 ∧ s.sqLen 1 < dist32 (s.fld RegF.ctxStsSqHead 1) 65 ∧
      dist32 (s.fld RegF.ctxCqStsCqHead 1) (s.fld RegF.ctxCqStsCqTail 1) < dist32 (s.fld RegF.ctxCqStsCqHead 1) 1) ∧
    (let s := testCtx.setFld RegF.ctxStsRingErr 1 1
     s.fld RegF.ctxStsRingErr 1 = 1 ∧ s.fld RegF.ctxCtlEnable 1 = 1 ∧ s.cstate 1 = 1) ∧
    (testUnits.fld RegF.ctxCtlEnable 1 ≠ 1 ∧ (testCtx 5).cstate 1 = 5 ∧ testCtx.fld RegF.ctxCfgFunc 1 ≠ 1) := by decide

/-- A descriptor of an opcode, with nothing else set. -/
def testDesc (op : Nat) (st : DescState := .waiting) : Desc := { idx := 0, bytes := leBytes 64 op, st := st }

def testWaiting (op : Nat) (st : Nat := 1) : State := testCtx st { descs := [testDesc op] }

theorem test_meets_can_start : ∀ op ∈ [0x00, 0x01, 0x02, 0x03, 0x05, 0x10, 0x11, 0x12, 0x20, 0x21, 0x22], (testWaiting op).canStart 1 0 op = true := by
  decide

theorem test_meets_finish : (testWaiting 0).desc 1 0 = some (testDesc 0) ∧ (testDesc 0).st ≠ .done ∧ ((testWaiting 0).cx 1).dropRecs = false := by
  decide

theorem test_meets_fetch : let s := testCtx 1 { sqTail := 1 }
    s.hostOn = true ∧ s.cstate 1 ≠ 0 ∧ s.cstate 1 ≠ 5 ∧ s.fld RegF.ctxStsRingErr 1 ≠ 1 ∧ s.fld RegF.ctxStsSqHead 1 ≠ (s.cx 1).sqTail ∧
      s.holdFull 1 = false := by decide

/-- The same with a program admitted. -/
def testAdmitted (op : Nat) (st : DescState := .waiting) : State :=
  testCtx 3 { descs := [testDesc op st], prog := some { cert := { entries := [{ tasks := [], args := 0x10000 }] } } }

/-- The wings of a context and the owner of their present slots. -/
def testInSlot (s : State) : State := ({ s with rota := [(0, { rota := { slots := [{ owner := some 1 }] } })] } : State).setFld RegF.ctxCfgWings 1 1

/-- The same with a host-copy share on stack 0 (spec/15 R407). -/
def testShare : Prog := { cert := { allots := [{ res := .hostShareStack 0, slot := 8, frame := 128 }] } }

theorem test_meets_run :
    (((testAdmitted 3).setFld RegF.ctxCfgWings 1 1).inSlot 1 = false ∧ (testInSlot (testAdmitted 3)).inSlot 1 = true ∧ (testInSlot (testAdmitted 3)).canStart 1 0 3 = true) ∧
    ((testAdmitted 3).canStart 1 0 3 = true ∧ ((testAdmitted 3).prog 1).isSome = true ∧
      (((testAdmitted 3).cert 1).entries[field (testDesc 3).bytes 8 2]?).isSome = true) ∧
    ((testWaiting 3).canStart 1 0 3 = true ∧ (testWaiting 3).prog 1 = none) ∧
    (let s := testCtx 3 { descs := [testDesc 3], prog := some {} }
     s.canStart 1 0 3 = true ∧ (s.cert 1).entries[field (testDesc 3).bytes 8 2]? = none) ∧
    ((testDesc 4).st = .waiting ∧ (testDesc 4).opcode = 4) := by decide

def testLoadDesc (opened : Nat) : Desc := { idx := 0, bytes := leBytes 16 1 ++ leBytes 4 64 ++ leBytes 4 0 ++ leBytes 8 nearBase ++ leBytes 32 opened }

theorem test_meets_load :
    (let s := testInSlot (testCtx 1 { descs := [testLoadDesc 0] })
     s.canStart 1 0 1 = true ∧ s.prog 1 = none ∧ s.inSlot 1 = true ∧ homeOf (field (testLoadDesc 0).bytes 24 8) = .near 0 ∧
      s.reach 1 (field (testLoadDesc 0).bytes 24 8) (field (testLoadDesc 0).bytes 16 4) = true ∧ field (testLoadDesc 0).bytes 32 1 ≠ 1) ∧
    (let s := (testInSlot (testCtx 1 { descs := [testLoadDesc 1] })).setFld RegF.ctxCfgOpenOk 0 1
     s.canStart 1 0 1 = true ∧ s.prog 1 = none ∧ s.inSlot 1 = true ∧ field (testLoadDesc 1).bytes 32 1 = 1 ∧
      ¬ (s.fld RegF.ctxCfgFunc 1 = 0 ∧ s.fld RegF.ctxCfgOpenOk 1 = 1)) ∧
    ((testAdmitted 1).canStart 1 0 1 = true ∧ (testAdmitted 1).prog 1 ≠ none) := by decide

/-- A LOAD under way. -/
def testLoading (k : Cert) (len : Nat) : State := testInSlot (testCtx 2
  { descs := [{ idx := 0, bytes := leBytes 16 1 ++ leBytes 48 len, st := .started }], loading := some { cert := k } })

theorem test_meets_admission :
    (let s := testLoading { headerOk := false } 64
     (s.startedOf 1 1).isSome = true ∧ (s.cx 1).loading = some { cert := { headerOk := false } } ∧ s.inSlot 1 = true ∧ s.cstate 1 = 2 ∧
      (({ headerOk := false } : Cert).verdict s 1 64 false).isSome = true) ∧
    (let k : Cert := { smTable := some nearBase, catTable := some (nearBase + 0x10000) }
     let s := testLoading k 64
     (s.startedOf 1 1).isSome = true ∧ s.cstate 1 = 2 ∧ k.verdict s 1 64 false = none) := by decide

/-- A product in E4M3 with an F32 output. -/
def testProduct : ArrayJob :=
  { fmtS := 7, fmtM := 7, fmtO := 1, nCount := 1, mCount := 1, kEnd := 1, kTotal := 1, statBase := 0x10000, movBase := 0x14040,
    outBase := 0x20000, outRows := 1, outCols := 1, tensorCols := 1, tensorRows := 1 }

/-- A vector job of two engines whose program is one instruction. -/
def testVec : VecJob :=
  { windows := [(0x10000, 0x20000)], slots := List.replicate 4 { fmt := 1 }, engCount := 2, progBase := 0x28000, argBase := 0x29000,
    prog := [BitVec.ofNat 64 (2 ^ 56)] }

/-- A certificate of a product and a vector job after it. -/
def testCert (j : ArrayJob) (v : VecJob := testVec) : Cert :=
  { smTable := some nearBase, catTable := some (nearBase + 0x10000),
    tasks := [{ arrayJobs := [j], windows := [(0x10000, 0x20000)] }, { deps := [0], vecJobs := [v] }],
    lists := [[{ task := 0, arrays := 1 }, { task := 1, groups := 1 }], [], [], []], entries := [{ tasks := [0, 1], args := 0x2A000 }],
    allots := testSlots [.arrayPort 0 0, .arrayPort 0 24] }

/-- What admission says of a certificate of 64 bytes. -/
def testVerdict (k : Cert) : Option Bad := k.verdict (testLoading k 64) 1 64 false

/-- The certificate is admitted; not with a gradient whose format is not paired with its operands' (spec/02 R46), with an output range that leaves
the windows (spec/12 R460), with a slot in E8M39 (spec/02 R32), or with an engine outside its groups (spec/08 R242). -/
theorem test_admitted : testVerdict (testCert testProduct) = none := by decide +kernel

theorem test_rejected : testVerdict (testCert { testProduct with role := 1 }) = some (6, 0) ∧
    testVerdict (testCert { testProduct with outBase := 0x2C000 }) = some (7, 0) ∧
    testVerdict (testCert testProduct { testVec with slots := [{ fmt := 5 }] }) = some (6, 1) ∧
    testVerdict (testCert testProduct { testVec with engFirst := 7 }) = some (7, 1) := by decide +kernel

theorem test_meets_unload :
    ((testAdmitted 2).canStart 1 0 2 = true ∧ (testAdmitted 2).prog 1 ≠ none) ∧
    ((testWaiting 2).canStart 1 0 2 = true ∧ (testWaiting 2).prog 1 = none) ∧
    (let s := testCtx 4 { unloading := some 0 }
     (s.cx 1).unloading = some 0 ∧ s.cstate 1 = 4) := by decide

theorem test_meets_copy :
    (let s := testInSlot (testAdmitted 5)
     s.canStart 1 0 5 = true ∧ s.prog 1 ≠ none ∧ s.inSlot 1 = true) ∧
    ((testWaiting 5).canStart 1 0 5 = true ∧ (testWaiting 5).prog 1 = none) ∧
    (let d : Desc := { idx := 0, bytes := leBytes 16 5 ++ leBytes 8 nearBase ++ leBytes 40 64, st := .started }
     let s := testInSlot (testCtx 3 { descs := [d] })
     let r := testInSlot (testCtx 3 { descs := [d], prog := some testShare })
     d.st = .started ∧ d.opcode = 5 ∧ s.inSlot 1 = true ∧ (s.rangeReach 1 d.epochOld (field d.bytes 28 1 == 0) (field d.bytes 16 8)
       (field d.bytes 24 4)).2 = none ∧ s.hostShares 1 nearBase 64 = false ∧
     r.inSlot 1 = true ∧ r.rangeReach 1 d.epochOld (field d.bytes 28 1 == 0) (field d.bytes 16 8) (field d.bytes 24 4) = (64, none) ∧
       r.hostShares 1 nearBase 64 = true) ∧
    (let d : Desc := { idx := 0, bytes := leBytes 16 5 ++ leBytes 8 0x20000000 ++ leBytes 40 64, st := .started }
     (testInSlot (testCtx 3 { descs := [d] })).rangeReach 1 d.epochOld (field d.bytes 28 1 == 0) (field d.bytes 16 8) (field d.bytes 24 4) ≠
       (64, none)) := by decide

def testRec : CRec := { tag := 7, status := .ok, opcode := 0 }

theorem test_meets_records :
    (let s := testCtx 1 { recs := [testRec] }
     (s.cx 1).recs = testRec :: [] ∧ s.cqRingFull 1 = false ∧ s.cstate 1 ≠ 0) ∧
    ((testCtx 1 { irqArmed := true }).cx 1).irqArmed = true ∧
    (let s := ({ testCtx with msixOpen := [(0, 0)] } : State).setFld RegF.ctxIrqIrqEn 1 1
     s.fld RegF.ctxIrqIrqEn 1 = 1 ∧ s.fld RegF.ctxIrqVector 1 < 2048 ∧ (s.fld RegF.ctxCfgFunc 1, s.fld RegF.ctxIrqVector 1) ∈ s.msixOpen) ∧
    (let s := testCtx.setFld RegF.ctxIrqIrqEn 1 1
     s.fld RegF.ctxIrqIrqEn 1 = 1 ∧ (s.fld RegF.ctxCfgFunc 1, s.fld RegF.ctxIrqVector 1) ∉ s.msixOpen) ∧
    (let s := ((testCtx.setFld RegF.ctxIrqIrqEn 1 1).setFld RegF.ctxCfgFunc 1 1).setFld RegF.ctxIrqVector 256 1
     s.fld RegF.ctxIrqIrqEn 1 = 1 ∧ s.fld RegF.ctxCfgFunc 1 ≠ 0 ∧ 256 ≤ s.fld RegF.ctxIrqVector 1) ∧ (63 ≤ 63 ∧ 255 < 256 ∧ 2047 < 2048) := by
  decide

theorem test_meets_context_enable :
    (let s := ((((testCtx 0).setFld RegF.ctxCtlEnable 0 1).setFld RegF.ctxSqBase 1 1).setFld RegF.ctxCqBase 1 1).setFld RegF.ctxCfgWings 1 1
     s.ready = true ∧ s.fld RegF.ctxCtlEnable 1 = 0 ∧ ¬ (10 < s.fld RegF.ctxSqOrder 1 ∨ 10 < s.fld RegF.ctxCqOrder 1 ∨ s.fld RegF.ctxSqBase 1 = 0 ∨
       s.fld RegF.ctxCqBase 1 = 0 ∨ (∀ w, w < 4 → (s.fld RegF.ctxCfgWings 1).testBit w = false) ∨
       (∃ w, w < 4 ∧ (s.fld RegF.ctxCfgWings 1).testBit w = true ∧ s.hasWing w = false) ∨ s.cstate 1 = 5)) ∧
    (let s := (testCtx 0).setFld RegF.ctxCtlEnable 0 1
     s.ready = true ∧ s.fld RegF.ctxCtlEnable 1 = 0 ∧ s.fld RegF.ctxSqBase 1 = 0) ∧
    (testCtx.fld RegF.ctxCtlEnable 1 = 1) ∧
    (let s := testCtx 5
     s.cstate 1 = 5 ∧ s.seqs = [] ∧ (s.cx 1).recs = []) ∧
    (testCtx.cstate 1 ≠ 0 ∧ testCtx.cstate 1 ≠ 5) := by decide

/-- A VF sees a context by its VF_SLOT, and of two with one VF_SLOT the lower-numbered (spec/12 R333). -/
theorem test_meets_vf_view : let s := (testCtx.setFld RegF.ctxCfgFunc 1 1).setFld RegF.ctxCfgVfSlot 255 1
    let u := (s.setFld RegF.ctxCfgFunc 1 0).setFld RegF.ctxCfgVfSlot 255 0
    s.vfContext 1 255 = some 1 ∧ s.vfContext 1 254 = none ∧ s.vfContext 2 255 = none ∧ u.vfContext 1 255 = some 0 ∧
      u.vfContext 1 (u.fld RegF.ctxCfgVfSlot 1) ≠ some 1 := by decide

/-- The place of a done descriptor is taken by the next of its index (spec/12 R335). -/
theorem test_fetch_reuses : let s := testCtx 1 { sqTail := 1, descs := [testDesc 0x10 .done] }
    ((testNext (.descriptorFetch 1) s).cx 1).descs.map (fun d => (d.idx, d.opcode, decide (d.st = .done))) = [(0, 0, false)] := by decide

/-- Reason 0x0B comes after every check with a lower reason (spec/12 R461). -/
theorem test_open_last : (testCert testProduct).verdict (testLoading {} 64) 1 64 true = some (0x0B, 32) ∧
    (testCert { testProduct with role := 1 }).verdict (testLoading {} 64) 1 64 true = some (6, 0) := by decide +kernel

/-- A RUN of one task that runs and one that does not, with an ABORT behind it. -/
def testRun : State :=
  testCtx 3 { descs := [testDesc 3 .started, { testDesc 4 with idx := 1 }, { testDesc 0x10 with idx := 2 }],
              prog := some { cert := { tasks := [{}, {}], entries := [{ tasks := [0, 1], args := 0x10000 }] }, run := some ⟨0, 0, [], 0⟩,
                             tasks := [(0, { st := .running, inRun := true }), (1, { inRun := true })] } }

theorem test_meets_context_abort :
    (let s := testRun
     (s.prog 1).bind (fun p => p.run) = some ⟨0, 0, [], 0⟩ ∧ (∃ d ∈ s.earlier 1 1, d.idx = 0) ∧ (∀ d ∈ s.earlier 1 0, d.idx ≠ 0) ∧
       (s.runTasks 1).filter (fun t => (s.rt 1 t).st.live) = [0] ∧ (testWaiting 0).prog 1 = none) ∧
    (∀ op ∈ [0x01, 0x03, 0x05, 0x10, 0x11, 0x12], (testDesc op .started).opcode = op ∧ (testDesc op).st = .waiting) ∧
    (let s := testRun
     let u := s.abortTask 1 0 .revoked 9
     ((u.prog 1).bind (fun p => p.run)).isSome = true) := by decide

/-- The RUN ends with REVOKED and the program stays; what was fetched after the ABORT waits on (spec/12 R349). -/
theorem test_context_abort : let t := testRun.contextAbort 1 (some 1) .revoked 9
    (t.cx 1).recs.map (fun r => (r.status, r.opcode, r.detail)) = [(.revoked, 3, 9)] ∧ (t.prog 1).isSome = true ∧
      (t.cx 1).descs.map (fun d => d.st) = [.done, .waiting, .waiting] ∧ (t.rt 1 0).st = .aborted ∧ (t.rt 1 1).inRun = false := by decide +kernel
/-! ### Protection, set-up, rota, scale commands and counters -/

theorem test_meets_protection :
    (let s := { testCtx with protStage := [(5, ⟨true, true, false, 8, 7⟩)] }
     s.ready = true ∧ ∃ x ∈ s.protStage, x.2.valid = true ∧ x.2.last < x.2.base) ∧
    (let s := ({ (testAdmitted 5 .started).setFld RegF.glbStatusReady 1 with protHeld := some [] } : State)
     s.ready = true ∧ (∀ x ∈ s.protStage, x.2.valid = true → x.2.base ≤ x.2.last) ∧ s.prevLive = false ∧ s.protHeld = some []) ∧
    (let s := testCtx 3 { descs := [{ testDesc 5 .started with epochOld := true }] }
     s.ready = true ∧ (∀ x ∈ s.protStage, x.2.valid = true → x.2.base ≤ x.2.last) ∧ s.prevLive = true) ∧
    (((onTask {}).rt 1 0).st = .running ∧ (onTask {}).protHeld = none) := by decide

theorem test_meets_rehang :
    (testCtx.ready = true ∧ (testCtx.wrapFld RegF.glbRehangStsCommits 1).scopePending 13 = false) ∧
    (let s := ({ (onTask {} testCtx).setFld RegF.glbStatusReady 1 with scope := [(0, { gen := 1, held := some [] })] } : State)
     s.ready = true ∧ s.scopePending 0 = true ∧ (s.scp 0).held = some []) ∧
    (let s := ({ testCtx with scope := [(0, { gen := 1, held := some [] })] } : State)
     (s.scp 0).held = some [] ∧ s.scopePending 0 = false) ∧
    scopeOf RegF.wingMaCfgGateIdle.reg 3 = 3 := by decide

theorem test_meets_setup_write :
    (regAt (2 ^ 26 - 8) = none ∧ 0x1004 % 8 ≠ 0 ∧ testCtx.offers .ctxSq = true ∧ State.reset.offers .ctxSq = false) ∧
    (∀ r ∈ [Reg.ctxSq, .pwrCfg, .glbStatus, .protStage, .wingMaCfg, .lnkCfg], regAt (r.offset 0 0) = some (r, 0, 0)) ∧
    (∃ f ∈ Reg.ctxSq.rows, f.acc = .lk ∧ testCtx.lockedFld .ctxSq 1 f = true ∧ testCtx.lockedFld .ctxSq 2 f = false) ∧
    (∃ f ∈ Reg.glbStatus.rows, f.acc = .rw1c) ∧ (∃ f ∈ Reg.glbStatus.rows, f.acc = .ro) ∧ (∃ f ∈ Reg.wingMaCfg.rows, f.acc = .st) ∧
    (∃ f ∈ Reg.pwrCfg.rows, f.acc = .lv) := by decide +kernel

theorem test_meets_scale_commands :
    (let s := testCtx 3 { prog := some { sm := { entries := [{}] } } }
     s.ready = true ∧ s.smValid 1 0 = true ∧ s.smq.length < 32 ∧ s.smValid 1 1 = false) ∧
    (let s := { testCtx 3 { prog := some { sm := { entries := [{}] }, cert := { groupTable := some 0, groupCount := 1 } } } with
       smq := List.replicate 32 ⟨1, 0, .clearFlags⟩ }
     s.smValid 1 0 = true ∧ 32 ≤ s.smq.length ∧ s.grpValid 1 0 = true ∧ s.grpValid 1 1 = false) := by decide

/-- A staged rota of one slot of 1000 µs in each wing. -/
def testStaged (frame : Nat) : State :=
  (testCtx.setFld RegF.wingRotaHdrSlots 1 0).setFld RegF.wingRotaSlotLenUs frame 0 0

theorem test_meets_rota :
    (testCtx.ready = true ∧ testCtx.rotaFault 1 = none ∧ (testStaged 999).rotaFault 3 = some (1, 0)) ∧
    ((testStaged 1000).ready = true ∧ (testStaged 1000).rotaFault 1 = none) ∧
    ((testStaged 999).rotaShapeBad 0 = true ∧ (testStaged 10000).rotaShapeBad 0 = false ∧ (testStaged 250).rotaShapeBad 0 = false) ∧
    (let s := { testCtx with rotaPend := [(2, {})], rotaAt := 2499999, time := 2499999 }
     s.rotaPend ≠ [] ∧ (s.rotaAt / 2500000 + 1) * 2500000 = 2500000) ∧ (0 < (testCtx.wrota 3).rota.slots.length) := by decide

theorem test_meets_counters :
    (1 ≤ 63 ∧ 15 < 16 ∧ testCtx.rail = .on ∧ testCtx.ready = true ∧ State.reset.ready = false) ∧
    (let s := testCtx; ∃ x ∈ s.regs, x.1 / 2 ^ 40 = Reg.index .ctxSts ∧ x.1 / 2 ^ 20 % 2 ^ 20 = 1 ∧ bits x.2 0 3 ≠ 0 ∧ s.fld RegF.ctxCfgFunc 1 = 0) := by
  decide

/-! ### Check values, provenance and the key-value unit -/

/-- A descriptor with its argument bytes from byte 8 on. -/
def testArgs (op : Nat) (args : List Byte) (st : DescState := .started) : Desc := { idx := 0, bytes := leBytes 8 op ++ args, st := st }

def testRunning (d : Desc) (p : Option Prog := some {}) : State := testCtx 3 { descs := [d], prog := p }

theorem test_meets_scan :
    (let s := testRunning (testDesc 0x10)
     s.desc 1 0 = some (testDesc 0x10) ∧ s.canStart 1 0 0x10 = true ∧ s.prog 1 ≠ none ∧ (∀ x ∈ s.scans, x.unit ≠ 0)) ∧
    (let s := { testRunning (testDesc 0x10) with scans := [⟨2, 0, 2⟩, ⟨2, 1, 0⟩, ⟨2, 2, 1⟩] }
     (∀ x ∈ s.scans, x.unit ≠ 3) ∧ ∀ v, v < 3 → ∃ x ∈ s.scans, x.unit = v) ∧
    ((testRunning (testDesc 0x10) none).canStart 1 0 0x10 = true ∧ (testRunning (testDesc 0x10) none).prog 1 = none) ∧
    (let d := testArgs 0x10 (leBytes 8 nearBase ++ leBytes 48 9)
     let s := testRunning d (some testShare)
     d.st = .started ∧ d.opcode = 0x10 ∧ s.rangeReach 1 d.epochOld false (field d.bytes 8 8) (field d.bytes 16 5) = (9, none) ∧
       s.hostShares 1 nearBase 9 = true ∧ (testRunning d).hostShares 1 nearBase 9 = false) ∧
    (let d := testArgs 0x10 (leBytes 8 0x20000000 ++ leBytes 48 9)
     let r := (testRunning d).rangeReach 1 d.epochOld false (field d.bytes 8 8) (field d.bytes 16 5)
     (testRunning d).hostShares 1 (field d.bytes 8 8) r.1 = true ∧ r.2 ≠ none) := by decide

theorem test_meets_digest :
    (let s := testRunning (testDesc 0x11)
     s.canStart 1 0 0x11 = true ∧ s.prog 1 ≠ none ∧ (∀ y ∈ s.digs, y.unit ≠ 0) ∧ (Tbl.get {} s.slots 0 : DigSlot).valid = false) ∧
    (let s := ({ testRunning (testDesc 0x11) with slots := [(0, { valid := true, ctx := 2 })] } : State).setFld RegF.ctxCfgFunc 1 1
     s.canStart 1 0 0x11 = true ∧ s.prog 1 ≠ none ∧ (Tbl.get {} s.slots 0 : DigSlot).valid = true ∧ (Tbl.get {} s.slots 0 : DigSlot).ctx ≠ 1 ∧
       s.fld RegF.ctxCfgFunc 1 ≠ 0) ∧
    (let d := testArgs 0x11 (leBytes 8 nearBase ++ leBytes 48 3)
     d.st = .started ∧ d.opcode = 0x11 ∧ field d.bytes 24 1 % 2 = 0 ∧ (testRunning d).digestInput 1 d .done = .inr [0, 0, 0] ∧
       (testRunning d).digestShares 1 d = false ∧ (testRunning d (some testShare)).digestShares 1 d = true ∧
       (testRunning d (some testShare)).digestInput 1 d .done = .inr [0, 0, 0]) ∧
    (let s := testRunning (testArgs 0x12 (leBytes 8 0 ++ leBytes 48 1) .waiting)
     s.canStart 1 0 0x12 = true ∧ (Tbl.get {} s.slots 0 : DigSlot).valid = false) ∧
    ((testRunning (testDesc 0x12)).canStart 1 0 0x12 = true ∧ field (testDesc 0x12).bytes 16 8 = 0) ∧
    ((testArgs 0x12 (leBytes 56 0)).st = .started ∧ (testArgs 0x12 (leBytes 56 0)).bytes.length = 64) := by decide

theorem test_meets_resumed_scan :
    let s := testUnits
    let d : Desc := testArgs 0x10 (leBytes 8 nearBase ++ leBytes 48 2)
    let e : Desc := testArgs 0x10 (leBytes 8 (nearBase + 1) ++ leBytes 8 1 ++ leBytes 8 (field (s.scanRecord d 1) 0 8) ++ leBytes 32 4)
    s.mem = [] ∧ field e.bytes 8 8 = field d.bytes 8 8 + 1 ∧ (field e.bytes 32 1).testBit 2 = true ∧
      field e.bytes 32 1 % 4 = field d.bytes 32 1 % 4 ∧ field e.bytes 24 8 = field (s.scanRecord d 1) 0 8 := by decide +kernel

theorem test_meets_kv_grant :
    (let s := testRunning (testArgs 0x21 (leBytes 4 0 ++ leBytes 52 1) .waiting)
     s.canStart 1 0 0x21 = true ∧ s.grantRefused 1 [0] = some 0) ∧
    (∀ l ∈ [[(nearBase + 2, 1), (nearBase + 5, 1)], [(nearBase + 2, 1), (nearBase + 5, 1), (nearBase + 8, 1)]],
     let r := testRunning (testArgs 0x21 (leBytes 4 0 ++ leBytes 4 1 ++ leBytes 48 nearBase) .waiting)
     let s := ({ r.takeSet 4 ((r.setFld RegF.kvaCtxPoolPoolBase nearBase 1).snapshot 4) with mem := l } : State)
     s.canStart 1 0 0x21 = true ∧ s.grantRefused 1 [nearBase] = none ∧ s.poolHeld 1 = 0 ∧ s.poolCount 1 = 0 ∧
       s.poolCapacity 1 = l.length - 2) ∧
    (let s := { testUnits with mem := [(1, 1)] }
     s.poolCount 1 + 1 < 2 ^ 32 ∧ s.poolBase 1 + 64 ≤ s.poolList 1 + 8 * s.poolCount 1) := by decide +kernel

/-- A KV_OPEN of sequence 0 in wing 0 with 32-token heads of E4M3. -/
def testOpen (root : Nat) : Desc := testArgs 0x22 (leBytes 4 0 ++ leBytes 1 (4 * 7) ++ leBytes 11 1 ++ leBytes 40 root) .waiting

def testSeqs (s : State) (w : Nat := 1) : State :=
  (s.takeSet 4 (((s.setFld RegF.kvaCtxSeqSeqCount 1 1)).snapshot 4)).setFld RegF.ctxCfgWings w 1

theorem test_meets_kv_open :
    (let s := testRunning (testOpen nearBase)
     s.canStart 1 0 0x22 = true ∧ (s.fld RegF.ctxCfgWings 1).testBit 0 = false) ∧
    (let s := testSeqs (testRunning (testOpen nearBase))
     s.canStart 1 0 0x22 = true ∧ s.eff RegF.kvaCtxSeqSeqFirst 1 ≤ 0 ∧ 0 < s.eff RegF.kvaCtxSeqSeqFirst 1 + s.eff RegF.kvaCtxSeqSeqCount 1 ∧
       (s.fld RegF.ctxCfgWings 1).testBit 0 = true ∧ nearBase % 8192 = 0 ∧ s.reach 1 nearBase 16384 = true ∧ (s.seqOf 0).state = .free ∧
       seqGeometry 7 1 0 = true ∧ (∀ x ∈ s.seqs, x.2.state ≠ .free → x.2.wing = 0 → x.2.vslot ≠ 0)) ∧
    (seqGeometry 7 3 0 = false ∧ seqGeometry 1 64 3 = false ∧ (nearBase + 4096) % 8192 ≠ 0) := by decide

def testSeq (x : Seq) (s : State := testRunning (testArgs 0x23 (leBytes 56 0) .waiting)) : State := { s with seqs := [(0, x)] }

theorem test_meets_kv_release :
    (let s := testSeq { state := .open, ctx := 1 }
     s.canStart 1 0 0x23 = true ∧ (s.seqOf 0).state = .open ∧ (s.seqOf 0).ctx = 1) ∧
    ((testSeq { state := .waiting, ctx := 2 }).canStart 1 0 0x23 = true) ∧ ((testSeq {}).canStart 1 0 0x23 = true) ∧
    (let s := testSeq { state := .releasing, ctx := 1, release := some 0 } State.reset
     (s.seqOf 0).release = some 0 ∧ s.seqNamed 0 = false ∧ s.releaseRefused 1 (s.seqPages 0).length = some 0) ∧
    (let u := testCtx.setFld RegF.kvaCtxPoolPoolBase nearBase 1
     let s := testSeq { state := .releasing, ctx := 1, release := some 0 } (u.takeSet 4 (u.snapshot 4))
     s.releaseRefused 1 0 = none) ∧
    (let s := ({ testUnits with kvWait := [⟨0, 1, 0, []⟩] } : State)
     s.kvWait.find? (fun x => x.ctx == 1 && x.task == 0) = some ⟨0, 1, 0, []⟩ ∧ 0 < s.flushNeeds (s.seqOf 0)) := by decide +kernel

/-- Writes of the other forms: through the view of a VF, of half a PROT_STAGE word, of a command register, and of PWR_CFG. -/
theorem test_meets_setup_forms :
    (let s := (testCtx.setFld RegF.ctxCfgFunc 1 1).setFld RegF.ctxCfgVfSlot 2 1
     s.vfContext 1 (128 / 64) = some 1 ∧ s.vfContext 1 (192 / 64) = none ∧ 128 % 8 = 0 ∧ 128 < 16384 ∧ s.ready = true) ∧
    (regAt ((0x300000 + 64 * 1 + 128 % 64) / 8 * 8) = some (.ctxSq, 1, 0) ∨ (regAt ((0x300000 + 64 * 1 + 128 % 64) / 8 * 8)).isSome = true) ∧
    (∀ r ∈ [Reg.protStage, .redSmCmd, .redGrpCmd, .pwrCfg], regAt (r.offset 0 0) = some (r, 0, 0) ∧ r.offset 0 0 % 8 = 0 ∧ testCtx.offers r = true) ∧
    regAt (Reg.protStage.offset 1 3) = some (.protStage, 1, 3) := by decide +kernel

/-- The low half of a PROT_STAGE word holds VALID, READ, WRITE and the low bits of BASE; the high half the rest (spec/13 register table). -/
theorem test_prot_stage : let o := Reg.protStage.offset 0 0
    Tbl.get {} (testNext (.setupRegisterWrite 0 o 4 0x10007) testCtx).protStage 0 = (⟨true, true, true, 1, 0⟩ : ProtEntry) ∧
    Tbl.get {} (testNext (.setupRegisterWrite 0 (o + 4) 4 1) testCtx).protStage 0 = (⟨false, false, false, 65536, 0⟩ : ProtEntry) := by
  decide +kernel

theorem test_meets_rehang_scopes : (3 : BitVec 14) ≠ 0 ∧ (3 : BitVec 14).getLsbD 0 = true ∧ (3 : BitVec 14).getLsbD 2 = false ∧
    ((onTask {} testCtx).setFld RegF.glbStatusReady 1).prog 1 ≠ none ∧ testCtx.scopePending 1 = false := by decide
/-! ### Tasks, marks, attention, streams and movers -/

theorem test_meets_task_ends :
    (let s := onTask {}
     s.running 1 0 = true ∧ s.taskDone 1 0 = true) ∧
    (let s := onTask { stepEnd := true }
     s.running 1 0 = true ∧ s.taskDone 1 0 = false) ∧
    (let s := { onTask {} with ctx := [(1, { prog := some { cert := { tasks := [{}] }, tasks := [(0, { st := .suspended, inRun := true })] } })] }
     (s.rt 1 0).st.live = true ∧ (s.rt 1 0).inRun = true ∧ (s.task 1 0).stepEnd = false ∧ 0x10 ≤ Status.code .protFault) ∧
    TaskState.ended .cancelled = true ∧ (let s := (onTask {}).setFld RegF.ctxStsOpen 1 1
     s.running 1 0 = true ∧ s.fld RegF.ctxStsOpen 1 = 1) ∧
    (let s := { onTask {} with eng := [(255, { run := .atBar, ctx := 1 })], arr := [(7, { busy := true, ctx := 1 })] }
     (s.engine 255).run ≠ .idle ∧ (s.engine 255).ctx = 1 ∧ (s.engine 255).task = 0 ∧ (s.array 7).busy = true ∧ (s.array 7).ctx = 1) := by decide

theorem test_meets_marks :
    (let s := { onTask {} with ctx := [(1, { prog := some { cert := { tasks := [{}] }, tasks := [(0, { st := .running })], markRunning := some 0, ledgers := [{}] } })] }
     s.running 1 0 = true ∧ (s.prog 1).map (fun p => p.markRunning) = some (some 0) ∧ ((s.prog 1).getD {}).ledgers.length = 1) ∧
    (let c : Cert := { tasks := [{}], smTable := some nearBase }
     let s := { onTask {} with ctx := [(1, { prog := some { cert := c, tasks := [(0, { st := .running })], markRunning := some 0 } })] }
     s.running 1 0 = true ∧ (s.cert 1).smTable ≠ none ∧ s.allows 1 (s.rt 1 0).epochOld true (0 + 12) 8 = false) ∧
    (let p : Prog := { cert := { tasks := [{ barrier := some { stagger := true, devIndex := 65 } }] },
                       tasks := [(0, { st := .running, bar := some ⟨true, some 7⟩ })] }
     let s := { onTask {} with ctx := [(1, { prog := some p })] }
     s.running 1 0 = true ∧ (s.task 1 0).barrier = some { stagger := true, devIndex := 65 } ∧ (s.rt 1 0).bar = some ⟨true, some 7⟩) ∧
    (let s := { State.reset with shelf := [(0, { held := true, ctx := 1 })] }
     (Tbl.get ({} : Shelf) s.shelf 0).held = true ∧ (Tbl.get ({} : Shelf) s.shelf 0).ctx = 1) := by decide

theorem test_meets_scales :
    (let e : SmEntry := { hlen := 15, history := List.replicate 16 0 }
     let r : SmRep := { maxAbs := 0x40200000, nonfin := 1 }
     e.hlen < 16 ∧ e.history.length = 16 ∧ 0 < r.nonfin) ∧
    (let e : SmEntry := { fmt := 7, hcount := 1, history := [0x40200000] }
     e.frozenScale = false ∧ 0 < e.hcount ∧ e.maxHistory.toNat = 0x40200000 ∧ f32.value 0x40200000 = .fin ⟨false, 0xA00000, -22⟩) ∧
    (0 < (⟨false, 5, -1⟩ : Dy).m ∧ -32768 ≤ (-32768 : Int) ∧ (32766 : Int) < 32767) := by decide

/-- An attend task of array 0, engine 0 and the KV unit of wing 0. -/
def testAttend (a : AttendEntry) (x : AttendSt) (al : List Allot := testReach [0, 0x100, 0x480]) : State :=
  { testUnits with
    ctx := [(1, { prog := some { cert := { tasks := [{ attend := some a }], lists := [[{ task := 0, arrays := 1, groups := 1 }]], allots := al },
                                 tasks := [(0, { st := .running, att := some x })] } })] }

theorem test_query_ready (a : AttendEntry) (x : AttendSt) (h : a.qHeads = 1) (b : a.qBase < 0x10001) :
    (testAttend a x).qReady 1 0 0 a = true := by
  have r : (testAttend a x).slotted ((testAttend a x).asker 1 0 (uArray (2 * 0 + 0))) (a.qBase + tileBytes * 0) tileBytes = true :=
    test_reach _ _ _ _ rfl (.inl rfl) (test_in_reach [0, 0x100, 0x480] 0 (by decide)) (by simp [tileBytes]; omega)
  simp only [State.qReady, State.attendArrays, h, List.range_succ, List.range_zero, List.nil_append, List.all_cons, List.all_nil,
    List.cons_append, State.qAddr, show (testAttend a x).qSlot 0 a 0 = none from rfl, r,
    show (testAttend a x).entryOf 1 0 = { task := 0, arrays := 1, groups := 1 } from rfl, show BitVec.getLsbD (1 : BitVec 2) 0 = true from by decide, show BitVec.getLsbD (1 : BitVec 2) 1 = false from by decide]
  rfl

theorem test_output_free (a : AttendEntry) (x : AttendSt) (h : a.stats = false) (b : a.oBase < 0x10001) (e : a.engFirst = 0) :
    (testAttend a x).attendFree 1 0 0 a 0 = true := by
  have r : (testAttend a x).attendReach 1 0 0 a a.oBase tileBytes = true :=
    test_reach _ _ _ _ rfl (.inl rfl)
      (by rw [show ((testAttend a x).asker 1 0 (uEngine (64 * 0 + a.engFirst))).unit = 0x100 by simp [State.asker, uEngine, e]]
          exact test_in_reach [0, 0x100, 0x480] 0x100 (by decide)) (by simp [tileBytes]; omega)
  simp only [State.attendFree, h, show (testAttend a x).attendPlace 0 a 0 = (a.oBase, none) from rfl, r]
  rfl

theorem test_meets_attend :
    (let a : AttendEntry := { qBase := 0x10000, bk := 1, mQ := 1, d := 32, maskMode := 2 }
     let s := testAttend a { block := 1, keyEnd := 2 * a.blockKeys }
     (s.task 1 0).attend = some a ∧ (s.rt 1 0).att = some { block := 1, keyEnd := 2 * a.blockKeys } ∧ s.running 1 0 = true ∧
       s.hookReach 1 0 0 a = true ∧ s.maskCode 1 0 0 a 1 = .code 1 ∧ a.skips 1 1 = true ∧ 1 * a.blockKeys < 2 * a.blockKeys) ∧
    (let a : AttendEntry := { maskMode := 1 }
     (testAttend a {}).maskCode 1 0 0 a 0 = .fail (Fail.addr .streamFault 0)) ∧
    (let a : AttendEntry := { maskMode := 1, maskKt := 1, sumBase := nearBase }
     (testAttend a {}).maskCode 1 0 0 a 0 = .code 0 ∧ (testAttend a {} []).maskCode 1 0 0 a 0 = .stuck ∧
       (testAttend a {} []).qReady 1 0 0 a = false ∧ (testAttend a {} []).attendFree 1 0 0 a 0 = false ∧ a.skips 0 0 = true ∧
       a.skips 1 0 = false) ∧
    (let a : AttendEntry := { hookBase := 0x1000, hookLen := 1 }
     let s := ({ testAttend a {} with poison := [0x40] } : State)
     s.hookReach 1 0 0 a = true ∧ s.poisoned a.hookBase (8 * a.hookLen) = true ∧ (testAttend a {} []).hookReach 1 0 0 a = false) := by
  decide +kernel

/-- What a block from in-streams comes to: nothing, while no tile is there. -/
theorem test_meets_attend_streams :
    let a : AttendEntry := { fromStreams := true }
    (testAttend a {}).blockFromStreams 1 0 0 a {} 1 = .stuck := by
  intro a
  have h : (testAttend a {}).streamTile 0 a 0 = none := by decide +kernel
  rw [State.blockFromStreams, h]

/-- A sequence of 32-element heads in F32 whose first page stands in its vestibule slot. -/
def testKv : Seq := { state := .open, fmt := 1, h := 1, ctx := 1, t := 32, len := 1, rootBase := nearBase }

theorem test_vestibule_page (s : State) (lp : Nat) (h : lp = (s.seqOf 0).flushed)
    (k : s.kvSlotted 1 0 (s.seqOf 0).wing (vestibule (s.seqOf 0).wing (s.seqOf 0).vslot) pageBytes = true)
    (p : s.poisoned (vestibule (s.seqOf 0).wing (s.seqOf 0).vslot) pageBytes = false) : ∃ u l, s.readPages 1 0 0 [lp] = .pages u l := by
  simp [State.readPages, State.readPage, h, k, p]

theorem test_no_page (s : State) (lp : Nat) (h : lp ≠ (s.seqOf 0).flushed)
    (k : s.kvMay 1 (s.rt 1 0).epochOld false ((s.seqOf 0).rootEntry lp) 8 = false) : ∃ u f, s.readPages 1 0 0 [lp] = .fail u f := by
  simp [State.readPages, State.readPage, h, k]

/-- What the pages of a block come to: they are read from the vestibule, wait for slots, or are not there. -/
theorem test_meets_attend_pages :
    (∃ u l, ({ testAttend {} {} with seqs := [(0, testKv)] } : State).readPages 1 0 0 [0] = .pages u l) ∧
    ({ testAttend {} {} [] with seqs := [(0, testKv)] } : State).readPages 1 0 0 [0] = .stuck ∧
    (∃ u f, ({ testAttend {} {} with seqs := [(0, { testKv with flushed := 1, rootBase := 0 })] } : State).readPages 1 0 0 [0] = .fail u f) ∧
    testKv.fmt = ({} : AttendEntry).fmtKv ∧ testKv.d = ({} : AttendEntry).d ∧ testKv.d ≠ ({ d := 64 } : AttendEntry).d :=
  ⟨test_vestibule_page _ 0 rfl (test_reach _ _ _ _ rfl (.inl rfl) (test_in_reach [0, 0x100, 0x480] 0x480 (by decide)) (by decide)) rfl, by decide +kernel, test_no_page _ 0 (by decide) (by decide +kernel), by decide⟩

theorem test_meets_attend_rows :
    (∀ y ∈ List.zip [1, 2] [false, false], (y : Nat × Bool).2 = false) ∧ (∃ y ∈ List.zip [1, 2] [false, true], (y : Nat × Bool).2 = true) ∧
    ({ m := 0x3F800000 } : RowSt).m ≠ negInf32 ∧ ({} : RowSt).m = negInf32 ∧ ({} : RowSt).seen = false := by decide

/-- A stream unit of wing 0 under context 1. -/
def testStream (x : Stream) (mem : Mem := []) (al : List Allot := testReach [0x200]) : State :=
  { onTask {} testUnits al with strm := [(0, { x with held := true, ctx := 1 })], mem := mem }

/-- The requester of that unit. -/
def testStrm (x : Stream) : Requester := { ctx := x.ctx, task := some x.task, num := some x.ent.allot, wing := 0, unit := uStream 0 }

theorem test_meets_streams :
    (galleryWing (64 * 0) = 0 ∧ 64 * (galleryEnd / 64 - 1) < galleryEnd) ∧
    (let x : Stream := { ent := { standing := true }, rearm := some (nearBase, 1) }
     (testStream x).stream 0 = { x with held := true, ctx := 1 } ∧ x.listCount ≤ x.next) ∧
    (let s := testStream { listBase := nearBase, listCount := 1, slots := [.empty, .empty] }
     (s.stream 0).slot 0 = .empty ∧ s.listFail 0 = none ∧ (s.entryFail 0 (s.nextEntry 0)).isSome = true) ∧
    (let s := testStream { listBase := 0x20000000, listCount := 1, slots := [.empty, .empty] }
     (s.listFail 0).isSome = true) ∧
    (let s := testStream { ent := { out := true }, listBase := nearBase, listCount := 1, slots := [.full 1, .empty], ring := 0 }
     (s.stream 0).ent.out = true ∧ (s.stream 0).writing = none ∧ ((s.stream 0).slot 0).isFull = true ∧ s.listFail 0 = none) := by decide +kernel

/-- The list entry of a stream: the tile at the second tile of stack 0, one use, with or without a mark. -/
def testEntry (mark : Byte) : Mem := [(nearBase + 2, 0x10), (nearBase + 5, 1)] ++ (if mark = 0 then [] else [(nearBase + 8, mark)]) ++ [(nearBase + 9, 1), (nearBase + 12, 1)]

/-- The unit reaches the tile and its slot. -/
theorem test_meets_stream_slots (x : Stream) (n : x.ent.allot = 0) (t : x.task = 0) (b : x.ent.bufBase = 0) :
    let s := testStream x (testEntry 0)
    s.slotted (testStrm (s.stream 0)) (nearBase + 0x100000) tileBytes = true ∧
    s.slotted (testStrm (s.stream 0)) ((s.stream 0).slotAddr 0) tileBytes = true := by
  intro s
  have e : testStrm (s.stream 0) = { ctx := 1, task := some x.task, num := some x.ent.allot, wing := 0, unit := 0x200 } := rfl
  have a : (s.stream 0).slotAddr 0 = x.ent.bufBase + 16448 * 0 := rfl
  rw [e, a, n, t, b]
  exact ⟨test_reach_near _ _ _ _ rfl (.inr rfl) (test_in_reach_near [0x200]) (by decide),
    test_reach _ _ _ _ rfl (.inr rfl) (test_in_reach [0x200] 0x200 (by decide)) (by decide)⟩

theorem test_meets_stream_marks :
    (let s := testStream { listBase := nearBase, listCount := 1, slots := [.empty, .empty] } (testEntry 0)
     (s.stream 0).ent.out = false ∧ s.listFail 0 = none ∧ (s.nextEntry 0).bad = false ∧ s.markMet 0 (s.nextEntry 0) = true ∧
       s.entryFail 0 (s.nextEntry 0) = none ∧ s.popHeld 0 = false ∧ homeOf (s.nextEntry 0).addr = .near 0) ∧
    (let s := testStream { listBase := nearBase, listCount := 1, slots := [.empty, .empty] } (testEntry 0) []
     s.entryFail 0 (s.nextEntry 0) = none ∧ s.slotted (testStrm (s.stream 0)) (s.nextEntry 0).addr tileBytes = false) ∧
    (let s := testStream { listBase := nearBase, listCount := 1, slots := [.empty, .empty] } (testEntry 1)
     s.listFail 0 = none ∧ (s.nextEntry 0).bad = false ∧ s.markMet 0 (s.nextEntry 0) = false) ∧
    (let s := testStream { ent := { out := true }, listBase := nearBase, listCount := 1, slots := [.full 1, .empty] } (testEntry 0)
     ((s.stream 0).slot 0).isFull = true ∧ s.listFail 0 = none ∧ s.markMet 0 (s.nextEntry 0) = true ∧ s.entryFail 0 (s.nextEntry 0) = none ∧
       s.pushHeld 0 = false) ∧
    (let s := testStream { slots := [.filling nearBase 1 0, .empty] }
     (s.stream 0).held = true ∧ (s.stream 0).slot 0 = .filling nearBase 1 0 ∧ s.poisoned nearBase tileBytes = false ∧ s.mem = []) ∧
    (let s := testStream { ent := { out := true }, slots := [.full 1, .empty], writing := some (0, nearBase) }
     (s.stream 0).writing = some (0, nearBase) ∧ s.poisoned ((s.stream 0).slotAddr 0) tileBytes = false) := by decide +kernel

/-- A query tile of one row and 32 columns. -/
def testQuery : List Byte := tileImage { fmt := 1, rows := 1, cols := 32 } []

theorem test_query_head (s : State) (a : AttendEntry) (h : s.rd 0x10000 tileBytes = testQuery) (p : s.poisoned 0x10000 tileBytes = false)
    (r : s.qAddr 0 a 0 = 0x10000) (n : a.qHeads = 1) (f : a.fmtQ = 1) (m : a.mQ = 1) (d : a.d = 32) : s.qFail 1 0 0 a = none := by
  have g : tileGood testQuery (some 1) = true := by rw [testQuery, tileGood_tileImage_fmt]; decide
  have k : (Hdr.ofBytes testQuery).rows = 1 ∧ (Hdr.ofBytes testQuery).cols = 32 ∧ (Hdr.ofBytes testQuery).bscale = false := by decide
  simp [State.qFail, State.attendTileFail, r, n, f, m, d, h, p, g, k, List.range_succ]

theorem test_meets_attend_query :
    let s := (testAttend { qBase := 0x10000 } {}).wr 0x10000 testQuery
    s.qFail 1 0 0 { qBase := 0x10000 } = none ∧ s.running 1 0 = true ∧ s.qReady 1 0 0 { qBase := 0x10000 } = true := by
  have h := State.rd_wr (testAttend { qBase := 0x10000 } {}) 0x10000 testQuery
  rw [show testQuery.length = tileBytes from tileImage_length _ _] at h
  refine ⟨test_query_head _ _ h (by simp [State.poisoned, State.wr, testAttend, testUnits, State.reset, clearLines]) rfl rfl rfl rfl rfl, rfl, ?_⟩
  exact test_query_ready { qBase := 0x10000 } {} rfl (by decide)

/-- A RUN of an entry of two tasks, the second after the first, on wing 0, whose slots the context owns. -/
def testSched (l : Tbl TaskRt) (k : Task := {}) (x : Context := {}) : State :=
  let e : Cert := { tasks := [k, { deps := [0] }], entries := [{ tasks := [0, 1], args := 0x10000 }] }
  let k : Cert := { e with lists := [[{ task := 0, arrays := 1, groups := 1 }, { task := 1, arrays := 1 }], [], [], []] }
  testInSlot (testCtx 3 { x with prog := some { cert := k, run := some ⟨0, 0, [], 0⟩, tasks := l } })

theorem test_meets_scheduler :
    (let s := testSched [(0, { inRun := true }), (1, { inRun := true })]
     s.runTasks 1 = [] ++ 0 :: [1] ∧ (∀ k ∈ s.runTasks 1, s.markedBy 1 k = none ∧ s.canCancel 1 k = false) ∧ s.canArm 1 0 = true ∧
       s.canArm 1 1 = false ∧ s.prog 1 ≠ none ∧ (s.task 1 0).binds = [] ∧ s.namesReleasing 1 0 = false ∧ s.voidTask 1 0 = false ∧
       s.advance.isSome = true) ∧
    (let s := testSched [(0, { st := .aborted, inRun := true }), (1, { inRun := true })]
     s.runTasks 1 = [0] ++ 1 :: [] ∧ (∀ k ∈ [0], s.canCancel 1 k = false) ∧ s.canCancel 1 1 = true) ∧
    (let s := testSched [(0, { st := .armed, inRun := true }), (1, { inRun := true })]
     (∀ k ∈ s.runContexts, s.advanceRun k = none) ∧ s.resumeAdvance = none ∧ s.pickOn 0 = some (1, 0) ∧ s.pickIn 1 0 (s.runLeft 0) = some 0 ∧
       s.slotOwner 0 = some 1 ∧ s.isReady 1 0 = true ∧ (s.rt 1 0).isVoid = false ∧ s.startFails 1 0 = [] ∧ (s.task 1 0).append = none ∧
       (s.task 1 0).ledger = none ∧ (s.entryOf 1 0).arrays.getLsbD 0 = true) ∧
    (let s := testSched [(0, { st := .running, inRun := true }), (1, { inRun := true })]
     s.advance = none ∧ s.onWing 0 = [(1, 0)]) ∧
    (let s := testSched [(0, { st := .armed, inRun := true }), (1, { inRun := true })] { stepEnd := true }
     s.markReady 1 0 = true) ∧ testCtx.pickOn 0 = none := by decide +kernel

/-- A push of two tiles takes positions TOP and TOP + 1, a pop those below TOP (spec/08 R233, R234). -/
theorem test_reserve :
    (let s := ({ testSched [] with shelf := [(0, { held := true, ctx := 1, top := 3, ent := { nearTiles := 8, depthTiles := 5 } })] } : State).setFld RegF.ctxDepSize64k 3 1
     let push := s.reserve 1 0 { shelf := 0, tiles := 2 } false
     let pop := s.reserve 1 0 { shelf := 0, pop := true, tiles := 3 } false
     s.depFits 1 (s.shelfOf 0 0).ent 3 2 = true ∧ push.2 = none ∧ (push.1.shelfOf 0 0).top = 5 ∧ (push.1.shelfOf 0 0).home 4 = .waiting ∧
       Tbl.get 0 (push.1.rt 1 0).depPos 0 = 3 ∧ pop.2 = none ∧ (pop.1.shelfOf 0 0).top = 0 ∧
       (s.reserve 1 0 { shelf := 0, tiles := 3 } false).2.isSome = true ∧ (s.reserve 1 0 { shelf := 0, pop := true, tiles := 4 } false).2.isSome = true) ∧
    ((testSched []).reserve 1 0 {} false).2 = some ⟨.streamFault, 0⟩ := by decide +kernel

/-- A standing loan on its last entry, and a task in the list whose entry re-arms it (spec/06 R171). -/
theorem test_meets_rearm :
    let e : StreamEntry := { standing := true, rearm := true, listBase := nearBase, listCount := 3 }
    let s := { testSched [(0, { inRun := true })] { streams := [e] } with strm := [(0, { held := true, ctx := 1, ent := { standing := true } })] }
    s.nextRearm 0 = some (0, e) ∧ (s.stream 0).listCount ≤ (s.stream 0).next ∧ (s.stream 0).rearm = none ∧ (s.stream 0).rearmed = none ∧
      s.sendsFrom 0 = false ∧ ((testNext (.standingLoanRearm 0) s).stream 0).rearmed = some 0 := by decide +kernel
/-! ### Movers, couriers, the deposit and the near tier -/

/-- A mover of wing 0 that carries the first item of its program's move table, with no other memory than a picture. -/
def testMover (x : MoveItem) (mem : Mem := []) (y : Mover := {}) (al : List Allot := testReach [0x400]) : State :=
  { testUnits with mov := [(0, { y with held := true, ctx := 1 })], mem := mem,
                   ctx := [(1, { prog := some { cert := { moves := [x], tasks := [{}], catTable := some nearBase, catCount := 4, allots := al } } })] }

/-- The requester of that mover. -/
def testMovr (y : Mover) (x : MoveItem) : Requester :=
  { ctx := y.ctx, task := some (y.due.getD y.task), num := some x.allot, wing := 0, unit := uMover 0 }

/-- The mover reaches every tile of stack 0, and none without an allotment. -/
theorem test_meets_move_slots (a : Nat) (h : homeOf a = .near 0) (x : MoveItem) (mem : Mem) (n : x.allot = 0) :
    (testMover x mem).slotted (testMovr ((testMover x mem).mover 0) ((testMover x mem).moveItem 0)) a tileBytes = true := by
  have e : testMovr ((testMover x mem).mover 0) ((testMover x mem).moveItem 0) =
    { ctx := 1, task := some 0, num := some x.allot, wing := 0, unit := 0x400 } := rfl
  rw [e, n]
  exact test_reach_near _ _ _ _ rfl (.inr rfl) (test_in_reach_near [0x400]) h

theorem test_moves_wait : let s := testMover { key := 1, src := nearBase + 0x10000, dst := nearBase + 0x20000 } [] {} []
    s.slotted (testMovr (s.mover 0) (s.moveItem 0)) (nearBase + 0x10000) tileBytes = false := by decide +kernel

theorem test_meets_tile_moves :
    (let s := testMover { key := 1, src := nearBase + 0x10000, dst := nearBase + 0x20000 }
     let x := s.moveItem 0
     (s.mover 0).held = true ∧ x.kind = .move ∧ s.catFail 1 x 0 = none ∧ s.moverAllows 0 false (x.srcAt 0) tileBytes = true ∧
       s.moverAllows 0 true (x.dstAt 0) tileBytes = true ∧ homeOf (x.srcAt 0) = .near 0 ∧ s.poisoned (x.srcAt 0) tileBytes = false ∧
       hdrMalformed (s.rd (x.srcAt 0) 64) = true) ∧
    (let s := testMover { src := nearBase }
     (s.moveItem 0).kind = .move ∧ (s.mover 0).saved = none ∧ (s.catFail 1 (s.moveItem 0) 0).isSome = true) ∧
    (let s := ({ testMover { key := 1, src := nearBase + 0x10000, dst := nearBase + 0x20000 } [] { saved := some (List.replicate 32 0) } with
       protAct := [] } : State)
     (s.mover 0).saved ≠ none ∧ s.moverAllows 0 false (nearBase + 0x10000) tileBytes = false) ∧
    (let x : MoveItem := { key := 1, count := 2, dst := nearBase + 0x20000 }
     (Tbl.get ({} : Mover) (testMover x).mov 0).tile + 1 < x.count ∧ x.dstHome < 4 ∧ x.dstAt 0 < 2 ^ 64 ∧
       (testMover x).catAddr 1 (x.keyAt 0) + 32 ≤ x.dstAt 0) := by decide +kernel

/-- Step 1 makes the entry MOVING: its source, its homes with state 2, and its destination (spec/07 R214, R215). -/
theorem test_step_one : let s := testMover { key := 1, src := nearBase + 0x10000, dst := nearBase + 0x20000 }
    ((s.moveBegin 0).rd (nearBase + 32) 32 = leBytes 8 (nearBase + 0x10000) ++ leBytes 1 0x20 ++ leBytes 7 0 ++ leBytes 8 (nearBase + 0x20000) ++ leBytes 8 0) ∧
      ((s.moveBegin 0).mover 0).saved = some (List.replicate 32 0) := by decide +kernel

theorem test_tile_length : testTile.length = tileBytes := by simp [testTile]

/-- The mover of the good tile: stack 0, then a wanted picture written to it. -/
theorem test_meets_good_tile_move (x : MoveItem) (a : Nat) : tileGood (((testMover x).wr a testTile).rd a tileBytes) none = true := by
  have h := State.rd_wr (testMover x) a testTile
  rw [test_tile_length] at h
  rw [h, testTile, tileGood_tileImage]
  decide

theorem test_meets_good_tile_item (x : MoveItem) (a : Nat) (b : List Byte) : ((testMover x).wr a b).moveItem 0 = x := rfl

/-- A K4 item of one record of namespace 0. -/
def testK4 (reads : List LfRead) : State :=
  let s := testMover { kind := .k4, key := 1, dst := nearBase + 0x20000 }
  ({ s with lf := [(0, { valid := true, blocks := 1024, reads := reads, qdepth := 4 })] } : State).setFld RegF.ctxCfgCompat 1 1

/-- The bytes of a K4 header of one row and one column in code c. -/
def testK4Head (c : Nat) : List Byte :=
  leBytes 4 0x5449344B ++ leBytes 1 c ++ leBytes 1 0 ++ leBytes 2 1 ++ leBytes 2 1 ++ leBytes 22 0

theorem test_meets_k4 :
    (let s := testK4 []
     let x := s.moveItem 0
     x.kind = .k4 ∧ s.catFail 1 x 0 = none ∧ flashOff (x.srcAt 0) % 4096 = 0 ∧ s.moverAllows 0 false (x.srcAt 0) recordBytes = true ∧
       s.moverAllows 0 true (x.dstAt 0) tileBytes = true ∧ s.readFor (fun r => r.mover == some 0 && r.addr == x.srcAt 0) = none ∧
       (s.flashRead (x.srcAt 0) none (some 0)).isSome = true) := by decide +kernel

def testPrefetch (x : Mover) (after : Nat) (inRun : Bool) : State :=
  { testUnits with mov := [(0, x)],
                   ctx := [(1, { prog := some { cert := { prefetch := [[⟨0, 0, after, 0, false⟩]], tasks := [{}] }, run := some ⟨0, 0, [], 0⟩,
                                                tasks := [(0, { st := .armed, inRun := inRun })] } })] }

theorem test_meets_prefetch :
    (let s := testPrefetch {} 0 true
     let p := (s.prog 1).getD {}
     p.run ≠ none ∧ nth 0 p.prefetchAt 0 = 0 ∧ (nth [] p.cert.prefetch 0)[0]? = some ⟨0, 0, 0, 0, false⟩ ∧ (s.rt 1 0).inRun = true ∧
       (s.rt 1 0).st.ended = false ∧ 0 ≤ (s.evGet 0 0).toNat ∧ (s.mover 0).held = false) ∧
    ((testPrefetch {} 0 false).rt 1 0).inRun = false ∧ ((testPrefetch { held := true } 0 true).mover 0).held = true ∧
    ((testPrefetch {} 1 true).evGet 0 0).toNat < 1 ∧ (testPrefetch {} 0 true).strm = [] := by decide

/-- A courier queue of wing 0 with one entry posted or none. -/
def testCourier (posted : Nat) (mem : Mem) (x : Courier := {}) (al : List Allot := testReach [0x440]) : State :=
  { onTask {} testUnits al with cour := [(0, { x with held := true, ctx := 1, bind := { qbase := nearBase } })], mem := mem,
                                ev := [(0, BitVec.ofNat 32 posted)] }

/-- DONE_EVT of a queue gains 1 where the queue's context holds the counter (spec/05 R128). -/
theorem test_counter_held : testUnits.evOwner 0 3 = none ∧
    ({ testUnits with evOwn := [(3, 2)] } : State).evOwner 0 3 = some 1 := by decide

theorem test_meets_couriers :
    (let s := testCourier 1 [(nearBase, 1), (nearBase + 2, 8), (nearBase + 18, 0x10)]
     let x := s.courier 0
     x.held = true ∧ x.busy = false ∧ x.stopped = false ∧ dist32 x.posted (s.evGet 0 x.bind.postEvt).toNat - (x.taken + 64) = 0 ∧
       x.taken < dist32 x.posted (s.evGet 0 x.bind.postEvt).toNat ∧ s.poisoned (x.bind.qbase + 256 * (x.taken % 64)) 32 = false ∧
       s.slotted { ctx := 1, task := some 0, wing := 0, unit := uCourier 0 } nearBase 32 = true) ∧
    (let s := testCourier 65 []
     dist32 (s.courier 0).posted (s.evGet 0 (s.courier 0).bind.postEvt).toNat - ((s.courier 0).taken + 64) = 1) ∧
    (let s := testCourier 0 []
     dist32 (s.courier 0).posted (s.evGet 0 (s.courier 0).bind.postEvt).toNat ≤ (s.courier 0).taken) := by decide +kernel

/-- An entry of eight bytes with data in it, for the near tier. -/
def testPost (dst : Nat) : List Byte := leBytes 2 1 ++ leBytes 2 8 ++ leBytes 12 0 ++ leBytes 8 dst ++ leBytes 8 7

theorem test_meets_transfers :
    (let s := testCourier 1 [] { busy := true, entry := testPost nearBase }
     (s.courier 0).held = true ∧ (s.courier 0).busy = true ∧ s.mem = [] ∧ field (testPost nearBase) 0 1 = 1 ∧
       s.slotted { ctx := 1, task := some 0, wing := 0, unit := uCourier 0 } (field (testPost nearBase) 16 8) 8 = true) ∧
    (let s := testCourier 1 [] { busy := true, entry := testPost nearBase } []
     (s.courier 0).busy = true ∧ s.slotted { ctx := 1, task := some 0, wing := 0, unit := uCourier 0 } (field (testPost nearBase) 16 8) 8 = false ∧
       s.slotted { ctx := 1, task := some 0, wing := 0, unit := uCourier 0 } nearBase 32 = false) ∧
    (let x : Courier := { entry := testPost (nearBase + 4088) }
     x.malformed = false ∧ (testCourier 1 []).courierFail 0 { x with ctx := 1 } = none) ∧
    (let x : Courier := { entry := testPost (nearBase + 4089) }
     x.malformed = true ∧ ((testCourier 1 []).courierFail 0 { x with ctx := 1 }).isSome = true) := by decide +kernel

/-- A shelf of wing 0 with its positions' homes. -/
def testShelf (homes : Tbl DepHome) (marked : List Nat) (al : List Allot := testReach []) : State :=
  { testMover { kind := .ret, firstPos := 0, count := 3 } [] {} al with
    shelf := [(0, { held := true, ctx := 1, top := 3, homes := homes, marked := marked,
                    ent := { nearBase := nearBase, nearTiles := 2, spillBase := nearBase + 2 ^ 30, depthTiles := 4 } })] }

theorem test_meets_deposit :
    (let s := testShelf [(0, .near), (1, .near), (2, .waiting)] [1, 0]
     let x := s.shelfOf 0 0
     x.held = true ∧ 0 ∈ x.marked ∧ (∀ q ∈ x.marked, 0 ≤ q) ∧ x.home 0 = .near ∧
       s.allows x.ctx false false x.ent.nearBase tileBytes = true ∧ s.allows x.ctx false true x.ent.spillBase tileBytes = true ∧
       s.poisoned x.ent.nearBase tileBytes = false ∧ hdrMalformed (s.rd x.ent.nearBase 64) = true) ∧
    (let s := testShelf [(0, .board), (1, .near), (2, .board)] []
     let h := s.shelfOf 0 (s.moveItem 0).shelf
     (s.mover 0).held = true ∧ (s.moveItem 0).kind = .ret ∧ 0 + (3 - 1 - (s.mover 0).tile) = 2 ∧ h.home 2 = .board ∧ h.slotBusy 2 = false ∧
       h.slotBusy 3 = true ∧ s.allows 1 (s.moverOld 0) false (h.ent.spillBase + tileBytes * 2) tileBytes = true ∧
       s.allows 1 (s.moverOld 0) true h.ent.nearBase tileBytes = true) ∧
    (let s := testShelf [(0, .near), (2, .board)] []
     (s.shelfOf 0 0).home 2 = .board ∧ (s.shelfOf 0 0).slotBusy 2 = true ∧ ∃ c ∈ (s.shelfOf 0 0).homes, c.1 ≠ 2 ∧ c.1 % 2 = 2 % 2 ∧ c.2 = .near) ∧
    (let s := testShelf [(2, .waiting)] []
     (s.shelfOf 0 0).home 2 = .waiting ∧ ¬ ((s.rt 1 0).st = .idle ∧ (s.rt 1 0).inRun = true)) ∧
    ((testShelf [(2, .void)] []).shelfOf 0 0).home 2 = .void ∧ ((testShelf [(2, .released)] []).shelfOf 0 0).home 2 = .released := by
  decide +kernel

/-- The requesters of a spill and of a return reach stack 0, and nothing without an allotment. -/
theorem test_meets_deposit_slots (t : Option Nat) (u a : Nat) (h : homeOf a = .near 0) :
    (testShelf [] []).slotted { ctx := 1, task := t, num := some 0, wing := 0, unit := u } a tileBytes = true ∧
    (testShelf [] [] []).slotted { ctx := 1, task := none, num := some 0, wing := 0, unit := 0x400 } nearBase tileBytes = false :=
  ⟨test_reach_near _ _ _ _ rfl (.inr rfl) (test_in_reach_near []) h, by decide +kernel⟩

/-- Context 1 with an allotment of one resource in every slot. -/
def testAllot (r : Resource) (s : State := testUnits) : State :=
  { s with ctx := [(1, { prog := some { cert := { tasks := [{}], allots := [{ res := r, slot := 0, frame := 1 }] }, tasks := [(0, { st := .running })] } })] }

theorem test_meets_near_tier :
    (let r : Access := ⟨1, 0, nearBase + 19 * 2 ^ 37, 512, none⟩
     let s := testAllot (.stackPc 19 0)
     homeOf r.addr = .near 19 ∧ accInRun r = true ∧ s.allots 1 (.stackPc 19 (pcOf r.addr)) 8 0 = true ∧
       s.allows 1 (s.rt 1 0).epochOld false r.addr r.len = true ∧ (s.stack 19).retrain ≠ some (pcOf r.addr / 2) ∧
       (s.stack 19).bankUse (pcOf r.addr) (bankOf r.addr) = 0 ∧ s.poison = [] ∧ s.netOk (s.asker 1 0 (uStack 0)) (0 / 5) = true ∧
       (s.stack 19).comes = [] ∧ (s.stack 19).second = [] ∧ wordsIn [r.addr] r.addr r.len = [r.addr]) ∧
    (let r : Access := ⟨1, 0, nearBase + 8, 8, some (List.replicate 8 1)⟩
     let s := ({ testAllot (.stackPc 0 0) with stk := [(0, { comes := [(0, 9)], second := [(0, 11)] })] } : State)
     r.addr % 64 ≠ 0 ∧ accInRun r = true ∧ s.poisoned nearBase 64 = false ∧ 8 < Tbl.get 0 (s.stack 0).comes (pcOf r.addr) ∧
       (pcOf r.addr, 11) ∈ (s.stack 0).second) ∧
    (let r : Access := ⟨1, 0, nearBase, 64, some (List.replicate 64 1)⟩
     let s := { testAllot (.stackPc 0 0) with stk := [(0, { banks := [(0, 13)] })] }
     accInRun r = true ∧ (s.stack 0).bankUse (pcOf r.addr) (bankOf r.addr) = 13 ∧
       [8, 9, 15, 16].map (fun n => slotNear n 13) = [false, true, true, false] ∧ slotNear 8 0 = false ∧
       s.allows 1 false true r.addr r.len = true ∧ (r.addr + r.len) % 64 = 0) ∧
    (let r : Access := ⟨1, 0, nearBase + 511, 1, none⟩
     accInRun r = true ∧ accInRun { r with len := 2 } = false ∧ (testAllot (.stackPc 0 0) State.reset).allows 1 false false r.addr 1 = false) ∧
    (let s := { testUnits with stk := [(0, { retrain := some 0 })] }
     (s.stack 0).retrain = some (0 / 2)) := by decide

/-- Another wing's stack needs a network slot (spec/01 R14). -/
theorem test_network_slot : (testAllot (.stackPc 19 0)).netOk ((testAllot (.stackPc 19 0)).asker 1 0 (uStack 19)) 3 = false ∧
    (testAllot (.network 0)).netOk ((testAllot (.network 0)).asker 1 0 (uStack 19)) 3 = true := by decide

theorem test_meets_stacks :
    (testUnits.hasStack 19 = true ∧ (testUnits.stack 19).eye = none ∧ (testUnits.stack 19).retrain = none ∧ 131 % 128 < 4) ∧
    (let x : Stack := { trained := [(31, 51)], low := [3] }
     x.tempMoved 31 61 = true ∧ x.tempMoved 31 60 = false ∧ x.tempMoved 31 40 = false ∧ 3 ∈ x.low) ∧
    (let s := { testUnits with stk := [(0, { recent := [(0, 0, 1025)] }), (1, { recent := [(0, 0, 1024)] }), (2, { eye := some 0 })] }
     1024 < s.recentWords 0 0 ∧ s.recentWords 1 0 ≤ 1024 ∧ (s.stack 2).eye = some 0) ∧
    (let s := { testUnits with cond := { testUnits.cond with rep := { testUnits.cond.rep with opSeconds := 86400 }, opBase := 86400 } }
     s.cond.rep.ueWindow + 86400 ≤ s.opSeconds) := by decide
/-! ### The board tier, legacy flash and the link -/

/-- Board-tier port 0 active, in DBM or CXL mode. -/
def testBt (dbm : Nat) (x : BtPort := {}) (st : Nat := 2) (s : State := testUnits) : State :=
  (({ s with bt := [(0, x)] } : State).setFld RegF.btpStsState st 0).setFld RegF.btpStsMode dbm 0

/-- A read of one line of port 0. -/
def testAcc : Access := ⟨1, 0, boardBase, 64, none⟩

def testReq : BtReq := { tag := 0, line := 0, lines := 1, acc := testAcc }

theorem test_meets_board_requests :
    (let s := testBt 0 {} 2 (testAllot (.boardPort 0))
     homeOf testAcc.addr = .board 0 ∧ accBoardOk testAcc = true ∧ s.allots 1 (.boardPort 0) 6 0 = true ∧ s.shareOk (s.task 1 0).wing 0 6 = true ∧ s.shareOk 0 0 5 = false ∧ s.shares 1 (.hostSharePort 0) 5 = false ∧
       s.allows 1 (s.rt 1 0).epochOld false testAcc.addr 64 = true ∧ s.fld RegF.btpStsState 0 = 2 ∧ (s.btPort 0).conflict testAcc = false ∧
       (s.dbm 0 = true → (s.btPort 0).hasCredit testAcc = true) ∧ (s.btPort 0).freeTag = some 0 ∧ (s.btPort 0).comes ≤ 6 ∧
       6 < ({ comes := 7 } : BtPort).comes) ∧
    (let s := testBt 1 { hdrCr := 1 } 2 (testAllot (.boardPort 0))
     s.dbm 0 = true ∧ (s.btPort 0).hasCredit testAcc = true ∧ (s.btPort 0).hasCredit { testAcc with data := some [] } = false ∧
       ({} : BtPort).hasCredit testAcc = false) ∧
    (let x : BtPort := { out := [{ testReq with acc := { testAcc with data := some [] }, line := lineOf boardBase }], late := [1] }
     x.conflict testAcc = true ∧ x.freeTag = some 2) ∧
    ((testAllot (.boardPort 0) State.reset).allows 1 false false boardBase 64 = false ∧
      accBoardOk { testAcc with len := 576 } = false ∧ accBoardOk { testAcc with addr := boardBase + 4032, len := 128 } = false) := by decide +kernel

/-- A port message of 16 bytes: its kind, its status and its tag. -/
def testBtMsg (k st tag : Nat) : List Byte := leBytes 1 k ++ leBytes 1 st ++ leBytes 2 tag ++ leBytes 12 0

theorem test_meets_board_responses :
    (let s := testBt 1 { out := [testReq] }
     s.fld RegF.btpStsState 0 = 2 ∧ s.dbm 0 = true ∧ (s.btPort 0).out.find? (fun q => q.tag == 0) = some testReq ∧ 0 ∉ (s.btPort 0).late ∧
       testReq.share = false ∧ testReq.acc.data = none) ∧
    (∀ k ∈ [8, 9, 0xA, 0xC, 0xF], ∀ st ∈ [0, 1, 2], (testBtMsg k st 4095).length = 16 ∧ field (testBtMsg k st 4095) 0 1 % 16 = k ∧
      field (testBtMsg k st 4095) 1 1 % 16 = st ∧ field (testBtMsg k st 4095) 2 2 % 4096 = 4095) ∧
    (let s := testBt 0 { out := [testReq], late := [7] }
     s.fld RegF.btpStsState 0 = 2 ∧ s.dbm 0 = false ∧ 7 ∈ (s.btPort 0).late ∧ 0 ∉ (s.btPort 0).late ∧ 7 ∉ (s.btPort 0).cfgOut ∧
       0 ∉ (s.btPort 0).cfgOut) ∧
    (let x : BtPort := { cfgDue := [(true, 0, 7)] }
     let s := testBt 1 x
     (s.btPort 0).cfgDue = [(true, 0, 7)] ∧ (s.btPort 0).freeTag = some 0 ∧ (s.btPort 0).hdrCr + 1 = 1 ∧ (testBt 1).btPort 0 = {} ∧
       (testNext (.boardTierCreditReturn 0 1 0) s).btPort 0 = { cfgOut := [0], sent := [dbmConfig true 0 0 7] }) ∧
    (let s := testBt 1 { cfgOut := [4095] }
     s.fld RegF.btpStsState 0 = 2 ∧ s.dbm 0 = true ∧ 4095 ∈ (s.btPort 0).cfgOut ∧ 4094 ∉ (s.btPort 0).cfgOut) ∧
    (0xF ∉ [1, 2, 4, 5, 8, 9, 0xA, 0xC] ∧ (testBt 1 {} 3).fld RegF.btpStsState 0 = 3 ∧ testUnits.hold.length = 64) := by decide +kernel

theorem test_meets_flash_reads :
    (let r : LfRead := { cid := 9, buffer := 0, addr := flashBase, mover := some 0 }
     let s := testK4 [r]
     (s.flash 0).reads.find? (fun r => r.cid == 9 && !r.ready) = some r ∧ s.readWanted r = true ∧ s.readWanted { r with addr := 0 } = false) := by
  decide

/-- A flit of a kind and a sequence number with its check value. -/
def testFlit (k seq : Nat) (lead : List Byte := []) : List Byte :=
  let h := leBytes 2 (k + 16 * seq) ++ leBytes 6 0 ++ pad 304 lead
  h ++ leBytes 8 (crc64.of h)

def testPort (x : Port := {}) (st : Nat := 2) (s : State := testUnits) : State := ({ s with port := [(0, x)] } : State).setFld RegF.lnkStsState st 0

theorem test_flit_good (k seq : Nat) (lead : List Byte) :
    (testFlit k seq lead).length = 320 ∧ crc64.of ((testFlit k seq lead).take 312) = field (testFlit k seq lead) 312 8 := by
  have n : (leBytes 2 (k + 16 * seq) ++ leBytes 6 0 ++ pad 304 lead).length = 312 := by simp
  refine ⟨by simp [testFlit], ?_⟩
  have h := field_mid (leBytes 2 (k + 16 * seq) ++ leBytes 6 0 ++ pad 304 lead) [] 8
    (crc64.of (leBytes 2 (k + 16 * seq) ++ leBytes 6 0 ++ pad 304 lead))
  rw [n, List.append_nil, Nat.mod_eq_of_lt (crc64_of_lt _)] at h
  rw [testFlit, h, List.take_left' n]

theorem test_meets_flits :
    (testPort.portUp 0 = true ∧ (testPort {} 3).portUp 0 = true ∧ (testPort.lport 0).rxSeq = 4095) ∧
    (∀ k ∈ [0, 1, 2, 3, 4], field (testFlit k 0) 0 1 % 16 = k) ∧
    (∀ d ∈ [(0, 1), (4095, 0), (2047, 2048), (1, 2), (2046, 2047)], (field (testFlit 1 d.1) 0 2 / 16 + 4096 - 4095) % 4096 = d.2) ∧
    (({ lanes := [0], replacing := [8] } : Port).replacing ≠ [] ∧ max 1 (testPort.eff RegF.lnkCfgRetryLimit 0) = 1) := by decide +kernel

/-- Four codewords of lane 2 within 250,000 cycles fail it, four within more do not, and CTRL flits tell of it (spec/11 R304, R313). -/
theorem test_codewords :
    (let x : Port := { lanes := [0, 1, 2, 3, 4, 5, 6, 7], badWords := [(2, 0), (2, 1), (2, 250000)] }
     ((x.words 250000 4).map (fun b => b.1)) = [2, 2, 2, 2] ∧ ((x.words 250001 4).map (fun b => b.1)) = [2, 2, 2] ∧
       (x.words 250000 1).map (fun b => b.1) = [2, 2, 2, 0]) ∧
    (let s := (testPort { lanes := [0, 1, 2, 3, 4, 5, 6, 7], badWords := List.replicate 4 (2, 0) }).setFld RegF.lnkStsHealthy 0x1FF 0
     let t := s.failWords 0
     t.healthy 0 2 = false ∧ t.healthy 0 3 = true ∧ (t.lport 0).replacing = [2] ∧ (t.lport 0).badWords = [] ∧
       (t.lport 0).flits.map (fun f => [field f 0 1 % 16, field f 8 1, field f 9 1, field f 10 1]) = [[3, 1, 2, 2]]) := by decide +kernel

/-- A message with every field at its greatest value. -/
def testMsg : Msg :=
  { kind := 15, hops := 15, hop := 7, dstWing := 3, srcDev := 65535, dstDev := 65535, queue := 63, op := 65535,
    payload := [1], index := 2 ^ 32 - 1, count := 2 ^ 32 - 1, time := 2 ^ 64 - 1 }

theorem test_meets_messages : let m := testMsg
    1 ≤ m.kind ∧ m.kind < 16 ∧ m.hops < 16 ∧ m.hop < 8 ∧ m.dstWing < 4 ∧ m.queue < 64 ∧ m.payload.length < 2 ^ 15 ∧ Msg.ofBytes m.bytes = m := by
  decide

/-- A running task with one send entry, its state and the stream it sends from, with slots on ports 0 and 15 and both up. -/
def testSend (e : SendEntry) (x : SendSt) (y : Stream := {}) (al : List Allot := testSlots [.linkSend 0, .linkSend 15]) : State :=
  ({ testPort with ctx := [(1, { prog := some { cert := { tasks := [{ sends := [e] }], allots := al },
                                                tasks := [(0, { st := .running, sends := [(0, x)] })] } })],
                   strm := [(0, y)] } : State).setFld RegF.lnkStsState 2 15

/-- Without a slot on its port an entry waits; port 15 is the next wing's, and needs a network slot too (spec/01 R14, R18). -/
theorem test_send_slot : (testSend {} {} {} []).sendSlot 1 0 {} 0 = false ∧ (testSend {} {}).sendSlot 1 0 {} 0 = true ∧
    (testSend {} {}).sendSlot 1 0 { kind := .multicast, target := 0x8001 } 15 = false ∧
    (testSend {} {} {} (testSlots [.linkSend 15, .network 0])).sendSlot 1 0 { kind := .multicast, target := 0x8001 } 15 = true := by decide +kernel

theorem test_meets_sends :
    (let e : SendEntry := {}
     let s := testSend e { credits := [(0, 1)] } { held := true, slots := [.full 1, .empty] }
     (s.task 1 0).sends[0]? = some e ∧ s.running 1 0 = true ∧ 0 ∈ e.receivers ∧ s.portUp (e.out 0) = true ∧ s.sendSlot 1 0 e 0 = true ∧
       Tbl.get 0 (s.sendSt 1 0 0).credits 0 ≠ 0 ∧ (s.sendSt 1 0 0).isDetached 0 = false ∧ 0 < e.count ∧ (s.stream 0).held = true ∧
       ((s.stream 0).slot 0).isFull = true ∧ e.ledger = none ∧ e.kind ≠ .reduce) ∧
    (let e : SendEntry := { kind := .multicast, target := 0x8001 }
     let s := testSend e { detached := [(15, 0)], recalling := [(15, 1)], credits := [(15, 1)] } { held := true, slots := [.full 1, .empty] }
       (testSlots [.linkSend 15, .network 0])
     s.sendSlot 1 0 e 15 = true ∧ s.portUp (e.out 15) = true ∧ 15 ∈ e.receivers ∧ 0 ∈ e.receivers ∧ (s.sendSt 1 0 0).isDetached 15 = true ∧ (s.sendSt 1 0 0).recallEnded.contains 15 = false ∧
       1 ≤ Tbl.get 0 (s.sendSt 1 0 0).recalling 15 ∧ Tbl.get 0 (s.sendSt 1 0 0).recalling 15 ≤ e.count ∧ (s.sendSt 1 0 0).isDetached 0 = false ∧
       Tbl.get 0 (s.sendSt 1 0 0).credits 0 = 0) := by decide

/-- Port 0 with a whole message waiting in its class. -/
def testGot (m : Msg) (s : State := testUnits) : State :=
  testPort (if msgClass m.kind = 0 then { rx0 := [pad 304 m.bytes] } else { rx1 := [pad 304 m.bytes] }) 2 s

/-- Two messages packed end to end in one flit come out one by one (spec/11 R310). -/
theorem test_packed :
    (nextMsg [pad 304 (({ kind := 4, count := 1 } : Msg).bytes ++ ({ kind := 7, op := 9 } : Msg).bytes)]).map
      (fun x => decide (x.1 = { kind := 4, count := 1 } ∧ (nextMsg x.2.1).map (fun y => y.1) = some { kind := 7, op := 9 })) = some true := by
  decide +kernel

/-- RECALL travels in traffic class 0 (spec/11 R314). -/
theorem test_recall_class : msgClass kRecall = 0 ∧ msgClass kDetach = 1 := by decide

theorem test_meets_received :
    (∀ k ∈ [1, 2, 3, 4, 5, 6, 7, 8, 9, 10, 11], ((testGot { kind := k }).takeMsg 0 k).map (fun x => x.1) = some { kind := k }) ∧
    ((testGot { kind := 1, hop := 0, hops := 1 }).takeMsg 0 1).map (fun x => decide (x.1.hop < x.1.hops)) = some true ∧
    (let s := testAllot (.linkTransit 0)
     s.hasTransit 0 = true ∧ testUnits.hasTransit 0 = false) ∧
    (let x : RQueue := { held := true, bind := { op := 3, base := nearBase } }
     x.held = true ∧ x.bind.op = 3 ∧ x.used < x.bind.slots ∧ x.bind.toStream = false) := by decide +kernel

/-- A task of context 1 whose queue 0 of wing 0 takes operation 0 of a group, with the gallery pairs of the wing's network ports or none. -/
def testQueue (x : RQueue) (g : List RedGroup) (al : List Allot) : State :=
  { testUnits with rq := [(0, { x with held := true, ctx := 1, bind := { base := 0x10000, slots := 2 } })],
                   ctx := [(1, { prog := some { cert := { tasks := [{}], groups := g, allots := al }, tasks := [(0, { st := .running })] } })] }

/-- A message waits for the gallery pairs of its queue's task (spec/06 R157); one that no queue takes, and a contribution that the reduction control
takes, needs none. -/
theorem test_meets_delivery :
    (let m : Msg := { kind := 1, payload := [1] }
     (testQueue {} [] []).mayDeliver m = false ∧ (testQueue {} [] []).mayDeliver { m with op := 1 } = true ∧
       (testQueue {} [] (testPairs 0x490)).mayDeliver m = true) ∧
    (let m : Msg := { kind := 3, payload := [1] }
     (testQueue {} [{ combiner := true }] []).controlled 1 m = true ∧ (testQueue {} [] []).controlled 1 m = false ∧
       (testQueue {} [{}] []).controlled 1 m = false) := by decide +kernel

/-- Each credit goes back to the sender of its own message (spec/11 R317). -/
theorem test_credits_of_senders :
    let s := testQueue { used := 2, taken := 2, wr := 0, src := 9, port := 2, hops := 1, froms := [(7, 1, 2), (9, 2, 1)] } [] []
    (s.rqueue 0 0).froms = (7, 1, 2) :: [(9, 2, 1)] ∧ 0 < (s.rqueue 0 0).used ∧ (7 : Nat) ≠ s.fld RegF.glbLinkCfgDevId ∧
      ((s.freeMsg 0 0).rqueue 0 0).froms = [(9, 2, 1)] ∧
      (((s.setFld RegF.lnkStsState 2 1).freeMsg 0 0).lport 1).wait1.map (fun x => (Msg.ofBytes x.2).dstDev) = [7] := by decide +kernel

/-- A program with a root-less barrier and a ledger of group 0. -/
def testTree (x : LedgerRt) (g : RedGroup) : State :=
  { testUnits with ctx := [(1, { prog := some { cert := { tasks := [{ barrier := some { barrier := 4, parent := 2 } }], groups := [g], ledgers := [{}] },
                                                ledgers := [x], tasks := [(0, { st := .running, bar := some {} })] } })] }

theorem test_meets_control_messages :
    (let s := testTree {} { number := 0, children := 1 }
     (s.barriers 4).filter (fun y => !y.2.2.root && y.2.2.parent == 2 && s.barUse y.1 y.2.1 == 0) = [(1, 0, { barrier := 4, parent := 2 })] ∧
       (s.rt 1 0).bar = some {} ∧ ((s.cert 1).redGroup 0).children.getLsbD 0 = true) ∧
    (let s := testTree { sentUp := true, mark := some (2, 5) } { number := 0, rank := 1, parent := 3 }
     s.ledgersOfGroup 0 = [(1, 0)] ∧ ((s.cert 1).redGroup 0).children.getLsbD 3 = false ∧ ((s.cert 1).redGroup 0).rank ≠ 0 ∧
       ((s.cert 1).redGroup 0).parent = 3 ∧ (s.ledger 1 0).sentUp = true ∧ (s.ledger 1 0).verdict = none ∧ (s.ledger 1 0).mark = some (2, 5) ∧ 5 ≤ 6) := by
  decide

/-- A task of small traffic of group 0, with a child on port 0, or with its parent on port 3. -/
def testSmall (g : RedGroup) (x : SmallRt) : State :=
  { testUnits with ctx := [(1, { prog := some { cert := { tasks := [{ small := some 0 }], entries := [{ tasks := [0], args := 0x10000 }], groups := [g] },
                                                run := some ⟨0, 0, [], 0⟩, smalls := [(0, x)], tasks := [(0, { st := .running, inRun := true })] } })] }

theorem test_meets_smalls :
    (let s := testSmall { children := 1 } {}
     s.ledgersOfGroup 0 = [] ∧ s.smallsOfGroup 0 = [(1, some 0)] ∧ ((s.cert 1).redGroup 0).children.getLsbD 0 = true) ∧
    (let s := testSmall { rank := 1, parent := 3 } { sentUp := true }
     ((s.cert 1).redGroup 0).children.getLsbD 3 = false ∧ ((s.cert 1).redGroup 0).rank ≠ 0 ∧ ((s.cert 1).redGroup 0).parent = 3 ∧
       (s.smallRt 1 0).sentUp = true ∧ (testTree {} {}).smallsOfGroup 0 = []) ∧
    (field (abortPayload .revoked 5 true) 1 1 = 1 ∧ field (abortPayload .revoked 5) 1 1 = 0 ∧ field (abortPayload .revoked 5 true) 2 2 = 5) := by
  decide

theorem test_meets_time :
    (let s := (testPort {} 2 { testUnits with timeRun := true, syncGood := 2, timeSet := true }).setFld RegF.glbTimeCfgUpValid 1
     s.fld RegF.glbTimeCfgMaster ≠ 1 ∧ s.fld RegF.glbTimeCfgUpValid = 1 ∧ s.portUp (s.fld RegF.glbTimeCfgUpstream) = true ∧ s.timeRun = true ∧
       2 ≤ s.syncGood ∧ s.timeSet = true) ∧
    (((16 : Int) - 0) - (0 - 16)) / 2 = 16 ∧ (((-17 : Int) - 16) - (0 - 0)) / 2 = -17 := by decide

theorem test_meets_lanes :
    (let s := (testPort { lanes := [0, 1, 2, 3, 4, 5, 6, 7], replacing := [8] }).setFld RegF.lnkStsHealthy 0x1FF 0
     s.portUp 0 = true ∧ s.healthy 0 8 = true ∧ s.idleLanes 0 = [8] ∧ s.fld RegF.lnkCfgSpareEn 0 = 1 ∧ (s.lport 0).replacing = [8]) ∧
    (let s := (testPort { lanes := [0, 1, 2, 3, 4, 5, 6, 7] }).setFld RegF.lnkStsHealthy 0xF 0
     s.laneShort 0 = true ∧ s.canHalf 0 = true) ∧
    (let s := (testPort { lanes := [0, 1, 2, 3, 4, 5, 6, 7], replays := 1 }).setFld RegF.lnkStsHealthy 7 0
     s.laneShort 0 = true ∧ s.canHalf 0 = false ∧ max 1 (s.eff RegF.lnkCfgRetryLimit 0) ≤ (s.lport 0).replays) ∧
    (let s := (testPort { lanes := [0, 1, 2, 3, 4, 5, 6, 7] }).setFld RegF.lnkCfgEyeMin 20 0
     let u := s.setFld RegF.lnkStsHealthy 0x1FF 0
     19 < u.fld RegF.lnkCfgEyeMin 0 ∧ ¬ 20 < u.fld RegF.lnkCfgEyeMin 0 ∧ u.healthy 0 8 = true ∧ u.portUp 0 = true) ∧
    (let s := testPort.setFld RegF.glbStatusReady 1
     s.ready = true ∧ testPort.ready = false ∧ s.portUp 0 = true ∧ ((testPort {} 0).setFld RegF.glbStatusReady 1).portUp 0 = false) ∧
    ((testPort { isolated := true } 4).portUp 0 = false ∧ ((testPort { isolated := true } 4).lport 0).isolated = true) ∧
    (let s := (testPort {} 0 { testUnits with boot := { testUnits.boot with started := true } }).setFld RegF.bootStsState 3
     s.bootState = 3 ∧ s.boot.started = true ∧ s.ready = false ∧ s.portUp 0 = false ∧ (s.lport 0).isolated = false ∧ 700 ≤ 700 ∧
       s.fuse.generation + 1 ≠ s.fuse.generation ∧ s.fld RegF.lnkCfgHalfEn 0 = 1 ∧ (s.setFld RegF.lnkCfgHalfEn 0 0).fld RegF.lnkCfgHalfEn 0 = 0) ∧
    (∀ h ∈ [(0xF, 4), (0x7F, 7), (0xFF, 8), (0x1FF, 9), (7, 3)], ((List.range 9).filter (fun l => (BitVec.ofNat 9 h.1).getLsbD l)).length = h.2) := by
  decide
/-! ### Boot, power, heat, plans, the corridor and the sideband -/

/-- The module in a boot state with its rails on. -/
def testBoot (st : Nat) (b : Boot := { t0 := true }) : State := ({ State.reset with boot := b, rail := .on } : State).setFld RegF.bootStsState st

/-- An image header: magic, version, generation 0, key 0, 4096 bytes, with the bytes from 12 on. -/
def testImage : Mem :=
  [(0, 0x54), (1, 0x4A), (2, 0x53), (3, 0x38), (4, 1), (9, 0x10)]

theorem test_meets_boot :
    ((testBoot 0).boot.t0 = true ∧ (testBoot 0).bootState = 0 ∧ (testBoot 0).rail = .on) ∧
    ((testBoot 1).bootState = 1 ∧ (testBoot 1).headerFault = some 1 ∧ 2 ^ 28 - 1 + [(0 : Byte)].length ≤ 2 ^ 28) ∧
    (({ testBoot 1 with img := testImage } : State).headerFault = none) ∧
    ((testBoot 2).bootState = 2 ∧ (testBoot 2).boot.digest = none ∧ (testBoot 2 { t0 := true, digest := some [] }).boot.digest = some []) ∧
    ((testBoot 3).bootState = 3 ∧ (testBoot 3).boot.started = false ∧ (testBoot 3 { t0 := true, started := true }).boot.started = true) ∧
    (let f : Bringup := ⟨15, 255, BitVec.allOnes 32, List.replicate 20 (List.replicate 32 0x1E1E2727), [], 0, [], false, 4000⟩
     f.fatal = false ∧ (testBoot 3).anyWing f = true ∧ (testBoot 3).anyWing { f with wcOk := 0 } = false) := by decide +kernel

/-- Bytes of a number, the highest first. -/
def testBig (n : Nat) : List Byte := (List.range 48).reverse.map (fun i => BitVec.ofNat 8 (n / 256 ^ i))

/-- A signature over the SHA-384 of "abc", worked out outside the model with Python's integers from the curve and the algorithm of FIPS 186, and the same
with its last byte changed. -/
theorem test_signature :
    let key := testBig 0xbfd152465458e5b9f1a903eafef03095ebfd52c5f9ea97be74de9194355fcfb40ec097315adf6afdefba21f44b625b48 ++
      testBig 0x17058eff9a1ad175a4675e9c730cb028ec76aec544f7a56d58164d8cfc0402b489c4e74c918dc3a77f5c219d31b8e245
    let dig := testBig 0xcb00753f45a35e8bb5a03d699ac65007272c32ab0eded1631a8b605a43ff5bed8086072ba1e7cc2358baeca134c825a7
    let sig := testBig 0xaab87ece80b3285ad42c07e8ce8d01bd7c3f8aa5c36d586e0c70ccdf541106584eee138b2d4c66d7e75b0e38d4c18f64 ++
      testBig 0xfd9420337883ebce85a980dc146723ad3f6337a86cd90afdef9cdb943cbfa6bc537cf976d7f891e6914ee666634b2627
    ecdsaVerifies key dig sig = true ∧ ecdsaVerifies key dig (sig.set 95 0) = false := by decide +kernel

theorem test_meets_supply :
    (State.reset.pins.perst = true ∧ State.reset.rail = .on ∧ State.reset.pins.pwrGood = true ∧ (testBoot 4).rail = .on) ∧
    (∀ r ∈ [Rail.off, .charging, .ready, .rising, .falling], ({ State.reset with rail := r } : State).rail ≠ .on) ∧
    (let s : State := { State.reset with rail := .falling, evr := { falling := true, closed := true, mirrorOff := true, last := 4096 } }
     s.rail = .falling ∧ s.evr.closed = true ∧ s.evr.mirrorOff = true ∧ s.evr.copied + 4096 < s.evr.last + 1 ∧ s.evr.copied < s.evr.last) ∧
    (let s : State := { State.reset with rail := .falling, evr := { falling := true, closed := true, last := 7, copied := 7 } }
     s.evr.acc.length ≤ s.evr.accCopied ∧ s.evr.last ≤ s.evr.copied) := by decide

/-- In service, READY, with a power history. -/
def testPower (x : Power := {}) : State := ({ testUnits with pwr := { x with computeOn := true } } : State).setFld RegF.glbStatusReady 1

theorem test_meets_power :
    ((testPower { target := 22 }).inService = true ∧ (testPower { target := 22 }).pwr.target ≤ 22 ∧ testPower.requests ≠ []) ∧
    (∀ l ∈ [[3000], [2800], [2700]], let s := testPower { samples := l }
      s.ready = true ∧ s.pwr.samples.take (1000 * s.window) ≠ [] ∧ ∀ x ∈ s.pwr.samples, x ≤ 4095) ∧
    ((({ testPower with timeRun := true } : State).tclkOn = false) ∧ ({ testPower { fpll := true } with timeRun := true } : State).tclkOn = true ∧
      testPower.pwr.trip = false ∧ testPower.alertOn = false ∧ (testPower { lp := 22 }).cause = 0 ∧ (testPower { lp := 22, trip := true }).cause = 7) ∧
    (testPower.pins.vrAlert = false ∧ ({ testPower with pins := { vrAlert := true } } : State).pins.vrAlert = true ∧
      (testPower { alertHold := true }).pwr.alertHold = true) := by decide

theorem test_meets_heat :
    (let temps : List (Option Nat) := List.replicate 95 (some 40) ++ [some 110]
     (∀ x ∈ temps, ∀ v, x = some v → v < 256) ∧ nth none temps 95 = some 110 ∧ (tripBy temps).isSome = true) ∧
    (let temps : List (Option Nat) := List.replicate 9 none ++ List.replicate 87 (some 105)
     nth none temps 23 = some 105 ∧ 8 < failedIn temps 0 ∧ failedIn temps 1 = 0) ∧
    (tripBy (List.replicate 8 none ++ List.replicate 88 (some 109)) = none) ∧
    (let s : State := { testPower { fpll := true } with timeRun := true }
     s.rail = .on ∧ s.timeRun = true ∧ s.tclkOn = true ∧ min 95 (s.fld RegF.pwrCfgTjThrottle) ≤ 95 ∧ s.hasStack 19 = true ∧ testPower.timeRun = false) ∧
    (nth false (testPower { cpllLost := [true, false] }).pwr.cpllLost 0 = true ∧ nth false (testPower { cpllLost := [true, false] }).pwr.cpllLost 1 = false ∧
      ((State.reset.setFld RegF.stkStsState 1 4).fld RegF.stkStsState 4 = 1)) ∧
    ((testPower { hot := true }).pwr.hot = true ∧ (testPower { cpll := true }).pwr.cpll = true ∧ (testPower { fpll := true }).pwr.fpll = true ∧
      (testPower { cool := false }).pwr.cool = false ∧ testPower.inService = true ∧ testUnits.hasStack 19 = true) := by decide

theorem test_meets_droop :
    (let s := testPower { stretch := [false, true] }
     s.inService = true ∧ s.stretching 0 = false ∧ s.stretching 1 = true ∧ s.pwr.stretch.length = 2 ∧ s.pwr.stretched.length = 2 ∧ s.pwr.trims.length = 2) ∧
    (let low : List (Option Nat) := List.replicate 127 none ++ [some 199]
     let high : List (Option Nat) := List.replicate 128 (some 351)
     nth none low 127 = some 199 ∧ testPower.cond.rep.shifts[127]? ≠ some none ∧
     ({ shifts := [none, some 0] } : Report).shifts[0]? = some none ∧ low.length = 128 ∧ (low.any (fun x => x.any (fun v => decide (v < 200))) = true) ∧ (high.all (fun x => x.all (fun v => decide (350 < v))) = true) ∧ high.length = 128) ∧
    (let s := testPower { trims := [6, 0] }
     6 ≤ nth 0 s.pwr.trims 0 ∧ nth 0 s.fuse.vmax 1 ≤ s.voltage 1) := by decide +kernel

theorem test_meets_plans :
    (testPower.ready = true ∧ testPower.cond.planning = false ∧ ({ testPower with cond := { planning := true } } : State).cond.planning = true) ∧
    (let s : State := { testPower with evr := { restored := true, last := 1, day := [(1, { seq := 1 })], acc := [{ seq := 1 }] } }
     s.rail = .on ∧ s.evr.restored = true ∧ s.evr.mirrorOff = false ∧ s.evr.closed = false ∧ s.evr.falling = false ∧
       s.evr.acc[s.evr.accCopied]? = some { seq := 1 } ∧ s.evr.copied + 1 ≤ s.evr.last ∧ (Tbl.get {} s.evr.day 1 : EvRec).seq = 1) ∧
    (Tbl.get {} ({ last := 2, day := [(1, { seq := 4097 }), (2, { seq := 2 })] } : Recorder).day 1 : EvRec).seq ≠ 1 ∧
    (let u := testPower.setFld RegF.glbBar4WinBase 383
     u.apertureAddr (2 ^ 20) = none ∧ u.apertureAddr 64 = some (383 * 2 ^ 20 + 64) ∧ u.readBar4 (2 ^ 20) 4 = ⟨[0, 0, 0, 0], false⟩) ∧
    (testPower.apertureAddr 64 = some 64 ∧ 64 % 64 = 0 ∧ 64 ∈ [4, 8, 16, 32, 64] ∧ testPower.pairFree 64 = true) := by decide

theorem test_meets_corridor :
    (∀ path ∈ [Path.bar0, .pcie, .smbus], ({ testPower with boot := { t0 := true } } : State).answers path = true) ∧
    (∀ path ∈ [Path.pcie, .smbus], (testBoot 1).answers path = true ∧ (testBoot 1).ready = false) ∧ (testBoot 1).answers .bar0 = false ∧
    (let s : State := { testPower with evr := { day := [(4095, { seq := 4095 })], acc := [{ seq := 9 }] } }
     s.recordAt 0 4095 = some { seq := 4095 } ∧ s.recordAt 0 4094 = none ∧ s.recordAt 1 0 = some { seq := 9 } ∧ s.recordAt 1 1 = none) := by decide

theorem test_meets_sideband :
    (Path.pcie ≠ .bar0 ∧ Path.smbus ≠ .bar0 ∧ (testBoot 1).answers .smbus = true) ∧
    (∀ e ∈ [8, 254], ∀ k ∈ [1, 2, 4, 5, 0, 3, 255], let msg : List Byte := leBytes 2 0 ++ leBytes 1 k ++ leBytes 1 0 ++ leBytes 1 e
      3 ≤ msg.length ∧ field msg 2 1 = k ∧ field msg 3 1 % 4 < 2 ∧ field msg 4 1 = e ∧ field msg 3 1 ∈ [0, 1, 0x7E, 0xFF]) ∧
    (∀ e ∈ [7, 255], field (leBytes 4 0 ++ leBytes 1 e) 4 1 < 8 ∨ field (leBytes 4 0 ++ leBytes 1 e) 4 1 = 255) := by decide

/-! ### The whole block -/

theorem test_meets_every_step : State.reset.MemoriesWf ∧ (∃ t, Machine.step State.reset = .next t) :=
  ⟨⟨Tbl.nil_wf 0, Tbl.nil_wf 0, Tbl.nil_wf 0, Tbl.nil_wf 0⟩, _, rfl⟩

theorem test_meets_go_refused : (testBoot 2).rail = .on ∧ (testBoot 2).bootState ≠ 1 ∧ (testBoot 5).bootState ≠ 1 := by decide

theorem test_meets_code_widths : (0x7E < 256 ∧ 2 ^ 32 - 1 < 2 ^ 32 ∧ fmtWidth 7 = 8 ∧ fmtWidth 0xE = 32) ∧
    valueOf 0x0F (2 ^ 64 - 1) 0 = .fin ⟨true, 1, 0⟩ ∧ valueOf 0x10 1 5 = .fin ⟨false, 1, 5⟩ ∧ (floatFmt 7).map (fun t => (t.f, t.e)) = some (3, 4) := by
  decide

/-- Codes that meet each clause of FloatingCodesHaveTheirValues at a bound of its range: zero and the largest subnormal, the least and the greatest
normal code, an infinity and a NaN of E5M2, the NaN and the greatest code of E4M3, and the greatest code of E2M1. -/
theorem test_meets_floating_codes : let E := fun (c e f : Nat) => c / 2 ^ f % 2 ^ e
    (E 0x80 5 2 = 0 ∧ E 3 5 2 = 0 ∧ E 4 5 2 = 1 ∧ E 0x7B 5 2 = 30 ∧ E 0x7C 5 2 = 31 ∧ 0x7C % 2 ^ 2 = 0 ∧ E 0xFF 5 2 = 31 ∧ 0xFF % 2 ^ 2 = 3) ∧
    (E 0x7F 4 3 = 15 ∧ 0x7F % 2 ^ 3 = 7 ∧ E 0xFE 4 3 = 15 ∧ 0xFE % 2 ^ 3 = 6 ∧ E 0xF 2 1 = 3) ∧ 0xFF < 2 ^ (1 + 5 + 2) ∧ 0xFE < 2 ^ (1 + 4 + 3) ∧
    0xF < 2 ^ (1 + 2 + 1) ∧ valueOf 6 0x7C = .inf false ∧ valueOf 6 0xFF = .nan ∧ valueOf 6 3 = .fin ⟨false, 3, -16⟩ ∧
    valueOf 6 0x7B = .fin ⟨false, 7, 13⟩ ∧ valueOf 0xA 0xF = .fin ⟨true, 3, 1⟩ := by decide

/-- Codes that meet the clauses of FixedCodesAndSmallFormats: a finite code below the largest one of F16, and codes of the small formats. -/
theorem test_meets_fixed_codes : 0x7BFE < 2 ^ 16 ∧ valueOf 2 0x7BFE = .fin ⟨false, 2046, 5⟩ ∧ 0x7BFE ≠ 0x7BFF ∧ 0x7BFE ≠ 0x7BFF + 2 ^ 15 ∧
    valueOf 2 0x7BFF = .fin ⟨false, 2047, 5⟩ ∧ 0x3F < 2 ^ 6 ∧ valueOf 8 0x3F = .fin ⟨true, 7, 2⟩ ∧ valueOf 9 0x1E = .fin ⟨false, 14, -1⟩ ∧
    0x1E ≠ 0x1F ∧ 0x1E ≠ 0x1F + 2 ^ 5 := by decide
/-! ### Results worked out in the specification -/

/-- spec/15_integrity_records_guarantees.md R405: the check values over the nine ASCII bytes 123456789. -/
theorem test_check_values : let l : List Byte := [0x31, 0x32, 0x33, 0x34, 0x35, 0x36, 0x37, 0x38, 0x39]
    [0, 1, 2, 3].map (fun k => (crcFn k).of l) = [0xE3069283, 0xCBF43926, 0x6C40DF5F0B497347, 0x29B1] := by decide +kernel

/-- The F32 codes of 3.1, 2.9, 9.6, 4.0, 3.8, 3.5 and 3.3, the maxima of the seven steps of spec/02_number_formats.md. -/
def testMaxima : List Nat := [0x40466666, 0x4039999A, 0x4119999A, 0x40800000, 0x40733333, 0x40600000, 0x40533333]

/-- The example of spec/02_number_formats.md: E4M3, HEADROOM 1, HLEN 3, SCALE −4: the scales chosen after each step. -/
theorem test_scale_through_seven_steps :
    (testMaxima.foldl (fun (l : List SmEntry) m => ((l.headD {}).mark (some { maxAbs := m }) 0) :: l)
      [{ fmt := 7, headroom := 1, hlen := 3, scale := -4, history := List.replicate 16 0 }]).map (fun e => (e.scale, e.hcount)) =
    [(-5, 4), (-4, 4), (-4, 4), (-4, 4), (-4, 3), (-6, 2), (-6, 1), (-4, 0)] := by decide +kernel

/-- The conversions of its step 3: 5.3 gives 0x7B, 7.25 gives 448 and does not saturate, 7.3 saturates. -/
theorem test_e4m3_conversions : [0x40A9999A, 0x40E80000, 0x40E9999A].map (fun c => (convert 7 0 0 (-6) (valueOf 1 c)).code) = [0x7B, 0x7E, 0x7E] ∧
    [0x40E80000, 0x40E9999A].map (fun c => (convert 7 0 0 (-6) (valueOf 1 c)).sat) = [false, true] := by decide +kernel

/-- The exact-class sum of spec/03_exact_path.md: 448 · 1 + 2^−9 · 1 − 448 · 1 + 3 · 0.5 in E4M3. -/
theorem test_exact_sum : let as := [0x7E, 0x01, 0xFE, 0x44].map (fun c => valueOf 7 c)
    let bs := [0x38, 0x38, 0x38, 0x30].map (fun c => valueOf 7 c)
    (ChainSt.panel .exact {} as bs 0 false).x = 6450839552 ∧
    ((ChainSt.panel .exact {} (as.take 2) (bs.take 2) 0 false).splitForm = (1924153737216, 0)) ∧
    ((ChainSt.panel .exact {} (as.drop 2) (bs.drop 2) 0 false).splitForm = (279557273812992, -1)) ∧
    splitJoin 281481427550208 (-1) = some 6450839552 := by decide +kernel

/-- Its canonical chain of three panels in E8M7: 2^24, 2^−8 and −2^24 give 2^−7. -/
theorem test_canonical_chain : let p := fun (s : ChainSt) (a b : Nat) => s.panel .canonical [valueOf 3 a] [valueOf 3 b] 0 false
    let s := p (p (p {} 0x4580 0x4580) 0x3D80 0x3D80) 0xC580 0x4580
    (convert 1 0 0 0 (s.result .canonical 0 0)).code = 0x3C000000 := by decide +kernel

/-- The breach of spec/09_ledger_reduction_update.md: a repeat at −54, the elements of round 1, and the next scale −53. -/
theorem test_breach : let l : LedgerEntry := { localAdds := 2, headroom := 2 }
    l.m = 1 ∧ l.verdict { cbreach := true, excess := 3, cexcess := 3, expmax := -6 } (-59) = .again (-54) ∧
    l.verdict { round := 1, expmax := -6 } (-54) = .update ∧ l.nextScale (-6) (-59) = -53 ∧ l.nextScale (-12) 0 = -59 ∧
    ([3 * 2 ^ 45, -2 ^ 46, 81 * 2 ^ 47, 2 ^ 45].map (fun q => shiftRne q 5)).sum = 326 * 2 ^ 40 ∧ shiftRne 5 5 = 0 ∧
    cexcessOf [81 * 2 ^ 47, 5] = 3 ∧ cbreachOf [81 * 2 ^ 47, 5] = true := by decide +kernel

/-- The last division of the attention example of spec/10_attention_kv.md: DIV(13, 3). -/
theorem test_attention_division : fdiv32 0x41500000 0x40400000 = 0x408AAAAB ∧ ffma32 0x41200000 0x3F000000 0x41000000 = 0x41500000 ∧
    fmul32 0x3F317218 log2e = 0x3F800000 ∧ fexp32 0xBF800000 = 0x3F000000 := by decide +kernel

/-- The address of spec/07_memory_tiers.md: stack 2, R = 145, p = 17, bank 2. -/
theorem test_stack_address : homeOf 0x14000012340 = .near 2 ∧ runOf 0x14000012340 = 145 ∧ pcOf 0x14000012340 = 17 ∧ bankOf 0x14000012340 = 2 := by
  decide

/-- The two addresses of spec/17_register_index.md. -/
theorem test_register_addresses : Reg.offset .stkMargin 13 9 = 0x02681048 ∧ regAt 0x02681048 = some (.stkMargin, 13, 9) ∧
    regAt 0x01801100 = some (.wingMaCfg, 2, 1) := by decide +kernel

/-- The plan of spec/14_clocks_power_condition.md: 1.30 mV/ps and 16.2 ps give GB 9. -/
theorem test_guard_band : guardBand 130 162 = 9 := by decide

/-- spec/02_number_formats.md R24 and R25: the largest finite codes, and the infinities. -/
theorem test_format_limits : valueOf 7 0xFE = .fin ⟨true, 14, 5⟩ ∧ valueOf 1 0x7F800000 = .inf false ∧ valueOf 2 0x7E00 = .nan ∧
    valueOf 7 0x7F = .nan := by decide
end

section
/-! SUPPORT. Counter clears and function resets (spec/00_scope.md R2, spec/12_rings_contexts_rota.md R350, spec/13_boot_protection_setup.md
R357, R359): clearing is a relation on states that lists and sequences of clears keep, and freeing sequences only ever frees. -/

namespace Sys2Proof.Machine

/-! ### Bits of cleared words -/

theorem bits_testBit (x lo w k : Nat) : (bits x lo w).testBit k = (decide (k < w) && x.testBit (lo + k)) := by
  rw [bits, Nat.testBit_mod_two_pow, Nat.testBit_div_two_pow, Nat.add_comm]

/-- Setting a field to zero drops the bits of the field and no other. -/
theorem setBits_zero_testBit (x lo w k : Nat) :
    (setBits x lo w 0).testBit k = (x.testBit k && !decide (lo ≤ k ∧ k < lo + w)) := by
  have split : setBits x lo w 0 = 2 ^ lo * (2 ^ w * (x / 2 ^ lo / 2 ^ w)) + x % 2 ^ lo := by
    rw [setBits_split, Nat.zero_mod, Nat.zero_mul, Nat.add_zero]; ring
  rw [split, Nat.testBit_two_pow_mul_add _ (Nat.mod_lt _ (Nat.two_pow_pos lo))]
  by_cases below : k < lo
  · simp [below, Nat.testBit_mod_two_pow]
  · obtain ⟨n, rfl⟩ : ∃ n, k = lo + n := ⟨k - lo, by omega⟩
    by_cases inside : n < w
    · simp [Nat.testBit_two_pow_mul, inside]
    · obtain ⟨m, rfl⟩ : ∃ m, n = w + m := ⟨n - w, by omega⟩
      simp [Nat.testBit_two_pow_mul, Nat.testBit_div_two_pow, show m + w + lo = lo + (w + m) by omega]

/-! ### What clearing may change -/

/-- From s to t, bits of the registers W and of the fields F have been dropped, remainders of cycle counters may have become zero, and
nothing else has changed. -/
structure State.Clears (s t : State) (W : List Reg) (F : List Fld) : Prop where
  rest : t = { s with regs := t.regs, accs := t.accs }
  bit : ∀ r i j k, (t.reg r i j).testBit k = (s.reg r i j).testBit k ∨
    (t.reg r i j).testBit k = false ∧ (r ∈ W ∨ ∃ f ∈ F, f.reg = r ∧ f.lo ≤ k ∧ k < f.lo + f.w)
  acc : ∀ k, Tbl.get 0 t.accs k = Tbl.get 0 s.accs k ∨ Tbl.get 0 t.accs k = 0

section
variable {s t u : State} {W : List Reg} {F : List Fld}

theorem State.Clears.refl : s.Clears s W F := ⟨rfl, fun _ _ _ _ => .inl rfl, fun _ => .inl rfl⟩

theorem State.Clears.trans (h : s.Clears t W F) (h' : t.Clears u W F) : s.Clears u W F where
  rest := by rw [h'.rest, h.rest]
  bit r i j k := by
    rcases h'.bit r i j k with e | e
    · rw [e]; exact h.bit r i j k
    · exact .inr e
  acc k := by
    rcases h'.acc k with e | e
    · rw [e]; exact h.acc k
    · exact .inr e

theorem State.clears_setReg {r : Reg} (i j : Nat) (h : r ∈ W) : s.Clears (s.setReg r i j 0) W F where
  rest := rfl
  bit r' i' j' k := by
    rw [State.reg_setReg]
    split
    · rename_i e; exact .inr ⟨Nat.zero_testBit k, .inl (e.1 ▸ h)⟩
    · exact .inl rfl
  acc _ := .inl rfl

theorem State.clears_setFld {f : Fld} (i j : Nat) (h : f ∈ F) : s.Clears (s.setFld f 0 i j) W F where
  rest := rfl
  bit r i' j' k := by
    rw [State.setFld, State.reg_setReg]
    split
    · rename_i e
      obtain ⟨rfl, rfl, rfl⟩ := e
      rw [setBits_zero_testBit]
      by_cases inside : f.lo ≤ k ∧ k < f.lo + f.w
      · exact .inr ⟨by simp [inside], .inr ⟨f, h, rfl, inside⟩⟩
      · exact .inl (by simp [inside])
    · exact .inl rfl
  acc _ := .inl rfl

theorem State.clears_clrCycles {f : Fld} (i j : Nat) (h : f ∈ F) : s.Clears (s.clrCycles f i j) W F where
  rest := rfl
  bit := (State.clears_setFld (s := s) i j h).bit
  acc k := by
    by_cases e : k = cycKey f i j
    · subst e; exact .inr (Tbl.get_set_same 0 s.accs _ 0)
    · exact .inl (Tbl.get_set_other 0 0 s.accs _ _ 0 e)

theorem overList_clears {α : Type} {f : α → State → State} :
    ∀ (l : List α) (s : State), (∀ x ∈ l, ∀ t, State.Clears t (f x t) W F) → s.Clears (overList l f s) W F
  | [], _, _ => .refl
  | x :: l, s, hf => (hf x (List.mem_cons_self ..) s).trans (overList_clears l (f x s) fun y hy => hf y (List.mem_cons_of_mem _ hy))

/-! ### What clearing keeps -/

theorem State.Clears.otherRegs (h : s.Clears t W F) {l : List Reg} (hW : ∀ r ∈ W, r ∈ l) (hF : ∀ f ∈ F, f.reg ∈ l) :
    s.OtherRegs t l := by
  intro r i j hr
  refine Nat.eq_of_testBit_eq fun k => ?_
  rcases h.bit r i j k with e | ⟨-, hw | ⟨f, hf, rfl, -⟩⟩
  · exact e
  · exact absurd (hW r hw) hr
  · exact absurd (hF f hf) hr

/-- A field that clearing does not meet keeps its value. -/
theorem State.Clears.fld_eq (h : s.Clears t W F) {g : Fld} (hW : g.reg ∉ W)
    (hF : ∀ f ∈ F, f.reg = g.reg → g.lo + g.w ≤ f.lo ∨ f.lo + f.w ≤ g.lo) (i j : Nat) : t.fld g i j = s.fld g i j := by
  refine Nat.eq_of_testBit_eq fun k => ?_
  rw [State.fld, State.fld, bits_testBit, bits_testBit]
  by_cases hk : k < g.w
  · rcases h.bit g.reg i j (g.lo + k) with e | ⟨-, hw | ⟨f, hf, hr, hlo, hhi⟩⟩
    · rw [e]
    · exact absurd hw hW
    · have := hF f hf hr; omega
  · simp [hk]

/-- A bit that is zero stays zero. -/
theorem State.Clears.testBit_zero (h : s.Clears t W F) {r : Reg} {i j k : Nat} (z : (s.reg r i j).testBit k = false) :
    (t.reg r i j).testBit k = false := by
  rcases h.bit r i j k with e | e
  · rw [e, z]
  · exact e.1

theorem State.Clears.reg_zero (h : s.Clears t W F) {r : Reg} {i j : Nat} (z : s.reg r i j = 0) : t.reg r i j = 0 :=
  Nat.zero_of_testBit_eq_false fun k => h.testBit_zero (by rw [z, Nat.zero_testBit])

theorem State.Clears.fld_zero (h : s.Clears t W F) {g : Fld} {i j : Nat} (z : s.fld g i j = 0) : t.fld g i j = 0 := by
  refine Nat.zero_of_testBit_eq_false fun k => ?_
  have zk : (s.fld g i j).testBit k = false := by rw [z, Nat.zero_testBit]
  rw [State.fld, bits_testBit, Bool.and_eq_false_iff] at zk ⊢
  exact zk.imp_right h.testBit_zero

theorem State.Clears.pwr_eq (h : s.Clears t W F) : t.pwr = s.pwr := by rw [h.rest]

/-- Clearing, then a change of the power block. -/
theorem State.Clears.withPwr (h : s.Clears t W F) (p : Power) :
    ({ t with pwr := p } : State) = { s with regs := t.regs, pwr := p, accs := t.accs } := by rw [h.rest]

theorem State.Clears.acc_zero (h : s.Clears t W F) {k : Nat} (z : Tbl.get 0 s.accs k = 0) : Tbl.get 0 t.accs k = 0 := by
  rcases h.acc k with e | e
  · rw [e, z]
  · exact e

end

theorem State.fld_setFld_zero (s : State) (f : Fld) (i j : Nat) : (s.setFld f 0 i j).fld f i j = 0 := by simp

/-- A field that is zero stays zero while any field is cleared. -/
theorem State.fld_zero_setFld {s : State} {g : Fld} {i j : Nat} (z : s.fld g i j = 0) (f : Fld) (i' j' : Nat) :
    (s.setFld f 0 i' j').fld g i j = 0 :=
  (State.clears_setFld (W := []) i' j' (List.mem_singleton_self f)).fld_zero z

theorem State.setFld_setFld_zero (s : State) (f g : Fld) (i j : Nat) :
    ((s.setFld f 0 i j).setFld g 0 i j).fld f i j = 0 ∧ ((s.setFld f 0 i j).setFld g 0 i j).fld g i j = 0 :=
  ⟨State.fld_zero_setFld (s.fld_setFld_zero f i j) g i j, State.fld_setFld_zero _ g i j⟩

/-- A cleared counter of cycles and the part of a unit that it keeps are zero. -/
theorem State.clrCycles_zero (s : State) (f : Fld) (i j : Nat) :
    (s.clrCycles f i j).fld f i j = 0 ∧ Tbl.get 0 (s.clrCycles f i j).accs (cycKey f i j) = 0 :=
  ⟨State.fld_setFld_zero _ f i j, Tbl.get_set_same 0 s.accs _ 0⟩

/-- What one change of a list brings about, and every change keeps, holds after the list. -/
theorem overList_attains {α : Type} {P : State → Prop} {f : α → State → State} {l : List α} {x : α} (hx : x ∈ l)
    (attains : ∀ s, P (f x s)) (keeps : ∀ y s, P s → P (f y s)) (s : State) : P (overList l f s) := by
  induction l generalizing s with
  | nil => exact absurd hx List.not_mem_nil
  | cons y l ih =>
    rw [overList_cons]
    rcases List.mem_cons.1 hx with rfl | hx
    · exact overList_keeps P f keeps l _ (attains s)
    · exact ih hx _

/-! ### KVA_CNT_CLR -/

/-- The words of KVA_CNT and KVA_SKIP of a wing are zero. -/
def State.clearKva (w : Nat) (s : State) : State := (s.setReg .kvaCnt w 0 0).setReg .kvaSkip w 0 0

theorem State.clears_clearKva (w : Nat) (s : State) : s.Clears (s.clearKva w) [.kvaCnt, .kvaSkip] [] :=
  (State.clears_setReg w 0 (by decide)).trans (State.clears_setReg w 0 (by decide))

theorem State.clearKva_zero (w : Nat) (s : State) : (s.clearKva w).reg .kvaCnt w 0 = 0 ∧ (s.clearKva w).reg .kvaSkip w 0 = 0 := by
  simp [State.clearKva, State.reg_setReg]

theorem exec_kvaCntClr {s : State} (hr : s.ready = true) :
    exec .kvaCntClr s = .next (overList (List.range 4) State.clearKva s) :=
  show execKvaCntClr s = _ by rw [execKvaCntClr, if_neg (by simp [hr])]; rfl

theorem State.clearKva_all_zero (s : State) {w : Nat} (hw : w < 4) :
    (overList (List.range 4) State.clearKva s).reg .kvaCnt w 0 = 0 ∧ (overList (List.range 4) State.clearKva s).reg .kvaSkip w 0 = 0 :=
  overList_attains (P := fun t => t.reg .kvaCnt w 0 = 0 ∧ t.reg .kvaSkip w 0 = 0) (List.mem_range.2 hw) (State.clearKva_zero w)
    (fun v t h => h.imp (t.clears_clearKva v).reg_zero (t.clears_clearKva v).reg_zero) s

/-! ### WING_GSTM_CNT_CLR -/

/-- The counters of one stream unit are zero. -/
def State.clearStream (w u : Nat) (s : State) : State :=
  ((s.setFld RegF.wingStrmCntTiles 0 w u).clrCycles RegF.wingStrmCntMarkWait w u).clrCycles RegF.wingStrmCntFillWait w u

/-- The counters of one tile mover and one courier queue are zero. -/
def State.clearMover (w m : Nat) (s : State) : State := (s.setFld RegF.wingTmStsTiles 0 w m).setFld RegF.wingCourStsDone 0 w m

/-- The error counters of a wing's gallery are zero. -/
def State.clearGalEcc (w : Nat) (s : State) : State := (s.setFld RegF.wingGalEccCorrected 0 w).setFld RegF.wingGalEccUncorrected 0 w

/-- What WING_GSTM_CNT_CLR leaves. -/
def State.clearGstm (w : Nat) (s : State) : State :=
  overList (List.range 16) (State.clearMover w) (overList (List.range 128) (State.clearStream w) (s.clearGalEcc w))

/-- The counters that WING_GSTM_CNT_CLR clears. -/
def gstmCounters : List Fld :=
  [RegF.wingGalEccCorrected, RegF.wingGalEccUncorrected, RegF.wingStrmCntTiles, RegF.wingStrmCntMarkWait, RegF.wingStrmCntFillWait,
   RegF.wingTmStsTiles, RegF.wingCourStsDone]

theorem exec_wingGstmCntClr {s : State} {w : Nat} (hr : s.ready = true) (hw : w < 4) :
    exec (.wingGstmCntClr w) s = .next (s.clearGstm w) :=
  show execWingGstmCntClr w s = _ by rw [execWingGstmCntClr, if_neg (by simp [hr]; omega)]; rfl

section
variable (w : Nat) (s : State)

theorem State.clears_clearGalEcc : s.Clears (s.clearGalEcc w) [] gstmCounters :=
  (State.clears_setFld w 0 (by decide)).trans (State.clears_setFld w 0 (by decide))

theorem State.clears_clearStream (u : Nat) : s.Clears (s.clearStream w u) [] gstmCounters :=
  ((State.clears_setFld w u (by decide)).trans (State.clears_clrCycles w u (by decide))).trans (State.clears_clrCycles w u (by decide))

theorem State.clears_clearMover (m : Nat) : s.Clears (s.clearMover w m) [] gstmCounters :=
  (State.clears_setFld w m (by decide)).trans (State.clears_setFld w m (by decide))

theorem State.clears_clearStreams : s.Clears (overList (List.range 128) (State.clearStream w) s) [] gstmCounters :=
  overList_clears _ s fun u _ t => t.clears_clearStream w u

theorem State.clears_clearMovers : s.Clears (overList (List.range 16) (State.clearMover w) s) [] gstmCounters :=
  overList_clears _ s fun m _ t => t.clears_clearMover w m

theorem State.clears_clearGstm : s.Clears (s.clearGstm w) [] gstmCounters :=
  ((s.clears_clearGalEcc w).trans (State.clears_clearStreams w _)).trans (State.clears_clearMovers w _)

theorem State.clearGstm_galEcc :
    (s.clearGstm w).fld RegF.wingGalEccCorrected w = 0 ∧ (s.clearGstm w).fld RegF.wingGalEccUncorrected w = 0 := by
  have late := (State.clears_clearStreams w (s.clearGalEcc w)).trans (State.clears_clearMovers w _)
  exact (s.setFld_setFld_zero RegF.wingGalEccCorrected RegF.wingGalEccUncorrected w 0).imp late.fld_zero late.fld_zero

/-- The counters of stream unit u of wing w, and the parts of units that they keep, are zero. -/
def State.StreamCleared (u : Nat) : Prop :=
  s.fld RegF.wingStrmCntTiles w u = 0 ∧ s.fld RegF.wingStrmCntMarkWait w u = 0 ∧ s.fld RegF.wingStrmCntFillWait w u = 0 ∧
    Tbl.get 0 s.accs (cycKey RegF.wingStrmCntMarkWait w u) = 0 ∧ Tbl.get 0 s.accs (cycKey RegF.wingStrmCntFillWait w u) = 0

theorem State.Clears.streamCleared {s t : State} {W : List Reg} {F : List Fld} {w u : Nat} (h : s.Clears t W F)
    (z : s.StreamCleared w u) : t.StreamCleared w u := by
  obtain ⟨tiles, mark, fill, markAcc, fillAcc⟩ := z
  exact ⟨h.fld_zero tiles, h.fld_zero mark, h.fld_zero fill, h.acc_zero markAcc, h.acc_zero fillAcc⟩

theorem State.streamCleared_clearStream (u : Nat) : (s.clearStream w u).StreamCleared w u := by
  let s₁ := s.setFld RegF.wingStrmCntTiles 0 w u
  let s₂ := s₁.clrCycles RegF.wingStrmCntMarkWait w u
  have toMark : s₁.Clears s₂ [] gstmCounters := State.clears_clrCycles w u (by decide)
  have toFill : s₂.Clears (s.clearStream w u) [] gstmCounters := State.clears_clrCycles w u (by decide)
  obtain ⟨mark, markAcc⟩ := s₁.clrCycles_zero RegF.wingStrmCntMarkWait w u
  obtain ⟨fill, fillAcc⟩ := s₂.clrCycles_zero RegF.wingStrmCntFillWait w u
  exact ⟨(toMark.trans toFill).fld_zero (s.fld_setFld_zero _ w u), toFill.fld_zero mark, fill, toFill.acc_zero markAcc, fillAcc⟩

theorem State.clearGstm_streams {u : Nat} (hu : u < 128) : (s.clearGstm w).StreamCleared w u :=
  (State.clears_clearMovers w _).streamCleared
    (overList_attains (P := fun t => t.StreamCleared w u) (List.mem_range.2 hu) (fun t => t.streamCleared_clearStream w u)
      (fun v t => (t.clears_clearStream w v).streamCleared) _)

theorem State.clearMover_zero (m : Nat) :
    (s.clearMover w m).fld RegF.wingTmStsTiles w m = 0 ∧ (s.clearMover w m).fld RegF.wingCourStsDone w m = 0 :=
  s.setFld_setFld_zero _ _ w m

theorem State.clearGstm_movers {m : Nat} (hm : m < 16) :
    (s.clearGstm w).fld RegF.wingTmStsTiles w m = 0 ∧ (s.clearGstm w).fld RegF.wingCourStsDone w m = 0 :=
  overList_attains (P := fun t => t.fld RegF.wingTmStsTiles w m = 0 ∧ t.fld RegF.wingCourStsDone w m = 0) (List.mem_range.2 hm)
    (fun t => t.clearMover_zero w m) (fun v t z => z.imp (t.clears_clearMover w v).fld_zero (t.clears_clearMover w v).fld_zero) _

end

/-! ### WING_DEP_CNT_CLR -/

/-- The counters of one ready list are zero. -/
def State.clearReady (w i : Nat) (s : State) : State := (s.setFld RegF.wingRpCntAhead 0 w i).setFld RegF.wingRpCntNoneReady 0 w i

/-- The counts of deposit tiles, leftovers and breaks, which WING_DEP_CNT_CLR clears one after the other. -/
def depFields : List Fld := [RegF.wingDepCntSpillTiles, RegF.wingDepCntReturnTiles, RegF.wingDepWaitLeftover, RegF.wingDepWaitBreaks]

/-- What WING_DEP_CNT_CLR leaves. -/
def State.clearDep (w : Nat) (s : State) : State :=
  overList (List.range 16) (fun h s => s.setFld RegF.wingDepSplHighWater 0 w h)
    (overList (List.range 256) (State.clearReady w)
      (overList depFields (fun f s => s.setFld f 0 w) (s.clrCycles RegF.wingDepWaitPushWait w)))

/-- The counters that WING_DEP_CNT_CLR clears. -/
def depCounters : List Fld :=
  depFields ++ [RegF.wingDepWaitPushWait, RegF.wingRpCntAhead, RegF.wingRpCntNoneReady, RegF.wingDepSplHighWater]

theorem exec_wingDepCntClr {s : State} {w : Nat} (hr : s.ready = true) (hw : w < 4) :
    exec (.wingDepCntClr w) s = .next (s.clearDep w) :=
  show execWingDepCntClr w s = _ by rw [execWingDepCntClr, if_neg (by simp [hr]; omega)]; rfl

section
variable (w : Nat) (s : State)

theorem State.clears_clearReady (i : Nat) : s.Clears (s.clearReady w i) [] depCounters :=
  (State.clears_setFld w i (by decide)).trans (State.clears_setFld w i (by decide))

theorem State.clears_depFields : s.Clears (overList depFields (fun f s => s.setFld f 0 w) s) [] depCounters :=
  overList_clears _ s fun _ hf _ => State.clears_setFld w 0 (List.mem_append_left _ hf)

theorem State.clears_clearReadies : s.Clears (overList (List.range 256) (State.clearReady w) s) [] depCounters :=
  overList_clears _ s fun i _ t => t.clears_clearReady w i

theorem State.clears_highWaters :
    s.Clears (overList (List.range 16) (fun h s => s.setFld RegF.wingDepSplHighWater 0 w h) s) [] depCounters :=
  overList_clears _ s fun h _ _ => State.clears_setFld w h (by decide)

/-- What comes after the counts of tiles in WING_DEP_CNT_CLR keeps them zero. -/
theorem State.clears_afterDepFields : (overList depFields (fun f s => s.setFld f 0 w) (s.clrCycles RegF.wingDepWaitPushWait w)).Clears
    (s.clearDep w) [] depCounters :=
  (State.clears_clearReadies w _).trans (State.clears_highWaters w _)

theorem State.clears_clearDep : s.Clears (s.clearDep w) [] depCounters :=
  ((State.clears_clrCycles w 0 (by decide)).trans (State.clears_depFields w _)).trans (s.clears_afterDepFields w)

theorem State.clearDep_depFields {f : Fld} (hf : f ∈ depFields) : (s.clearDep w).fld f w = 0 :=
  (s.clears_afterDepFields w).fld_zero
    (overList_attains (P := fun t => t.fld f w = 0) hf (fun t => t.fld_setFld_zero f w 0)
      (fun g _ z => State.fld_zero_setFld z g w 0) _)

theorem State.clearDep_pushWait :
    (s.clearDep w).fld RegF.wingDepWaitPushWait w = 0 ∧ Tbl.get 0 (s.clearDep w).accs (cycKey RegF.wingDepWaitPushWait w 0) = 0 := by
  have late := (State.clears_depFields w (s.clrCycles RegF.wingDepWaitPushWait w)).trans (s.clears_afterDepFields w)
  exact (s.clrCycles_zero RegF.wingDepWaitPushWait w 0).imp late.fld_zero late.acc_zero

theorem State.clearReady_zero (i : Nat) :
    (s.clearReady w i).fld RegF.wingRpCntAhead w i = 0 ∧ (s.clearReady w i).fld RegF.wingRpCntNoneReady w i = 0 :=
  s.setFld_setFld_zero _ _ w i

theorem State.clearDep_ready {i : Nat} (hi : i < 256) :
    (s.clearDep w).fld RegF.wingRpCntAhead w i = 0 ∧ (s.clearDep w).fld RegF.wingRpCntNoneReady w i = 0 :=
  (overList_attains (P := fun t => t.fld RegF.wingRpCntAhead w i = 0 ∧ t.fld RegF.wingRpCntNoneReady w i = 0) (List.mem_range.2 hi)
    (fun t => t.clearReady_zero w i) (fun j t z => z.imp (t.clears_clearReady w j).fld_zero (t.clears_clearReady w j).fld_zero) _).imp
    (State.clears_highWaters w _).fld_zero (State.clears_highWaters w _).fld_zero

theorem State.clearDep_highWater {h : Nat} (hh : h < 16) : (s.clearDep w).fld RegF.wingDepSplHighWater w h = 0 :=
  overList_attains (P := fun t => t.fld RegF.wingDepSplHighWater w h = 0) (List.mem_range.2 hh) (fun t => t.fld_setFld_zero _ w h)
    (fun k _ z => State.fld_zero_setFld z _ w k) _

end

/-! ### PWR_CNT_CLR -/

/-- The words that PWR_CNT_CLR clears. -/
def State.clearPowerWords (s : State) : State := ((s.setReg .pwrDroop 0 0 0).setReg .pwrDroop 1 0 0).setReg .pwrEvt 0 0 0

/-- The registers that PWR_CNT_CLR leaves. -/
def State.clearPowerRegs (s : State) : State :=
  overList (List.range 96) (fun i s => s.setFld RegF.pwrTsensMax 0 i) (s.clearPowerWords.setFld RegF.pwrAvgPeakW 0)

/-- The fields of words that PWR_CNT_CLR clears in part. -/
def pwrCounters : List Fld := [RegF.pwrAvgPeakW, RegF.pwrTsensMax]

section
variable (s : State)

theorem State.clears_clearPowerWords : s.Clears s.clearPowerWords [.pwrDroop, .pwrEvt] pwrCounters :=
  ((State.clears_setReg 0 0 (by decide)).trans (State.clears_setReg 1 0 (by decide))).trans (State.clears_setReg 0 0 (by decide))

theorem State.clears_maxima :
    s.Clears (overList (List.range 96) (fun i s => s.setFld RegF.pwrTsensMax 0 i) s) [.pwrDroop, .pwrEvt] pwrCounters :=
  overList_clears _ s fun i _ _ => State.clears_setFld i 0 (by decide)

theorem State.clears_afterPowerWords : s.clearPowerWords.Clears s.clearPowerRegs [.pwrDroop, .pwrEvt] pwrCounters :=
  (State.clears_setFld 0 0 (by decide)).trans (State.clears_maxima _)

theorem State.clears_clearPowerRegs : s.Clears s.clearPowerRegs [.pwrDroop, .pwrEvt] pwrCounters :=
  s.clears_clearPowerWords.trans s.clears_afterPowerWords

theorem State.clearPower_eq : s.clearPower = { s.clearPowerRegs with pwr := { s.pwr with stretched := [0, 0] } } := by
  rw [← s.clears_clearPowerRegs.pwr_eq]; rfl

theorem State.exec_pwrCntClr (hr : s.ready = true) :
    exec .pwrCntClr s = .next { s.clearPowerRegs with pwr := { s.pwr with stretched := [0, 0] } } :=
  show execPwrCntClr s = _ by rw [execPwrCntClr, if_neg (by simp [hr]), State.clearPower_eq]

theorem State.clearPowerWords_droop {d : Nat} (hd : d < 2) : s.clearPowerWords.reg .pwrDroop d 0 = 0 := by
  obtain rfl | rfl : d = 0 ∨ d = 1 := by omega
  all_goals simp [State.clearPowerWords, State.reg_setReg]

theorem State.clearPowerRegs_max {i : Nat} (hi : i < 96) : s.clearPowerRegs.fld RegF.pwrTsensMax i = 0 :=
  overList_attains (P := fun t => t.fld RegF.pwrTsensMax i = 0) (List.mem_range.2 hi) (fun t => t.fld_setFld_zero _ i 0)
    (fun j _ z => State.fld_zero_setFld z _ j 0) _

/-- The registers that PWR_CNT_CLR leaves, as a state u of which nothing else is told: the long list of clears stays closed. -/
theorem State.clearPower_counters (hr : s.ready = true) : ∃ u, s.Clears u [.pwrDroop, .pwrEvt] pwrCounters ∧
    exec .pwrCntClr s = .next { u with pwr := { s.pwr with stretched := [0, 0] } } ∧ (∀ d, d < 2 → u.reg .pwrDroop d 0 = 0) ∧
    u.reg .pwrEvt 0 0 = 0 ∧ u.fld RegF.pwrAvgPeakW = 0 ∧ ∀ i, i < 96 → u.fld RegF.pwrTsensMax i = 0 := by
  have late := s.clears_afterPowerWords
  exact ⟨s.clearPowerRegs, s.clears_clearPowerRegs, s.exec_pwrCntClr hr, fun d hd => late.reg_zero (s.clearPowerWords_droop hd),
    late.reg_zero (State.reg_setReg_same _ _ _ _ _), (State.clears_maxima _).fld_zero (State.fld_setFld_zero _ _ 0 0),
    fun i hi => s.clearPowerRegs_max hi⟩

end

/-! ### The clear commands -/

/-- A command clears: it goes on to t, where registers outside l read as before and only registers, power counters and remainders of cycle
counters differ. -/
def State.ClearedBy (s : State) (i : Instr) (t : State) (l : List Reg) : Prop :=
  exec i s = .next t ∧ t = { s with regs := t.regs, pwr := t.pwr, accs := t.accs } ∧ s.OtherRegs t l

theorem State.Clears.clearedBy_withPwr {s t : State} {W : List Reg} {F : List Fld} (h : s.Clears t W F) {p : Power} {i : Instr}
    {l : List Reg} (he : exec i s = .next { t with pwr := p }) (hW : ∀ r ∈ W, r ∈ l) (hF : ∀ f ∈ F, f.reg ∈ l) :
    s.ClearedBy i { t with pwr := p } l :=
  ⟨he, h.withPwr p, h.otherRegs hW hF⟩

theorem State.Clears.clearedBy {s t : State} {W : List Reg} {F : List Fld} (h : s.Clears t W F) {i : Instr} {l : List Reg}
    (he : exec i s = .next t) (hW : ∀ r ∈ W, r ∈ l) (hF : ∀ f ∈ F, f.reg ∈ l) : s.ClearedBy i t l ∧ t.pwr = s.pwr :=
  ⟨h.clearedBy_withPwr (p := t.pwr) he hW hF, h.pwr_eq⟩

theorem kvaCntClr_clears (s : State) (hr : s.ready = true) : ∃ t, s.ClearedBy .kvaCntClr t [.kvaCnt, .kvaSkip] ∧ t.pwr = s.pwr ∧
    ∀ w, w < 4 → t.reg .kvaCnt w 0 = 0 ∧ t.reg .kvaSkip w 0 = 0 := by
  obtain ⟨cleared, pwr⟩ := (overList_clears (List.range 4) s fun w _ t => t.clears_clearKva w).clearedBy (exec_kvaCntClr hr)
    (l := [.kvaCnt, .kvaSkip]) (by decide) (by decide)
  exact ⟨_, cleared, pwr, fun w hw => s.clearKva_all_zero hw⟩

theorem wingGstmCntClr_clears (s : State) (hr : s.ready = true) (w : Nat) (hw : w < 4) :
    ∃ t, s.ClearedBy (.wingGstmCntClr w) t [.wingGalEcc, .wingStrmCnt, .wingTmSts, .wingCourSts] ∧ t.pwr = s.pwr ∧
      t.fld RegF.wingGalEccCorrected w = 0 ∧ t.fld RegF.wingGalEccUncorrected w = 0 ∧
      (∀ u, u < 128 → t.StreamCleared w u) ∧
      (∀ m, m < 16 → t.fld RegF.wingTmStsTiles w m = 0 ∧ t.fld RegF.wingCourStsDone w m = 0 ∧
        t.fld RegF.wingTmStsState w m = s.fld RegF.wingTmStsState w m ∧ t.fld RegF.wingTmStsCtx w m = s.fld RegF.wingTmStsCtx w m ∧
        t.fld RegF.wingCourStsPending w m = s.fld RegF.wingCourStsPending w m ∧
        t.fld RegF.wingCourStsCtx w m = s.fld RegF.wingCourStsCtx w m) := by
  have clears := s.clears_clearGstm w
  obtain ⟨cleared, pwr⟩ := clears.clearedBy (exec_wingGstmCntClr hr hw)
    (l := [.wingGalEcc, .wingStrmCnt, .wingTmSts, .wingCourSts]) (by decide) (by decide)
  obtain ⟨corrected, uncorrected⟩ := s.clearGstm_galEcc w
  refine ⟨_, cleared, pwr, corrected, uncorrected, fun u hu => s.clearGstm_streams w hu, fun m hm => ?_⟩
  obtain ⟨tiles, done⟩ := s.clearGstm_movers w hm
  exact ⟨tiles, done, clears.fld_eq (by decide) (by decide) w m, clears.fld_eq (by decide) (by decide) w m,
    clears.fld_eq (by decide) (by decide) w m, clears.fld_eq (by decide) (by decide) w m⟩

theorem wingDepCntClr_clears (s : State) (hr : s.ready = true) (w : Nat) (hw : w < 4) :
    ∃ t, s.ClearedBy (.wingDepCntClr w) t [.wingDepCnt, .wingDepWait, .wingRpCnt, .wingDepSpl] ∧ t.pwr = s.pwr ∧
      t.fld RegF.wingDepCntSpillTiles w = 0 ∧ t.fld RegF.wingDepCntReturnTiles w = 0 ∧ t.fld RegF.wingDepWaitPushWait w = 0 ∧
      Tbl.get 0 t.accs (cycKey RegF.wingDepWaitPushWait w 0) = 0 ∧
      t.fld RegF.wingDepWaitLeftover w = 0 ∧ t.fld RegF.wingDepWaitBreaks w = 0 ∧
      (∀ i, i < 256 → t.fld RegF.wingRpCntAhead w i = 0 ∧ t.fld RegF.wingRpCntNoneReady w i = 0) ∧
      (∀ h, h < 16 → t.fld RegF.wingDepSplHighWater w h = 0 ∧ t.fld RegF.wingDepSplSpilled w h = s.fld RegF.wingDepSplSpilled w h) := by
  have clears := s.clears_clearDep w
  obtain ⟨cleared, pwr⟩ := clears.clearedBy (exec_wingDepCntClr hr hw)
    (l := [.wingDepCnt, .wingDepWait, .wingRpCnt, .wingDepSpl]) (by decide) (by decide)
  obtain ⟨push, pushAcc⟩ := s.clearDep_pushWait w
  exact ⟨_, cleared, pwr, s.clearDep_depFields w (by decide), s.clearDep_depFields w (by decide), push, pushAcc,
    s.clearDep_depFields w (by decide), s.clearDep_depFields w (by decide), fun i hi => s.clearDep_ready w hi,
    fun h hh => ⟨s.clearDep_highWater w hh, clears.fld_eq (by decide) (by decide) w h⟩⟩

theorem pwrCntClr_clears (s : State) (hr : s.ready = true) :
    ∃ t, s.ClearedBy .pwrCntClr t [.pwrDroop, .pwrEvt, .pwrTsens, .pwrAvg] ∧ t.pwr = { s.pwr with stretched := [0, 0] } ∧
      (∀ d, d < 2 → t.reg .pwrDroop d 0 = 0) ∧ t.reg .pwrEvt 0 0 = 0 ∧ t.fld RegF.pwrAvgPeakW = 0 ∧
      t.fld RegF.pwrAvgAvgW = s.fld RegF.pwrAvgAvgW ∧ ∀ i, i < 96 → t.fld RegF.pwrTsensMax i = 0 ∧
        t.fld RegF.pwrTsensTemp i = s.fld RegF.pwrTsensTemp i := by
  obtain ⟨u, clears, he, droop, evt, peak, maxima⟩ := s.clearPower_counters hr
  exact ⟨_, clears.clearedBy_withPwr he (by decide) (by decide), rfl, droop, evt, peak, clears.fld_eq (by decide) (by decide) 0 0,
    fun i hi => ⟨maxima i hi, clears.fld_eq (by decide) (by decide) i 0⟩⟩

theorem exec_redLdgCntClr {s : State} (hr : s.ready = true) : exec .redLdgCntClr s = .next (s.setReg .redLdgCnt 0 0 0) :=
  show execRedLdgCntClr s = _ by rw [execRedLdgCntClr, if_pos hr]

theorem exec_wingVeCntClr {s : State} (hr : s.ready = true) (w : Nat) :
    exec (.wingVeCntClr w) s = .next (s.setReg .wingVeCnt w 0 0) :=
  show execWingVeCntClr w s = _ by rw [execWingVeCntClr, if_pos hr]

theorem exec_lnkCntClr {s : State} (hr : s.ready = true) {p : Nat} (hp : p < 16) :
    exec (.lnkCntClr p) s = .next ((s.setReg .lnkErr p 0 0).setReg .lnkCnt p 0 0) :=
  show execLnkCntClr p s = _ by rw [execLnkCntClr, if_neg (by simp [hr]; omega)]

/-- Before READY a clear of counters that the module has once is ignored (R359). -/
theorem exec_moduleClr_not_ready {s : State} (hr : s.ready = false) {i : Instr} (hi : i ∈ [Instr.redLdgCntClr, .kvaCntClr, .pwrCntClr]) :
    exec i s = .next s := by
  simp only [List.mem_cons, List.not_mem_nil, or_false] at hi
  rcases hi with rfl | rfl | rfl
  · exact show execRedLdgCntClr s = _ by simp [execRedLdgCntClr, hr]
  · exact show execKvaCntClr s = _ by simp [execKvaCntClr, hr]
  · exact show execPwrCntClr s = _ by simp [execPwrCntClr, hr]

/-- Before READY a clear of counters of a wing, an array or a port is ignored (R359). -/
theorem exec_unitClr_not_ready {s : State} (hr : s.ready = false) (n : Nat) :
    exec (.wingVeCntClr n) s = .next s ∧ exec (.lnkCntClr n) s = .next s ∧ exec (.wingGstmCntClr n) s = .next s ∧
      exec (.wingDepCntClr n) s = .next s ∧ exec (.wingMaCntClr n) s = .next s :=
  ⟨show execWingVeCntClr n s = _ by simp [execWingVeCntClr, hr], show execLnkCntClr n s = _ by simp [execLnkCntClr, hr],
   show execWingGstmCntClr n s = _ by simp [execWingGstmCntClr, hr], show execWingDepCntClr n s = _ by simp [execWingDepCntClr, hr],
   show execWingMaCntClr n s = _ by simp [execWingMaCntClr, hr]⟩

/-! ### Sequences freed (spec/10_attention_kv.md R290) -/

theorem State.seqOf_setSeq_eq (s : State) (m n : Nat) (x : Seq) : (s.setSeq m x).seqOf n = if n = m then x else s.seqOf n := by
  split
  · rename_i e; rw [e, State.seqOf_setSeq]
  · rename_i e; exact Tbl.get_set_other _ _ _ _ _ _ e

theorem State.seqOf_freeSeq (s : State) (m n : Nat) : (s.freeSeq m).seqOf n = if n = m then {} else s.seqOf n :=
  s.seqOf_setSeq_eq m n {}

/-- A key that does not read the default is listed with its value. -/
theorem Tbl.mem_of_get_ne {α : Type} {d : α} {k : Nat} : ∀ {m : Tbl α}, Tbl.get d m k ≠ d → (k, Tbl.get d m k) ∈ m
  | [], h => absurd rfl h
  | c :: m, h => by
    by_cases e : c.1 = k
    · simp [Tbl.get, ← e]
    · simp only [Tbl.get, e, if_false] at h ⊢
      exact List.mem_cons_of_mem _ (Tbl.mem_of_get_ne h)

theorem State.mem_seqs {s : State} {n : Nat} (h : (s.seqOf n).state ≠ .free) : (n, s.seqOf n) ∈ s.seqs :=
  Tbl.mem_of_get_ne fun e => h (by rw [State.seqOf, e])

/-- From s to t, sequences have become FREE at most. -/
def State.OnlyFrees (s t : State) : Prop := ∀ n, t.seqOf n = s.seqOf n ∨ t.seqOf n = {}

theorem State.OnlyFrees.trans {s t u : State} (h : s.OnlyFrees t) (h' : t.OnlyFrees u) : s.OnlyFrees u := fun n => by
  rcases h' n with e | e
  · rw [e]; exact h n
  · exact .inr e

theorem overList_onlyFrees {α : Type} {f : α → State → State} (hf : ∀ x s, State.OnlyFrees s (f x s)) (l : List α) (s : State) :
    s.OnlyFrees (overList l f s) :=
  overList_keeps (fun t => s.OnlyFrees t) f (fun x _ h => h.trans (hf x _)) l s fun _ => .inl rfl

/-- A sequence that is not FREE after frees is as it was before. -/
theorem State.OnlyFrees.same {s t : State} (h : s.OnlyFrees t) {n : Nat} (hn : (t.seqOf n).state ≠ .free) : t.seqOf n = s.seqOf n :=
  (h n).resolve_right fun e => hn (by rw [e])

/-- What freeing the sequences of context c does for one entry of the table. -/
def State.freeIfOf (c : Nat) (k : Nat × Seq) (s : State) : State := if k.2.state != .free && k.2.ctx == c then s.freeSeq k.1 else s

theorem State.onlyFrees_freeIfOf (c : Nat) (k : Nat × Seq) (s : State) : s.OnlyFrees (s.freeIfOf c k) := fun n => by
  unfold State.freeIfOf
  split
  · rw [State.seqOf_freeSeq]
    split
    · exact .inr rfl
    · exact .inl rfl
  · exact .inl rfl

theorem State.seqOf_freeSeqs (s : State) (c n : Nat) : (s.freeSeqs c).seqOf n = (overList s.seqs (State.freeIfOf c) s).seqOf n := rfl

theorem State.onlyFrees_freeSeqs (s : State) (c : Nat) : s.OnlyFrees (s.freeSeqs c) :=
  overList_onlyFrees (State.onlyFrees_freeIfOf c) s.seqs s

/-- After its sequences are freed, a context has none that is not FREE. -/
theorem State.freeSeqs_free (s : State) {c n : Nat} (hc : ((s.freeSeqs c).seqOf n).ctx = c) : ((s.freeSeqs c).seqOf n).state = .free := by
  by_contra busy
  have same := (s.onlyFrees_freeSeqs c).same busy
  rw [same] at hc busy
  have freed : (s.freeSeqs c).seqOf n = {} := by
    refine overList_attains (P := fun t => t.seqOf n = {}) (f := State.freeIfOf c) (State.mem_seqs busy) (fun t => ?_) (fun k t z => ?_) s
    · simp [State.freeIfOf, busy, hc, State.seqOf_freeSeq]
    · rcases t.onlyFrees_freeIfOf c k n with e | e
      · rw [e, z]
      · exact e
  exact busy (by rw [← same, freed])

theorem State.freeSeqs_kvWait (s : State) (c : Nat) : ∀ k ∈ (s.freeSeqs c).kvWait, k.ctx ≠ c := fun k hk => by
  simpa using (List.mem_filter.1 hk).2

/-- The contexts, among those that satisfy a test, of the sequences that are not FREE. -/
def State.busyCtx (s : State) (mine : Nat → Bool) : List Nat :=
  (s.seqs.filter (fun k => k.2.state != .free && mine k.2.ctx)).map (fun k => k.2.ctx)

/-- Freeing the sequences of those contexts leaves none that is not FREE. -/
theorem State.freeBusy_free (s : State) (mine : Nat → Bool) {n : Nat}
    (hm : mine ((overList (s.busyCtx mine) (fun c s => s.freeSeqs c) s).seqOf n).ctx = true) :
    ((overList (s.busyCtx mine) (fun c s => s.freeSeqs c) s).seqOf n).state = .free := by
  by_contra busy
  have frees : ∀ (c : Nat) (t : State), t.OnlyFrees (t.freeSeqs c) := fun c t => t.onlyFrees_freeSeqs c
  have same := (overList_onlyFrees frees (s.busyCtx mine) s).same busy
  have listed : (s.seqOf n).ctx ∈ s.busyCtx mine := by
    rw [same] at hm busy
    exact List.mem_map.2 ⟨_, List.mem_filter.2 ⟨State.mem_seqs busy, by simp [busy, hm]⟩, rfl⟩
  refine busy (overList_attains (P := fun t => (t.seqOf n).ctx = (s.seqOf n).ctx → (t.seqOf n).state = .free) listed
    (fun t => t.freeSeqs_free) (fun c t free => ?_) s (by rw [same]))
  rcases t.onlyFrees_freeSeqs c n with e | e
  · rw [e]; exact free
  · rw [e]; exact fun _ => rfl

/-! ### Resets of contexts and functions (spec/12_rings_contexts_rota.md R350) -/

theorem State.mem_liveCtx (s : State) (c : Nat) : c ∈ s.liveCtx ↔
    ∃ x ∈ s.regs, x.1 / 2 ^ 40 = Reg.index .ctxSts ∧ x.1 / 2 ^ 20 % 2 ^ 20 = c ∧ bits x.2 0 3 ≠ 0 := by
  simp only [State.liveCtx, List.mem_filterMap, Option.ite_none_right_eq_some, Option.some.injEq]
  exact exists_congr fun x => and_congr_right fun _ => by tauto

theorem State.disableDone_cstate (s : State) (c : Nat) : (s.disableDone c).cstate c = 0 := by
  rw [State.cstate, State.disableDone, State.fld_setFld_beside _ RegF.ctxStsCqFull RegF.ctxStsState 0 c 0 rfl (by decide),
    State.fld_setFld_beside _ RegF.ctxStsRingErr RegF.ctxStsState 0 c 0 rfl (by decide), State.fld_setFld_zero]

theorem State.cx_setFld (s : State) (f : Fld) (v i j c : Nat) : (s.setFld f v i j).cx c = s.cx c := rfl

/-- A disabled context keeps nothing but that it takes no records. -/
theorem State.disableDone_cx (s : State) (c : Nat) : (s.disableDone c).cx c = { dropRecs := true } := by
  simp only [State.disableDone, State.cx_setFld, State.updCx_eq, State.cx_setCx]

/-- The context is aborted without records, and its open sequences are FREE: what a reset does before it disables the context. -/
def State.abortAndFree (s : State) (c : Nat) : State :=
  let s := s.updCx c (fun x => { x with dropRecs := true })
  (s.contextAbort c none .revoked s.abortDetail).freeSeqs c

theorem State.resetCtx_eq (s : State) (c : Nat) : s.resetCtx c = ((s.abortAndFree c).setFld RegF.ctxCtlEnable 0 c).disableDone c := rfl

theorem State.resetCtx_ends (s : State) (c : Nat) : ∃ u : State, s.resetCtx c = (u.setFld RegF.ctxCtlEnable 0 c).disableDone c ∧
    (s.resetCtx c).cstate c = 0 ∧ (s.resetCtx c).prog c = none ∧ ((s.resetCtx c).cx c).recs = [] ∧ ((s.resetCtx c).cx c).descs = [] ∧
    (∀ n, (u.seqOf n).ctx = c → (u.seqOf n).state = .free) ∧ ∀ k ∈ u.kvWait, k.ctx ≠ c := by
  have cx : (s.resetCtx c).cx c = { dropRecs := true } := State.disableDone_cx _ c
  exact ⟨s.abortAndFree c, s.resetCtx_eq c, State.disableDone_cstate _ c, by rw [State.prog, cx], by rw [cx], by rw [cx],
    fun _ => State.freeSeqs_free _, State.freeSeqs_kvWait _ c⟩

/-- A context belongs to the function that is reset: any does where all are. -/
def State.mine (s : State) (all : Bool) (fn c : Nat) : Bool := all || s.fld RegF.ctxCfgFunc c == fn

theorem State.mem_liveCtx_mine (s : State) (all : Bool) (fn c : Nat) : c ∈ s.liveCtx.filter (s.mine all fn) ↔
    (∃ x ∈ s.regs, x.1 / 2 ^ 40 = Reg.index .ctxSts ∧ x.1 / 2 ^ 20 % 2 ^ 20 = c ∧ bits x.2 0 3 ≠ 0) ∧
      (all = true ∨ s.fld RegF.ctxCfgFunc c = fn) := by
  rw [List.mem_filter, State.mem_liveCtx]
  simp [State.mine]

theorem exec_functionLevelReset (s : State) {vf : Nat} (h : 1 ≤ vf) (h' : vf ≤ 63) :
    exec (.functionLevelReset vf) s = .next (s.resetFunction false vf).settle :=
  show execFunctionLevelReset vf s = _ by rw [execFunctionLevelReset, if_neg (by omega)]

theorem exec_hotReset {s : State} (h : s.rail = .on) : exec .hotReset s = .next (s.resetFunction true 0) :=
  show execHotReset s = _ by rw [execHotReset, if_pos h]

/-- Settles O27: each clear is a sequence of clears that drop listed counters alone, and a reset frees every sequence of its contexts. -/
theorem counterClearsAndFunctionResets : Obligations.CounterClearsAndFunctionResets := by
  unfold Obligations.CounterClearsAndFunctionResets
  refine ⟨fun s => ⟨fun hr => ⟨fun i hi => exec_moduleClr_not_ready hr hi, exec_unitClr_not_ready hr⟩, fun hr => ?_⟩, ?_⟩
  · exact ⟨exec_redLdgCntClr hr, exec_wingVeCntClr hr, fun p hp => exec_lnkCntClr hr hp, kvaCntClr_clears s hr,
      wingGstmCntClr_clears s hr, wingDepCntClr_clears s hr, pwrCntClr_clears s hr⟩
  · refine ⟨fun s vf h h' => exec_functionLevelReset s h h', fun _ => rfl, fun _ h => exec_hotReset h, fun s all fn => ?_,
      State.resetCtx_ends⟩
    exact ⟨s.liveCtx.filter (s.mine all fn), s.mem_liveCtx_mine all fn,
      fun n => State.freeBusy_free (overList (s.liveCtx.filter (s.mine all fn)) (fun c s => s.resetCtx c) s) (s.mine all fn), rfl⟩

end Sys2Proof.Machine
end

section
/-! SUPPORT. Messages of a send entry (spec/11_ralda_link.md R309, R317, R318, R322 to R324): what TRANSPORT_SEND, MCAST_DETACH and
RECALL_LIMIT_EXPIRY do, a lemma for each of their cases. -/

namespace Sys2Proof.Machine

theorem nth_eq_of_getElem? {α : Type} {d x : α} {l : List α} {k : Nat} (h : l[k]? = some x) : nth d l k = x := by
  simp [nth, h]

/-- A task that runs belongs to an admitted program. -/
theorem State.prog_of_running {s : State} {c t : Nat} (h : s.running c t = true) : ∃ g, s.prog c = some g := by
  cases hp : s.prog c with
  | some g => exact ⟨g, rfl⟩
  | none => simp [State.running, State.rt, hp, Tbl.get] at h

/-- A change of a task's state reads back where a program is admitted. -/
theorem State.rt_updRt {s : State} {c t : Nat} {g : Prog} (h : s.prog c = some g) (f : TaskRt → TaskRt) :
    (s.updRt c t f).rt c t = f (s.rt c t) := by
  have hp : (s.cx c).prog = some g := h
  simp [State.updRt, State.updProg, State.updCx_eq, State.rt, State.prog, hp]

theorem State.sendSt_setSend {s : State} {c t : Nat} (h : s.running c t = true) (k : Nat) (x : SendSt) :
    (s.setSend c t k x).sendSt c t k = x := by
  obtain ⟨g, hg⟩ := State.prog_of_running h
  simp [State.sendSt, State.setSend, State.rt_updRt hg]

/-- Spending one credit of a table changes the credits of that receiver alone. -/
theorem Tbl.get_upd_sub_one (m : Tbl Nat) (p q : Nat) :
    Tbl.get 0 (Tbl.upd 0 m p (fun y => y - 1)) q = if q = p then Tbl.get 0 m p - 1 else Tbl.get 0 m q := by
  split
  · rename_i h; rw [h, Tbl.get_upd_same]
  · rename_i h; exact Tbl.get_upd_other 0 0 m p q _ h

/-- Nothing keeps back the messages of an entry to a receiver: its task runs, and it has a slot, a port that is up and a credit (R309). -/
structure State.MaySend (s : State) (c t k p : Nat) (e : SendEntry) : Prop where
  running : s.running c t = true
  receiver : p ∈ e.receivers
  up : s.portUp (e.out p) = true
  credit : Tbl.get 0 (s.sendSt c t k).credits p ≠ 0
  slot : s.sendSlot c t e p = true

/-- A send entry's state once its next message to a receiver has gone out. -/
def SendSt.spent (x : SendSt) (p : Nat) : SendSt :=
  { x with nexts := Tbl.set 0 x.nexts p (Tbl.get 0 x.nexts p + 1), credits := Tbl.upd 0 x.credits p (fun y => y - 1) }

/-- The source ring holds message n of an entry, in gallery slots of its network port (R157), and no receiver is a whole ring behind (R322). -/
def State.sourceReady (s : State) (c t k : Nat) (e : SendEntry) (n : Nat) : Prop :=
  let y := s.stream (128 * (s.task c t).wing + e.srcUnit)
  y.held = true ∧ (y.slot (y.tileSlot n)).isFull = true ∧ n < s.leastNext c t k + y.slots.length ∧
    s.slotted (s.asker c t (uWing (s.task c t).wing)) (y.slotAddr (y.tileSlot n)) tileBytes = true

/-- The tile that message n of an entry carries, as it lies in the source ring. -/
def State.sourceTile (s : State) (c t : Nat) (e : SendEntry) (n : Nat) : List Byte :=
  let y := s.stream (128 * (s.task c t).wing + e.srcUnit)
  s.rd (y.slotAddr (y.tileSlot n)) tileBytes

/-- Counting leaves the fields of other registers. -/
theorem State.fld_incFld_reg (s : State) {f g : Fld} (h : g.reg ≠ f.reg) (n i j i' j' : Nat) :
    (s.incFld f n i j).fld g i' j' = s.fld g i' j' := by
  rw [State.incFld_eq, State.fld_setFld_reg _ _ _ _ _ _ _ _ h]

/-- A state of a send entry and the count of failed recalls are not in its messages. -/
theorem State.sendEntryMsg_recallFails (s : State) (c t k p : Nat) (x : SendSt) (e : SendEntry) (kind n : Nat) (pay : List Byte) :
    ((s.setSend c t k x).incFld RegF.lnkCntRecallFails 1 p).sendEntryMsg e p kind n pay = s.sendEntryMsg e p kind n pay := by
  simp only [State.sendEntryMsg, State.peer]
  rw [State.fld_incFld_reg _ (by decide), State.fld_incFld_reg _ (by decide)]
  rfl

section
variable {s : State} {c t k p : Nat} {e : SendEntry} (he : (s.task c t).sends[k]? = some e)
include he

theorem exec_transportSend_waits (h : Tbl.get 0 (s.sendSt c t k).credits p = 0 ∨ ¬ s.sendSlot c t e p = true) :
    exec (.transportSend c t k p) s = .next s :=
  show execTransportSend c t k p s = _ by
    rw [execTransportSend, he]
    exact if_pos (by tauto)

section
variable (may : s.MaySend c t k p e)
include may

/-- A receiver that is detached gets the messages of its recall alone, where the recall unit reaches what it reads (R323). -/
theorem exec_transportSend_detached (hd : (s.sendSt c t k).isDetached p = true) (hr : (s.sendSt c t k).recallEnded.contains p = false)
    (lo : 1 ≤ Tbl.get 0 (s.sendSt c t k).recalling p) (hi : Tbl.get 0 (s.sendSt c t k).recalling p ≤ e.count) :
    exec (.transportSend c t k p) s = .next (if s.recallReach c t k p = true then s.sendRecall c t k p else s) :=
  show execTransportSend c t k p s = _ by
    obtain ⟨running, receiver, up, credit, slot⟩ := may
    have begun : Tbl.get 0 (s.sendSt c t k).recalling p ≠ 0 := by omega
    have more : ¬ e.count < Tbl.get 0 (s.sendSt c t k).recalling p := by omega
    simp only [execTransportSend, he, running, receiver, up, credit, slot, hd, hr, begun, more]
    cases s.recallReach c t k p <;> rfl

section
variable (hd : (s.sendSt c t k).isDetached p = false) (hn : Tbl.get 0 (s.sendSt c t k).nexts p < e.count)
include hd hn

/-- A reduce stream of a ledger takes its chunks from the ledger (R253). -/
theorem exec_transportSend_ledger {le : Nat} (hl : e.ledger = some le) :
    exec (.transportSend c t k p) s = .next ((s.setSend c t k ((s.sendSt c t k).spent p)).sendData c t e p kReduce
      (Tbl.get 0 (s.sendSt c t k).nexts p) (s.ledgerMsg c le (e.chunkFirst + Tbl.get 0 (s.sendSt c t k).nexts p))) :=
  show execTransportSend c t k p s = _ by
    obtain ⟨running, receiver, up, credit, slot⟩ := may
    simp [execTransportSend, he, running, receiver, up, credit, slot, hd, hl, Nat.not_le.2 hn, SendSt.spent]

variable (hl : e.ledger = none)
include hl

/-- Any other entry sends what its source ring holds, with the header that it needs. -/
theorem exec_transportSend_tile (here : s.sourceReady c t k e (Tbl.get 0 (s.sendSt c t k).nexts p)) :
    let n := Tbl.get 0 (s.sendSt c t k).nexts p
    let r := s.sendPayload c t e n (s.sourceTile c t e n)
    exec (.transportSend c t k p) s = .next (((r.2.setSend c t k ((s.sendSt c t k).spent p)).sendData c t e p e.msgKind n r.1).spendSent
      c t k (s.leastNext c t k)) :=
  show execTransportSend c t k p s = _ by
    obtain ⟨running, receiver, up, credit, slot⟩ := may
    obtain ⟨held, full, behind, slotted⟩ := here
    simp [execTransportSend, he, running, receiver, up, credit, slot, hd, hl, Nat.not_le.2 hn, SendSt.spent, held, full,
      Nat.not_le.2 behind, slotted, State.sourceTile]

theorem exec_transportSend_no_tile (here : ¬ s.sourceReady c t k e (Tbl.get 0 (s.sendSt c t k).nexts p)) :
    exec (.transportSend c t k p) s = .next s :=
  show execTransportSend c t k p s = _ by
    obtain ⟨running, receiver, up, credit, slot⟩ := may
    simp only [State.sourceReady, not_and_or, Nat.not_lt] at here
    rw [execTransportSend, he]
    dsimp only
    rw [if_neg (by simp [running, receiver, up, credit, slot]), if_neg (by simp [hd]), if_neg (Nat.not_le.2 hn), hl]
    exact if_pos here

end
end

/-- A receiver that has kept a message waiting for its credit is detached and told with DETACH (R322). -/
theorem exec_mcastDetach (running : s.running c t = true) (receiver : p ∈ e.receivers) (hk : e.kind = .multicast)
    (hd : (s.sendSt c t k).isDetached p = false) (credit : Tbl.get 0 (s.sendSt c t k).credits p = 0)
    (hn : Tbl.get 0 (s.sendSt c t k).nexts p < e.count)
    (full : (let y := s.stream (128 * (s.task c t).wing + e.srcUnit)
      y.slot (y.tileSlot (Tbl.get 0 (s.sendSt c t k).nexts p))).isFull = true) :
    exec (.mcastDetach c t k p) s = .next ((s.detachAt c t k p false).sendMsg p
      (s.sendEntryMsg e p kDetach (Tbl.get 0 (s.sendSt c t k).nexts p) [])) :=
  show execMcastDetach c t k p s = _ by
    have full' := full
    simp [execMcastDetach, he, running, receiver, hk, hd, credit, Nat.not_le.2 hn, full']

/-- A recall has delivered its last message where every one has been sent and no flit of them waits or is kept for replay (R324). -/
theorem State.recallDone_iff (hd : (s.sendSt c t k).isDetached p = true) : s.recallDone c t k p = true ↔
    e.count < Tbl.get 0 (s.sendSt c t k).recalling p ∧ (s.lport p).wait0 = [] ∧ (s.lport p).resend = [] ∧
      ∀ f ∈ (s.lport p).replay, field f 0 1 % 16 ≠ 1 := by
  simp [State.recallDone, hd, nth_eq_of_getElem? he, Port.delivered, and_assoc]

theorem exec_recallLimitExpiry (running : s.running c t = true) (hd : (s.sendSt c t k).isDetached p = true)
    (hr : (s.sendSt c t k).recallEnded.contains p = false) :
    exec (.recallLimitExpiry c t k p) s =
      let u := s.setSend c t k { s.sendSt c t k with recallEnded := addLine (s.sendSt c t k).recallEnded p }
      .next (if s.recallDone c t k p = true then u else (u.incFld RegF.lnkCntRecallFails 1 p).sendMsg p
        (s.sendEntryMsg e p kAbort 0 (abortPayload .mcastDetached 0))) :=
  show execRecallLimitExpiry c t k p s = _ by
    rw [← State.sendEntryMsg_recallFails]
    simp only [execRecallLimitExpiry, he, running, hd, hr]
    cases s.recallDone c t k p <;> rfl

end

/-- The payload of a contribution: as it lies in its slot, but for a product's own tile, which goes with its chunk's header (R264, R319). -/
theorem State.sendPayload_reduce {s : State} {c t : Nat} {e : SendEntry} (hk : e.kind = .reduce) (n : Nat) (bs : List Byte) :
    let g := (s.cert c).redGroup e.op
    (g.wide = true ∨ (s.cert c).productOf e.op = none ∨ (s.cert c).jobCombines t e.op = true → s.sendPayload c t e n bs = (bs, s)) ∧
    (g.wide = false → (s.cert c).productOf e.op ≠ none → (s.cert c).jobCombines t e.op = false →
      (s.sendPayload c t e n bs).1 = s.productMsg c g (e.chunkFirst + n) bs ∧
      (s.sendPayload c t e n bs).2 = { s with ctx := (s.sendPayload c t e n bs).2.ctx }) := by
  refine ⟨fun h => ?_, fun wide product combines => ?_⟩
  · rw [State.sendPayload, if_neg (by simp [hk]), if_pos (by simpa using h)]
  · rw [State.sendPayload, if_neg (by simp [hk]), if_neg (by simp [wide, product, combines])]
    exact ⟨rfl, rfl⟩

theorem State.sendPayload_tile {s : State} {c t : Nat} {e : SendEntry} (hk : e.kind ≠ .reduce) (n : Nat) (bs : List Byte) :
    s.sendPayload c t e n bs = (bs, s) := if_pos hk

/-- Settles O43: each command of a send entry falls under the lemma of its case. -/
theorem messagesSentForCredits : Obligations.MessagesSentForCredits := by
  unfold Obligations.MessagesSentForCredits
  intro s c t k p e he running receiver
  refine ⟨exec_transportSend_waits he, fun slot up credit hd hn => ?_, fun hk bs => State.sendPayload_reduce hk _ bs, ?_, ?_,
    ⟨?_, ?_⟩, ?_⟩
  · have may : s.MaySend c t k p e := ⟨running, receiver, up, credit, slot⟩
    refine ⟨fun le hl => exec_transportSend_ledger he may hd hn hl, fun hl hk here => ?_, fun hl hk here => ?_,
      fun hl here => exec_transportSend_no_tile he may hd hn hl here⟩
    · refine (exec_transportSend_tile he may hd hn hl here).trans ?_
      rw [State.sendPayload_tile hk]
      rfl
    · refine (exec_transportSend_tile he may hd hn hl here).trans ?_
      rw [show e.msgKind = kReduce by rw [SendEntry.msgKind, hk]]
      rfl
  · intro slot up credit hd hr lo hi
    rw [exec_transportSend_detached he ⟨running, receiver, up, credit, slot⟩ hd hr lo hi]
    exact ⟨fun h => by rw [if_pos h], fun h => by simp [h]⟩
  · exact fun hk hd credit hn full => exec_mcastDetach he running receiver hk hd credit hn full
  · intro hd hr sent
    rw [exec_recallLimitExpiry he running hd hr]
    exact congrArg Host.Outcome.next (if_pos ((State.recallDone_iff he hd).2 sent))
  · intro hd hr sent
    rw [exec_recallLimitExpiry he running hd hr]
    exact congrArg Host.Outcome.next (if_neg fun done => sent ((State.recallDone_iff he hd).1 done))
  · intro q
    rw [State.sendSt_setSend running]
    exact Tbl.get_upd_sub_one _ p q

end Sys2Proof.Machine
end

section
/-! SUPPORT. The update mode of vector engines (spec/05_vector_engines.md R145, R146, R150 to R152): what the windows of a set of batches hold
once they are loaded, and what a list of records leaves in memory once each has been written. -/

namespace Sys2Proof.Machine

/-! ### Tables and predicates -/

/-- The latest write of a key counts alone. -/
theorem Tbl.set_set {α : Type} [DecidableEq α] (d : α) (m : Tbl α) (k : Nat) (x y : α) :
    Tbl.set d (Tbl.set d m k x) k y = Tbl.set d m k y := by
  have cells : ∀ c ∈ Tbl.cells d k [x], k ≤ c.1 ∧ c.1 < k + 1 := fun c hc =>
    ⟨Tbl.cells_lower d [x] k c hc, Tbl.cells_upper d [x] k c hc⟩
  have cellsLow : (Tbl.cells d k [x]).filter (fun c => decide (c.1 < k)) = [] :=
    List.filter_eq_nil_iff.2 fun c hc => by have := cells c hc; simp; omega
  have cellsHigh : (Tbl.cells d k [x]).filter (fun c => decide (k + 1 ≤ c.1)) = [] :=
    List.filter_eq_nil_iff.2 fun c hc => by have := cells c hc; simp; omega
  have apart : ∀ c ∈ m, ¬ (decide (c.1 < k) && decide (k + 1 ≤ c.1)) = true := fun c _ => by simp; omega
  have low : (Tbl.set d m k x).filter (fun c => decide (c.1 < k)) = m.filter (fun c => decide (c.1 < k)) := by
    simp only [Tbl.set, Tbl.setRun, List.filter_append, List.filter_filter, cellsLow, Bool.and_self, List.length_singleton,
      List.filter_eq_nil_iff.2 apart, List.append_nil]
  have high : (Tbl.set d m k x).filter (fun c => decide (k + 1 ≤ c.1)) = m.filter (fun c => decide (k + 1 ≤ c.1)) := by
    simp only [Tbl.set, Tbl.setRun, List.filter_append, List.filter_filter, cellsHigh, Bool.and_self, List.length_singleton,
      Bool.and_comm (decide (k + 1 ≤ _)), List.filter_eq_nil_iff.2 apart, List.nil_append]
  have split : ∀ (m : Tbl α) (z : α), Tbl.set d m k z =
      m.filter (fun c => decide (c.1 < k)) ++ Tbl.cells d k [z] ++ m.filter (fun c => decide (k + 1 ≤ c.1)) := fun _ _ => rfl
  rw [split (Tbl.set d m k x) y, low, high, ← split m y]

theorem State.setEngine_setEngine (s : State) (e : Nat) (x y : Engine) : (s.setEngine e x).setEngine e y = s.setEngine e y := by
  simp only [State.setEngine, Tbl.set_set]

/-- The powers of two of a set of numbers below n sum to the number with those bits. -/
theorem testBit_sum_pow (f : Nat → Bool) (i : Nat) : ∀ n,
    (((List.range n).map (fun k => if f k then 2 ^ k else 0)).sum).testBit i = (decide (i < n) && f i) ∧
      ((List.range n).map (fun k => if f k then 2 ^ k else 0)).sum < 2 ^ n
  | 0 => by simp
  | n + 1 => by
    obtain ⟨ih, lt⟩ := testBit_sum_pow f i n
    rw [List.range_succ, List.map_append, List.sum_append, List.map_singleton, List.sum_singleton]
    generalize ((List.range n).map (fun k => if f k then 2 ^ k else 0)).sum = x at ih lt
    rw [Nat.pow_succ]
    by_cases hf : f n = true
    · rw [if_pos hf]
      refine ⟨?_, by omega⟩
      rw [Nat.add_comm]
      rcases Nat.lt_trichotomy i n with h | rfl | h
      · rw [Nat.testBit_two_pow_add_gt h, ih]; simp [h, Nat.lt_succ_of_lt h]
      · rw [Nat.testBit_two_pow_add_eq, ih]; simp [hf]
      · have : 2 ^ n + x < 2 ^ i := by
          have := Nat.pow_le_pow_right (n := 2) (by omega) (show n + 1 ≤ i from h)
          omega
        rw [Nat.testBit_lt_two_pow this]; simp [show ¬ i < n + 1 by omega]
    · rw [if_neg hf, Nat.add_zero, ih]
      refine ⟨?_, by omega⟩
      rcases Nat.lt_trichotomy i n with h | rfl | h
      · simp [h, Nat.lt_succ_of_lt h]
      · simp [hf]
      · simp [show ¬ i < n by omega, show ¬ i < n + 1 by omega]

theorem predOf_bit (f : Nat → Bool) (i : Nat) (h : i < 64) : (predOf f).getLsbD i = f i := by
  have bit := (testBit_sum_pow f i 64).1
  simp only [predOf, lanes, BitVec.getLsbD_ofNat, bit]
  simp [h]

/-! ### GCL (R150) -/

theorem State.groupConst_eq (s : State) (c g k : Nat) : s.groupConst c g k =
    let u := s.updConst c g ((s.ledgerOf c g).getD 0)
    if k < 10 then field (s.groupBytes c g) (64 + 4 * k) 4 else nth 0 [u.step, u.bc1, u.bc2, u.clip, 0, 0] (k - 10) := by
  unfold State.groupConst
  by_cases low : k < 10
  · simp [low]
  · obtain ⟨m, rfl⟩ : ∃ m, k = 10 + m := ⟨k - 10, by omega⟩
    rw [Nat.add_sub_cancel_left]
    match m with
    | 0 | 1 | 2 | 3 | 4 | 5 => rfl
    | m + 6 =>
      simp [nth, show ¬ 10 + (m + 6) < 10 by omega, show ¬ 10 + (m + 6) = 11 by omega, show ¬ 10 + (m + 6) = 12 by omega,
        show ¬ 10 + (m + 6) = 13 by omega]

theorem exec_gcl {s : State} {e : Nat} (o : VOp) (hu : (s.engine e).update = true) :
    exec (.gcl e o) s = .next (vecStep s e 0xC0 o (fun x => x.lanesOp o 1 (fun _ _ _ =>
      { val := s.groupConst (s.engine e).ctx (s.jobOfEngine e).group (bits o.imm.toNat 0 4) }))) :=
  show execGcl e o s = _ from if_pos hu

theorem gcl_effect (s : State) (e : Nat) (o : VOp) (hu : (s.engine e).update = true) (hv : o.vd.toNat < 16)
    (hat : (s.engine e).at 0xC0 o = true) : ∃ y, exec (.gcl e o) s = .next (s.setEngine e y) ∧
      LaneEffect (s.engine e) y o 1 (fun _ _ =>
        { val := s.groupConst (s.engine e).ctx (s.jobOfEngine e).group (bits o.imm.toNat 0 4) }) := by
  rw [exec_gcl o hu]
  exact vecStep_next s e 0xC0 o _ hat (fun y => LaneEffect (s.engine e) y o 1 _)
    (Engine.lanesOp_effect _ o 1 _ _ (fun _ => hv) (fun _ _ _ _ _ _ _ => rfl))

/-! ### The records of a batch (R145) -/

theorem VecJob.mem_records (j : VecJob) (n i m : Nat) : (i, m) ∈ j.records n ↔ i < 64 ∧ m = 64 * n + i ∧ m < j.recordCount := by
  simp only [VecJob.records, lanes, List.mem_filter, List.mem_map, List.mem_range, Prod.mk.injEq, decide_eq_true_eq]
  constructor
  · rintro ⟨⟨k, hk, rfl, rfl⟩, hm⟩; exact ⟨hk, rfl, hm⟩
  · rintro ⟨hi, rfl, hm⟩; exact ⟨⟨i, hi, rfl, rfl⟩, hm⟩

/-- Lane i of a batch has a record where its number is below the record count. -/
theorem VecJob.find_records (j : VecJob) (n i : Nat) (hi : i < 64) :
    (j.records n).find? (fun r => r.1 == i) = if 64 * n + i < j.recordCount then some (i, 64 * n + i) else none := by
  split
  · rename_i h
    obtain ⟨r, hr⟩ := Option.isSome_iff_exists.1 (List.find?_isSome.2
      ⟨(i, 64 * n + i), (j.mem_records n i _).2 ⟨hi, rfl, h⟩, (beq_self_eq_true i : _)⟩ : ((j.records n).find? (fun r => r.1 == i)).isSome)
    have lane : r.1 = i := by simpa using List.find?_some hr
    have num := ((j.mem_records n r.1 r.2).1 (List.mem_of_find?_eq_some hr)).2.1
    rw [hr, ← lane, ← num]
  · rename_i h
    refine List.find?_eq_none.2 fun r hr => ?_
    obtain ⟨-, num, lt⟩ := (j.mem_records n r.1 r.2).1 hr
    simp only [beq_iff_eq]
    rintro rfl
    exact h (num ▸ lt)

theorem VecJob.any_records (j : VecJob) (n i : Nat) (hi : i < 64) :
    (j.records n).any (fun r => r.1 == i) = decide (64 * n + i < j.recordCount) := by
  rw [← List.isSome_find?, j.find_records n i hi]
  split <;> simp [*]

/-! ### UPDATE_BATCH_LOAD (R145, R146) -/

/-- Register q of a window for record n of its job, as memory holds the record and its gradient: the master in v0 and v1, m, v, the gradient,
the master as F32, and zero. -/
def State.windowWord (s : State) (j : VecJob) (sc : Int) (q n : Nat) : W32 :=
  let r := leNat (s.rd (j.recordBase + 16 * n) 16)
  nth 0 [BitVec.ofNat 32 (r / 2 ^ 80 * 2 ^ 16), BitVec.ofNat 32 (r / 2 ^ 80 * 2 ^ 16 / 2 ^ 32), BitVec.ofNat 32 (r / 2 ^ 48),
    BitVec.ofNat 32 (r / 2 ^ 16), BitVec.ofNat 32 (f32.pack 0 0 (Dy.ofInt (li64 (leNat (s.rd (j.gradBase + 8 * n) 8))) sc)).1,
    BitVec.ofNat 32 (f32.ofX 0 (e8m39.value (r / 2 ^ 80)))] q

/-- Register q of a window in each lane: zero in a lane without a record. -/
def State.windowColumn (s : State) (j : VecJob) (sc : Int) (q n : Nat) : List W32 :=
  lanes.map (fun i => match (j.records n).find? (fun r => r.1 == i) with | some r => s.windowWord j sc q r.2 | none => (0 : W32))

theorem State.windowColumn_lane (s : State) (j : VecJob) (sc : Int) (q n i : Nat) (hi : i < 64) :
    nth 0 (s.windowColumn j sc q n) i = if 64 * n + i < j.recordCount then s.windowWord j sc q (64 * n + i) else 0 := by
  rw [State.windowColumn, nth_map_lanes 0 _ i hi, j.find_records n i hi]
  by_cases h : 64 * n + i < j.recordCount
  · rw [if_pos h, if_pos h]
  · rw [if_neg h, if_neg h]

@[simp] theorem State.windowColumn_length (s : State) (j : VecJob) (sc : Int) (q n : Nat) : (s.windowColumn j sc q n).length = 64 := by
  simp [State.windowColumn]

/-- Registers beyond the sixth of a window hold zero. -/
theorem State.windowColumn_zero (s : State) (j : VecJob) (sc : Int) (q n : Nat) :
    s.windowColumn j sc (q + 6) n = List.replicate 64 0 := by
  have zero : ∀ m, s.windowWord j sc (q + 6) m = 0 := fun m => by simp [State.windowWord, nth]
  refine List.eq_replicate_iff.2 ⟨s.windowColumn_length j sc _ n, fun w hw => ?_⟩
  obtain ⟨i, -, rfl⟩ := List.mem_map.1 hw
  split
  · exact zero _
  · rfl

/-- The engine with n registers from r on written. -/
def Engine.putCols (x : Engine) (r : Nat) (col : Nat → List W32) (n : Nat) : Engine :=
  (List.range n).foldl (fun y k => y.putReg (r + k) (col k)) x

theorem Engine.putCols_succ (x : Engine) (r : Nat) (col : Nat → List W32) (n : Nat) :
    x.putCols r col (n + 1) = (x.putCols r col n).putReg (r + n) (col n) := by
  simp [Engine.putCols, List.range_succ]

theorem Engine.word_putCols (x : Engine) (r : Nat) {col : Nat → List W32} (hc : ∀ k, (col k).length = 64) {i : Nat} (hi : i < 64)
    (q : Nat) : ∀ n, (x.putCols r col n).word q i = if r ≤ q ∧ q < r + n then nth 0 (col (q - r)) i else x.word q i
  | 0 => by rw [if_neg (by omega)]; rfl
  | n + 1 => by
    rw [Engine.putCols_succ, Engine.word_putReg _ _ _ _ _ (hc n) hi, Engine.word_putCols x r hc hi q n]
    by_cases last : q = r + n
    · rw [if_pos last, if_pos (by omega), last, Nat.add_sub_cancel_left]
    · rw [if_neg last]
      exact if_congr (by omega) rfl rfl

theorem Engine.putCols_rest (x : Engine) (r : Nat) (col : Nat → List W32) : ∀ n, x.putCols r col n = { x with v := (x.putCols r col n).v }
  | 0 => rfl
  | n + 1 => by
    rw [Engine.putCols_succ, Engine.putCols_rest x r col n]
    rfl

theorem Engine.word_withPresent (x : Engine) (p : List W64) (r i : Nat) : ({ x with present := p } : Engine).word r i = x.word r i := rfl

/-- The present lanes of a batch. -/
def VecJob.lanesOf (j : VecJob) (n : Nat) : W64 := predOf (fun i => (j.records n).any (fun r => r.1 == i))

/-- The engine with window b filled. -/
def State.windowFilled (s : State) (j : VecJob) (sc : Int) (b : Nat) (x : Engine) : Engine :=
  let y := x.putCols (16 * b) (fun q => s.windowColumn j sc q (x.batchNo j b)) 16
  { y with present := y.present ++ [j.lanesOf (x.batchNo j b)] }

theorem State.fillWindow_eq (s : State) (e : Nat) (j : VecJob) (sc : Int) (b : Nat) :
    s.fillWindow e j sc b = s.setEngine e (s.windowFilled j sc b (s.engine e)) := by
  generalize hx : s.engine e = x
  have cols : x.putCols (16 * b) (fun q => s.windowColumn j sc q (x.batchNo j b)) 16 =
      (List.range 10).foldl (fun y k => y.putReg (16 * b + 6 + k) (List.replicate 64 0))
        (x.putCols (16 * b) (fun q => s.windowColumn j sc q (x.batchNo j b)) 6) := by
    rw [Engine.putCols, show List.range 16 = List.range 6 ++ (List.range 10).map (fun k => k + 6) from rfl, List.foldl_append,
      List.foldl_map]
    simp only [State.windowColumn_zero, Nat.add_assoc, Nat.add_comm 6]
    rfl
  rw [State.windowFilled, cols, State.fillWindow, hx]
  rfl

section
variable (s : State) (j : VecJob) (sc : Int) (b : Nat) (x : Engine)

/-- Filling a window changes registers and adds its present lanes. -/
theorem State.windowFilled_rest : s.windowFilled j sc b x =
    { x with v := (s.windowFilled j sc b x).v, present := x.present ++ [j.lanesOf (x.batchNo j b)] } := by
  unfold State.windowFilled
  rw [Engine.putCols_rest]

/-- Registers outside the window stay. -/
theorem State.word_windowFilled_out {r i : Nat} (hi : i < 64) (h : r < 16 * b ∨ 16 * b + 16 ≤ r) :
    (s.windowFilled j sc b x).word r i = x.word r i := by
  rw [State.windowFilled, Engine.word_withPresent, Engine.word_putCols _ _ (fun _ => s.windowColumn_length j sc _ _) hi, if_neg (by omega)]

/-- Register q of the window holds what memory gives for the record of its lane. -/
theorem State.word_windowFilled_in {q i : Nat} (hi : i < 64) (hq : q < 16) :
    (s.windowFilled j sc b x).word (16 * b + q) i = if 64 * x.batchNo j b + i < j.recordCount then
      s.windowWord j sc q (64 * x.batchNo j b + i) else 0 := by
  rw [State.windowFilled, Engine.word_withPresent, Engine.word_putCols _ _ (fun _ => s.windowColumn_length j sc _ _) hi, if_pos (by omega),
    Nat.add_sub_cancel_left, s.windowColumn_lane j sc q _ i hi]

/-- The engine with its first windows filled. -/
def State.windowsFilled (n : Nat) : Engine := (List.range n).foldl (fun x b => s.windowFilled j sc b x) x

theorem State.windowsFilled_succ (n : Nat) : s.windowsFilled j sc x (n + 1) = s.windowFilled j sc n (s.windowsFilled j sc x n) := by
  simp [State.windowsFilled, List.range_succ]

/-- What the first windows hold once they are filled, and that nothing else of the engine has changed. -/
theorem State.windowsFilled_spec (s : State) (j : VecJob) (sc : Int) (x : Engine) : ∀ n, s.windowsFilled j sc x n = { x with
      v := (s.windowsFilled j sc x n).v,
      present := x.present ++ (List.range n).map (fun b => j.lanesOf (x.batchNo j b)) } ∧
    ∀ b q i, b < n → q < 16 → i < 64 → (s.windowsFilled j sc x n).word (16 * b + q) i =
      if 64 * x.batchNo j b + i < j.recordCount then s.windowWord j sc q (64 * x.batchNo j b + i) else 0
  | 0 => ⟨by simp [State.windowsFilled], fun b _ _ h => absurd h (Nat.not_lt_zero b)⟩
  | n + 1 => by
    obtain ⟨rest, words⟩ := s.windowsFilled_spec j sc x n
    have batch : (s.windowsFilled j sc x n).batchNo j n = x.batchNo j n := by rw [rest]; rfl
    refine ⟨?_, fun b q i hb hq hi => ?_⟩
    · rw [State.windowsFilled_succ, State.windowFilled_rest, batch]
      generalize s.windowFilled j sc n (s.windowsFilled j sc x n) = y
      rw [rest, List.range_succ, List.map_append, ← List.append_assoc]
      rfl
    · rw [State.windowsFilled_succ]
      by_cases last : b = n
      · rw [last, State.word_windowFilled_in _ _ _ _ _ hi hq, batch]
      · rw [State.word_windowFilled_out _ _ _ _ _ hi (by omega)]
        exact words b q i (by omega) hq hi

theorem State.overList_fillWindow (e n : Nat) :
    overList (List.range n) (fun b s => s.fillWindow e j sc b) (s.setEngine e x) = s.setEngine e (s.windowsFilled j sc x n) := by
  induction n with
  | zero => rfl
  | succ n ih =>
    rw [State.windowsFilled_succ, List.range_succ, overList, List.foldl_append]
    rw [overList] at ih
    rw [ih]
    show ((s.setEngine e _).fillWindow e j sc n) = _
    rw [State.fillWindow_eq, State.engine_setEngine, State.setEngine_setEngine]
    rfl

end

section
variable {s : State} {e : Nat} (update : (s.engine e).update = true) (run : (s.engine e).run = .running)
  (loaded : (s.engine e).loaded = false)
include update run loaded

theorem exec_updateBatchLoad_last (last : (s.jobOfEngine e).sets (s.engine e).rank ≤ (s.engine e).batch) :
    exec (.updateBatchLoad e) s = .next (s.setEngine e { s.engine e with run := .ended }) :=
  show execUpdateBatchLoad e s = _ by
    rw [execUpdateBatchLoad, if_neg (by simp [update, run, loaded]), if_pos last]

/-- The scale of the reduced gradients of an engine's update job. -/
def State.gradScale (s : State) (e : Nat) : Int :=
  (s.ledger (s.engine e).ctx ((s.ledgerOf (s.engine e).ctx (s.jobOfEngine e).group).getD 0)).rscale

theorem exec_updateBatchLoad (more : (s.engine e).batch < (s.jobOfEngine e).sets (s.engine e).rank)
    (reach : ∀ b, b < 4 → let j := s.jobOfEngine e
      let n := (s.engine e).batchNo j b
      s.engReach e (j.recordBase + 1024 * n) (16 * min 64 (j.recordCount - 64 * n)) = true ∧
      s.engReach e (j.gradBase + 512 * n) (8 * min 64 (j.recordCount - 64 * n)) = true)
    (readable : ∀ b i, b < 4 → i < 64 → let j := s.jobOfEngine e
      let n := 64 * (s.engine e).batchNo j b + i
      n < j.recordCount → s.streamReadFail (s.engine e).ctx (s.engine e).task (j.recordBase + 16 * n) 16 = none ∧
        s.streamReadFail (s.engine e).ctx (s.engine e).task (j.gradBase + 8 * n) 8 = none) :
    exec (.updateBatchLoad e) s = .next (s.setEngine e (s.windowsFilled (s.jobOfEngine e) (s.gradScale e)
      { s.engine e with loaded := true, present := [], pc := 0 } 4)) :=
  show execUpdateBatchLoad e s = _ by
    have reached : s.engReachAll e ((s.jobOfEngine e).recordRanges ((List.range 4).map ((s.engine e).batchNo (s.jobOfEngine e))) ++
        (s.jobOfEngine e).gradRanges ((List.range 4).map ((s.engine e).batchNo (s.jobOfEngine e)))) = true := by
      simp only [State.engReachAll, VecJob.recordRanges, VecJob.gradRanges, List.map_map, List.all_append, Bool.and_eq_true,
        List.all_map, List.all_eq_true, List.mem_range]
      exact ⟨fun b hb => (reach b hb).1, fun b hb => (reach b hb).2⟩
    have read : (((List.range 4).map (fun b => (s.jobOfEngine e).records ((s.engine e).batchNo (s.jobOfEngine e) b))).flatten.filterMap
        (fun r => (s.streamReadFail (s.engine e).ctx (s.engine e).task ((s.jobOfEngine e).recordBase + 16 * r.2) 16).or
          (s.streamReadFail (s.engine e).ctx (s.engine e).task ((s.jobOfEngine e).gradBase + 8 * r.2) 8))) = [] := by
      refine List.filterMap_eq_nil_iff.2 fun r hr => ?_
      obtain ⟨l, hl, hr⟩ := List.mem_flatten.1 hr
      obtain ⟨b, hb, rfl⟩ := List.mem_map.1 hl
      obtain ⟨hi, num, lt⟩ := (VecJob.mem_records _ _ r.1 r.2).1 hr
      obtain ⟨record, grad⟩ := readable b r.1 (List.mem_range.1 hb) hi (num ▸ lt)
      rw [num, record, grad]
      rfl
    rw [execUpdateBatchLoad, if_neg (by simp [update, run, loaded]), if_neg (Nat.not_le.2 more)]
    dsimp only
    rw [if_neg (by simp [reached]), read]
    exact congrArg Host.Outcome.next (State.overList_fillWindow ..)

end

theorem li64_eq_toInt (x : Nat) : li64 x = (BitVec.ofNat 64 x).toInt := signed_toInt 64 x

/-- A record of 16 bytes read as a number has 128 bits. -/
theorem State.record_lt (s : State) (a : Nat) : leNat (s.rd a 16) < 2 ^ 128 := by
  have h := leNat_lt (s.rd a 16)
  rwa [show (s.rd a 16).length = 16 from Tbl.getRun_length ..] at h

/-- The master of a window that is filled. -/
theorem State.elem_of_windowWords {s : State} {j : VecJob} {sc : Int} {y : Engine} {b i n : Nat}
    (words : ∀ q, q < 16 → y.word (16 * b + q) i = s.windowWord j sc q n) :
    y.elem 2 (16 * b) i = leNat (s.rd (j.recordBase + 16 * n) 16) / 2 ^ 80 * 2 ^ 16 := by
  have lt := s.record_lt (j.recordBase + 16 * n)
  have low := words 0 (by omega)
  have high := words 1 (by omega)
  rw [Nat.add_zero] at low
  simp only [Engine.elem, low, high, State.windowWord, nth, List.getElem?_cons_zero, List.getElem?_cons_succ, Option.getD_some,
    BitVec.toNat_ofNat]
  omega

theorem updateBatchLoad_fills (s : State) (e : Nat) : let x := s.engine e
    let j := s.jobOfEngine e
    let y := s.windowsFilled j (s.gradScale e) { x with loaded := true, present := [], pc := 0 } 4
    y = { x with loaded := true, pc := 0, v := y.v, present := y.present } ∧
    ∀ b i, b < 4 → i < 64 →
      let n := 64 * x.batchNo j b + i
      let r := leNat (s.rd (j.recordBase + 16 * n) 16)
      (nth 0 y.present b).getLsbD i = decide (n < j.recordCount) ∧
      (n < j.recordCount →
        y.elem 2 (16 * b) i = r / 2 ^ 80 * 2 ^ 16 ∧
        y.word (16 * b + 2) i = BitVec.ofNat 32 (r / 2 ^ 48) ∧ y.word (16 * b + 3) i = BitVec.ofNat 32 (r / 2 ^ 16) ∧
        y.word (16 * b + 4) i = BitVec.ofNat 32 (f32.pack 0 0 (Dy.ofInt (BitVec.ofNat 64 (leNat (s.rd (j.gradBase + 8 * n) 8))).toInt
          (s.gradScale e))).1 ∧
        y.word (16 * b + 5) i = BitVec.ofNat 32 (f32.ofX 0 (e8m39.value (r / 2 ^ 80)))) ∧
      (∀ q, 6 ≤ q → q < 16 → y.word (16 * b + q) i = 0) := by
  intro x j y
  obtain ⟨rest, words⟩ := s.windowsFilled_spec j (s.gradScale e) { x with loaded := true, present := [], pc := 0 } 4
  have present : y.present = (List.range 4).map (fun b => j.lanesOf (x.batchNo j b)) := by
    show (s.windowsFilled j (s.gradScale e) _ 4).present = _
    rw [rest]; rfl
  refine ⟨?_, fun b i hb hi => ⟨?_, fun lt => ?_, fun q lo hq => ?_⟩⟩
  · exact rest.trans (by rw [present]; rfl)
  · have lane : nth 0 y.present b = j.lanesOf (x.batchNo j b) := by simp [present, nth, hb]
    rw [lane, VecJob.lanesOf, predOf_bit _ i hi, j.any_records _ i hi]
  · have word : ∀ q, q < 16 → y.word (16 * b + q) i = s.windowWord j (s.gradScale e) q (64 * x.batchNo j b + i) :=
      fun q hq => (words b q i hb hq hi).trans (if_pos lt)
    refine ⟨State.elem_of_windowWords word, word 2 (by omega), word 3 (by omega), ?_, word 5 (by omega)⟩
    rw [← li64_eq_toInt]
    exact word 4 (by omega)
  · rw [words b q i hb hq hi]
    split
    · exact (show nth 0 _ q = 0 by simp [nth, show 6 ≤ q from lo])
    · rfl

/-! ### UPDATE_RECORD_WRITE (R151, R152) -/

theorem State.telAdd_ctx (s : State) (c g : Nat) (old new : XVal) : s.telAdd c g old new = { s with ctx := (s.telAdd c g old new).ctx } := by
  unfold State.telAdd
  split <;> rfl

/-- The 16 bytes that a record takes from its lane of a window: the master, m, v and the forward copy. -/
def Engine.recordBytes (x : Engine) (t : Target) (first b lane n : Nat) : List Byte :=
  leBytes 16 (x.master (16 * b) lane * 2 ^ 80 + (x.word (16 * b + 2) lane).toNat * 2 ^ 48 + (x.word (16 * b + 3) lane).toNat * 2 ^ 16 +
    (if t.fmt = 0 ∨ t.fmt = 1 then 0 else
      (({ t with sr := false } : Target).conv (e8m39.value (x.master (16 * b) lane)) (first + n)).code % 2 ^ 16))

theorem Engine.recordBytes_of_fmt (x : Engine) {t : Target} {fmt : Nat} (h : t.fmt = fmt) (first b lane n : Nat) :
    x.recordBytes t first b lane n = leBytes 16 (x.elem 2 (16 * b) lane / 2 ^ 16 * 2 ^ 80 + (x.word (16 * b + 2) lane).toNat * 2 ^ 48 +
      (x.word (16 * b + 3) lane).toNat * 2 ^ 16 + (if fmt = 0 ∨ fmt = 1 then 0 else
        (({ t with sr := false } : Target).conv (e8m39.value (x.elem 2 (16 * b) lane / 2 ^ 16)) (first + n)).code % 2 ^ 16)) := by
  subst h
  rfl

/-- Writing a record leaves the engines, and of memory all but the record. -/
theorem State.writeRecord_spec (s : State) (e : Nat) (j : VecJob) (t : Target) (sm b lane n : Nat) :
    (s.writeRecord e j t sm b lane n).eng = s.eng ∧ (s.writeRecord e j t sm b lane n).mem =
      Tbl.setRun 0 s.mem (j.recordBase + 16 * n) ((s.engine e).recordBytes t j.flatFirst b lane n) := by
  have order : ∀ fwd v m master : Nat, master + m + v + fwd = fwd + v + m + master := fun _ _ _ _ => by omega
  unfold State.writeRecord
  dsimp only
  rw [State.telAdd_ctx, Engine.recordBytes, order]
  by_cases wide : t.fmt = 0 ∨ t.fmt = 1
  · simp only [if_pos wide]
    exact ⟨rfl, rfl⟩
  · simp only [if_neg wide]
    exact ⟨rfl, rfl⟩

/-- Changes that each write a run of bytes of its own, one after the other: each run reads back, and every other byte stays. -/
theorem overList_writes {α : Type} (f : α → State → State) (addr : α → Nat) (bytes : α → List Byte) (I : State → Prop)
    (keeps : ∀ r s, I s → I (f r s)) (writes : ∀ r s, I s → (f r s).mem = Tbl.setRun 0 s.mem (addr r) (bytes r)) :
    ∀ (l : List α) (s : State), l.Pairwise (fun q r => addr q + (bytes q).length ≤ addr r) → I s →
      I (overList l f s) ∧ (∀ r ∈ l, (overList l f s).rd (addr r) (bytes r).length = bytes r) ∧
      (∀ a n, (∀ r ∈ l, a + n ≤ addr r ∨ addr r + (bytes r).length ≤ a) → (overList l f s).rd a n = s.rd a n) ∧
      ∀ a, (∀ r ∈ l, a < addr r ∨ addr r + (bytes r).length ≤ a) → (overList l f s).byteAt a = s.byteAt a
  | [], _, _, h => ⟨h, fun _ hr => absurd hr List.not_mem_nil, fun _ _ _ => rfl, fun _ _ => rfl⟩
  | q :: l, s, rising, h => by
    obtain ⟨after, rising⟩ := List.pairwise_cons.1 rising
    obtain ⟨inv, back, runs, stay⟩ := overList_writes f addr bytes I keeps writes l (f q s) rising (keeps q s h)
    have mem := writes q s h
    refine ⟨inv, fun r hr => ?_, fun a n out => ?_, fun a out => ?_⟩
    · rcases List.mem_cons.1 hr with rfl | hr
      · rw [overList_cons, runs _ _ fun p hp => .inl (after p hp), State.rd, mem, Tbl.getRun_setRun]
      · exact back r hr
    · rw [overList_cons, runs a n fun r hr => out r (List.mem_cons_of_mem _ hr), State.rd, mem,
        Tbl.getRun_setRun_out _ _ _ _ _ _ _ (out q (List.mem_cons_self ..))]
      rfl
    · rw [overList_cons, stay a fun r hr => out r (List.mem_cons_of_mem _ hr), State.byteAt, mem,
        Tbl.get_setRun_out _ _ _ _ _ _ (out q (List.mem_cons_self ..))]
      rfl

/-- The records of an engine's four windows: window, lane and record number. -/
def Engine.recordList (x : Engine) (j : VecJob) : List (Nat × Nat × Nat) :=
  ((List.range 4).map (fun b => (j.records (x.batchNo j b)).map (fun r => (b, r.1, r.2)))).flatten

theorem Engine.mem_recordList (x : Engine) (j : VecJob) (b i m : Nat) : (b, i, m) ∈ x.recordList j ↔
    b < 4 ∧ i < 64 ∧ m = 64 * x.batchNo j b + i ∧ m < j.recordCount := by
  simp only [Engine.recordList, List.mem_flatten, List.mem_map, List.mem_range]
  constructor
  · rintro ⟨_, ⟨b', hb, rfl⟩, hr⟩
    obtain ⟨r, listed, e⟩ := List.mem_map.1 hr
    simp only [Prod.mk.injEq] at e
    obtain ⟨rfl, rfl, rfl⟩ := e
    exact ⟨hb, (j.mem_records _ _ _).1 listed⟩
  · rintro ⟨hb, h⟩
    exact ⟨_, ⟨b, hb, rfl⟩, List.mem_map.2 ⟨(i, m), (j.mem_records _ _ _).2 h, rfl⟩⟩

/-- The record numbers of an engine's windows rise. -/
theorem Engine.recordList_rising (x : Engine) (j : VecJob) (engines : 1 ≤ j.engCount) :
    (x.recordList j).Pairwise (fun q r => q.2.2 < r.2.2) := by
  refine List.pairwise_flatten.2 ⟨fun l hl => ?_, List.pairwise_map.2 (List.pairwise_lt_range.imp fun {b c} lt q hq r hr => ?_)⟩
  · obtain ⟨b, -, rfl⟩ := List.mem_map.1 hl
    refine List.pairwise_map.2 (List.Pairwise.filter _ (List.pairwise_map.2 (List.pairwise_lt_range.imp fun lt => ?_)))
    simpa using lt
  · obtain ⟨u, hu, rfl⟩ := List.mem_map.1 hq
    obtain ⟨v, hv, rfl⟩ := List.mem_map.1 hr
    obtain ⟨hu, eu, -⟩ := (j.mem_records _ u.1 u.2).1 hu
    obtain ⟨hv, ev, -⟩ := (j.mem_records _ v.1 v.2).1 hv
    have next : x.batchNo j b + 1 ≤ x.batchNo j c := by
      have : j.engCount * (4 * x.batch + b) + j.engCount ≤ j.engCount * (4 * x.batch + c) := by
        rw [← Nat.mul_succ]; exact Nat.mul_le_mul_left _ (by omega)
      simp only [Engine.batchNo]; omega
    show u.2 < v.2
    omega

/-- The records of an engine's windows are written: each holds its bytes, no other byte has changed, and the engines are as before. -/
theorem State.writeRecords_spec {s : State} {e : Nat} {x : Engine} (hx : s.engine e = x) (j : VecJob) (engines : 1 ≤ j.engCount)
    (t : Target) (sm : Nat) : let u := overList (x.recordList j) (fun r s => s.writeRecord e j t sm r.1 r.2.1 r.2.2) s
    u.eng = s.eng ∧
    (∀ r ∈ x.recordList j, u.rd (j.recordBase + 16 * r.2.2) 16 = x.recordBytes t j.flatFirst r.1 r.2.1 r.2.2) ∧
    ∀ a, (∀ r ∈ x.recordList j, a < j.recordBase + 16 * r.2.2 ∨ j.recordBase + 16 * r.2.2 + 16 ≤ a) → u.byteAt a = s.byteAt a := by
  have length : ∀ r : Nat × Nat × Nat, (x.recordBytes t j.flatFirst r.1 r.2.1 r.2.2).length = 16 := fun r => leBytes_length ..
  have keeps : ∀ (r : Nat × Nat × Nat) (u : State), u.eng = s.eng → (u.writeRecord e j t sm r.1 r.2.1 r.2.2).eng = s.eng :=
    fun r u h => (u.writeRecord_spec e j t sm r.1 r.2.1 r.2.2).1.trans h
  have writes : ∀ (r : Nat × Nat × Nat) (u : State), u.eng = s.eng → (u.writeRecord e j t sm r.1 r.2.1 r.2.2).mem =
      Tbl.setRun 0 u.mem (j.recordBase + 16 * r.2.2) (x.recordBytes t j.flatFirst r.1 r.2.1 r.2.2) := fun r u h => by
    have same : u.engine e = x := by rw [← hx, State.engine, h, State.engine]
    rw [← same]
    exact (u.writeRecord_spec e j t sm r.1 r.2.1 r.2.2).2
  have rising : (x.recordList j).Pairwise (fun q r => j.recordBase + 16 * q.2.2 +
      (x.recordBytes t j.flatFirst q.1 q.2.1 q.2.2).length ≤ j.recordBase + 16 * r.2.2) := by
    refine (x.recordList_rising j engines).imp fun {q r} lt => ?_
    rw [length]
    omega
  obtain ⟨eng, back, -, stay⟩ := overList_writes _ _ _ _ keeps writes (x.recordList j) s rising rfl
  simp only [length] at back stay
  exact ⟨eng, back, stay⟩

/-- The format and scale that an engine's update job gives the forward copies of its group. -/
def State.forwardTarget (s : State) (e : Nat) : Target :=
  let d := s.groupBytes (s.engine e).ctx (s.jobOfEngine e).group
  s.target (s.engine e).ctx (field d 6 2) (field d 4 1 % 32) 0 0

/-- An engine that has written its records. -/
def Engine.afterSet (x : Engine) (j : VecJob) : Engine :=
  { x with loaded := false, batch := x.batch + 1, pc := 0, present := [],
           run := if j.sets x.rank ≤ x.batch + 1 then .ended else .running }

theorem exec_updateRecordWrite {s : State} {e : Nat} (update : (s.engine e).update = true) (run : (s.engine e).run = .running)
    (loaded : (s.engine e).loaded = true) (ended : (s.engine e).prog.length ≤ (s.engine e).pc)
    (reach : ∀ b, b < 4 → let j := s.jobOfEngine e
      let n := (s.engine e).batchNo j b
      s.engReach e (j.recordBase + 1024 * n) (16 * min 64 (j.recordCount - 64 * n)) = true)
    (allowed : ∀ r ∈ (s.engine e).recordList (s.jobOfEngine e), s.allows (s.engine e).ctx (s.rt (s.engine e).ctx (s.engine e).task).epochOld
      true ((s.jobOfEngine e).recordBase + 16 * r.2.2) 16 = true) :
    exec (.updateRecordWrite e) s = .next ((overList ((s.engine e).recordList (s.jobOfEngine e))
      (fun r s' => s'.writeRecord e (s.jobOfEngine e) (s.forwardTarget e)
        (field (s.groupBytes (s.engine e).ctx (s.jobOfEngine e).group) 6 2) r.1 r.2.1 r.2.2) s).updEngine e
      (fun y => y.afterSet (s.jobOfEngine e))) :=
  show execUpdateRecordWrite e s = _ by
    have reached : s.engReachAll e ((s.jobOfEngine e).recordRanges ((List.range 4).map ((s.engine e).batchNo (s.jobOfEngine e)))) = true := by
      simp only [State.engReachAll, VecJob.recordRanges, List.map_map, List.all_map, List.all_eq_true, List.mem_range]
      exact reach
    have denied : ((s.engine e).recordList (s.jobOfEngine e)).find? (fun r => !(s.allows (s.engine e).ctx
        (s.rt (s.engine e).ctx (s.engine e).task).epochOld true ((s.jobOfEngine e).recordBase + 16 * r.2.2) 16)) = none :=
      List.find?_eq_none.2 fun r hr => by simp [allowed r hr]
    rw [Engine.recordList] at denied
    rw [execUpdateRecordWrite, if_neg (by simp [update, run, loaded, ended])]
    dsimp only
    rw [if_neg (by simp [reached]), denied]
    rfl

theorem State.target_fmt (s : State) (c sm fmt rnd : Nat) (led : Int) : (s.target c sm fmt rnd led).fmt = fmt := by
  unfold State.target
  split <;> rfl

theorem State.streamReadFail_none {s : State} {c t a n : Nat} (allowed : s.allows c (s.rt c t).epochOld false a n = true)
    (clean : s.poisoned a n = false) : s.streamReadFail c t a n = none := by
  simp [State.streamReadFail, allowed, clean]

/-- Settles O13: GCL is a lane operation with one value; a set of batches is loaded window by window, and its records, whose numbers rise,
are written one by one. -/
theorem updateWindowsAndRecords : Obligations.UpdateWindowsAndRecords := by
  unfold Obligations.UpdateWindowsAndRecords
  refine ⟨⟨fun s e o hu hv hat => ?_, fun s e hu run loaded => ⟨exec_updateBatchLoad_last hu run loaded, fun more reach readable => ?_⟩⟩, ?_⟩
  · have effect := gcl_effect s e o hu hv hat
    rw [State.groupConst_eq] at effect
    exact effect
  · refine ⟨_, exec_updateBatchLoad hu run loaded more reach fun b i hb hi => ?_, updateBatchLoad_fills s e⟩
    intro _ n lt
    obtain ⟨allowed, clean, allowedGrad, cleanGrad⟩ := readable b i hb hi lt
    exact ⟨State.streamReadFail_none allowed clean, State.streamReadFail_none allowedGrad cleanGrad⟩
  · intro s e x j d fmt rec' hu run loaded ended _ engines reach allowed
    have numbered : ∀ r ∈ x.recordList j, r.1 < 4 ∧ r.2.1 < 64 ∧ r.2.2 = rec' r.1 r.2.1 ∧ r.2.2 < j.recordCount :=
      fun r hr => (x.mem_recordList j r.1 r.2.1 r.2.2).1 hr
    obtain ⟨eng, back, stay⟩ := State.writeRecords_spec (rfl : s.engine e = x) j engines (s.forwardTarget e) (field d 6 2)
    refine ⟨_, exec_updateRecordWrite hu run loaded ended reach fun r hr => ?_, fun b i hb hi lt => ?_, fun a out => stay a fun r hr => ?_, ?_⟩
    · obtain ⟨hb, hi, num, lt⟩ := numbered r hr
      rw [num] at lt ⊢
      exact allowed r.1 r.2.1 hb hi lt
    · refine (back (b, i, rec' b i) ((x.mem_recordList j b i _).2 ⟨hb, hi, rfl, lt⟩)).trans ?_
      exact Engine.recordBytes_of_fmt x (s.target_fmt x.ctx (field d 6 2) fmt 0 0) j.flatFirst b i (rec' b i)
    · obtain ⟨hb, hi, num, lt⟩ := numbered r hr
      rw [num] at lt ⊢
      exact out r.1 r.2.1 hb hi lt
    · rw [State.updEngine_eq, State.engine_setEngine, State.engine, eng]
      rfl

end Sys2Proof.Machine
end

section
/-! SUPPORT. Streams (spec/06_gallery_streams_tiles.md R158, R165 to R172, R182): what the shared operations on stream units leave alone,
and what each stream command does, a lemma for each of its cases. -/

namespace Sys2Proof.Machine

/-! ### Stores that show in registers -/

section
variable {s t u : State}

theorem State.SameButRegs.refl : s.SameButRegs s := rfl

theorem State.SameButRegs.trans (h : s.SameButRegs t) (h' : t.SameButRegs u) : s.SameButRegs u := by
  unfold State.SameButRegs at *
  rw [h', h]

theorem State.SameButRegs.setFld (h : s.SameButRegs t) (f : Fld) (v i j : Nat) : s.SameButRegs (t.setFld f v i j) := h.trans rfl

theorem State.SameButRegs.mem (h : s.SameButRegs t) : t.mem = s.mem := by rw [h]
theorem State.SameButRegs.strm (h : s.SameButRegs t) : t.strm = s.strm := by rw [h]

end

/-- Storing a stream unit changes it and registers. -/
theorem State.putStream_regs (s : State) (u : Nat) (x : Stream) (mark : Bool) : (s.setStream u x).SameButRegs (s.putStream u x mark) := by
  have shown := ((((((State.SameButRegs.refl (s := s.setStream u x)).setFld RegF.wingStrmStsState (x.code mark) (u / 128) (u % 128)).setFld
    RegF.wingStrmStsStanding (bit (x.held && x.ent.standing)) (u / 128) (u % 128)).setFld RegF.wingStrmStsDir (bit x.ent.out) (u / 128)
    (u % 128)).setFld RegF.wingStrmStsFull x.full (u / 128) (u % 128)).setFld RegF.wingStrmStsCtx x.ctx (u / 128) (u % 128)).setFld
    RegF.wingStrmStsNextEntry x.next (u / 128) (u % 128)
  unfold State.putStream
  dsimp only
  split
  · exact (shown.setFld _ _ _ _).setFld _ _ _ _
  · exact shown

/-- Storing a shelf changes it and registers. -/
theorem State.putShelf_regs (s : State) (w h : Nat) (x : Shelf) : (s.setShelf w h x).SameButRegs (s.putShelf w h x) :=
  ((((State.SameButRegs.refl.setFld _ _ _ _).setFld _ _ _ _).setFld _ _ _ _).setFld _ _ _ _).setFld _ _ _ _

theorem State.galleryCorrected_regs (s : State) (a n : Nat) : s.SameButRegs (s.galleryCorrected a n) := by
  unfold State.galleryCorrected
  dsimp only
  split
  · exact .refl
  · exact State.SameButRegs.refl.setFld _ _ _ _

/-! ### Memory and slots -/

theorem State.stream_setStream_other (s : State) {u v : Nat} (x : Stream) (h : v ≠ u) : (s.setStream u x).stream v = s.stream v := by
  simp [State.stream, State.setStream, Tbl.get_set_other _ _ _ _ _ _ h]

/-- From s to t the memory and every stream have kept what they hold, but for how many tiles of stream u are still to be folded. -/
structure State.KeepsSlots (s t : State) (u : Nat) : Prop where
  mem : t.mem = s.mem
  slots : (t.stream u).slots = (s.stream u).slots
  others : ∀ v, v ≠ u → t.stream v = s.stream v

section
variable {s t v : State} {u : Nat}

theorem State.KeepsSlots.of_strm (mem : t.mem = s.mem) (strm : t.strm = s.strm) : s.KeepsSlots t u :=
  ⟨mem, by rw [State.stream, strm, State.stream], fun v _ => by rw [State.stream, strm, State.stream]⟩

theorem State.KeepsSlots.trans (h : s.KeepsSlots t u) (h' : t.KeepsSlots v u) : s.KeepsSlots v u :=
  ⟨h'.mem.trans h.mem, h'.slots.trans h.slots, fun w hw => (h'.others w hw).trans (h.others w hw)⟩

theorem State.SameButRegs.keepsSlots (h : s.SameButRegs t) : s.KeepsSlots t u := .of_strm h.mem h.strm

end

theorem State.KeepsSlots.setUnfolded {s t : State} {u : Nat} (h : s.KeepsSlots t u) (k : Nat) :
    s.KeepsSlots (t.setStream u { s.stream u with unfolded := k }) u :=
  ⟨h.mem, by rw [State.stream_setStream], fun v hv => (State.stream_setStream_other _ _ hv).trans (h.others v hv)⟩

theorem State.foldChans_keepsSlots (s : State) (courier : Bool) (unit : Nat) (bs : List Byte) (u : Nat) :
    s.KeepsSlots (s.foldChans courier unit bs) u := by
  refine overList_keeps (fun t : State => s.KeepsSlots t u) _ (fun k t h => ?_) _ s (.of_strm rfl rfl)
  dsimp only
  split
  · exact h.trans (.of_strm rfl rfl)
  · exact h

theorem State.fillEvt_keepsSlots (s : State) (u : Nat) : s.KeepsSlots (s.fillEvt u) u := by
  unfold State.fillEvt State.evCount
  dsimp only
  split
  · split <;> exact .of_strm rfl rfl
  · exact .of_strm rfl rfl

theorem State.releasePos_keepsSlots (s : State) (u pos : Nat) : s.KeepsSlots (s.releasePos u pos) u := by
  unfold State.releasePos
  split
  · exact .of_strm rfl rfl
  · exact .of_strm (State.putShelf_regs ..).mem (State.putShelf_regs ..).strm

theorem State.foldSlots_keepsSlots (u : Nat) : ∀ (n : Nat) (s : State), s.KeepsSlots (s.foldSlots u n) u
  | 0, _ => .of_strm rfl rfl
  | n + 1, s => by
    unfold State.foldSlots
    dsimp only
    split
    · exact ((s.foldChans_keepsSlots ..).setUnfolded _).trans (State.foldSlots_keepsSlots u n _)
    · exact .of_strm rfl rfl

theorem State.pushed_mem (s : State) (u addr : Nat) : (s.pushed u addr).mem = s.mem := by
  unfold State.pushed
  split
  · rfl
  · dsimp only
    split
    · exact (State.putShelf_regs ..).mem
    · rfl

/-! ### GALLERY_CORRECTION_WRITE_BACK (R158) -/

theorem exec_galleryCorrectionWriteBack {s : State} {w line : Nat} (h : galleryWing (64 * line) = w) (lt : 64 * line < galleryEnd) :
    exec (.galleryCorrectionWriteBack w line) s = .next { s with corrected := s.corrected.filter (fun x => x != line) } :=
  show execGalleryCorrectionWriteBack w line s = _ from if_pos ⟨h, lt⟩

/-! ### STANDING_LOAN_REARM (R171) -/

section
variable {s : State} {u : Nat}

theorem exec_standingLoanRearm_early (more : (s.stream u).next < (s.stream u).listCount) :
    exec (.standingLoanRearm u) s = .next s :=
  show execStandingLoanRearm u s = _ from if_pos (.inr (.inr more))

section
variable (held : (s.stream u).held = true) (standing : (s.stream u).ent.standing = true)
  (last : (s.stream u).listCount ≤ (s.stream u).next)
include held standing last

theorem exec_standingLoanRearm_armed {b n : Nat} (hr : (s.stream u).rearm = some (b, n)) :
    exec (.standingLoanRearm u) s = .next (s.putStream u { s.stream u with
      listBase := b, listCount := n, next := 0, rearm := none, rearmed := none, first := (s.stream u).ring }) :=
  show execStandingLoanRearm u s = _ by
    rw [execStandingLoanRearm, if_neg (by simp [held, standing, last])]
    simp [Stream.takeRearm, hr, last]

section
variable (hr : (s.stream u).rearm = none) {t : Nat} {y : StreamEntry} (hn : s.nextRearm u = some (t, y))
include hr hn

theorem exec_standingLoanRearm_waits (h : (s.stream u).rearmed ≠ none ∨ s.sendsFrom u = true) :
    exec (.standingLoanRearm u) s = .next s :=
  show execStandingLoanRearm u s = _ by
    rw [execStandingLoanRearm, if_neg (by simp [held, standing, last])]
    simp only [hr, hn, Option.isSome_none, Bool.false_eq_true, if_false]
    exact if_pos (h.imp_left Option.isSome_iff_ne_none.2)

theorem exec_standingLoanRearm_ahead (fresh : (s.stream u).rearmed = none) (sends : s.sendsFrom u = false) :
    exec (.standingLoanRearm u) s = .next (s.putStream u { s.stream u with
      listBase := y.listBase, listCount := y.listCount, next := 0, rearm := none, rearmed := some t, first := (s.stream u).ring }) :=
  show execStandingLoanRearm u s = _ by
    rw [execStandingLoanRearm, if_neg (by simp [held, standing, last])]
    simp only [hr, hn, Option.isSome_none, Bool.false_eq_true, if_false, Stream.takeRearm, last, if_true]
    exact if_neg (by simp [fresh, sends])

end
end

/-- The task that re-arms a loan next has not been armed, has no mark before it, and names the loan's unit. -/
theorem State.nextRearm_spec {t : Nat} {y : StreamEntry} (h : s.nextRearm u = some (t, y)) :
    (s.rt (s.stream u).ctx t).st = .idle ∧ s.marksBefore (s.stream u).ctx t = true ∧ y ∈ (s.task (s.stream u).ctx t).streams ∧
      y.rearm = true ∧ y.unit = u % 128 := by
  obtain ⟨k, -, hk⟩ := List.mem_filterMap.1 (List.mem_of_head? h)
  split at hk
  · rename_i fresh
    obtain ⟨e, he, pair⟩ := Option.map_eq_some_iff.1 hk
    simp only [Prod.mk.injEq] at pair
    obtain ⟨rfl, rfl⟩ := pair
    have names := List.find?_some he
    simp only [Bool.and_eq_true, beq_iff_eq] at fresh names
    exact ⟨fresh.1.1.1, fresh.1.2, List.mem_of_find?_eq_some he, names.1, names.2⟩
  · exact absurd hk (by simp)

end

/-! ### STREAM_FETCH_START (R166, R167) -/

/-- An in-stream can take its next entry: its next slot is EMPTY. -/
structure Stream.CanFetch (x : Stream) : Prop where
  held : x.held = true
  dir : x.ent.out = false
  live : x.depVoid = false
  more : x.next < x.listCount
  ring : x.slots ≠ []
  empty : x.slot x.ring = .empty

/-- A stream that has begun to fill its next slot. -/
def Stream.fetching (x : Stream) (e : ListEntry) : Stream :=
  { x with slots := setNth x.slots x.ring (.filling e.addr e.uses x.next), next := x.next + 1, ring := (x.ring + 1) % x.slots.length,
           unfolded := x.unfolded + 1 }

theorem Stream.CanFetch.guard {x : Stream} (can : x.CanFetch) :
    ¬ (¬ x.held = true ∨ x.ent.out = true ∨ x.depVoid = true ∨ x.listCount ≤ x.next ∨ x.slot x.ring ≠ .empty ∨ x.slots.isEmpty = true) := by
  obtain ⟨held, dir, live, more, ring, empty⟩ := can
  simp [held, dir, live, more, ring, empty]

/-- An entry that is malformed, or whose mark is met, does not wait for its mark (log 114). -/
theorem not_waiting {bad met : Bool} (h : bad = true ∨ met = true) : ¬ (¬ bad = true ∧ ¬ met = true) := fun no => h.elim no.1 no.2

/-- A stream's unit reaches an address and its next slot in the slots of its allotment (R18). -/
def State.streamReach (s : State) (u a : Nat) : Bool :=
  s.slotted (s.streamAsker u) a tileBytes && s.slotted (s.streamAsker u) ((s.stream u).slotAddr (s.stream u).ring) tileBytes

section
variable {s : State} {u : Nat} (can : (s.stream u).CanFetch)
include can

theorem exec_streamFetchStart_listFail {r : Fail × State} (h : s.listFail u = some r) :
    exec (.streamFetchStart u) s = .next (r.2.failStream u r.1) :=
  show execStreamFetchStart u s = _ by simp only [execStreamFetchStart, if_neg can.guard, h]

section
variable (list : s.listFail u = none)
include list

theorem exec_streamFetchStart_mark (good : (s.nextEntry u).bad = false) (mark : s.markMet (u / 128) (s.nextEntry u) = false) :
    exec (.streamFetchStart u) s = .next (s.putStream u (s.stream u) true) :=
  show execStreamFetchStart u s = _ by
    simp only [execStreamFetchStart, if_neg can.guard, list]
    exact if_pos (by simp [good, mark])

variable (due : (s.nextEntry u).bad = true ∨ s.markMet (u / 128) (s.nextEntry u) = true)
include due

theorem exec_streamFetchStart_entryFail {r : Fail × State} (h : s.entryFail u (s.nextEntry u) = some r) :
    exec (.streamFetchStart u) s = .next (r.2.failStream u r.1) :=
  show execStreamFetchStart u s = _ by
    simp only [execStreamFetchStart, if_neg can.guard, list, h]
    exact if_neg (not_waiting due)

variable (entry : s.entryFail u (s.nextEntry u) = none)
include entry

theorem exec_streamFetchStart_waits (h : s.popHeld u = true ∨ s.streamReach u (s.nextEntry u).addr = false) :
    exec (.streamFetchStart u) s = .next s :=
  show execStreamFetchStart u s = _ by
    simp only [execStreamFetchStart, if_neg can.guard, list, entry]
    rw [if_neg (not_waiting due)]
    exact if_pos (h.imp_right fun no => by simpa [State.streamReach, or_iff_not_imp_left] using no)

theorem exec_streamFetchStart_fills (free : s.popHeld u = false) (reach : s.streamReach u (s.nextEntry u).addr = true)
    (memory : ∀ n, homeOf (s.nextEntry u).addr ≠ .flash n) :
    exec (.streamFetchStart u) s = .next (s.putStream u ((s.stream u).fetching (s.nextEntry u))) :=
  show execStreamFetchStart u s = _ by
    simp only [execStreamFetchStart, if_neg can.guard, list, entry]
    rw [if_neg (not_waiting due), if_neg (by simpa [State.streamReach, free] using reach)]
    rfl

end
end

/-! ### OUT_STREAM_WRITE (R168, R169) -/

/-- An out-stream can write its next entry: its next slot is FULL and it writes no other. -/
structure Stream.CanWrite (x : Stream) : Prop where
  held : x.held = true
  dir : x.ent.out = true
  rest : x.writing = none
  more : x.next < x.listCount
  full : (x.slot x.ring).isFull = true

theorem Stream.CanWrite.guard {x : Stream} (can : x.CanWrite) :
    ¬ (¬ x.held = true ∨ ¬ x.ent.out = true ∨ x.writing.isSome = true ∨ x.listCount ≤ x.next ∨ ¬ (x.slot x.ring).isFull = true) := by
  obtain ⟨held, dir, rest, more, full⟩ := can
  simp [held, dir, rest, more, full]

/-- An out-stream that has gone on to its next entry and slot. -/
def Stream.pastEntry (x : Stream) : Stream := { x with next := x.next + 1, ring := (x.ring + 1) % max 1 x.slots.length }

section
variable {s : State} {u : Nat} (can : (s.stream u).CanWrite)
include can

theorem exec_outStreamWrite_void (void : (s.stream u).depVoid = true) :
    exec (.outStreamWrite u) s = .next (((s.putStream u (s.stream u).pastEntry).emptyOut u (s.stream u).ring).settle) :=
  show execOutStreamWrite u s = _ by
    simp only [execOutStreamWrite, if_neg can.guard, if_pos void]
    rfl

section
variable (live : (s.stream u).depVoid = false) (list : s.listFail u = none)
include live list

theorem exec_outStreamWrite_mark (good : (s.nextEntry u).bad = false) (mark : s.markMet (u / 128) (s.nextEntry u) = false) :
    exec (.outStreamWrite u) s = .next (s.putStream u (s.stream u) true) :=
  show execOutStreamWrite u s = _ by
    simp only [execOutStreamWrite, if_neg can.guard, list, if_neg (Bool.eq_false_iff.1 live)]
    exact if_pos (by simp [good, mark])

variable (due : (s.nextEntry u).bad = true ∨ s.markMet (u / 128) (s.nextEntry u) = true)
include due

theorem exec_outStreamWrite_entryFail {r : Fail × State} (h : s.entryFail u (s.nextEntry u) = some r) :
    exec (.outStreamWrite u) s = .next (r.2.failStream u r.1) :=
  show execOutStreamWrite u s = _ by
    simp only [execOutStreamWrite, if_neg can.guard, list, if_neg (Bool.eq_false_iff.1 live), h]
    exact if_neg (not_waiting due)

variable (entry : s.entryFail u (s.nextEntry u) = none)
include entry

theorem exec_outStreamWrite_waits (h : s.pushHeld u = true ∨ s.streamReach u (s.nextEntry u).addr = false) :
    exec (.outStreamWrite u) s = .next s :=
  show execOutStreamWrite u s = _ by
    simp only [execOutStreamWrite, if_neg can.guard, list, if_neg (Bool.eq_false_iff.1 live), entry]
    rw [if_neg (not_waiting due)]
    exact if_pos (h.imp_right fun no => by simpa [State.streamReach, or_iff_not_imp_left] using no)

theorem exec_outStreamWrite_writes (free : s.pushHeld u = false) (reach : s.streamReach u (s.nextEntry u).addr = true) :
    exec (.outStreamWrite u) s = .next (s.putStream u { (s.stream u).pastEntry with
      writing := some ((s.stream u).ring, (s.nextEntry u).addr) }) :=
  show execOutStreamWrite u s = _ by
    simp only [execOutStreamWrite, if_neg can.guard, list, if_neg (Bool.eq_false_iff.1 live), entry]
    rw [if_neg (not_waiting due), if_neg (by simpa [State.streamReach, free] using reach)]
    rfl

end
end

/-! ### SLOT_FILL_COMPLETE (R167) -/

/-- The bytes of a slot that does not fill from legacy flash are those of its source. -/
theorem State.fillBytes_memory {s : State} {u slot addr pos : Nat} (memory : ∀ n, homeOf addr ≠ .flash n)
    (clean : s.poisoned addr tileBytes = false) : s.fillBytes u slot addr pos = .inr (some (s.rd addr tileBytes, s)) := by
  unfold State.fillBytes
  split
  · rename_i n flash; exact absurd flash (memory n)
  · simp [clean]

/-- The state after a fill, before the scheduler looks. -/
def State.filled (s : State) (u slot addr uses pos : Nat) : State :=
  let x := s.stream u
  let s := ((s.wr (x.slotAddr slot) (s.rd addr tileBytes)).releasePos u pos).putStream u { x with slots := setNth x.slots slot (.full uses) }
  ((s.incFld RegF.wingStrmCntTiles 1 (u / 128) (u % 128)).fillEvt u).foldSlots u x.slots.length

theorem exec_slotFillComplete {s : State} {u slot addr uses pos : Nat} (held : (s.stream u).held = true) (dir : (s.stream u).ent.out = false)
    (xpose : (s.stream u).ent.xpose = false) (filling : (s.stream u).slot slot = .filling addr uses pos)
    (memory : ∀ n, homeOf addr ≠ .flash n) (clean : s.poisoned addr tileBytes = false) :
    exec (.slotFillComplete u slot .done) s = .next (s.filled u slot addr uses pos).settle :=
  show execSlotFillComplete u slot .done s = _ by
    simp only [execSlotFillComplete, filling]
    rw [if_neg (by simp [held, dir, xpose])]
    simp only [State.endingFail, State.fillBytes_memory memory clean]
    rw [if_neg (by simp [xpose])]
    simp only [if_neg (Bool.eq_false_iff.1 xpose)]
    rfl

/-- A fill writes its slot's tile and makes the slot FULL; of memory and of the streams nothing else changes. -/
theorem State.filled_spec (s : State) (u slot addr uses pos : Nat) :
    let t := s.filled u slot addr uses pos
    let a := (s.stream u).slotAddr slot
    (t.stream u).slots = setNth (s.stream u).slots slot (.full uses) ∧ t.rd a tileBytes = s.rd addr tileBytes ∧
      (∀ b, (b < a ∨ a + tileBytes ≤ b) → t.byteAt b = s.byteAt b) ∧ ∀ v, v ≠ u → t.stream v = s.stream v := by
  intro t a
  have length : (s.rd addr tileBytes).length = tileBytes := Tbl.getRun_length ..
  let w := (s.wr a (s.rd addr tileBytes)).releasePos u pos
  let x := { s.stream u with slots := setNth (s.stream u).slots slot (.full uses) }
  have released : (s.wr a (s.rd addr tileBytes)).KeepsSlots w u := State.releasePos_keepsSlots ..
  have counted : (w.setStream u x).SameButRegs ((w.putStream u x).incFld RegF.wingStrmCntTiles 1 (u / 128) (u % 128)) :=
    (State.putStream_regs w u x false).setFld ..
  have after : (w.setStream u x).KeepsSlots t u :=
    (counted.keepsSlots.trans (State.fillEvt_keepsSlots ..)).trans (State.foldSlots_keepsSlots ..)
  have mem : t.mem = (s.wr a (s.rd addr tileBytes)).mem := after.mem.trans released.mem
  refine ⟨?_, ?_, fun b out => ?_, fun v hv => ?_⟩
  · rw [after.slots, State.stream_setStream]
  · have back := s.rd_wr a (s.rd addr tileBytes)
    rw [length] at back
    rw [State.rd, mem]
    exact back
  · rw [State.byteAt, mem]
    exact State.wr_other _ _ _ _ (by rwa [length])
  · rw [after.others v hv, State.stream_setStream_other _ _ hv, released.others v hv]
    rfl

/-! ### OUT_STREAM_TILE_STORED (R168) -/

theorem State.SameButRegs.rd {s t : State} (h : s.SameButRegs t) (a n : Nat) : t.rd a n = s.rd a n := by
  rw [State.rd, h.mem, State.rd]

theorem exec_outStreamTileStored {s : State} {u slot addr : Nat} (held : (s.stream u).held = true)
    (writing : (s.stream u).writing = some (slot, addr)) : let a := (s.stream u).slotAddr slot
    s.poisoned a tileBytes = false →
    let v := ((s.galleryCorrected a tileBytes).wr addr (s.rd a tileBytes)).pushed u addr
    exec (.outStreamTileStored u .done) s = .next (((((v.incFld RegF.wingStrmCntTiles 1 (u / 128) (u % 128)).fillEvt u).foldChans false u
      ((s.rd a tileBytes).drop 64)).emptyOut u slot).settle) := by
  intro a clean v
  show execOutStreamTileStored u .done s = _
  have same := (s.galleryCorrected_regs a tileBytes).rd a tileBytes
  simp only [execOutStreamTileStored, writing, held, State.endingFail, not_true, if_false]
  rw [if_neg (Bool.eq_false_iff.1 clean), same]

/-- Settles O35: each command on a stream falls under the lemma of its case. -/
theorem streamsFillAndDrain : Obligations.StreamsFillAndDrain := by
  unfold Obligations.StreamsFillAndDrain
  refine ⟨fun s w line h lt => ⟨_, exec_galleryCorrectionWriteBack h lt, rfl, fun x => by simp⟩, fun s u => ?_, ?_, ?_⟩
  · intro x e q reach held
    refine ⟨fun standing last b n hr => exec_standingLoanRearm_armed held standing last hr, fun standing last hr t y hn => ?_,
      exec_standingLoanRearm_early, fun t y hn => State.nextRearm_spec hn, fun dir live more ring empty => ?_, fun dir rest more full => ?_⟩
    · exact ⟨exec_standingLoanRearm_waits held standing last hr hn, exec_standingLoanRearm_ahead held standing last hr hn⟩
    · have can : (s.stream u).CanFetch := ⟨held, dir, live, more, ring, empty⟩
      exact ⟨fun r h => exec_streamFetchStart_listFail can h, fun list good mark => exec_streamFetchStart_mark can list good mark,
        fun list due => ⟨fun r h => exec_streamFetchStart_entryFail can list due h,
          fun entry h => exec_streamFetchStart_waits can list due entry h,
          fun entry free reach memory => exec_streamFetchStart_fills can list due entry free reach memory⟩⟩
    · have can : (s.stream u).CanWrite := ⟨held, dir, rest, more, full⟩
      exact ⟨fun void => exec_outStreamWrite_void can void, fun live list good mark => exec_outStreamWrite_mark can live list good mark,
        fun live list due => ⟨fun r h => exec_outStreamWrite_entryFail can live list due h,
          fun entry h => exec_outStreamWrite_waits can live list due entry h,
          fun entry free reach => exec_outStreamWrite_writes can live list due entry free reach⟩⟩
  · intro s u slot addr uses pos held dir xpose lt filling memory clean
    obtain ⟨slots, tile, bytes, others⟩ := s.filled_spec u slot addr uses pos
    refine ⟨_, exec_slotFillComplete held dir xpose filling memory clean, ?_, fun i hi => ?_, tile, bytes, others⟩
    · rw [Stream.slot, slots]
      simp [setNth, nth, lt]
    · rw [Stream.slot, slots]
      simp [setNth, nth, Stream.slot, Ne.symm hi]
  · intro s u slot addr held writing a clean v
    exact ⟨exec_outStreamTileStored held writing clean, by rw [State.pushed_mem, State.wr_mem, State.wr_mem, (s.galleryCorrected_regs ..).mem]⟩

end Sys2Proof.Machine
end

section
/-! SUPPORT. Tile movers, prefetch lists and courier queues (spec/06_gallery_streams_tiles.md R175 to R182, spec/07_memory_tiers.md R211 to
R222): the bytes of a catalogue entry, and what each command of a mover and of a courier queue does, a lemma for each of its cases. -/

namespace Sys2Proof.Machine

/-! ### Stores that show in registers -/

theorem State.putMover_regs (s : State) (m : Nat) (x : Mover) : (s.setMover m x).SameButRegs (s.putMover m x) := by
  unfold State.putMover
  dsimp only
  split
  · exact (State.SameButRegs.refl.setFld _ _ _ _).setFld _ _ _ _
  · exact State.SameButRegs.refl.setFld _ _ _ _

theorem State.putCourier_regs (s : State) (q : Nat) (x : Courier) : (s.setCourier q x).SameButRegs (s.putCourier q x) := by
  unfold State.putCourier
  dsimp only
  split
  · exact (State.SameButRegs.refl.setFld _ _ _ _).setFld _ _ _ _
  · exact State.SameButRegs.refl.setFld _ _ _ _

section
variable {s t : State}

theorem State.SameButRegs.mover (h : s.SameButRegs t) (m : Nat) : t.mover m = s.mover m := by rw [h]; rfl
theorem State.SameButRegs.ctx (h : s.SameButRegs t) : t.ctx = s.ctx := by rw [h]

end

theorem State.evCount_ev (s : State) (c w e : Nat) : s.evCount c w e = { s with ev := (s.evCount c w e).ev } := by
  unfold State.evCount
  split <;> rfl

/-! ### Catalogue entries (R213 to R215) -/

/-- The 32 bytes of a catalogue entry: address, homes and state, epoch, destination. -/
def catBytes (addr code epoch dst : Nat) : List Byte :=
  leBytes 8 addr ++ leBytes 1 code ++ leBytes 3 0 ++ leBytes 4 epoch ++ leBytes 8 dst ++ leBytes 8 0

@[simp] theorem catBytes_length (addr code epoch dst : Nat) : (catBytes addr code epoch dst).length = 32 := by simp [catBytes]

/-- The fields of a catalogue entry read back. -/
theorem catBytes_fields {addr code epoch dst : Nat} (ha : addr < 2 ^ 64) (hc : code < 2 ^ 8) (he : epoch < 2 ^ 32) (hd : dst < 2 ^ 64) :
    field (catBytes addr code epoch dst) 0 8 = addr ∧ field (catBytes addr code epoch dst) 8 1 = code ∧
      field (catBytes addr code epoch dst) 12 4 = epoch ∧ field (catBytes addr code epoch dst) 16 8 = dst := by
  have read : ∀ (p q : List Byte) (n x : Nat), x < 2 ^ (8 * n) → field (p ++ (leBytes n x ++ q)) p.length n = x := fun p q n x h => by
    rw [← List.append_assoc, field_mid, Nat.mod_eq_of_lt h]
  simp only [catBytes, List.append_assoc]
  refine ⟨read [] _ 8 addr ha, ?_, ?_, ?_⟩
  · have := read (leBytes 8 addr) (leBytes 3 0 ++ (leBytes 4 epoch ++ (leBytes 8 dst ++ leBytes 8 0))) 1 code hc
    simpa using this
  · have := read (leBytes 8 addr ++ (leBytes 1 code ++ leBytes 3 0)) (leBytes 8 dst ++ leBytes 8 0) 4 epoch he
    simpa using this
  · have := read (leBytes 8 addr ++ (leBytes 1 code ++ (leBytes 3 0 ++ leBytes 4 epoch))) (leBytes 8 0) 8 dst hd
    simpa using this

theorem field_lt (b : List Byte) (o n : Nat) : field b o n < 2 ^ (8 * n) := by
  refine Nat.lt_of_lt_of_le (leNat_lt _) (Nat.pow_le_pow_right (by omega) (Nat.mul_le_mul_left 8 ?_))
  simp

theorem State.catEntry_congr {s t : State} (mem : t.mem = s.mem) (ctx : t.ctx = s.ctx) (c k : Nat) : t.catEntry c k = s.catEntry c k := by
  simp only [State.catEntry, State.rd, State.catAddr, State.cert, State.prog, State.cx, mem, ctx]

/-- Step 1 writes the catalogue entry. -/
theorem State.catMoving_eq (s : State) (c : Nat) (x : MoveItem) (i : Nat) : s.catMoving c x i = s.wr (s.catAddr c (x.keyAt i))
    (catBytes (x.srcAt i) (x.home + 4 * x.dstHome + 16 * 2) (if (s.catEntry c (x.keyAt i)).state = 0 then 0
      else (s.catEntry c (x.keyAt i)).epoch) (x.dstAt i)) := rfl

/-- A tile's new home is recorded in its catalogue entry: state HOME at the new address. -/
theorem State.catMoved_entry (s : State) {c k addr home epoch : Nat} (ha : addr < 2 ^ 64) (hh : home < 4) (he : epoch < 2 ^ 32) :
    (s.catMoved c k addr home epoch).catEntry c k = ⟨addr, home, 1, epoch⟩ := by
  have wrote : s.catMoved c k addr home epoch = s.wr (s.catAddr c k) (catBytes addr (home + 16) epoch 0) := rfl
  have back := s.rd_wr (s.catAddr c k) (catBytes addr (home + 16) epoch 0)
  rw [catBytes_length] at back
  obtain ⟨a, code, ep, -⟩ := catBytes_fields (dst := 0) ha (show home + 16 < 2 ^ 8 by omega) he (by omega)
  have same : (s.wr (s.catAddr c k) (catBytes addr (home + 16) epoch 0)).catAddr c k = s.catAddr c k := rfl
  rw [State.catEntry, wrote, same, back, a, code, ep]
  simp only [CatEntry.mk.injEq, true_and, and_true, bits]
  omega

/-! ### A tile's move (R177, R211, R215, R216, R222) -/

theorem State.moveSlots_iff (s : State) (m : Nat) (x : MoveItem) (i : Nat) : s.moveSlots m x i = true ↔
    s.slotted (s.moverAsker m) (x.srcAt i) tileBytes = true ∧ s.slotted (s.moverAsker m) (x.dstAt i) tileBytes = true := by
  simp [State.moveSlots]

section
variable {s : State} {m : Nat}

section
variable (no : ¬ s.moveSlots m (s.moveItem m) (s.mover m).tile = true)
include no

theorem exec_moveTile_waits : exec (.moveTile m .done) s = .next s :=
  show execMoveTile m .done s = _ from if_pos (.inr (.inr no))

theorem exec_k4FetchTile_waits : exec (.k4FetchTile m .done) s = .next s :=
  show execK4FetchTile m .done s = _ from if_pos (.inr (.inr no))

end

variable (held : (s.mover m).held = true) (slots : s.moveSlots m (s.moveItem m) (s.mover m).tile = true)
include held slots

theorem exec_moveTile_begin (kind : (s.moveItem m).kind = .move) (fresh : (s.mover m).saved = none) :
    exec (.moveTile m .done) s = .next (s.moveBegin m) :=
  show execMoveTile m .done s = _ by rw [execMoveTile, if_neg (by simp [held, kind, slots]), if_pos (by simp [fresh])]

theorem exec_k4FetchTile_begin (kind : (s.moveItem m).kind = .k4) (fresh : (s.mover m).saved = none) :
    exec (.k4FetchTile m .done) s = .next (s.moveBegin m) :=
  show execK4FetchTile m .done s = _ by rw [execK4FetchTile, if_neg (by simp [held, kind, slots]), if_pos (by simp [fresh])]

section
variable (begun : (s.mover m).saved ≠ none)
include begun

theorem exec_moveTile_denied (kind : (s.moveItem m).kind = .move)
    (denied : s.moverAllows m false ((s.moveItem m).srcAt (s.mover m).tile) tileBytes = false) :
    exec (.moveTile m .done) s = .next (s.moveFail m (Fail.addr .protFault ((s.moveItem m).srcAt (s.mover m).tile))) :=
  show execMoveTile m .done s = _ by
    rw [execMoveTile, if_neg (by simp [held, kind, slots]), if_neg (by simp [begun]), if_pos (by simp [denied])]

theorem exec_k4FetchTile_denied (kind : (s.moveItem m).kind = .k4) (aligned : flashOff ((s.moveItem m).srcAt (s.mover m).tile) % 4096 = 0)
    (denied : s.moverAllows m false ((s.moveItem m).srcAt (s.mover m).tile) recordBytes = false) :
    exec (.k4FetchTile m .done) s = .next (s.moveFail m (Fail.addr .protFault ((s.moveItem m).srcAt (s.mover m).tile))) :=
  show execK4FetchTile m .done s = _ by
    rw [execK4FetchTile, if_neg (by simp [held, kind, slots]), if_neg (by simp [begun])]
    dsimp only
    rw [if_neg (by simp [aligned]), if_pos (by simp [denied])]

/-- A tile of a source that does not lie in legacy flash is read, checked and moved. -/
theorem exec_moveTile_image (kind : (s.moveItem m).kind = .move)
    (source : s.moverAllows m false ((s.moveItem m).srcAt (s.mover m).tile) tileBytes = true)
    (dest : s.moverAllows m true ((s.moveItem m).dstAt (s.mover m).tile) tileBytes = true)
    (memory : ∀ n, homeOf ((s.moveItem m).srcAt (s.mover m).tile) ≠ .flash n)
    (clean : s.poisoned ((s.moveItem m).srcAt (s.mover m).tile) tileBytes = false) :
    exec (.moveTile m .done) s = .next ((s.galleryCorrected ((s.moveItem m).srcAt (s.mover m).tile) tileBytes).moveImage m (s.moveItem m)
      (s.mover m).tile (s.rd ((s.moveItem m).srcAt (s.mover m).tile) tileBytes)) :=
  show execMoveTile m .done s = _ by
    rw [execMoveTile, if_neg (by simp [held, kind, slots]), if_neg (by simp [begun])]
    dsimp only
    rw [if_neg (by simp [source]), if_neg (by simp [dest])]
    simp only [State.endingFail]
    exact if_neg (Bool.eq_false_iff.1 clean)

section
variable (kind : (s.moveItem m).kind = .k4) (aligned : flashOff ((s.moveItem m).srcAt (s.mover m).tile) % 4096 = 0)
  (source : s.moverAllows m false ((s.moveItem m).srcAt (s.mover m).tile) recordBytes = true)
  (dest : s.moverAllows m true ((s.moveItem m).dstAt (s.mover m).tile) tileBytes = true)
include kind aligned source dest

theorem exec_k4FetchTile_landed {n : Nat} {r : LfRead} {h : Hdr}
    (read : s.readFor (fun r => r.mover == some m && r.addr == (s.moveItem m).srcAt (s.mover m).tile) = some (n, r)) (ready : r.ready = true)
    (good : k4Header r.data = some h) : exec (.k4FetchTile m .done) s = .next ((s.dropRead n r.cid).moveTileTo m (s.moveItem m)
      (s.mover m).tile { h with producer := uMover m } ((r.data.drop 32).take payloadBytes)) :=
  show execK4FetchTile m .done s = _ by
    rw [execK4FetchTile, if_neg (by simp [held, kind, slots]), if_neg (by simp [begun])]
    dsimp only
    rw [if_neg (by simp [aligned]), if_neg (by simp [source]), if_neg (by simp [dest])]
    simp only [State.endingFail, State.flashTile, read, ready, if_true, good]

theorem exec_k4FetchTile_reads {u : State}
    (read : s.readFor (fun r => r.mover == some m && r.addr == (s.moveItem m).srcAt (s.mover m).tile) = none)
    (asked : s.flashRead ((s.moveItem m).srcAt (s.mover m).tile) none (some m) = some u) : exec (.k4FetchTile m .done) s = .next u :=
  show execK4FetchTile m .done s = _ by
    rw [execK4FetchTile, if_neg (by simp [held, kind, slots]), if_neg (by simp [begun])]
    dsimp only
    rw [if_neg (by simp [aligned]), if_neg (by simp [source]), if_neg (by simp [dest])]
    simp only [State.endingFail, State.flashTile, read, asked]

end
end
end

theorem State.moveBegin_fail {s : State} {m : Nat} {f : Fail} (h : s.catFail (s.mover m).ctx (s.moveItem m) (s.mover m).tile = some f) :
    s.moveBegin m = (if f.st = .streamFault then
      s.evStream (uMover m) (s.mover m).ctx ((s.moveItem m).srcAt (s.mover m).tile) (s.mover m).tile else s).moveFail m f := by
  simp only [State.moveBegin, h]

theorem State.moveBegin_moving {s : State} {m : Nat} (h : s.catFail (s.mover m).ctx (s.moveItem m) (s.mover m).tile = none) :
    s.moveBegin m = (s.catMoving (s.mover m).ctx (s.moveItem m) (s.mover m).tile).setMover m { s.mover m with
      saved := some (s.rd (s.catAddr (s.mover m).ctx ((s.moveItem m).keyAt (s.mover m).tile)) 32) } := by
  simp only [State.moveBegin, h]

/-- Step 1 leaves everything but the catalogue entry, which is MOVING with its destination, and the mover, which keeps what it was. -/
theorem State.moveBegin_spec {s : State} {m : Nat} (h : s.catFail (s.mover m).ctx (s.moveItem m) (s.mover m).tile = none) :
    let y := s.mover m
    let x := s.moveItem m
    let cat := s.catAddr y.ctx (x.keyAt y.tile)
    let e := s.catEntry y.ctx (x.keyAt y.tile)
    let t := s.moveBegin m
    t = { s with mem := t.mem, poison := t.poison, corrected := t.corrected, mov := t.mov } ∧
      t.mover m = { y with saved := some (s.rd cat 32) } ∧ (∀ a, (a < cat ∨ cat + 32 ≤ a) → t.byteAt a = s.byteAt a) ∧
      t.rd cat 32 = catBytes (x.srcAt y.tile) (x.home + 4 * x.dstHome + 16 * 2) (if e.state = 0 then 0 else e.epoch) (x.dstAt y.tile) := by
  intro y x cat e t
  have moving : t = (s.catMoving y.ctx x y.tile).setMover m { y with saved := some (s.rd cat 32) } := State.moveBegin_moving h
  rw [State.catMoving_eq] at moving
  refine ⟨by rw [moving]; rfl, by rw [moving, State.mover_setMover], fun a out => ?_, ?_⟩
  · rw [moving]
    exact State.wr_other _ _ _ _ (by rwa [catBytes_length])
  · have back := s.rd_wr cat (catBytes (x.srcAt y.tile) (x.home + 4 * x.dstHome + 16 * 2) (if e.state = 0 then 0 else e.epoch) (x.dstAt y.tile))
    rw [catBytes_length] at back
    rw [moving]
    exact back

/-- A tile image that passes its check is moved under a new header; one that fails ends the run. -/
theorem State.moveImage_good {s : State} {img : List Byte} (good : tileGood img none = true) (m : Nat) (x : MoveItem) (i : Nat) :
    s.moveImage m x i img = s.moveTileTo m x i (x.moved m img).1 (x.moved m img).2 := by
  rw [State.moveImage, if_neg (by simp [good])]

theorem State.moveImage_bad {s : State} {img : List Byte} (bad : tileGood img none = false) (m : Nat) (x : MoveItem) (i : Nat) :
    s.moveImage m x i img =
      (s.evSeal (uMover m) (s.mover m).ctx (x.srcAt i) img).moveFail m (Fail.addr .tileSeal (x.srcAt i)) := by
  rw [State.moveImage, if_pos (by simp [bad])]

/-- A tile moves: its image is at the destination, its catalogue entry names its new home and counts the move, and the mover goes on to the
next tile of its run; no other byte changes. -/
theorem State.moveTileTo_spec (s : State) (m : Nat) (x : MoveItem) (h : Hdr) (pay : List Byte) (more : (s.mover m).tile + 1 < x.count)
    (home : x.dstHome < 4) : let y := s.mover m
    let dst := x.dstAt y.tile
    let cat := s.catAddr y.ctx (x.keyAt y.tile)
    let ep := ((s.catEntry y.ctx (x.keyAt y.tile)).epoch + 1) % 2 ^ 32
    let img := tileImage { h with home := x.dstHome, epoch := ep, key := x.keyAt y.tile } pay
    let t := s.moveTileTo m x y.tile h pay
    dst < 2 ^ 64 → (cat + 32 ≤ dst ∨ dst + img.length ≤ cat) →
    t.rd dst img.length = img ∧ t.catEntry y.ctx (x.keyAt y.tile) = ⟨dst, x.dstHome, 1, ep⟩ ∧
      t.mover m = { y with tile := y.tile + 1, saved := none } ∧
      (∀ a, (a < dst ∨ dst + img.length ≤ a) → (a < cat ∨ cat + 32 ≤ a) → t.byteAt a = s.byteAt a) := by
  intro y dst cat ep img t small apart
  let w := (s.wr dst img).catMoved y.ctx (x.keyAt y.tile) dst x.dstHome ep
  let u := w.incFld RegF.wingTmStsTiles 1 (m / 16) (m % 16)
  let v := if x.doneEn then u.evCount y.ctx (m / 16) x.doneEvt else u
  obtain ⟨ev, counted⟩ : ∃ ev, v = { u with ev := ev } := by
    show ∃ ev, (if x.doneEn then u.evCount y.ctx (m / 16) x.doneEvt else u) = { u with ev := ev }
    split
    · exact ⟨_, State.evCount_ev ..⟩
    · exact ⟨_, rfl⟩
  have mem : v.mem = w.mem := by rw [counted]; rfl
  have ctx : v.ctx = s.ctx := by rw [counted]; rfl
  have mover : v.mover m = y := by rw [counted]; rfl
  have next : t = v.putMover m { y with tile := y.tile + 1, saved := none } := by
    show v.moveNext m x.count = _
    rw [State.moveNext, mover]
    exact if_neg (Nat.not_le.2 more)
  have shown := v.putMover_regs m { y with tile := y.tile + 1, saved := none }
  rw [← next] at shown
  have tmem : t.mem = w.mem := shown.mem.trans mem
  have wrote : w = (s.wr dst img).wr cat (catBytes dst (x.dstHome + 16) ep 0) := rfl
  refine ⟨?_, ?_, ?_, fun a outDst outCat => ?_⟩
  · rw [State.rd, tmem, wrote]
    exact (State.rd_wr_other _ _ _ _ _ (by rw [catBytes_length]; omega)).trans (s.rd_wr dst img)
  · rw [State.catEntry_congr (s := w) tmem (shown.ctx.trans ctx)]
    exact State.catMoved_entry _ small home (Nat.mod_lt _ (by decide))
  · rw [shown.mover, State.mover_setMover]
  · rw [State.byteAt, tmem, wrote]
    exact (State.wr_other _ _ _ _ (by rwa [catBytes_length])).trans (State.wr_other _ _ _ _ outDst)

/-- What a run that fails leaves of its mover, saved entry or not. -/
theorem State.moveFail_eq (s : State) (m : Nat) (f : Fail) : s.moveFail m f =
    (((s.restoreCat m).putMover m { s.mover m with held := false, saved := none }).abortTask (s.mover m).ctx
      ((s.mover m).due.getD (s.mover m).task) f.st f.detail).settle := by
  have mover : (s.restoreCat m).mover m = { s.mover m with saved := none } := by
    unfold State.restoreCat
    dsimp only
    split
    · rename_i fresh; rw [← fresh]
    · rw [State.mover_setMover]
  rw [State.moveFail]
  dsimp only
  rw [mover]
  rfl

/-- A mover that gives up puts back the bytes of the catalogue entry (R215). -/
theorem State.restoreCat_rd {s : State} {m : Nat} {b : List Byte} (saved : (s.mover m).saved = some b) :
    (s.restoreCat m).rd (s.catAddr (s.mover m).ctx ((s.moveItem m).keyAt (s.mover m).tile)) b.length = b := by
  simp only [State.restoreCat, saved]
  exact s.rd_wr _ b

/-! ### Prefetch lists (R219, R220) -/

theorem State.moverFree_iff (s : State) (m : Nat) : s.moverFree m = true ↔ (s.mover m).held = false ∧
    ∀ x ∈ s.strm, ¬ (x.2.held = true ∧ x.2.ent.xpose = true ∧ 16 * (x.1 / 128) + x.2.ent.mover = m) := by
  simp only [State.moverFree, Bool.and_eq_true, Bool.not_eq_true', List.all_eq_true, Bool.and_eq_false_iff, beq_eq_false_iff_ne]
  refine and_congr_right fun _ => forall₂_congr fun x _ => ?_
  cases x.2.held <;> cases x.2.ent.xpose <;> simp

section
variable {s : State} {w c k : Nat} {p : Prog} {e : Prefetch} (prog : s.prog c = some p) (run : p.run ≠ none)
  (at' : nth 0 p.prefetchAt w = k) (entry : (nth [] p.cert.prefetch w)[k]? = some e)
include prog run at' entry

/-- An entry whose DUE task is not in the RUN, or has ended, is passed over. -/
theorem exec_prefetchEntryStart_passes (past : ¬ ((s.rt c e.due).inRun = true ∧ (s.rt c e.due).st.ended = false)) :
    exec (.prefetchEntryStart w c) s = .next (s.updProg c (fun p =>
      { p with prefetchAt := (p.prefetchAt ++ List.replicate (4 - p.prefetchAt.length) 0).set w (k + 1) })) :=
  show execPrefetchEntryStart w c s = _ by
    subst at'
    simp only [execPrefetchEntryStart, prog, entry]
    rw [if_neg (by simp [run]), if_pos (not_and_or.1 past |>.imp id (by simp))]

section
variable (due : (s.rt c e.due).inRun = true ∧ (s.rt c e.due).st.ended = false)
include due

theorem exec_prefetchEntryStart_starts (counted : e.afterVal ≤ (s.evGet w e.afterEvt).toNat)
    (free : s.moverFree (16 * w + (nth {} p.cert.moves e.move).mover) = true) :
    exec (.prefetchEntryStart w c) s = .next ((s.updProg c (fun p =>
      { p with prefetchAt := (p.prefetchAt ++ List.replicate (4 - p.prefetchAt.length) 0).set w (k + 1) })).putMover
      (16 * w + (nth {} p.cert.moves e.move).mover) { held := true, ctx := c, task := e.due, wing := w, item := e.move, due := some e.due }) :=
  show execPrefetchEntryStart w c s = _ by
    subst at'
    simp only [execPrefetchEntryStart, prog, entry]
    rw [if_neg (by simp [run]), if_neg (by simp [due]), if_neg (by simp [free, counted])]

theorem exec_prefetchEntryStart_waits
    (wait : (s.evGet w e.afterEvt).toNat < e.afterVal ∨ ¬ s.moverFree (16 * w + (nth {} p.cert.moves e.move).mover) = true) :
    exec (.prefetchEntryStart w c) s = .next s :=
  show execPrefetchEntryStart w c s = _ by
    subst at'
    simp only [execPrefetchEntryStart, prog, entry]
    rw [if_neg (by simp [run]), if_neg (by simp [due]), if_pos wait]

end
end

/-! ### Courier queues (R178 to R181) -/

theorem crosses4k_iff (a n : Nat) : crosses4k a n = true ↔ a / 4096 ≠ (a + n - 1) / 4096 := by simp [crosses4k]

theorem Courier.malformed_iff (y : Courier) : y.malformed = true ↔ 2 ≤ y.op ∨ field y.entry 1 1 ≠ 0 ∨ y.len = 0 ∨
    (if y.op = 1 then 8 else 256) < y.len ∨ field y.entry 4 4 ≠ 0 ∨ y.dst / 4096 ≠ (y.dst + y.len - 1) / 4096 ∨
    (y.op = 0 ∧ y.src / 4096 ≠ (y.src + y.len - 1) / 4096) := by
  simp only [Courier.malformed, Bool.or_eq_true, Bool.and_eq_true, crosses4k_iff, decide_eq_true_iff, bne_iff_ne, beq_iff_eq, or_assoc]

section
variable {s : State} {q : Nat} (x : Courier) (capped : s.capPosts q (s.courier q) = x)
include capped

section
variable (held : x.held = true) (idle : x.busy = false) (going : x.stopped = false) (posted : x.taken < s.postedTo q x)
  (slot : s.slotted (s.courierAsker q) (x.bind.qbase + 256 * (x.taken % 64)) 32 = true)
  (clean : s.poisoned (x.bind.qbase + 256 * (x.taken % 64)) 32 = false)
include held idle going posted slot clean

/-- A queue reads its next posted entry, and takes it where it can be carried out. -/
theorem exec_courierEntryTake_takes (good : (s.galleryCorrected (x.bind.qbase + 256 * (x.taken % 64)) 32).courierFail q
      { x with busy := true, entry := s.rd (x.bind.qbase + 256 * (x.taken % 64)) 32 } = none) : exec (.courierEntryTake q) s =
    .next ((s.galleryCorrected (x.bind.qbase + 256 * (x.taken % 64)) 32).putCourier q
      { x with busy := true, entry := s.rd (x.bind.qbase + 256 * (x.taken % 64)) 32, taken := x.taken + 1 }) := by
  show execCourierEntryTake q s = _
  have entry : ∀ a, (s.galleryCorrected a 32).rd a 32 = s.rd a 32 := fun a => (s.galleryCorrected_regs a 32).rd a 32
  rw [execCourierEntryTake]
  dsimp only
  rw [capped, if_neg (by simp [held, idle, going, posted, slot]), if_neg (Bool.eq_false_iff.1 clean), entry]
  simp only [good]

/-- An entry that cannot be carried out aborts its task. -/
theorem exec_courierEntryTake_fails {f : Fail × State} (bad : (s.galleryCorrected (x.bind.qbase + 256 * (x.taken % 64)) 32).courierFail q
      { x with busy := true, entry := s.rd (x.bind.qbase + 256 * (x.taken % 64)) 32 } = some f) :
    exec (.courierEntryTake q) s = .next (f.2.failCourier q f.1) := by
  show execCourierEntryTake q s = _
  have entry : ∀ a, (s.galleryCorrected a 32).rd a 32 = s.rd a 32 := fun a => (s.galleryCorrected_regs a 32).rd a 32
  rw [execCourierEntryTake]
  dsimp only
  rw [capped, if_neg (by simp [held, idle, going, posted, slot]), if_neg (Bool.eq_false_iff.1 clean), entry]
  simp only [bad]

end

theorem exec_courierEntryTake_waits
    (wait : s.postedTo q x ≤ x.taken ∨ s.slotted (s.courierAsker q) (x.bind.qbase + 256 * (x.taken % 64)) 32 = false) :
    exec (.courierEntryTake q) s = .next s := by
  show execCourierEntryTake q s = _
  rw [execCourierEntryTake]
  dsimp only
  rw [capped]
  exact if_pos (.inr (.inr (.inr (wait.imp_right fun no => by simp [no]))))

theorem exec_courierTransferComplete_waits (no : s.slotted (s.courierAsker q) x.dst x.len = false) :
    exec (.courierTransferComplete q .done) s = .next s := by
  show execCourierTransferComplete q .done s = _
  rw [execCourierTransferComplete]
  dsimp only
  rw [capped]
  exact if_pos (.inr (.inr (.inl (by simp [no]))))

end

/-- The bytes that a courier queue carries: those of its entry or those of its source. -/
def State.carried (s : State) (x : Courier) : List Byte := if x.op = 1 then (x.entry.drop 24).take x.len else s.rd x.src x.len

/-- What a courier transfer leaves, before queues and tasks go on. -/
def State.courierDone (s : State) (q : Nat) (x : Courier) : State :=
  let u := ((if x.op = 0 then s.galleryCorrected x.src x.len else s).wr x.dst (s.carried x)).foldChans true q (s.carried x)
  let v := (u.evCount x.ctx (q / 16) x.bind.doneEvt).wrapFld RegF.wingCourStsDone 1 (q / 16) (q % 16)
  v.putCourier q { x with busy := false, held := !x.stopped }

theorem exec_courierTransferComplete_done {s : State} {q : Nat} {x : Courier} (capped : s.capPosts q (s.courier q) = x) (held : x.held = true)
    (busy : x.busy = true) (dst : s.slotted (s.courierAsker q) x.dst x.len = true)
    (src : x.op = 0 → s.slotted (s.courierAsker q) x.src x.len = true) :
    exec (.courierTransferComplete q .done) s = .next (s.courierDone q x).settle := by
  show execCourierTransferComplete q .done s = _
  rw [execCourierTransferComplete]
  dsimp only
  rw [capped, if_neg (by simpa [held, busy, dst] using src)]
  rfl

theorem State.foldChans_chan (s : State) (courier : Bool) (unit : Nat) (bs : List Byte) :
    s.foldChans courier unit bs = { s with chan := (s.foldChans courier unit bs).chan } := by
  refine overList_keeps (fun t : State => t = { s with chan := t.chan }) _ (fun k t h => ?_) _ s rfl
  dsimp only
  split
  · rw [h]; rfl
  · exact h

theorem State.evCount_congr {s t : State} (ev : t.ev = s.ev) (own : t.evOwn = s.evOwn) (c w e : Nat) :
    (t.evCount c w e).ev = (s.evCount c w e).ev := by
  have owner : t.evOwner w e = s.evOwner w e := by rw [State.evOwner, own, State.evOwner]
  unfold State.evCount
  rw [owner]
  split
  · rw [State.evAdd, ev, State.evAdd]
  · exact ev

theorem State.evGet_evCount (s : State) (c w e : Nat) :
    (s.evCount c w e).evGet w e = if s.evOwner w e = some c then s.evGet w e + 1 else s.evGet w e := by
  unfold State.evCount
  split
  · exact Tbl.get_upd_same 0 s.ev (64 * w + e) (fun x => x + BitVec.ofNat 32 1)
  · rfl

theorem State.courier_setCourier_other (s : State) {q k : Nat} (x : Courier) (h : k ≠ q) : (s.setCourier q x).courier k = s.courier k := by
  simp [State.courier, State.setCourier, Tbl.get_set_other _ _ _ _ _ _ h]

/-- A courier transfer changes memory, its queue, the counter, check-value channels and registers. -/
theorem State.courierDone_eq (s : State) (q : Nat) (x : Courier) : ∃ regs chan, s.courierDone q x =
    { s.wr x.dst (s.carried x) with
      regs := regs, chan := chan, ev := (s.evCount x.ctx (q / 16) x.bind.doneEvt).ev
      cour := (s.setCourier q { x with busy := false, held := !x.stopped }).cour } := by
  obtain ⟨g, hg, read⟩ : ∃ g, (if x.op = 0 then s.galleryCorrected x.src x.len else s) = g ∧ s.SameButRegs g := by
    split
    · exact ⟨_, rfl, s.galleryCorrected_regs ..⟩
    · exact ⟨_, rfl, .refl⟩
  obtain ⟨u, hu, folded⟩ : ∃ u, (g.wr x.dst (s.carried x)).foldChans true q (s.carried x) = u ∧
      u = { g.wr x.dst (s.carried x) with chan := u.chan } := ⟨_, rfl, State.foldChans_chan ..⟩
  have counted : (u.evCount x.ctx (q / 16) x.bind.doneEvt).ev = (s.evCount x.ctx (q / 16) x.bind.doneEvt).ev :=
    State.evCount_congr (by rw [folded, read]; rfl) (by rw [folded, read]; rfl) ..
  rw [State.courierDone, hg, hu, State.evCount_ev, counted]
  generalize (s.evCount x.ctx (q / 16) x.bind.doneEvt).ev = ev
  generalize { x with busy := false, held := !x.stopped } = y
  have shown : ∀ v : State, v.putCourier q y = { v.setCourier q y with regs := (v.putCourier q y).regs } := fun v => v.putCourier_regs q y
  rw [shown]
  refine ⟨?regs, u.chan, ?same⟩
  case same =>
    rw [folded, read]
    rfl

/-- A courier transfer writes its bytes, counts them where its program holds the counter, and frees its queue. -/
theorem State.courierDone_spec (s : State) (q : Nat) (x : Courier) :
    (s.courierDone q x).mem = (s.wr x.dst (s.carried x)).mem ∧
      (s.courierDone q x).evGet (q / 16) x.bind.doneEvt = (if s.evOwner (q / 16) x.bind.doneEvt = some x.ctx
        then s.evGet (q / 16) x.bind.doneEvt + 1 else s.evGet (q / 16) x.bind.doneEvt) ∧
      (s.courierDone q x).courier q = { x with busy := false, held := !x.stopped } ∧
      (∀ k, k ≠ q → (s.courierDone q x).courier k = s.courier k) ∧ (s.courierDone q x).ctx = s.ctx := by
  obtain ⟨regs, chan, done⟩ := s.courierDone_eq q x
  rw [done]
  exact ⟨rfl, s.evGet_evCount .., State.courier_setCourier .., fun k other => State.courier_setCourier_other _ _ other, rfl⟩

/-! ### The statement -/

/-- Settles O36: each command of a mover, a prefetch list and a courier queue by the lemmas for its cases. -/
theorem tileMovesAndCouriers : Obligations.TileMovesAndCouriers := by
  unfold Obligations.TileMovesAndCouriers
  refine ⟨⟨fun s m held => ?_, fun s w c k p e prog run at' entry => ?_⟩, fun s q held => ?_⟩
  · intro y x src dst k cat q slots may
    have reach : slots → s.moveSlots m x y.tile = true := (s.moveSlots_iff m x y.tile).2
    refine ⟨fun i kind => ⟨fun no => ?_, fun ok fresh => ?_, fun ok begun aligned denied => ?_⟩,
      fun kind ok begun allowed memory clean => ?_, fun kind ok begun aligned allowed => ?_,
      fun h pay more home small => s.moveTileTo_spec m x h pay more home small, fun f => s.moveFail_eq m f, fun b saved => State.restoreCat_rd saved⟩
    · have no' : ¬ s.moveSlots m x y.tile = true := fun h => no ((s.moveSlots_iff m x y.tile).1 h)
      obtain ⟨-, rfl⟩ | ⟨-, rfl⟩ := kind
      · exact exec_moveTile_waits no'
      · exact exec_k4FetchTile_waits no'
    · have begins : exec i s = .next (s.moveBegin m) := by
        obtain ⟨kind, rfl⟩ | ⟨kind, rfl⟩ := kind
        · exact exec_moveTile_begin held (reach ok) kind fresh
        · exact exec_k4FetchTile_begin held (reach ok) kind fresh
      refine ⟨fun f bad => begins.trans (congrArg _ (State.moveBegin_fail bad)), fun good => ⟨_, begins, ?_⟩⟩
      obtain ⟨rest, mover, others, bytes⟩ := State.moveBegin_spec good
      refine ⟨rest, mover, others, fun hsrc hdst hhome hdst' => ?_⟩
      have epoch : (if (s.catEntry y.ctx k).state = 0 then 0 else (s.catEntry y.ctx k).epoch) < 2 ^ 32 := by
        split
        · decide
        · exact field_lt _ 12 4
      have code : x.home + 4 * x.dstHome + 16 * 2 < 2 ^ 8 := by omega
      obtain ⟨a, st, ep, d⟩ := catBytes_fields hsrc code epoch hdst
      rw [bytes]
      exact ⟨a, st, d, ep⟩
    · obtain ⟨kind, rfl⟩ | ⟨kind, rfl⟩ := kind
      · rw [if_neg (by simp [kind])] at denied
        exact exec_moveTile_denied held (reach ok) begun kind denied
      · rw [if_pos kind] at denied
        exact exec_k4FetchTile_denied held (reach ok) begun kind (aligned.resolve_left (by simp [kind])) denied
    · obtain ⟨source, dest⟩ := allowed
      rw [if_neg (by simp [kind])] at source
      have moves := exec_moveTile_image held (reach ok) begun kind source dest memory clean
      have mover : (s.galleryCorrected src tileBytes).mover m = y := (s.galleryCorrected_regs src tileBytes).mover m
      intro img b u
      refine ⟨fun good => moves.trans (congrArg _ (State.moveImage_good good ..)), fun bad => moves.trans (congrArg _ ?_)⟩
      rw [State.moveImage_bad bad, mover]
    · obtain ⟨source, dest⟩ := allowed
      rw [if_pos kind] at source
      exact ⟨fun n r h read ready good => exec_k4FetchTile_landed held (reach ok) begun kind aligned source dest read ready good,
        fun u read asked => exec_k4FetchTile_reads held (reach ok) begun kind aligned source dest read asked⟩
  · intro m u due free
    exact ⟨exec_prefetchEntryStart_passes prog run at' entry,
      fun now counted idle => exec_prefetchEntryStart_starts prog run at' entry now counted ((s.moverFree_iff m).2 idle),
      fun now wait => exec_prefetchEntryStart_waits prog run at' entry now (wait.imp_right (mt (s.moverFree_iff m).1))⟩
  · intro c late x k a
    have capped : s.capPosts q (s.courier q) = x := rfl
    refine ⟨fun idle going posted slot clean => ?_, fun _ none' => exec_courierEntryTake_waits x capped (.inl none'),
      fun no => exec_courierEntryTake_waits x capped (.inr no), fun _ no => exec_courierTransferComplete_waits x capped no,
      fun busy dst src => ?_, Courier.malformed_iff⟩
    · intro y u
      exact ⟨exec_courierEntryTake_takes x capped held idle going posted slot clean,
        fun r => exec_courierEntryTake_fails x capped held idle going posted slot clean⟩
    · intro bs dst'
      obtain ⟨mem, counted, queue, others, ctx⟩ := s.courierDone_spec q x
      refine ⟨_, exec_courierTransferComplete_done capped held busy dst src, ?_, fun b out => ?_, counted, queue, others, ctx⟩
      · rw [State.rd, mem]
        exact s.rd_wr dst' bs
      · rw [State.byteAt, mem]
        exact s.wr_other dst' bs b out

end Sys2Proof.Machine
end

section
/-! SUPPORT. The near tier's stacks (spec/07_memory_tiers.md R189 to R197): what an access in its own slot, an error, a maintenance command,
a re-training and an eye scan do, a lemma for each case. -/

namespace Sys2Proof.Machine

/-! ### Accesses in their slots (R190 to R192) -/

/-- An access lies in a run of stack k and comes in a slot of its own requester. -/
structure State.OwnSlot (s : State) (slot k : Nat) (r : Access) : Prop where
  home : homeOf r.addr = .near k
  run : accInRun r = true
  data : 8 ≤ slot % 128
  mine : s.allots r.ctx (.stackPc k (pcOf r.addr)) slot r.task = true
  net : s.netOk (s.asker r.ctx r.task (uStack k)) (k / 5) = true

/-- The slot has come, or carries the second half of a read-modify-write. -/
def State.slotTaken (s : State) (slot k : Nat) (r : Access) : Prop :=
  slot < Tbl.get 0 (s.stack k).comes (pcOf r.addr) ∨ (pcOf r.addr, slot) ∈ (s.stack k).second

/-- The access is within the reach of its context. -/
def State.mayAccess (s : State) (r : Access) : Bool := s.allows r.ctx (s.rt r.ctx r.task).epochOld r.data.isSome r.addr r.len

theorem slotNear_iff (slot u : Nat) : slotNear slot u = true ↔ u ≠ 0 ∧ slot + 1 < u + 4 ∧ u < slot + 5 := by simp [slotNear]

theorem Stack.gapOk_iff (x : Stack) (slot pc bank : Nat) : x.gapOk slot pc bank = true ↔
    ¬ slotNear slot (x.bankUse pc bank) = true ∧ ¬ slotNear slot (Tbl.get 0 x.latest (64 * pc + bank)) = true := by simp [Stack.gapOk]

section
variable {s : State} {slot k n : Nat} {r : Access} {ue : List Nat} (own : s.OwnSlot slot k r)
include own

theorem State.OwnSlot.near : s.nearSlot slot k (pcOf r.addr) r = true := by
  simp [State.nearSlot, own.data, own.mine, own.net]

theorem exec_nearTierAccess_taken (taken : s.slotTaken slot k r) : exec (.nearTierAccess slot r n ue) s = .next s := by
  show execNearTierAccess slot r n ue s = _
  simp only [execNearTierAccess, own.home]
  exact if_pos (.inr (.inr taken))

/-- What an access comes to in a slot that is still free. -/
theorem exec_nearTierAccess_free (free : ¬ s.slotTaken slot k r) : exec (.nearTierAccess slot r n ue) s =
    if ¬ s.mayAccess r = true then .next ((s.abortTask r.ctx r.task .protFault (BitVec.ofNat 64 r.addr)).settle)
    else if (s.stack k).retrain = some (pcOf r.addr / 2) then
      .next ((s.setStack k { s.stack k with held := (s.stack k).held ++ [r] }).incFld RegF.stkEvtHeld 1 k)
    else if ¬ (s.stack k).gapOk slot (pcOf r.addr) (bankOf r.addr) = true then .next (s.incFld RegF.stkEvtBankWait 1 k)
    else .next (s.nearDo slot k r n ue false) := by
  show execNearTierAccess slot r n ue s = _
  have goes : ¬ (¬ accInRun r = true ∨ ¬ s.nearSlot slot k (pcOf r.addr) r = true ∨ s.slotTaken slot k r) := by
    simp [own.run, own.near, free]
  simp only [execNearTierAccess, own.home]
  refine (if_neg goes).trans ?_
  simp only [own.mine, Bool.not_true]
  rfl

end

/-- A stack whose slot carries an access to a bank; `last` is the last slot that the access takes. -/
def Stack.carries (x : Stack) (slot pc bank last : Nat) : Stack :=
  { x with banks := Tbl.set 0 x.banks (64 * pc + bank) (max (x.bankUse pc bank) (last + 1)),
           latest := Tbl.set 0 x.latest (64 * pc + bank) (slot + 1), comes := Tbl.set 0 x.comes pc (slot + 1),
           second := x.second.filter (fun z => decide (z.1 ≠ pc ∨ slot < z.2)) }

/-- The poisoned lines that bytes a to a + n − 1 touch. -/
def State.badLines (s : State) (a n : Nat) : List Nat := s.poison.filter (fun x => decide (a < x * 64 + 64 ∧ x * 64 < a + n))

theorem State.badLines_clean {s : State} {a n : Nat} (clean : s.poisoned a n = false) (some' : 0 < n) : s.badLines a n = [] := by
  simp only [State.poisoned, some', decide_true, Bool.true_and, List.any_eq_false] at clean
  exact List.filter_eq_nil_iff.2 clean

/-- A read that meets no uncorrectable word and no poisoned line returns clean; another poisons, counts and records (R192). -/
theorem State.stackRead_clean {s : State} {a n : Nat} {ue : List Nat} (words : wordsIn ue a n = []) (lines : s.badLines a n = [])
    (k : Nat) (c : Option Nat) : s.stackRead k c a n ue = (false, s) := by
  rw [State.stackRead]
  exact if_pos ⟨by rw [words]; rfl, by rw [← State.badLines, lines]; rfl⟩

theorem State.stackRead_bad {s : State} {a n : Nat} {ue : List Nat} (bad : wordsIn ue a n ≠ [] ∨ s.badLines a n ≠ []) (k : Nat)
    (c : Option Nat) : s.stackRead k c a n ue = (true, s.stackUe k c (wordsIn ue a n)
      ((s.badLines a n).filter (fun x => !(wordsIn ue a n).any (fun y => y / 64 == x))).length
      ((lowest (wordsIn ue a n ++ (s.badLines a n).map (fun x => 64 * x))).getD a)) := by
  rw [State.stackRead]
  refine if_neg fun none' => ?_
  obtain ⟨words, lines⟩ := none'
  exact bad.elim (fun h => h (List.isEmpty_iff.1 words)) (fun h => h (List.isEmpty_iff.1 lines))

theorem State.stackCorrected_poison (s : State) (k ch a n words : Nat) : (s.stackCorrected k ch a n words).poison = s.poison := by
  unfold State.stackCorrected
  split <;> rfl

theorem State.stackCorrected_none (s : State) (k ch a n : Nat) : s.stackCorrected k ch a n 0 = s := if_pos rfl

theorem State.SameButRegs.stack {s t : State} (h : s.SameButRegs t) (k : Nat) : t.stack k = s.stack k := by rw [h]; rfl

section
variable {s : State} {slot k n : Nat} {r : Access} {ue : List Nat}

/-- A write of whole lines lands. -/
theorem State.nearDo_write {d : List Byte} (write : r.data = some d) (whole : accPartLine r = false) :
    s.nearDo slot k r n ue false = (s.setStack k ((s.stack k).carries slot (pcOf r.addr) (bankOf r.addr) slot)).wr r.addr d := by
  simp [State.nearDo, whole, write, Stack.carries]

/-- A write that covers a line in part takes the requester's next slot too, reads clean lines and lands. -/
theorem State.nearDo_part {d : List Byte} (write : r.data = some d) (part : accPartLine r = true)
    (clean : s.poisoned (r.addr / 64 * 64) ((r.addr + r.len + 63) / 64 * 64 - r.addr / 64 * 64) = false) (len : 0 < r.len) :
    let last := s.nextNearSlot slot k (pcOf r.addr) r
    let y := (s.stack k).carries slot (pcOf r.addr) (bankOf r.addr) last
    s.nearDo slot k r 0 [] false = ((if s.nextTooSoon slot k (pcOf r.addr) r = true then s.incFld RegF.stkEvtBankWait 1 k else s).setStack k
      { y with second := y.second ++ [(pcOf r.addr, last)] }).wr r.addr d := by
  intro last y
  obtain ⟨u, hu, counted⟩ : ∃ u, (if s.nextTooSoon slot k (pcOf r.addr) r = true then s.incFld RegF.stkEvtBankWait 1 k else s) = u ∧
      s.SameButRegs u := by
    split
    · exact ⟨_, rfl, State.SameButRegs.refl.setFld ..⟩
    · exact ⟨_, rfl, .refl⟩
  have next : u.nextNearSlot slot k (pcOf r.addr) r = last := by rw [counted]; rfl
  have sound (x : Stack) : (u.setStack k x).badLines (r.addr / 64 * 64) ((r.addr + r.len + 63) / 64 * 64 - r.addr / 64 * 64) = [] := by
    have same : u.poison = s.poison := by rw [counted]
    rw [State.badLines, State.setStack_poison, same]
    exact State.badLines_clean clean (by omega)
  have read (x : Stack) := State.stackRead_clean (ue := []) rfl (sound x) k (some r.ctx)
  simp only [State.nearDo, part, Bool.true_and, Bool.or_true, if_true, hu, next, counted.stack, State.stackCorrected_none, read, write]
  rfl

section
variable (reads : r.data = none)
include reads

theorem State.nearDo_read :
    let c := (s.setStack k ((s.stack k).carries slot (pcOf r.addr) (bankOf r.addr) slot)).stackCorrected k (pcOf r.addr / 2) r.addr r.len n
    let p := c.stackRead k (some r.ctx) r.addr r.len ue
    s.nearDo slot k r n ue false = if p.1 then p.2.failTask r.ctx r.task (Fail.addr .streamFault r.addr) else p.2 := by
  have whole : accPartLine r = false := by simp [accPartLine, reads]
  simp [State.nearDo, whole, reads, Stack.carries]

/-- A read of sound words leaves what it corrected. -/
theorem State.nearDo_read_clean (words : wordsIn ue r.addr r.len = []) (lines : s.badLines r.addr r.len = []) :
    s.nearDo slot k r n ue false = (s.setStack k ((s.stack k).carries slot (pcOf r.addr) (bankOf r.addr) slot)).stackCorrected k
      (pcOf r.addr / 2) r.addr r.len n := by
  have clean := State.stackRead_clean (s := (s.setStack k ((s.stack k).carries slot (pcOf r.addr) (bankOf r.addr) slot)).stackCorrected k
    (pcOf r.addr / 2) r.addr r.len n) words (by rwa [State.badLines, State.stackCorrected_poison]) k (some r.ctx)
  rw [State.nearDo_read reads, clean]
  rfl

/-- A read that meets an uncorrectable word or a poisoned line poisons, counts and ends its task (R192). -/
theorem State.nearDo_read_bad (bad : wordsIn ue r.addr r.len ≠ [] ∨ s.badLines r.addr r.len ≠ []) : let w := wordsIn ue r.addr r.len
    let l := s.badLines r.addr r.len
    let c := (s.setStack k ((s.stack k).carries slot (pcOf r.addr) (bankOf r.addr) slot)).stackCorrected k (pcOf r.addr / 2) r.addr r.len n
    s.nearDo slot k r n ue false = ((c.stackUe k (some r.ctx) w (l.filter (fun x => !w.any (fun y => y / 64 == x))).length
      ((lowest (w ++ l.map (fun x => 64 * x))).getD r.addr)).abortTask r.ctx r.task .streamFault (BitVec.ofNat 64 r.addr)).settle := by
  intro w l c
  have lines : c.badLines r.addr r.len = l := by rw [State.badLines, State.stackCorrected_poison]; rfl
  rw [State.nearDo_read reads, State.stackRead_bad (by rwa [lines]), lines]
  rfl

end
end

/-! ### Errors of words (R192, R196) -/

theorem satAdd_eq_min (w x n : Nat) : satAdd w x n = min (x + n) (2 ^ w - 1) := by
  have := Nat.two_pow_pos w
  unfold satAdd
  split <;> omega

/-- A counter gains up to its greatest value. -/
theorem State.fld_incFld_same (s : State) (f : Fld) (n i j : Nat) : (s.incFld f n i j).fld f i j = min (s.fld f i j + n) (2 ^ f.w - 1) := by
  have := Nat.two_pow_pos f.w
  rw [State.incFld_eq, State.fld_setFld_same, satAdd_eq_min, Nat.mod_eq_of_lt (by omega)]

theorem State.fld_event {s : State} {f : Fld} (other : f.reg ≠ .evrMirror) (source code severity : Nat) (c : Option Nat)
    (pl : List (Nat × Nat × Nat)) (i j : Nat) : (s.event source code severity c pl).fld f i j = s.fld f i j := by
  unfold State.event State.storeEv
  dsimp only
  split
  · split
    · exact State.fld_incFld_reg s other 1 0 0 i j
    · rfl
  · split <;> rfl

theorem mem_addLine (l : List Nat) (x y : Nat) : y ∈ addLine l x ↔ y ∈ l ∨ y = x := by
  unfold addLine
  split
  · exact ⟨.inl, fun h => h.elim id (fun e => e ▸ ‹_›)⟩
  · simp

/-- Poisoned words poison their lines and change nothing else. -/
theorem State.poisonWords_spec : ∀ (w : List Nat) (s : State), let t := overList w (fun w s => s.poisonLine w) s
    t = { s with poison := t.poison } ∧ ∀ l, l ∈ t.poison ↔ l ∈ s.poison ∨ ∃ y ∈ w, l = y / 64
  | [], s => by simp
  | x :: w, s => by
    obtain ⟨rest, lines⟩ := State.poisonWords_spec w (s.poisonLine x)
    refine ⟨rest, fun l => ?_⟩
    rw [overList_cons, lines, State.poisonLine, mem_addLine]
    simp [or_assoc]

theorem State.countUe_eq (s : State) (k n : Nat) : ∃ cond free, s.countUe k n = { s with cond := cond, freeCtr := free } := by
  unfold State.countUe State.writeReport
  dsimp only
  split
  · exact ⟨_, _, rfl⟩
  · exact ⟨_, s.freeCtr, rfl⟩

theorem State.fld_countUe (s : State) (k n : Nat) (f : Fld) (i j : Nat) : (s.countUe k n).fld f i j = s.fld f i j := by
  obtain ⟨cond, free, counted⟩ := s.countUe_eq k n
  rw [counted]
  rfl

/-- Keep the first address of an uncorrectable word (R192). -/
def State.keepUeAddr (s : State) (k a : Nat) : State :=
  if s.flag RegF.stkUeAddrValid k then s else (s.setFld RegF.stkUeAddrAddr a k).setFld RegF.stkUeAddrValid 1 k

theorem State.keepUeAddr_regs (s : State) (k a : Nat) : s.SameButRegs (s.keepUeAddr k a) := by
  unfold State.keepUeAddr
  split
  · exact .refl
  · exact (State.SameButRegs.refl.setFld ..).setFld ..

theorem State.keepUeAddr_fld (s : State) (k a : Nat) : (s.keepUeAddr k a).fld RegF.stkUeAddrValid k = 1 ∧
    (s.keepUeAddr k a).fld RegF.stkUeAddrAddr k =
      (if s.fld RegF.stkUeAddrValid k = 1 then s.fld RegF.stkUeAddrAddr k else a % 2 ^ 48) := by
  unfold State.keepUeAddr State.flag
  by_cases valid : s.fld RegF.stkUeAddrValid k = 1
  · simp [valid]
  · simp only [valid, beq_iff_eq, if_false]
    refine ⟨State.fld_setFld_same .., ?_⟩
    have beside := (s.setFld RegF.stkUeAddrAddr a k).fld_setFld_beside RegF.stkUeAddrValid RegF.stkUeAddrAddr 1 k 0 rfl (.inl (by decide))
    exact beside.trans (State.fld_setFld_same ..)

theorem State.stackUe_step (s : State) (k : Nat) (c : Option Nat) (w : List Nat) (lines a : Nat) : s.stackUe k c w lines a =
    ((((overList w (fun w s => s.poisonLine w) s).incFld RegF.stkEccUncorrected (w.length + lines) k).keepUeAddr k a).countUe k
      (w.length + lines)).event (uStack k) 0x0105 3 c [(16, 8, a)] := rfl

/-- What uncorrectable words leave: poisoned lines, registers, the report and the recorder; memory, queues and tasks stay. -/
theorem State.stackUe_eq (s : State) (k : Nat) (c : Option Nat) (w : List Nat) (lines a : Nat) : ∃ regs poison cond free evr,
    s.stackUe k c w lines a = { s with regs := regs, poison := poison, cond := cond, freeCtr := free, evr := evr } ∧
      ∀ l, l ∈ poison ↔ l ∈ s.poison ∨ ∃ y ∈ w, l = y / 64 := by
  rw [State.stackUe_step]
  obtain ⟨rest, poisoned⟩ := State.poisonWords_spec w s
  generalize overList w (fun w s => s.poisonLine w) s = u at rest poisoned
  have kept := (u.incFld RegF.stkEccUncorrected (w.length + lines) k).keepUeAddr_regs k a
  generalize (u.incFld RegF.stkEccUncorrected (w.length + lines) k).keepUeAddr k a = v at kept
  obtain ⟨cond, free, counted⟩ := v.countUe_eq k (w.length + lines)
  obtain ⟨regs, evr, recorded⟩ := (v.countUe k (w.length + lines)).event_eq (uStack k) 0x0105 3 c [(16, 8, a)]
  refine ⟨regs, u.poison, cond, free, evr, ?_, poisoned⟩
  rw [recorded, counted, kept, rest]
  rfl

/-- The registers of a stack after uncorrectable words. -/
theorem State.stackUe_fld (s : State) (k : Nat) (c : Option Nat) (w : List Nat) (lines a : Nat) : let t := s.stackUe k c w lines a
    t.fld RegF.stkEccUncorrected k = min (s.fld RegF.stkEccUncorrected k + (w.length + lines)) (2 ^ 16 - 1) ∧
      t.fld RegF.stkUeAddrValid k = 1 ∧
      t.fld RegF.stkUeAddrAddr k = (if s.fld RegF.stkUeAddrValid k = 1 then s.fld RegF.stkUeAddrAddr k else a % 2 ^ 48) := by
  intro t
  obtain ⟨rest, -⟩ := State.poisonWords_spec w s
  let u := overList w (fun w s => s.poisonLine w) s
  let v := u.incFld RegF.stkEccUncorrected (w.length + lines) k
  have before (f : Fld) (i j : Nat) : u.fld f i j = s.fld f i j := by rw [show u = _ from rest]; rfl
  have after (f : Fld) (other : f.reg ≠ .evrMirror) : t.fld f k = (v.keepUeAddr k a).fld f k := by
    rw [show t = _ from State.stackUe_step .., State.fld_event other, State.fld_countUe]
  have counted (f : Fld) (other : f.reg ≠ .stkEcc) : v.fld f k = s.fld f k := (State.fld_incFld_reg u other ..).trans (before ..)
  obtain ⟨valid, addr⟩ := v.keepUeAddr_fld k a
  refine ⟨?_, (after _ (by decide)).trans valid, ?_⟩
  · have kept : (v.keepUeAddr k a).fld RegF.stkEccUncorrected k = v.fld RegF.stkEccUncorrected k := by
      unfold State.keepUeAddr
      split
      · rfl
      · rw [State.fld_setFld_reg _ _ _ _ _ _ _ _ (by decide), State.fld_setFld_reg _ _ _ _ _ _ _ _ (by decide)]
    rw [after _ (by decide), kept, State.fld_incFld_same, before]
    rfl
  · rw [after _ (by decide), addr, counted _ (by decide), counted _ (by decide)]

/-! ### Refresh, probes and the patrol scrub (R190, R195) -/

theorem Tbl.get_foldl_set {α : Type} [DecidableEq α] (d x : α) (k b : Nat) : ∀ (n : Nat) (m : Tbl α),
    Tbl.get d ((List.range n).foldl (fun m i => Tbl.set d m (k + i) x) m) b = if k ≤ b ∧ b < k + n then x else Tbl.get d m b
  | 0, m => by simp
  | n + 1, m => by
    rw [List.range_succ, List.foldl_append, List.foldl_cons, List.foldl_nil]
    by_cases last : b = k + n
    · subst last; simp
    · rw [Tbl.get_set_other _ _ _ _ _ _ last, Tbl.get_foldl_set d x k b n]
      exact if_congr (by omega) rfl rfl

section
variable {s : State} {k pc : Nat} (here : s.hasStack k = true) (lt : pc < 64)
include here lt

theorem exec_stackRefresh {slot : Nat} (early : slot % 128 < 4) : exec (.stackRefresh k pc slot) s = .next (s.setStack k { s.stack k with
    refreshed := (List.range 16).foldl (fun m b => Tbl.set 0 m (64 * pc + 16 * (slot % 128) + b) (slot + 1)) (s.stack k).refreshed }) :=
  show execStackRefresh k pc slot s = _ from if_neg (by simp [here, lt, early])

theorem exec_maintenanceProbe {d : Int} {low : Bool} (noScan : (s.stack k).eye = none) (ge : -1 ≤ d) (le : d ≤ 1) :
    exec (.maintenanceProbe k pc d low) s = .next (s.setStack k { s.stack k with
      probe := Tbl.upd 0 (s.stack k).probe pc (fun n => (n + 1) % 4096), point := Tbl.upd 0 (s.stack k).point pc (fun p => p + d),
      low := if low then addLine (s.stack k).low (pc / 2) else (s.stack k).low }) :=
  show execMaintenanceProbe k pc d low s = _ by
    rw [execMaintenanceProbe]
    simp only [noScan]
    exact if_neg (by simp [here, lt, ge, le])

end

theorem mem_foldl_addLine (y : Nat) : ∀ (l m : List Nat), y ∈ l.foldl addLine m ↔ y ∈ m ∨ y ∈ l
  | [], m => by simp
  | x :: l, m => by rw [List.foldl_cons, mem_foldl_addLine y l, mem_addLine, List.mem_cons, or_assoc]

/-- Corrected words count, and their lines are to be written back; nothing but the stack, those lines and the count changes. -/
theorem State.stackCorrected_spec (s : State) (k ch a n words : Nat) : let t := s.stackCorrected k ch a n words
    t = { s with stk := t.stk, corrected := t.corrected, regs := t.regs } ∧ (∀ l ∈ s.corrected, l ∈ t.corrected) ∧
      (∀ l ∈ t.corrected, l ∈ s.corrected ∨ a / 64 ≤ l ∧ l < a / 64 + ((a + n - 1) / 64 - a / 64 + 1)) ∧
      t.fld RegF.stkEccCorrected k = min (s.fld RegF.stkEccCorrected k + words) (2 ^ 32 - 1) := by
  unfold State.stackCorrected
  by_cases none' : words = 0
  · have small : s.fld RegF.stkEccCorrected k < 2 ^ 32 := bits_lt _ 0 32
    simp only [none', if_true]
    exact ⟨trivial, fun l h => h, fun l h => .inl h, by omega⟩
  · simp only [none', if_false]
    refine ⟨rfl, fun l h => (mem_foldl_addLine ..).2 (.inl h), fun l h => ?_, State.fld_incFld_same ..⟩
    refine ((mem_foldl_addLine ..).1 h).imp_right fun mem => ?_
    obtain ⟨i, lt, rfl⟩ := List.mem_map.1 mem
    have := List.mem_range.1 lt
    omega

/-- The state once the patrol scrub has corrected a run and written it back. -/
def State.scrubRun (s : State) (k pc a words : Nat) : State :=
  let u := s.stackCorrected k (pc / 2) a 512 words
  { u with corrected := u.corrected.filter (fun l => !decide (a ≤ l * 64 ∧ l * 64 < a + 512)) }

theorem State.scrubRun_spec (s : State) (k pc words : Nat) {a : Nat} (line : a % 64 = 0) : let t := s.scrubRun k pc a words
    t = { s with stk := t.stk, corrected := t.corrected, regs := t.regs } ∧
      (∀ l, l ∈ t.corrected ↔ l ∈ s.corrected ∧ (l * 64 < a ∨ a + 512 ≤ l * 64)) ∧
      t.fld RegF.stkEccCorrected k = min (s.fld RegF.stkEccCorrected k + words) (2 ^ 32 - 1) := by
  obtain ⟨rest, keeps, adds, count⟩ := s.stackCorrected_spec k (pc / 2) a 512 words
  refine ⟨by rw [State.scrubRun, rest], fun l => ?_, count⟩
  simp only [State.scrubRun, List.mem_filter, Bool.not_eq_true', decide_eq_false_iff_not]
  refine ⟨fun ⟨mem, out⟩ => ⟨(adds l mem).resolve_right ?_, by omega⟩, fun ⟨mem, out⟩ => ⟨keeps l mem, by omega⟩⟩
  omega

/-- A stack y that was x before the scrub of a pseudo-channel's run: the next run follows, and the run's bank is used in slot 5. -/
def Stack.scrubbed (x y : Stack) (pc : Nat) : Stack :=
  let m := Tbl.get 0 x.scrub pc
  let r := Tbl.get 0 x.refreshed (64 * pc)
  { y with scrub := Tbl.set 0 y.scrub pc ((m + 1) % 2 ^ 22),
           banks := if r = 0 then y.banks else Tbl.set 0 y.banks (64 * pc + m % 64) ((r - 1) / 128 * 128 + 6) }

theorem Stack.scrubbed_scrub (x y : Stack) (pc : Nat) : Tbl.get 0 (x.scrubbed y pc).scrub pc = (Tbl.get 0 x.scrub pc + 1) % 2 ^ 22 :=
  Tbl.get_set_same ..

/-- The state once words of a scrubbed run that prove uncorrectable are recorded. -/
def State.scrubWords (s : State) (k a : Nat) (w : List Nat) : State := if w.isEmpty then s else s.stackUe k none w 0 ((lowest w).getD a)

theorem exec_patrolScrub {s : State} {k pc : Nat} (here : s.hasStack k = true) (lt : pc < 64) (found : ScrubFound) :
    let a := runAddr k pc (Tbl.get 0 (s.stack k).scrub pc)
    let v := (s.scrubRun k pc a found.corrected).scrubWords k a (wordsIn found.uncorrectable a 512)
    exec (.patrolScrub k pc found) s = .next (v.setStack k ((s.stack k).scrubbed (v.stack k) pc)) :=
  show execPatrolScrub k pc found s = _ from if_neg (by simp [here, lt])

/-- Recording uncorrectable words of a run poisons their lines; memory, contexts and corrections stay. -/
theorem State.scrubWords_spec (s : State) (k a : Nat) (w : List Nat) : let t := s.scrubWords k a w
    (∀ l, l ∈ t.poison ↔ l ∈ s.poison ∨ ∃ y ∈ w, l = y / 64) ∧ t.corrected = s.corrected ∧ t.mem = s.mem ∧ t.ctx = s.ctx ∧
      (w = [] → t = s) := by
  unfold State.scrubWords
  cases w with
  | nil => simp
  | cons x w =>
    obtain ⟨regs, poison, cond, free, evr, eq, lines⟩ := s.stackUe_eq k none (x :: w) 0 ((lowest (x :: w)).getD a)
    simp only [List.isEmpty_cons, Bool.false_eq_true, if_false, eq]
    exact ⟨lines, trivial, trivial, trivial, by simp⟩

theorem exec_patrolScrub_spec {s : State} {k pc : Nat} (here : s.hasStack k = true) (lt : pc < 64) (found : ScrubFound) :
    ∃ t, exec (.patrolScrub k pc found) s = .next t ∧
      let a := runAddr k pc (Tbl.get 0 (s.stack k).scrub pc)
      let w := wordsIn found.uncorrectable a 512
      Tbl.get 0 (t.stack k).scrub pc = (Tbl.get 0 (s.stack k).scrub pc + 1) % 2 ^ 22 ∧
      (∀ l, l ∈ t.corrected ↔ l ∈ s.corrected ∧ (l * 64 < a ∨ a + 512 ≤ l * 64)) ∧
      (∀ l, l ∈ t.poison ↔ l ∈ s.poison ∨ ∃ y ∈ w, l = y / 64) ∧ t.mem = s.mem ∧ t.ctx = s.ctx ∧
      (w = [] → t = { s with stk := t.stk, corrected := t.corrected, regs := t.regs } ∧
        t.fld RegF.stkEccCorrected k = min (s.fld RegF.stkEccCorrected k + found.corrected) (2 ^ 32 - 1)) := by
  refine ⟨_, exec_patrolScrub here lt found, ?_⟩
  intro a w
  have line : a % 64 = 0 := by simp only [a, runAddr, nearBase]; omega
  obtain ⟨rest, corrected, count⟩ := s.scrubRun_spec k pc found.corrected line
  obtain ⟨poison, same, mem, ctx, clean⟩ := (s.scrubRun k pc a found.corrected).scrubWords_spec k a w
  refine ⟨?_, fun l => ?_, fun l => (poison l).trans ?_, mem.trans ?_, ctx.trans ?_, fun none' => ?_⟩
  · rw [State.stack_setStack, Stack.scrubbed_scrub]
  · rw [State.setStack_corrected, same]
    exact corrected l
  · rw [rest]
  · rw [rest]
  · rw [rest]
  · rw [clean none']
    refine ⟨?_, count⟩
    rw [rest]
    rfl

/-! ### Re-training (R196) -/

theorem exec_stackChannelRetrain_starts {s : State} {k ch temp : Nat} (idle : (s.stack k).retrain = none)
    (here : s.hasStack k = true) (lt : ch < 32)
    (why : (s.stack k).tempMoved ch temp = true ∨ ch ∈ (s.stack k).low ∨ 1024 < s.recentWords k ch) :
    exec (.stackChannelRetrain k ch temp) s = .next (((((s.setStack k { s.stack k with
      retrain := some ch, trained := Tbl.set 0 (s.stack k).trained ch (temp + 1) }).setFld RegF.stkStsState 3 k).setFld
      RegF.stkStsRetrainCh ch k).setFld RegF.stkStsTemp temp k).incFld RegF.stkStsRetrains 1 k) :=
  show execStackChannelRetrain k ch temp s = _ from if_neg (by simp [here, lt, idle, why])

/-- A channel that re-trains shows in STK_STS. -/
theorem exec_stackChannelRetrain_shows {s : State} {k ch temp : Nat} (idle : (s.stack k).retrain = none) (here : s.hasStack k = true)
    (lt : ch < 32) (why : (s.stack k).tempMoved ch temp = true ∨ ch ∈ (s.stack k).low ∨ 1024 < s.recentWords k ch) :
    ∃ t, exec (.stackChannelRetrain k ch temp) s = .next t ∧ t = { s with stk := t.stk, regs := t.regs } ∧
      (t.stack k).retrain = some ch ∧ t.fld RegF.stkStsState k = 3 ∧ t.fld RegF.stkStsRetrainCh k = ch ∧
      t.fld RegF.stkStsRetrains k = min (s.fld RegF.stkStsRetrains k + 1) (2 ^ 32 - 1) := by
  obtain ⟨y, retrain, runs⟩ : ∃ y : Stack, y.retrain = some ch ∧ exec (.stackChannelRetrain k ch temp) s =
      .next (((((s.setStack k y).setFld RegF.stkStsState 3 k).setFld RegF.stkStsRetrainCh ch k).setFld RegF.stkStsTemp temp k).incFld
        RegF.stkStsRetrains 1 k) := ⟨_, rfl, exec_stackChannelRetrain_starts idle here lt why⟩
  let u0 := s.setStack k y
  let u1 := u0.setFld RegF.stkStsState 3 k
  let u2 := u1.setFld RegF.stkStsRetrainCh ch k
  let u3 := u2.setFld RegF.stkStsTemp temp k
  have shown : u0.SameButRegs (u3.incFld RegF.stkStsRetrains 1 k) := (((State.SameButRegs.refl.setFld ..).setFld ..).setFld ..).setFld ..
  have count (g : Fld) (reg : g.reg = .stkSts) (below : g.lo + g.w ≤ 32) : (u3.incFld RegF.stkStsRetrains 1 k).fld g k = u3.fld g k :=
    u3.fld_setFld_beside RegF.stkStsRetrains g _ k 0 reg (.inl below)
  have third (g : Fld) (reg : g.reg = .stkSts) (out : g.lo + g.w ≤ 16 ∨ 24 ≤ g.lo) : u3.fld g k = u2.fld g k :=
    u2.fld_setFld_beside RegF.stkStsTemp g _ k 0 reg out
  have second (g : Fld) (reg : g.reg = .stkSts) (out : g.lo + g.w ≤ 8 ∨ 13 ≤ g.lo) : u2.fld g k = u1.fld g k :=
    u1.fld_setFld_beside RegF.stkStsRetrainCh g _ k 0 reg out
  have first (g : Fld) (reg : g.reg = .stkSts) (out : 3 ≤ g.lo) : u1.fld g k = s.fld g k :=
    u0.fld_setFld_beside RegF.stkStsState g _ k 0 reg (.inr out)
  have stack : (u3.incFld RegF.stkStsRetrains 1 k).stack k = y := (shown.stack k).trans (s.stack_setStack k y)
  refine ⟨_, runs, by rw [shown]; rfl, by rw [stack]; exact retrain, ?_, ?_, ?_⟩
  · rw [count _ rfl (by decide), third _ rfl (by decide), second _ rfl (by decide)]
    exact State.fld_setFld_same ..
  · rw [count _ rfl (by decide), third _ rfl (by decide)]
    exact (State.fld_setFld_same ..).trans (Nat.mod_eq_of_lt lt)
  · rw [State.fld_incFld_same, third _ rfl (by decide), second _ rfl (by decide), first _ rfl (by decide)]
    rfl

theorem exec_stackChannelRetrain_not {s : State} {k ch temp : Nat} (moved : (s.stack k).tempMoved ch temp = false)
    (margin : ch ∉ (s.stack k).low) (few : s.recentWords k ch ≤ 1024) : exec (.stackChannelRetrain k ch temp) s = .next s :=
  show execStackChannelRetrain k ch temp s = _ from if_pos (.inr (.inr (.inr (by simp [moved, margin, few]))))

theorem exec_stackRetrainEnd {s : State} {k ch : Nat} (training : (s.stack k).retrain = some ch) : exec (.stackRetrainEnd k) s =
    .next ((s.setStack k { s.stack k with retrain := none, held := [], low := (s.stack k).low.filter (fun c => c != ch) }).setFld
      RegF.stkStsState 2 k) :=
  show execStackRetrainEnd k s = _ by simp only [execStackRetrainEnd, training]

/-! ### Eye scans (R197) -/

/-- The fields of STK_EYE_CMD that name a pin, as one. -/
def eyePin : Fld := ⟨.stkEyeCmd, 0, 12⟩

theorem eyePin_parts (s : State) (k : Nat) : s.fld eyePin k = s.fld RegF.stkEyeCmdCh k + 2 ^ 5 * s.fld RegF.stkEyeCmdPc k +
    2 ^ 6 * s.fld RegF.stkEyeCmdPin k + 2 ^ 11 * s.fld RegF.stkEyeCmdDir k := by
  simp only [State.fld, eyePin, RegF.stkEyeCmdCh, RegF.stkEyeCmdPc, RegF.stkEyeCmdPin, RegF.stkEyeCmdDir, bits]
  omega

theorem State.setEyeFields_regs (s : State) (k : Nat) (cmd : BitVec 32) : s.SameButRegs (s.setEyeFields k cmd) :=
  (((State.SameButRegs.refl.setFld ..).setFld ..).setFld ..).setFld ..

theorem State.setEyeFields_pin (s : State) (k : Nat) (cmd : BitVec 32) : (s.setEyeFields k cmd).fld eyePin k = cmd.toNat % 2 ^ 12 := by
  let s1 := s.setFld RegF.stkEyeCmdCh (bits cmd.toNat 0 5) k
  let s2 := s1.setFld RegF.stkEyeCmdPc (bits cmd.toNat 5 1) k
  let s3 := s2.setFld RegF.stkEyeCmdPin (bits cmd.toNat 6 5) k
  have dir : (s.setEyeFields k cmd).fld RegF.stkEyeCmdDir k = bits cmd.toNat 11 1 % 2 ^ 1 := State.fld_setFld_same ..
  have last (g : Fld) (reg : g.reg = .stkEyeCmd) (below : g.lo + g.w ≤ 11) : (s.setEyeFields k cmd).fld g k = s3.fld g k :=
    s3.fld_setFld_beside RegF.stkEyeCmdDir g _ k 0 reg (.inl below)
  have third (g : Fld) (reg : g.reg = .stkEyeCmd) (below : g.lo + g.w ≤ 6) : s3.fld g k = s2.fld g k :=
    s2.fld_setFld_beside RegF.stkEyeCmdPin g _ k 0 reg (.inl below)
  have pin : s3.fld RegF.stkEyeCmdPin k = bits cmd.toNat 6 5 % 2 ^ 5 := State.fld_setFld_same ..
  have pc : s2.fld RegF.stkEyeCmdPc k = bits cmd.toNat 5 1 % 2 ^ 1 := State.fld_setFld_same ..
  have ch : s2.fld RegF.stkEyeCmdCh k = bits cmd.toNat 0 5 % 2 ^ 5 :=
    (s1.fld_setFld_beside RegF.stkEyeCmdPc RegF.stkEyeCmdCh _ k 0 rfl (.inl (by decide))).trans (State.fld_setFld_same ..)
  rw [eyePin_parts, dir, last _ rfl (by decide), last _ rfl (by decide), last _ rfl (by decide), third _ rfl (by decide),
    third _ rfl (by decide), pin, pc, ch]
  simp only [bits]
  omega

/-- A scan that starts works on the named pin and shows BUSY. -/
theorem State.startEye_spec {s u : State} {k n : Nat} (here : s.hasStack k = true) (noScan : (s.stack k).eye = none)
    (same : s.SameButRegs u) (pin : u.fld eyePin k = n) : let t := u.startEye k
    t = { s with stk := t.stk, regs := t.regs } ∧ (t.stack k).eye = some (BitVec.ofNat 32 n) ∧ t.fld RegF.stkEyeCmdBusy k = 1 := by
  have there : u.hasStack k = true := by rw [same]; exact here
  have none' : (u.stack k).eye = none := by rw [same.stack]; exact noScan
  have reg : u.reg .stkEyeCmd k 0 % 2 ^ 12 = n := by simpa [State.fld, eyePin, bits] using pin
  have started : u.startEye k = (u.setStack k { u.stack k with eye := some (BitVec.ofNat 32 n) }).setFld RegF.stkEyeCmdBusy 1 k := by
    rw [State.startEye, if_neg (by simp [there, none']), reg]
  rw [started]
  refine ⟨?_, ?_, State.fld_setFld_same ..⟩
  · rw [same]; rfl
  · have stored := u.stack_setStack k { u.stack k with eye := some (BitVec.ofNat 32 n) }
    exact congrArg Stack.eye stored

theorem eyeCmd_go (cmd : BitVec 32) : (cmd ||| 0x1000).getLsbD 12 = true ∧ (cmd ||| 0x1000).toNat % 2 ^ 12 = cmd.toNat % 2 ^ 12 := by
  refine ⟨by simp, Nat.eq_of_testBit_eq fun i => ?_⟩
  simp only [Nat.testBit_mod_two_pow, BitVec.toNat_or, Nat.testBit_or]
  by_cases low : i < 12
  · have above : Nat.testBit 0x1000 i = false := by
      rw [show 0x1000 = 2 ^ 12 from rfl, Nat.testBit_two_pow]
      exact decide_eq_false (by omega)
    simp [above]
  · simp [low]

theorem State.hasStack_lt {s : State} {k : Nat} (here : s.hasStack k = true) : k < 20 := by
  simp only [State.hasStack, Bool.and_eq_true, decide_eq_true_eq] at here
  exact here.2

/-- A write of STK_EYE_CMD with GO starts a scan. -/
theorem exec_eyeScanGo_starts {s : State} {k : Nat} (here : s.hasStack k = true) (cmd : BitVec 32) (ready : s.ready = true) : ∃ u,
     exec (.eyeScanGo k (cmd ||| 0x1000)) s = .next (u.startEye k) ∧
    s.SameButRegs u ∧ u.fld eyePin k = cmd.toNat % 2 ^ 12 := by
  obtain ⟨go, pin⟩ := eyeCmd_go cmd
  let v := s.setEyeFields k (cmd ||| 0x1000)
  have same : s.SameButRegs v := s.setEyeFields_regs ..
  have read : v.fld eyePin k = cmd.toNat % 2 ^ 12 := (s.setEyeFields_pin ..).trans pin
  have runs : exec (.eyeScanGo k (cmd ||| 0x1000)) s =
      .next ((if (cmd ||| 0x1000).getLsbD 14 then v.setFld RegF.stkEyeCmdDone 0 k else v).startEye k) :=
    show execEyeScanGo k _ s = _ by
      rw [execEyeScanGo, if_neg (by simp [State.hasStack_lt here, ready])]
      dsimp only
      rw [if_pos go]
  refine ⟨_, runs, ?_⟩
  split
  · exact ⟨same.setFld .., (v.fld_setFld_beside RegF.stkEyeCmdDone eyePin 0 k 0 rfl (.inl (by decide))).trans read⟩
  · exact ⟨same, read⟩

theorem exec_eyeScanCorridorStart_starts {s : State} {k : Nat} (here : s.hasStack k = true) (noScan : (s.stack k).eye = none)
    (cmd : BitVec 32) (ready : s.ready = true) :
    exec (.eyeScanCorridorStart k cmd) s = .next ((s.setEyeFields k cmd).startEye k) :=
  show execEyeScanCorridorStart k cmd s = _ from if_neg (by simp [State.hasStack_lt here, ready, noScan])

theorem exec_eyeScanCorridorStart_waits {s : State} {k : Nat} (cmd : BitVec 32) (notReady : s.ready = false) :
    exec (.eyeScanCorridorStart k cmd) s = .next s :=
  show execEyeScanCorridorStart k cmd s = _ from if_pos (.inr (.inl (by simp [notReady])))

/-- Setting a field in the words 0 to n − 1 of a row sets it in each of them. -/
theorem State.fld_overList_row (f : Fld) (g : Nat → Nat) (k i : Nat) (s : State) : ∀ n : Nat,
    (overList (List.range n) (fun i s => s.setFld f (g i) k i) s).fld f k i = if i < n then g i % 2 ^ f.w else s.fld f k i
  | 0 => by simp
  | n + 1 => by
    have step : overList (List.range (n + 1)) (fun i s => s.setFld f (g i) k i) s =
        (overList (List.range n) (fun i s => s.setFld f (g i) k i) s).setFld f (g n) k n := by
      rw [overList, List.range_succ, List.foldl_append]; rfl
    rw [step]
    by_cases last : i = n
    · subst last; simp
    · rw [State.fld_setFld_word _ _ _ _ _ _ _ _ (.inr last), State.fld_overList_row f g k i s n]
      exact if_congr (by omega) rfl rfl

/-- A scan that ends leaves its map in STK_EYE_DATA. -/
theorem exec_eyeScanComplete {s : State} {k : Nat} {cmd : BitVec 32} (scan : (s.stack k).eye = some cmd) (map : List W64) :
    ∃ t, exec (.eyeScanComplete k map) s = .next t ∧ t = { s with stk := t.stk, regs := t.regs } ∧ (t.stack k).eye = none ∧
      t.fld RegF.stkEyeCmdBusy k = 0 ∧ t.fld RegF.stkEyeCmdDone k = 1 ∧
      ∀ i, i < 64 → t.fld RegF.stkEyeDataPassMap k i = (nth 0 map i).toNat := by
  have rows : ∃ u, overList (List.range 64) (fun i s => s.setFld RegF.stkEyeDataPassMap (nth 0 map i).toNat k i) s = u ∧
      s.SameButRegs u ∧ ∀ i, i < 64 → u.fld RegF.stkEyeDataPassMap k i = (nth 0 map i).toNat := by
    refine ⟨_, rfl, overList_keeps (fun t : State => s.SameButRegs t) _ (fun i t h => h.setFld _ _ k i) _ s .refl, fun i lt => ?_⟩
    rw [State.fld_overList_row, if_pos lt]
    exact Nat.mod_eq_of_lt (nth 0 map i).isLt
  obtain ⟨u, hu, same, filled⟩ := rows
  have runs : exec (.eyeScanComplete k map) s = .next (((u.setStack k { u.stack k with eye := none }).setFld RegF.stkEyeCmdBusy 0 k).setFld
      RegF.stkEyeCmdDone 1 k) := show execEyeScanComplete k map s = _ by simp only [execEyeScanComplete, scan, hu]
  refine ⟨_, runs, ?_, congrArg Stack.eye (u.stack_setStack k { u.stack k with eye := none }), ?_, State.fld_setFld_same ..,
    fun i lt => ?_⟩
  · rw [same]; rfl
  · exact (State.fld_setFld_beside _ RegF.stkEyeCmdDone RegF.stkEyeCmdBusy 1 k 0 rfl (.inl (by decide))).trans (State.fld_setFld_same ..)
  · rw [State.fld_setFld_reg _ _ _ _ _ _ _ _ (by decide), State.fld_setFld_reg _ _ _ _ _ _ _ _ (by decide)]
    exact filled i lt

theorem State.stack_setStack_other (s : State) {k j : Nat} (x : Stack) (h : j ≠ k) : (s.setStack k x).stack j = s.stack j := by
  simp [State.stack, State.setStack, Tbl.get_set_other _ _ _ _ _ _ h]

theorem exec_stackUeWindowEnd {s : State} (lasted : s.cond.rep.ueWindow + 86400 ≤ s.opSeconds) : exec .stackUeWindowEnd s =
    .next { s with cond := { s.cond with rep := { s.cond.rep with
      stackUe := List.replicate 20 0, ueWindow := s.cond.rep.ueWindow + 86400 } } } :=
  show execStackUeWindowEnd s = _ from if_neg (by omega)

/-! ### The statement -/

theorem accInRun_len {r : Access} (run : accInRun r = true) : 0 < r.len := by
  simp only [accInRun, Bool.and_eq_true, decide_eq_true_eq] at run
  obtain ⟨⟨len, -⟩, -⟩ := run
  exact len

theorem accPartLine_iff (r : Access) : accPartLine r = true ↔ r.data.isSome = true ∧ (r.addr % 64 ≠ 0 ∨ (r.addr + r.len) % 64 ≠ 0) := by
  simp only [accPartLine, Bool.and_eq_true, decide_eq_true_iff]

/-- A refresh covers 16 banks of its slot. -/
theorem stackRefresh_banks {s : State} {k pc slot b : Nat} (_lt : b < 64) : Tbl.get 0 ((s.setStack k { s.stack k with
      refreshed := (List.range 16).foldl (fun m b => Tbl.set 0 m (64 * pc + 16 * (slot % 128) + b) (slot + 1))
        (s.stack k).refreshed }).stack k).refreshed (64 * pc + b) =
    if b / 16 = slot % 128 then slot + 1 else Tbl.get 0 (s.stack k).refreshed (64 * pc + b) := by
  rw [State.stack_setStack, Tbl.get_foldl_set]
  exact if_congr (by omega) rfl rfl

/-- Settles O38: an access by the lemmas for its cases, errors by what they leave, and each maintenance command by its own lemma. -/
theorem nearTierAndStackMaintenance : Obligations.NearTierAndStackMaintenance := by
  unfold Obligations.NearTierAndStackMaintenance
  refine ⟨⟨fun s slot k r n ue home run data mine net => ?_, fun s k c w lines a _ => ?_⟩, fun s k pc here lt => ?_⟩
  · have own : s.OwnSlot slot k r := ⟨home, run, data, mine, net⟩
    intro pc x u last' close go taken
    refine ⟨fun t => exec_nearTierAccess_taken own t, fun free denied => (exec_nearTierAccess_free own free).trans (if_pos (by
      simp [State.mayAccess, denied])), fun free reach => ?_⟩
    have serves := (exec_nearTierAccess_free (n := n) (ue := ue) own free).trans (if_neg (not_not.2 reach))
    refine ⟨fun training => serves.trans (if_pos training), fun going => ?_⟩
    have gap : (s.stack k).gapOk slot pc (bankOf r.addr) = true ↔ ¬ close u ∧ ¬ close last' :=
      (Stack.gapOk_iff ..).trans (and_congr (not_congr (slotNear_iff ..)) (not_congr (slotNear_iff ..)))
    have comes := serves.trans (if_neg going)
    refine ⟨fun near => comes.trans (if_pos fun ok => near.elim (gap.1 ok).1 (gap.1 ok).2), fun far far' => ?_⟩
    have does := comes.trans (if_neg (not_not.2 (gap.2 ⟨far, far'⟩)))
    intro rmw y v
    refine ⟨fun d write whole => does.trans (congrArg _ (State.nearDo_write write (Bool.eq_false_iff.2 (mt (accPartLine_iff r).1 whole)))),
      fun d write part noUe noCorr clean => ?_, fun reads => ⟨fun words clean => ?_, fun bad => ?_⟩⟩
    · subst noUe noCorr
      exact does.trans (congrArg _ (State.nearDo_part write ((accPartLine_iff r).2 part) clean (accInRun_len run)))
    · exact does.trans (congrArg _ (State.nearDo_read_clean reads words clean))
    · exact does.trans (congrArg _ (State.nearDo_read_bad reads bad))
  · intro t
    obtain ⟨regs, poison, cond, free, evr, eq, poisoned⟩ := s.stackUe_eq k c w lines a
    obtain ⟨count, valid, addr⟩ := s.stackUe_fld k c w lines a
    refine ⟨?_, count, valid, fun no => addr.trans (if_neg no), fun yes => addr.trans (if_pos yes)⟩
    rw [show t = _ from eq]
    exact poisoned
  · intro x only
    refine ⟨fun slot early => ⟨_, exec_stackRefresh here lt early, ⟨rfl, fun j other => s.stack_setStack_other _ other⟩,
        fun b hb => stackRefresh_banks hb⟩,
      fun d low noScan ge le => ⟨_, exec_maintenanceProbe here lt noScan ge le,
        ⟨rfl, fun j other => s.stack_setStack_other _ other⟩, ?_⟩,
      fun found => exec_patrolScrub_spec here lt found, fun ch temp hch idle why => exec_stackChannelRetrain_shows idle here hch why,
      fun ch temp _ moved margin few => exec_stackChannelRetrain_not moved margin few, fun ch training => exec_stackRetrainEnd training,
      fun cmd noScan => ⟨fun ready => ?_, exec_eyeScanCorridorStart_waits cmd, fun ready => ?_⟩,
      fun cmd map scan => exec_eyeScanComplete scan map, fun lasted => ⟨_, exec_stackUeWindowEnd lasted, rfl, rfl⟩⟩
    · rw [State.stack_setStack]
      exact ⟨Tbl.get_upd_same 0 x.probe pc (fun n => (n + 1) % 4096), Tbl.get_upd_same 0 x.point pc (fun p => p + d),
        fun margin => by rw [margin]; exact (mem_addLine ..).2 (.inr rfl), rfl⟩
    · obtain ⟨u, runs, same, pin⟩ := exec_eyeScanGo_starts here cmd ready
      exact ⟨_, runs, State.startEye_spec here noScan same pin⟩
    · exact ⟨_, exec_eyeScanCorridorStart_starts here noScan cmd ready,
        State.startEye_spec here noScan (s.setEyeFields_regs k cmd) (s.setEyeFields_pin k cmd)⟩

end Sys2Proof.Machine
end

section
/-! SUPPORT. Values of floating codes (spec/02_number_formats.md R22 to R26): the order of magnitudes of dyadic numbers, the number that the
fields of a code spell, and which codes are finite. -/

namespace Sys2Proof.Machine

/-! ### Magnitudes of dyadic numbers -/

/-- |d| as a rational number. -/
def Dy.mag (d : Dy) : ℚ := (d.m : ℚ) * (2 : ℚ) ^ d.e

theorem Dy.mag_pos {d : Dy} (h : d.m ≠ 0) : 0 < d.mag := by
  have : (0 : ℚ) < d.m := by exact_mod_cast Nat.pos_of_ne_zero h
  exact mul_pos this (by positivity)

theorem Dy.mag_zero {d : Dy} (h : d.m = 0) : d.mag = 0 := by simp [Dy.mag, h]

theorem Dy.mag_shift (d : Dy) (k : Int) : (d.shift k).mag = d.mag * (2 : ℚ) ^ k := by
  simp only [Dy.mag, Dy.shift]
  rw [zpow_add₀ two_ne_zero, mul_assoc]

/-- The exponent `lg` places a magnitude between two neighbouring powers of two. -/
theorem Dy.mag_lg {d : Dy} (h : d.m ≠ 0) : (2 : ℚ) ^ d.lg ≤ d.mag ∧ d.mag < (2 : ℚ) ^ (d.lg + 1) := by
  have low : (2 ^ Nat.log2 d.m : ℚ) ≤ d.m := by exact_mod_cast Nat.log2_self_le h
  have high : (d.m : ℚ) < 2 ^ (Nat.log2 d.m + 1) := by exact_mod_cast Nat.lt_log2_self
  have unit : (0 : ℚ) < (2 : ℚ) ^ d.e := by positivity
  have step : d.lg + 1 = d.e + ((Nat.log2 d.m + 1 : Nat) : Int) := by simp [Dy.lg]; ring
  constructor
  · rw [Dy.lg, zpow_add₀ two_ne_zero, zpow_natCast, mul_comm, Dy.mag]
    exact mul_le_mul_of_nonneg_right low unit.le
  · rw [step, zpow_add₀ two_ne_zero, zpow_natCast, mul_comm ((2 : ℚ) ^ d.e), Dy.mag]
    exact mul_lt_mul_of_pos_right high unit

/-- The integer of a number in a unit no greater than its own is exact. -/
theorem Dy.natAbs_units (d : Dy) {q : Int} (h : q ≤ d.e) : ((d.units q).natAbs : ℚ) * (2 : ℚ) ^ q = d.mag := by
  have abs : (d.units q).natAbs = d.m * 2 ^ (d.e - q).toNat := by
    simp only [Dy.units]
    split <;> simp [Int.natAbs_mul, Int.natAbs_pow]
  have exp : d.e = ((d.e - q).toNat : Int) + q := by omega
  rw [abs, Dy.mag]
  conv_rhs => rw [exp]
  rw [zpow_add₀ two_ne_zero, zpow_natCast]
  push_cast
  ring

/-- The comparison of magnitudes is the order of the rational numbers. -/
theorem Dy.ltMag_iff (a b : Dy) : a.ltMag b = true ↔ a.mag < b.mag := by
  by_cases ha : a.m = 0
  · by_cases hb : b.m = 0
    · simp [Dy.ltMag, Dy.zero, ha, hb, Dy.mag_zero]
    · simp [Dy.ltMag, Dy.zero, ha, hb, Dy.mag_zero ha, Dy.mag_pos hb]
  by_cases hb : b.m = 0
  · simp [Dy.ltMag, ha, hb, Dy.mag_zero hb, (Dy.mag_pos ha).le]
  obtain ⟨a1, a2⟩ := Dy.mag_lg ha
  obtain ⟨b1, b2⟩ := Dy.mag_lg hb
  have mono : ∀ {x y : Int}, x < y → (2 : ℚ) ^ (x + 1) ≤ (2 : ℚ) ^ y := fun h =>
    zpow_le_zpow_right₀ one_le_two (by omega)
  rcases lt_trichotomy a.lg b.lg with h | h | h
  · simp [Dy.ltMag, ha, hb, h, a2.trans_le ((mono h).trans b1)]
  · have unit : (0 : ℚ) < (2 : ℚ) ^ (min a.e b.e) := by positivity
    simp only [Dy.ltMag, ha, hb, h, lt_irrefl, if_false, decide_eq_true_eq]
    rw [← Dy.natAbs_units a (min_le_left a.e b.e), ← Dy.natAbs_units b (min_le_right a.e b.e), mul_lt_mul_iff_left₀ unit, Nat.cast_lt]
  · simp [Dy.ltMag, ha, hb, h, not_lt.2 h.le, (b2.trans_le ((mono h).trans a1)).le]

theorem Dy.ltMag_false_iff (a b : Dy) : a.ltMag b = false ↔ b.mag ≤ a.mag := by
  rw [← not_lt, ← Dy.ltMag_iff, Bool.not_eq_true]

/-! ### The value of a floating code by its fields (R23) -/

/-- The layout has an exponent field and a fraction field. -/
structure FloatFmt.Sound (t : FloatFmt) : Prop where
  exp : 1 ≤ t.e
  frac : 1 ≤ t.f

/-- The number that the exponent and fraction fields `k` of a code spell, in the format's least unit. -/
def FloatFmt.scaled (t : FloatFmt) (k : Nat) : Nat :=
  if k / 2 ^ t.f = 0 then k % 2 ^ t.f else (k % 2 ^ t.f + 2 ^ t.f) * 2 ^ (k / 2 ^ t.f - 1)

/-- The exponent of a format's least unit. -/
def FloatFmt.unit (t : FloatFmt) : Int := 1 - (t.bias : Int) - t.f

/-- The finite number of a sign and of exponent and fraction fields `k`. -/
def FloatFmt.number (t : FloatFmt) (neg : Bool) (k : Nat) : Dy :=
  if k / 2 ^ t.f = 0 then ⟨neg, k % 2 ^ t.f, t.unit⟩ else ⟨neg, k % 2 ^ t.f + 2 ^ t.f, ((k / 2 ^ t.f : Nat) : Int) - t.bias - t.f⟩

@[simp] theorem FloatFmt.number_neg (t : FloatFmt) (neg : Bool) (k : Nat) : (t.number neg k).neg = neg := by
  unfold FloatFmt.number; split <;> rfl

theorem FloatFmt.number_sign (t : FloatFmt) (a b : Bool) (k : Nat) : { t.number a k with neg := b } = t.number b k := by
  unfold FloatFmt.number; split <;> rfl

/-- Both kinds of numbers are multiples of the least unit. -/
theorem FloatFmt.number_shape (t : FloatFmt) (neg : Bool) (k : Nat) : t.unit ≤ (t.number neg k).e ∧
    t.scaled k = (t.number neg k).m * 2 ^ ((t.number neg k).e - t.unit).toNat := by
  unfold FloatFmt.number FloatFmt.scaled
  split
  · simp
  · have positive : 0 < k / 2 ^ t.f := Nat.pos_of_ne_zero ‹_›
    simp only [FloatFmt.unit]
    generalize k / 2 ^ t.f = q at positive
    exact ⟨by omega, by rw [show ((q : Int) - t.bias - t.f - (1 - t.bias - t.f)).toNat = q - 1 by omega]⟩

theorem FloatFmt.units_number (t : FloatFmt) (neg : Bool) (k : Nat) :
    (t.number neg k).units t.unit = (if neg then -1 else 1) * (t.scaled k : Int) := by
  rw [(t.number_shape neg k).2]
  unfold Dy.units
  cases neg <;> simp

theorem FloatFmt.mag_number (t : FloatFmt) (neg : Bool) (k : Nat) : (t.number neg k).mag = t.scaled k * (2 : ℚ) ^ t.unit := by
  rw [← Dy.natAbs_units _ (t.number_shape neg k).1, t.units_number]
  cases neg <;> simp

/-- The next code has a greater value. -/
theorem FloatFmt.scaled_step (t : FloatFmt) (k : Nat) : t.scaled k < t.scaled (k + 1) := by
  have width := Nat.two_pow_pos t.f
  have part := Nat.div_add_mod k (2 ^ t.f)
  have below := Nat.mod_lt k width
  unfold FloatFmt.scaled
  generalize k / 2 ^ t.f = q at part ⊢
  generalize k % 2 ^ t.f = r at part below ⊢
  subst part
  by_cases last : r + 1 < 2 ^ t.f
  · have div : (2 ^ t.f * q + r + 1) / 2 ^ t.f = q := by
      rw [Nat.add_assoc, Nat.mul_add_div width, Nat.div_eq_of_lt last, Nat.add_zero]
    have mod : (2 ^ t.f * q + r + 1) % 2 ^ t.f = r + 1 := by rw [Nat.add_assoc, Nat.mul_add_mod, Nat.mod_eq_of_lt last]
    rw [div, mod]
    split
    · omega
    · exact Nat.mul_lt_mul_of_pos_right (by omega) (Nat.two_pow_pos _)
  · have next : 2 ^ t.f * q + r + 1 = 2 ^ t.f * (q + 1) := by rw [Nat.mul_add]; omega
    rw [next, Nat.mul_div_cancel_left _ width, Nat.mul_mod_right]
    cases q with
    | zero => simpa using below
    | succ q =>
      simp only [Nat.succ_ne_zero, if_false, Nat.add_sub_cancel, Nat.zero_add, Nat.pow_succ]
      rw [← Nat.mul_assoc, Nat.mul_right_comm]
      exact Nat.mul_lt_mul_of_pos_right (by omega) (Nat.two_pow_pos _)

theorem FloatFmt.scaled_strictMono (t : FloatFmt) : StrictMono t.scaled := strictMono_nat_of_lt_succ t.scaled_step

/-- Magnitudes rise with the exponent and fraction fields taken as one number. -/
theorem FloatFmt.mag_number_lt (t : FloatFmt) {a b : Bool} {j k : Nat} (h : j < k) : (t.number a j).mag < (t.number b k).mag := by
  rw [t.mag_number, t.mag_number]
  exact mul_lt_mul_of_pos_right (by exact_mod_cast t.scaled_strictMono h) (by positivity)

/-! ### Which codes are finite (R23 to R26) -/

/-- The fields of a code below its sign, taken as one number. -/
def FloatFmt.below (t : FloatFmt) (c : Nat) : Nat := c % 2 ^ (t.e + t.f)

theorem FloatFmt.below_lt (t : FloatFmt) (c : Nat) : t.below c < 2 ^ t.e * 2 ^ t.f := by
  rw [← Nat.pow_add]
  exact Nat.mod_lt _ (Nat.two_pow_pos _)

theorem FloatFmt.exp_field (t : FloatFmt) (c : Nat) : bits c t.f t.e = t.below c / 2 ^ t.f := by
  rw [bits, FloatFmt.below, Nat.add_comm, Nat.pow_add, Nat.mod_mul_right_div_self]

theorem FloatFmt.frac_field (t : FloatFmt) (c : Nat) : bits c 0 t.f = t.below c % 2 ^ t.f := by
  rw [bits, FloatFmt.below, Nat.pow_zero, Nat.div_one, Nat.add_comm, Nat.pow_add, Nat.mod_mul_right_mod]

section
variable {t : FloatFmt} (sound : t.Sound) (c : Nat)
include sound

/-- In formats with infinities the codes beyond the largest finite one are those with the exponent field all ones. -/
theorem FloatFmt.top_infNan (spec : t.spec = .infNan) : t.below c / 2 ^ t.f = 2 ^ t.e - 1 ↔ ¬ t.below c ≤ t.maxCode := by
  have width := Nat.two_pow_pos t.f
  have two : 2 ≤ 2 ^ t.e := Nat.le_self_pow (Nat.one_le_iff_ne_zero.1 sound.exp) 2
  have limit : t.maxCode + 1 = (2 ^ t.e - 1) * 2 ^ t.f := by
    rw [show 2 ^ t.e - 1 = (2 ^ t.e - 2) + 1 by omega, Nat.add_mul]
    simp only [FloatFmt.maxCode, spec]
    omega
  have most : t.below c / 2 ^ t.f < 2 ^ t.e := (Nat.div_lt_iff_lt_mul width).2 (t.below_lt c)
  have top : 2 ^ t.e - 1 ≤ t.below c / 2 ^ t.f ↔ (2 ^ t.e - 1) * 2 ^ t.f ≤ t.below c := Nat.le_div_iff_mul_le width
  omega

/-- In E4M3 the code beyond the largest finite one has its exponent and fraction fields all ones. -/
theorem FloatFmt.top_nanOnly (spec : t.spec = .nanOnly) :
    (t.below c / 2 ^ t.f = 2 ^ t.e - 1 ∧ t.below c % 2 ^ t.f = 2 ^ t.f - 1) ↔ ¬ t.below c ≤ t.maxCode := by
  have width := Nat.two_pow_pos t.f
  have two : 2 ≤ 2 ^ t.e := Nat.le_self_pow (Nat.one_le_iff_ne_zero.1 sound.exp) 2
  have lt := t.below_lt c
  have all : (2 ^ t.e - 1) * 2 ^ t.f + 2 ^ t.f = 2 ^ t.e * 2 ^ t.f := by
    rw [← Nat.succ_mul, Nat.succ_eq_add_one, Nat.sub_add_cancel (by omega)]
  have limit : t.maxCode = 2 ^ t.e * 2 ^ t.f - 2 := by simp only [FloatFmt.maxCode, spec, Nat.pow_add]
  have last : t.below c / 2 ^ t.f = 2 ^ t.e - 1 ∧ t.below c % 2 ^ t.f = 2 ^ t.f - 1 ↔
      t.below c = (2 ^ t.e - 1) * 2 ^ t.f + (2 ^ t.f - 1) := by
    constructor
    · rintro ⟨ex, fr⟩
      rw [← ex, ← fr, Nat.div_add_mod']
    · intro eq
      rw [eq, Nat.mul_comm, Nat.mul_add_div width, Nat.mul_add_mod, Nat.div_eq_of_lt (by omega), Nat.mod_eq_of_lt (by omega)]
      exact ⟨rfl, rfl⟩
  have room : 2 ≤ 2 ^ t.e * 2 ^ t.f := Nat.le_trans two (Nat.le_mul_of_pos_right _ width)
  rw [last]
  omega

omit sound in
theorem FloatFmt.le_maxCode_noSpec (t : FloatFmt) (spec : t.spec = .noSpec) (c : Nat) : t.below c ≤ t.maxCode := by
  have := t.below_lt c
  simp only [FloatFmt.maxCode, spec, Nat.pow_add]
  omega

/-- Every code with an exponent field below all ones is finite. -/
theorem FloatFmt.le_maxCode (h : t.below c / 2 ^ t.f < 2 ^ t.e - 1) : t.below c ≤ t.maxCode := by
  match spec : t.spec with
  | .infNan => exact not_not.1 (fun no => h.ne ((FloatFmt.top_infNan sound c spec).2 no))
  | .nanOnly => exact not_not.1 (fun no => h.ne ((FloatFmt.top_nanOnly sound c spec).2 no).1)
  | .noSpec => exact t.le_maxCode_noSpec spec c

/-- The value of every code: up to the largest finite code the number that its fields spell, beyond it an infinity or NaN. -/
theorem FloatFmt.value_eq : t.value c = if t.below c ≤ t.maxCode then .fin (t.number (c.testBit (t.e + t.f)) (t.below c))
    else if t.spec = .infNan ∧ t.below c % 2 ^ t.f = 0 then .inf (c.testBit (t.e + t.f)) else .nan := by
  have finite : (if t.below c / 2 ^ t.f = 0 then XVal.fin ⟨c.testBit (t.e + t.f), t.below c % 2 ^ t.f, 1 - (t.bias : Int) - t.f⟩
      else .fin ⟨c.testBit (t.e + t.f), t.below c % 2 ^ t.f + 2 ^ t.f, ((t.below c / 2 ^ t.f : Nat) : Int) - t.bias - t.f⟩) =
      .fin (t.number (c.testBit (t.e + t.f)) (t.below c)) := by
    unfold FloatFmt.number FloatFmt.unit
    split <;> rfl
  simp only [FloatFmt.value, t.exp_field, t.frac_field, finite]
  match spec : t.spec with
  | .infNan => simp only [FloatFmt.top_infNan sound c spec, and_true, true_and, ite_not]; simp
  | .nanOnly => simp only [FloatFmt.top_nanOnly sound c spec, true_and, ite_not]; simp
  | .noSpec => simp [t.le_maxCode_noSpec spec c]

theorem FloatFmt.value_eq_fin_iff (d : Dy) : t.value c = .fin d ↔
    t.below c ≤ t.maxCode ∧ d = t.number (c.testBit (t.e + t.f)) (t.below c) := by
  rw [FloatFmt.value_eq sound]
  split
  · simp [*, eq_comm]
  · split <;> simp [*]

/-! ### The largest finite value -/

theorem FloatFmt.maxCode_lt : t.maxCode < 2 ^ (t.e + t.f) := by
  have two : 2 ≤ 2 ^ t.e := Nat.le_self_pow (Nat.one_le_iff_ne_zero.1 sound.exp) 2
  have width := Nat.two_pow_pos t.f
  rw [Nat.pow_add]
  have all : (2 ^ t.e - 2) * 2 ^ t.f + 2 * 2 ^ t.f = 2 ^ t.e * 2 ^ t.f := by rw [← Nat.add_mul, Nat.sub_add_cancel two]
  simp only [FloatFmt.maxCode, Nat.pow_add]
  split <;> omega

theorem FloatFmt.maxVal_eq : t.maxVal = t.number false t.maxCode := by
  have lt := FloatFmt.maxCode_lt sound
  have value : t.value t.maxCode = .fin (t.number false t.maxCode) := by
    rw [FloatFmt.value_eq_fin_iff sound, FloatFmt.below, Nat.mod_eq_of_lt lt, Nat.testBit_lt_two_pow lt]
    exact ⟨Nat.le_refl _, rfl⟩
  rw [FloatFmt.maxVal, value]

/-- No code has a finite value beyond the largest one. -/
theorem FloatFmt.number_le_maxVal {neg : Bool} {k : Nat} (h : k ≤ t.maxCode) : (t.number neg k).mag ≤ t.maxVal.mag := by
  rw [FloatFmt.maxVal_eq sound, t.mag_number, t.mag_number]
  exact mul_le_mul_of_nonneg_right (by exact_mod_cast t.scaled_strictMono.monotone h) (by positivity)

end

end Sys2Proof.Machine
end

section
/-! SUPPORT. Conversion of a value that the format holds (spec/02_number_formats.md R33, R35, R39 to R44): a number of a format is a multiple
of the unit at which it is rounded, so rounding leaves it and encoding gives its fields back. -/

namespace Sys2Proof.Machine

/-! ### Numbers of a format (R33, R39, R40) -/

section
variable (t : FloatFmt) (neg : Bool) {k : Nat}

theorem FloatFmt.number_subnormal (sub : k / 2 ^ t.f = 0) : t.number neg k = ⟨neg, k, t.unit⟩ := by
  rw [FloatFmt.number, if_pos sub, Nat.mod_eq_of_lt ((Nat.div_eq_zero_iff_lt (Nat.two_pow_pos _)).1 sub)]

theorem FloatFmt.number_normal (normal : k / 2 ^ t.f ≠ 0) :
    t.number neg k = ⟨neg, k % 2 ^ t.f + 2 ^ t.f, ((k / 2 ^ t.f : Nat) : Int) - t.bias - t.f⟩ := if_neg normal

theorem FloatFmt.lg_subnormal (sub : k / 2 ^ t.f = 0) (some' : k ≠ 0) : (t.number neg k).lg < 1 - (t.bias : Int) := by
  have lt : Nat.log2 k < t.f := (Nat.log2_lt some').2 ((Nat.div_eq_zero_iff_lt (Nat.two_pow_pos _)).1 sub)
  rw [t.number_subnormal neg sub]
  simp only [Dy.lg, FloatFmt.unit]
  omega

theorem FloatFmt.lg_normal (normal : k / 2 ^ t.f ≠ 0) : (t.number neg k).lg = ((k / 2 ^ t.f : Nat) : Int) - t.bias := by
  have lt := Nat.mod_lt k (Nat.two_pow_pos t.f)
  have log : Nat.log2 (k % 2 ^ t.f + 2 ^ t.f) = t.f := by
    rw [Nat.log2_eq_iff (by omega), Nat.pow_succ]
    omega
  rw [t.number_normal neg normal]
  simp only [Dy.lg, log]
  ring

theorem FloatFmt.number_m_eq_zero : (t.number neg k).m = 0 ↔ k = 0 := by
  by_cases sub : k / 2 ^ t.f = 0
  · rw [t.number_subnormal neg sub]
  · have := Nat.two_pow_pos t.f
    rw [t.number_normal neg sub]
    simp only
    constructor
    · omega
    · rintro rfl
      exact absurd (Nat.zero_div _) sub

/-- A number of the format is a multiple of the unit at which its magnitude is rounded. -/
theorem FloatFmt.quantum_number (some' : k ≠ 0) : t.quantum (t.number neg k).lg = (t.number neg k).e := by
  by_cases sub : k / 2 ^ t.f = 0
  · rw [FloatFmt.quantum, max_eq_right (t.lg_subnormal neg sub some').le, t.number_subnormal neg sub, FloatFmt.unit]
  · have positive : 0 < k / 2 ^ t.f := Nat.pos_of_ne_zero sub
    rw [FloatFmt.quantum, t.lg_normal neg sub, t.number_normal neg sub]
    generalize k / 2 ^ t.f = q at positive
    rw [max_eq_left (by omega)]

/-- Rounding leaves a number of the format as it is, in every mode. -/
theorem FloatFmt.round_number (mode r : Nat) : t.round mode r (t.number neg k) = t.number neg k := by
  by_cases zero : k = 0
  · rw [FloatFmt.round, if_pos ((t.number_m_eq_zero neg).2 zero)]
  · rw [FloatFmt.round, if_neg (mt (t.number_m_eq_zero neg).1 zero)]
    simp only [t.quantum_number neg zero, roundMag, le_refl, if_true, Int.sub_self, Int.toNat_zero, Nat.pow_zero, Nat.mul_one]

/-- A number of the format is encoded as its own fields. -/
theorem FloatFmt.encode_number : t.encode (t.number neg k) = k + t.sign neg := by
  by_cases zero : k = 0
  · rw [FloatFmt.encode, if_pos ((t.number_m_eq_zero neg).2 zero), t.number_neg, zero, Nat.zero_add]
  rw [FloatFmt.encode, if_neg (mt (t.number_m_eq_zero neg).1 zero)]
  simp only [t.quantum_number neg zero, le_refl, if_true, Int.sub_self, Int.toNat_zero, Nat.pow_zero, Nat.mul_one, t.number_neg]
  congr 1
  by_cases sub : k / 2 ^ t.f = 0
  · rw [if_pos (t.lg_subnormal neg sub zero), if_pos rfl, t.number_subnormal neg sub]
  · have positive : (1 : Int) ≤ (k / 2 ^ t.f : Nat) := by exact_mod_cast Nat.pos_of_ne_zero sub
    have least : ¬ ((k / 2 ^ t.f : Nat) : Int) - t.bias < 1 - t.bias := not_lt.2 (sub_le_sub_right positive _)
    have parts := Nat.div_add_mod' k (2 ^ t.f)
    simp only [t.lg_normal neg sub, if_neg least, Int.sub_add_cancel, Int.toNat_natCast, if_neg sub]
    simp only [t.number_normal neg sub]
    omega

end

section
variable {t : FloatFmt} (sound : t.Sound)
include sound

/-- A finite value of a format goes back to its own code in that format, without an overflow, in every mode. -/
theorem FloatFmt.pack_value {c : Nat} {d : Dy} (width : c < 2 ^ (1 + t.e + t.f)) (value : t.value c = .fin d) (mode r : Nat) :
    t.round mode r d = d ∧ t.maxVal.ltMag d = false ∧ t.encode d = c := by
  obtain ⟨low, rfl⟩ := (FloatFmt.value_eq_fin_iff sound c d).1 value
  refine ⟨t.round_number _ mode r, (Dy.ltMag_false_iff _ _).2 (FloatFmt.number_le_maxVal sound low), ?_⟩
  rw [t.encode_number, FloatFmt.sign, FloatFmt.below, Nat.testBit_eq_decide_div_mod_eq]
  have parts := Nat.div_add_mod' c (2 ^ (t.e + t.f))
  have sign : c / 2 ^ (t.e + t.f) < 2 :=
    Nat.div_lt_of_lt_mul (by rwa [← Nat.pow_succ, Nat.succ_eq_add_one, Nat.add_comm (t.e + t.f), ← Nat.add_assoc])
  generalize c / 2 ^ (t.e + t.f) = S at parts sign
  interval_cases S <;> simp <;> omega

/-- A finite value of a floating format converts into that format as its own code, with no report. -/
theorem toFloat_value {c : Nat} {d : Dy} (width : c < 2 ^ (1 + t.e + t.f)) (value : t.value c = .fin d) (fmt mode r : Nat) :
    toFloat fmt t mode r (.fin d) = { code := c } := by
  obtain ⟨round, range, code⟩ := FloatFmt.pack_value sound width value mode r
  simp [toFloat, FloatFmt.pack, round, range, code]

end

/-! ### The rows of the table of floating formats (R22) -/

theorem floatFmt_sound {fmt : Nat} {t : FloatFmt} (h : floatFmt fmt = some t) : t.Sound ∧ fmtWidth fmt = 1 + t.e + t.f := by
  unfold floatFmt at h
  split at h <;> cases h <;> exact ⟨⟨by decide, by decide⟩, by decide⟩

theorem valueOf_floatFmt {fmt : Nat} {t : FloatFmt} (h : floatFmt fmt = some t) (c : Nat) (s : Int) : valueOf fmt c s = t.value c := by
  simp only [valueOf, h]

theorem convert_floatFmt {fmt : Nat} {t : FloatFmt} (h : floatFmt fmt = some t) (mode r : Nat) (d : Dy) :
    convert fmt mode r 0 (.fin d) = toFloat fmt t mode r (.fin d) := by
  simp [convert, h, Dy.shift]

/-! ### Integers (R28 to R30) -/

/-- The code of a two's complement integer spells it again. -/
theorem unsigned_signed {w c : Nat} (h : c < 2 ^ w) : unsigned w (signed w c) = c := by
  rw [signed_toInt, unsigned_toNat, BitVec.ofInt_toInt, BitVec.toNat_ofNat, Nat.mod_eq_of_lt h]

theorem signed_range (w c : Nat) : -(2 : Int) ^ (w - 1) ≤ signed w c ∧ signed w c ≤ 2 ^ (w - 1) - 1 := by
  rw [signed_toInt]
  have low := BitVec.le_toInt (BitVec.ofNat w c)
  have high := BitVec.toInt_lt (x := BitVec.ofNat w c)
  exact ⟨low, by omega⟩

/-- An integer is its own rounding, and its sign and magnitude give it back. -/
theorem roundMag_ofInt (mode r : Nat) (n q : Int) : roundMag mode r (Dy.ofInt n q).m (Dy.ofInt n q).e false q = n.natAbs := by
  simp [roundMag, Dy.ofInt]

theorem Dy.ofInt_signed (n q : Int) : (if (Dy.ofInt n q).neg then -(n.natAbs : Int) else n.natAbs) = n := by
  simp only [Dy.ofInt, decide_eq_true_eq]
  split <;> omega

/-- An integer converts into an integer format that holds it as its own code. -/
theorem toIntFmt_signed {w c : Nat} (h : c < 2 ^ w) (mode r : Nat) :
    toIntFmt w mode r (.fin (Dy.ofInt (signed w c) 0)) = { code := c } := by
  obtain ⟨low, high⟩ := signed_range w c
  simp only [toIntFmt, roundMag_ofInt, Dy.ofInt_signed, if_neg (not_lt.2 low), if_neg (not_lt.2 high), unsigned_signed h]

/-- A ledger integer converts into its own ledger format as its own code, at the scale it stands in. -/
theorem toLedger_signed {w c : Nat} (h : c < 2 ^ w) (b : Nat) (s : Int) :
    toLedger w b s (.fin (Dy.ofInt (signed w c) s)) = { code := c, breach := decide (2 ^ b ≤ (signed w c).natAbs) } := by
  have exact' : ledgerInt (Dy.ofInt (signed w c) s) s = signed w c := by
    have round : roundMag 0 0 (Dy.ofInt (signed w c) s).m ((Dy.ofInt (signed w c) s).e - s) false 0 = (signed w c).natAbs := by
      simp [roundMag, Dy.ofInt]
    rw [ledgerInt, round, Dy.ofInt_signed]
  simp only [toLedger, exact', unsigned_signed h]

/-- A power of two that E8M0 holds converts into its own code (R27, R43). -/
theorem toE8M0_value {c : Nat} {d : Dy} (h : c < 256) (value : valueOf 0x0B c = .fin d) : toE8M0 (.fin d) = { code := c } := by
  have small : c % 256 = c := Nat.mod_eq_of_lt h
  by_cases top : c = 255
  · subst top
    cases value
  · have eq : d = ⟨false, 1, (c : Int) - 127⟩ := by
      simpa [valueOf, floatFmt, small, top, eq_comm] using value
    subst eq
    have lg : (Dy.mk false 1 ((c : Int) - 127)).lg = (c : Int) - 127 := by simp [Dy.lg, Nat.log2_def]
    simp only [toE8M0, lg]
    rw [if_neg (by simp), if_neg (by omega), if_neg (by omega)]
    simp

/-! ### Every format -/

/-- The codes from 0x0B on are of no floating format. -/
theorem floatFmt_none {fmt : Nat} (h : floatFmt fmt = none) : 0x0B ≤ fmt := by
  by_contra low
  interval_cases fmt <;> cases h

/-- A finite value of a code with no ledger scale converts into its own format as its own code. -/
theorem convert_valueOf {fmt c : Nat} {d : Dy} (h : fmt ≤ 0x0E) (width : c < 2 ^ fmtWidth fmt) (value : valueOf fmt c = .fin d)
    (mode r : Nat) : convert fmt mode r 0 (.fin d) = { code := c } := by
  match float : floatFmt fmt with
  | some t =>
    obtain ⟨sound, bits⟩ := floatFmt_sound float
    rw [convert_floatFmt float]
    exact toFloat_value sound (bits ▸ width) (valueOf_floatFmt float c 0 ▸ value) fmt mode r
  | none =>
    have low := floatFmt_none float
    have unscaled : d.shift (-0) = d := by simp [Dy.shift]
    interval_cases fmt
    · show toE8M0 (.fin (d.shift (-0))) = _
      rw [unscaled]
      exact toE8M0_value width value
    all_goals
      cases value
      show toIntFmt _ mode r (.fin (Dy.shift _ (-0))) = _
      rw [unscaled]
      exact toIntFmt_signed width mode r

/-- Settles O60: a finite value is the number that its code's fields spell; rounding leaves such a number as it is, and encoding it gives the
fields back. -/
theorem codesSurviveConversion : Obligations.CodesSurviveConversion := by
  unfold Obligations.CodesSurviveConversion
  refine ⟨fun fmt c mode r d h width value => convert_valueOf h width value mode r, fun fmt b w c s mode r d row width value => ?_,
    fun fmt c t float width sub some' => ?_⟩
  · simp only [List.mem_cons, List.not_mem_nil, or_false, Prod.mk.injEq] at row
    rcases row with ⟨rfl, rfl, rfl⟩ | ⟨rfl, rfl, rfl⟩
    all_goals
      cases value
      exact toLedger_signed width _ s
  · obtain ⟨sound, -⟩ := floatFmt_sound float
    have two : 2 ≤ 2 ^ t.e := Nat.le_self_pow (Nat.one_le_iff_ne_zero.1 sound.exp) 2
    rw [t.exp_field] at sub
    rw [t.frac_field] at some'
    have finite := FloatFmt.le_maxCode sound c (by omega)
    refine ⟨_, (valueOf_floatFmt float c 0).trans ((FloatFmt.value_eq_fin_iff sound c _).2 ⟨finite, rfl⟩), ?_⟩
    rw [Ne, t.number_m_eq_zero]
    exact fun zero => some' (by rw [zero, Nat.zero_mod])

end Sys2Proof.Machine
end

section
/-! SUPPORT. The value of a floating code by its sign, exponent and fraction fields (spec/02_number_formats.md R23). -/

namespace Sys2Proof.Machine

/-- d as a rational number. -/
def Dy.real (d : Dy) : ℚ := (if d.neg then (-1 : ℚ) else 1) * d.m * (2 : ℚ) ^ d.e

section
variable {t : FloatFmt}

/-- The highest bit of a code is its sign. -/
theorem FloatFmt.sign_bit {c : Nat} (width : c < 2 ^ (1 + t.e + t.f)) :
    c.testBit (t.e + t.f) = (c / 2 ^ (t.e + t.f) == 1) ∧ c / 2 ^ (t.e + t.f) < 2 := by
  have sign : c / 2 ^ (t.e + t.f) < 2 :=
    Nat.div_lt_of_lt_mul (by rwa [← Nat.pow_succ, Nat.succ_eq_add_one, Nat.add_comm (t.e + t.f), ← Nat.add_assoc])
  rw [Nat.testBit_eq_decide_div_mod_eq, Nat.mod_eq_of_lt sign]
  exact ⟨rfl, sign⟩

theorem sign_eq_pow {S : Nat} (h : S < 2) : (if (S == 1) = true then (-1 : ℚ) else 1) = (-1) ^ S := by
  interval_cases S <;> simp

/-- Below the least exponent the value is (−1)^S × 2^(1−bias) × F/2^f. -/
theorem FloatFmt.real_subnormal {S k : Nat} (h : S < 2) (sub : k / 2 ^ t.f = 0) :
    (t.number (S == 1) k).real = (-1) ^ S * (2 : ℚ) ^ (1 - (t.bias : Int)) * (((k % 2 ^ t.f : Nat) : ℚ) / 2 ^ t.f) := by
  rw [FloatFmt.number, if_pos sub, Dy.real, FloatFmt.unit]
  simp only [sign_eq_pow h]
  rw [zpow_sub₀ two_ne_zero, zpow_natCast]
  ring

/-- From the least exponent on the value is (−1)^S × 2^(E−bias) × (1 + F/2^f). -/
theorem FloatFmt.real_normal {S k : Nat} (h : S < 2) (normal : k / 2 ^ t.f ≠ 0) : (t.number (S == 1) k).real =
    (-1) ^ S * (2 : ℚ) ^ (((k / 2 ^ t.f : Nat) : Int) - t.bias) * (1 + ((k % 2 ^ t.f : Nat) : ℚ) / 2 ^ t.f) := by
  rw [FloatFmt.number, if_neg normal, Dy.real]
  simp only [sign_eq_pow h]
  rw [zpow_sub₀ two_ne_zero, zpow_natCast]
  push_cast
  field_simp
  ring

/-- What a code of a floating format means by its fields S, E and F (R23), with `top` the exponent field all ones. -/
theorem FloatFmt.value_by_fields (sound : t.Sound) {c : Nat} (width : c < 2 ^ (1 + t.e + t.f)) :
    let S := c / 2 ^ (t.e + t.f)
    let E := c / 2 ^ t.f % 2 ^ t.e
    let F := c % 2 ^ t.f
    let top := 2 ^ t.e - 1
    let normal := ∃ d, t.value c = .fin d ∧ d.neg = (S == 1) ∧ d.real = (-1) ^ S * (2 : ℚ) ^ ((E : Int) - t.bias) * (1 + F / 2 ^ t.f)
    (E = 0 → ∃ d, t.value c = .fin d ∧ d.neg = (S == 1) ∧ d.real = (-1) ^ S * (2 : ℚ) ^ (1 - (t.bias : Int)) * (F / 2 ^ t.f)) ∧
    (0 < E → E < top → normal) ∧
    (E = top → (t.spec = .infNan → t.value c = (if F = 0 then .inf (S == 1) else .nan)) ∧
      (t.spec = .nanOnly → F = 2 ^ t.f - 1 → t.value c = .nan) ∧ (t.spec = .nanOnly → F ≠ 2 ^ t.f - 1 → normal) ∧
      (t.spec = .noSpec → normal)) := by
  intro S E F top normal
  obtain ⟨sign, few⟩ := FloatFmt.sign_bit width
  have two : 2 ≤ 2 ^ t.e := Nat.le_self_pow (Nat.one_le_iff_ne_zero.1 sound.exp) 2
  have exp : t.below c / 2 ^ t.f = E := (t.exp_field c).symm
  have frac : t.below c % 2 ^ t.f = F := by rw [← t.frac_field, bits, Nat.pow_zero, Nat.div_one]
  have value := FloatFmt.value_eq sound c
  rw [sign] at value
  have finite : 0 < E → t.below c ≤ t.maxCode → normal := fun positive low => by
    refine ⟨_, value.trans (if_pos low), t.number_neg _ _, ?_⟩
    rw [FloatFmt.real_normal few (by omega), exp, frac]
  refine ⟨fun zero => ?_, fun positive lt => finite positive (FloatFmt.le_maxCode sound c (exp ▸ lt)), fun full => ?_⟩
  · refine ⟨_, value.trans (if_pos (FloatFmt.le_maxCode sound c (by omega))), t.number_neg _ _, ?_⟩
    rw [FloatFmt.real_subnormal few (by omega), frac]
  · refine ⟨fun spec => ?_, fun spec ones => ?_, fun spec some' => ?_, fun spec => ?_⟩
    · rw [value, if_neg ((FloatFmt.top_infNan sound c spec).1 (exp.trans full)), frac]
      simp only [spec, true_and]
      rfl
    · rw [value, if_neg ((FloatFmt.top_nanOnly sound c spec).1 ⟨exp.trans full, frac.trans ones⟩), if_neg (by simp [spec])]
    · exact finite (by omega) (not_not.1 (fun no => some' (frac ▸ ((FloatFmt.top_nanOnly sound c spec).2 no).2)))
    · exact finite (by omega) (t.le_maxCode_noSpec spec c)

end

/-- The rows of the table of floating formats, with the formats that have infinities and E4M3 told apart. -/
theorem floatFmt_row {fmt e f bias : Nat} (row : (fmt, e, f, bias) ∈ [(0x00, 11, 52, 1023), (0x01, 8, 23, 127), (0x02, 5, 10, 15),
    (0x03, 8, 7, 127), (0x04, 9, 6, 255), (0x05, 8, 39, 127), (0x06, 5, 2, 15), (0x07, 4, 3, 7), (0x08, 3, 2, 3), (0x09, 2, 3, 1),
    (0x0A, 2, 1, 1)]) : ∃ spec, floatFmt fmt = some ⟨e, f, bias, spec⟩ ∧ (fmt ≤ 0x06 → spec = .infNan) ∧
      (fmt = 0x07 → spec = .nanOnly ∧ 2 ^ f - 1 = 7) ∧ (0x08 ≤ fmt → spec = .noSpec) := by
  simp only [List.mem_cons, List.not_mem_nil, or_false, Prod.mk.injEq] at row
  rcases row with ⟨rfl, rfl, rfl, rfl⟩ | ⟨rfl, rfl, rfl, rfl⟩ | ⟨rfl, rfl, rfl, rfl⟩ | ⟨rfl, rfl, rfl, rfl⟩ | ⟨rfl, rfl, rfl, rfl⟩ |
    ⟨rfl, rfl, rfl, rfl⟩ | ⟨rfl, rfl, rfl, rfl⟩ | ⟨rfl, rfl, rfl, rfl⟩ | ⟨rfl, rfl, rfl, rfl⟩ | ⟨rfl, rfl, rfl, rfl⟩ | ⟨rfl, rfl, rfl, rfl⟩
  all_goals exact ⟨_, rfl, by decide, by decide, by decide⟩

/-- Settles O59: the two forms of R23 are the two kinds of numbers, and the codes beyond the largest finite one are those R23 excepts. -/
theorem floatingCodesHaveTheirValues : Obligations.FloatingCodesHaveTheirValues := by
  unfold Obligations.FloatingCodesHaveTheirValues
  intro fmt e f bias c row width
  obtain ⟨spec, float, infNan, nanOnly, noSpec⟩ := floatFmt_row row
  obtain ⟨sub, normal, top⟩ := FloatFmt.value_by_fields (floatFmt_sound float).1 width
  rw [valueOf_floatFmt float c 0]
  refine ⟨sub, normal, fun full => ?_⟩
  obtain ⟨special, nan, e4m3, finite⟩ := top full
  exact ⟨fun h => special (infNan h), fun h ones => nan (nanOnly h).1 (ones.trans (nanOnly h).2.symm),
    fun h some' => e4m3 (nanOnly h).1 (fun ones => some' (ones.trans (nanOnly h).2)), fun h => finite (noSpec h)⟩

end Sys2Proof.Machine
end

section
/-! SUPPORT. Infinities, NaNs and largest values of the formats (spec/02_number_formats.md R24 to R26), and the integers (R28). -/

namespace Sys2Proof.Machine

/-- The magnitude of a value; an infinity and a NaN count as nothing. -/
def XVal.size : XVal → ℚ
  | .fin d => d.mag
  | _ => 0

section
variable {t : FloatFmt} (sound : t.Sound)
include sound

/-- A value below the largest magnitude: every finite code but the largest one and its negative. -/
theorem FloatFmt.mag_lt_maxVal {c : Nat} {d : Dy} (value : t.value c = .fin d) (other : t.below c ≠ t.maxCode) : d.mag < t.maxVal.mag := by
  obtain ⟨low, rfl⟩ := (FloatFmt.value_eq_fin_iff sound c d).1 value
  rw [FloatFmt.maxVal_eq sound]
  exact t.mag_number_lt (lt_of_le_of_ne low other)

theorem FloatFmt.value_maxCode (neg : Bool) : t.value (t.maxCode + t.sign neg) = .fin { t.maxVal with neg := neg } := by
  have lt := FloatFmt.maxCode_lt sound
  rw [FloatFmt.value_eq_fin_iff sound, FloatFmt.maxVal_eq sound, t.number_sign, FloatFmt.below, FloatFmt.sign]
  cases neg
  · simp [Nat.mod_eq_of_lt lt, Nat.testBit_lt_two_pow lt]
  · simp [Nat.mod_eq_of_lt lt, Nat.testBit_two_pow_add_eq, Nat.add_comm t.maxCode, Nat.testBit_lt_two_pow lt]

omit sound in
/-- Two codes have the same fields below the sign. -/
theorem FloatFmt.below_ne {c m : Nat} (width : c < 2 ^ (1 + t.e + t.f)) (plus : c ≠ m) (minus : c ≠ m + 2 ^ (t.e + t.f)) : t.below c ≠ m := by
  have parts := Nat.div_add_mod' c (2 ^ (t.e + t.f))
  have few := (FloatFmt.sign_bit width).2
  rw [FloatFmt.below]
  generalize c / 2 ^ (t.e + t.f) = S at parts few
  interval_cases S <;> omega

end

/-- A row of the table of R24: a format with infinities, its width, and the codes of +Inf, of the canonical NaN and of the largest value. -/
structure InfRow (fmt w inf nan big : Nat) (t : FloatFmt) : Prop where
  float : floatFmt fmt = some t
  spec : t.spec = .infNan
  width : w = t.e + t.f + 1
  infinity : inf = (2 ^ t.e - 1) * 2 ^ t.f
  nan : nan = t.nanCode
  big : big = t.maxCode

theorem infRow_of_mem {fmt w inf nan big : Nat} (row : (fmt, w, inf, nan, big) ∈ [(0x00, 64, 0x7FF0000000000000, 0x7FF8000000000000,
    0x7FEFFFFFFFFFFFFF), (0x01, 32, 0x7F800000, 0x7FC00000, 0x7F7FFFFF), (0x02, 16, 0x7C00, 0x7E00, 0x7BFF),
    (0x03, 16, 0x7F80, 0x7FC0, 0x7F7F), (0x04, 16, 0x7FC0, 0x7FE0, 0x7FBF),
    (0x05, 48, 0x7F8000000000, 0x7FC000000000, 0x7F7FFFFFFFFF), (0x06, 8, 0x7C, 0x7E, 0x7B)]) : ∃ t, InfRow fmt w inf nan big t := by
  simp only [List.mem_cons, List.not_mem_nil, or_false, Prod.mk.injEq] at row
  rcases row with ⟨rfl, rfl, rfl, rfl, rfl⟩ | ⟨rfl, rfl, rfl, rfl, rfl⟩ | ⟨rfl, rfl, rfl, rfl, rfl⟩ | ⟨rfl, rfl, rfl, rfl, rfl⟩ |
    ⟨rfl, rfl, rfl, rfl, rfl⟩ | ⟨rfl, rfl, rfl, rfl, rfl⟩ | ⟨rfl, rfl, rfl, rfl, rfl⟩
  all_goals exact ⟨_, rfl, rfl, rfl, rfl, rfl, rfl⟩

section
variable {fmt w inf nan big : Nat} {t : FloatFmt} (row : InfRow fmt w inf nan big t)
include row

theorem InfRow.sound : t.Sound := (floatFmt_sound row.float).1

/-- A code with the exponent field all ones is an infinity or a NaN by its fraction. -/
theorem InfRow.value_top {F : Nat} (h : F < 2 ^ t.f) (neg : Bool) : valueOf fmt (inf + F + t.sign neg) = if F = 0 then .inf neg else .nan := by
  have two : 2 ≤ 2 ^ t.e := Nat.le_self_pow (Nat.one_le_iff_ne_zero.1 row.sound.exp) 2
  have width := Nat.two_pow_pos t.f
  have lt : inf + F < 2 ^ (t.e + t.f) := by
    have all : (2 ^ t.e - 1) * 2 ^ t.f + 2 ^ t.f = 2 ^ (t.e + t.f) := by
      rw [← Nat.succ_mul, Nat.succ_eq_add_one, Nat.sub_add_cancel (by omega), Nat.pow_add]
    rw [row.infinity]
    omega
  have fields : t.below (inf + F + t.sign neg) = inf + F ∧ (inf + F + t.sign neg).testBit (t.e + t.f) = neg := by
    rw [FloatFmt.below, FloatFmt.sign]
    cases neg
    · simp [Nat.mod_eq_of_lt lt, Nat.testBit_lt_two_pow lt]
    · simp [Nat.mod_eq_of_lt lt, Nat.testBit_two_pow_add_eq, Nat.add_comm (inf + F), Nat.testBit_lt_two_pow lt]
  have top : t.below (inf + F + t.sign neg) / 2 ^ t.f = 2 ^ t.e - 1 := by
    rw [fields.1, row.infinity, Nat.mul_comm, Nat.mul_add_div width, Nat.div_eq_of_lt h, Nat.add_zero]
  rw [valueOf_floatFmt row.float, FloatFmt.value_eq row.sound, if_neg ((FloatFmt.top_infNan row.sound _ row.spec).1 top), fields.1, fields.2,
    row.infinity, Nat.mul_comm, Nat.mul_add_mod, Nat.mod_eq_of_lt h]
  simp only [row.spec, true_and]

theorem InfRow.sign_true : t.sign true = 2 ^ (w - 1) := by simp [FloatFmt.sign, row.width]

/-- The codes of infinity and NaN of a format with infinities, and its largest value (R24). -/
theorem InfRow.codes : valueOf fmt inf = .inf false ∧ valueOf fmt (inf + 2 ^ (w - 1)) = .inf true ∧ valueOf fmt nan = .nan ∧
    (∀ mode r s, (convert fmt mode r s .nan).code = nan) ∧
    (∃ d, valueOf fmt big = .fin d ∧ d.neg = false ∧ valueOf fmt (big + 2 ^ (w - 1)) = .fin { d with neg := true }) ∧
    (∀ c d, c < 2 ^ w → valueOf fmt c = .fin d → c ≠ big → c ≠ big + 2 ^ (w - 1) → XVal.size (.fin d) < XVal.size (valueOf fmt big)) := by
  have half : nan = inf + 2 ^ (t.f - 1) := by rw [row.nan, row.infinity, FloatFmt.nanCode]; simp only [row.spec]
  have largest : valueOf fmt big = .fin t.maxVal := by
    rw [valueOf_floatFmt row.float, row.big]
    simpa [FloatFmt.sign, FloatFmt.maxVal_eq row.sound, t.number_sign] using FloatFmt.value_maxCode row.sound false
  rw [← row.sign_true, half]
  refine ⟨row.value_top (Nat.two_pow_pos _) false, row.value_top (Nat.two_pow_pos _) true, ?_, fun mode r s => ?_, ?_,
    fun c d width value plus minus => ?_⟩
  · have := row.value_top (Nat.pow_lt_pow_right one_lt_two (Nat.sub_one_lt_of_lt row.sound.frac)) false
    simpa [FloatFmt.sign] using this
  · rw [← half, row.nan]
    simp only [convert, row.float, toFloat]
  · refine ⟨_, largest, by rw [FloatFmt.maxVal_eq row.sound, t.number_neg], ?_⟩
    rw [valueOf_floatFmt row.float, row.big]
    exact FloatFmt.value_maxCode row.sound true
  · rw [largest]
    refine FloatFmt.mag_lt_maxVal row.sound ((valueOf_floatFmt row.float c 0).symm.trans value) ?_
    have width' : c < 2 ^ (1 + t.e + t.f) := by rwa [Nat.add_assoc, Nat.add_comm 1, ← row.width]
    exact FloatFmt.below_ne width' (row.big ▸ plus) (by simpa [FloatFmt.sign, row.big] using minus)

end

/-! ### The formats whose codes are all finite (R26) -/

/-- A row of the three smallest formats. -/
structure FiniteRow (fmt w e f bias : Nat) : Prop where
  float : floatFmt fmt = some ⟨e, f, bias, .noSpec⟩
  width : w = e + f + 1

theorem finiteRow_of_mem {fmt w e f bias : Nat} (row : (fmt, w, e, f, bias) ∈ [(0x08, 6, 3, 2, 3), (0x09, 6, 2, 3, 1), (0x0A, 4, 2, 1, 1)]) :
    FiniteRow fmt w e f bias := by
  simp only [List.mem_cons, List.not_mem_nil, or_false, Prod.mk.injEq] at row
  rcases row with ⟨rfl, rfl, rfl, rfl, rfl⟩ | ⟨rfl, rfl, rfl, rfl, rfl⟩ | ⟨rfl, rfl, rfl, rfl, rfl⟩
  all_goals exact ⟨rfl, rfl⟩

section
variable {fmt w e f bias : Nat} (row : FiniteRow fmt w e f bias)
include row

theorem FiniteRow.value (c : Nat) : valueOf fmt c =
    .fin (FloatFmt.number ⟨e, f, bias, .noSpec⟩ (c.testBit (w - 1)) (FloatFmt.below ⟨e, f, bias, .noSpec⟩ c)) := by
  rw [valueOf_floatFmt row.float, FloatFmt.value_eq (floatFmt_sound row.float).1, if_pos (FloatFmt.le_maxCode_noSpec _ rfl c), row.width,
    Nat.add_sub_cancel]

theorem FiniteRow.units (c : Nat) : ∃ d, valueOf fmt c = .fin d ∧ d.neg = c.testBit (w - 1) ∧ d.units (1 - (bias : Int) - f) =
    (if c.testBit (w - 1) then -1 else 1) * (if bits c f e = 0 then (bits c 0 f : Int) else (bits c 0 f + 2 ^ f) * 2 ^ (bits c f e - 1)) := by
  refine ⟨_, row.value c, FloatFmt.number_neg .., (FloatFmt.units_number ..).trans ?_⟩
  rw [FloatFmt.exp_field ⟨e, f, bias, .noSpec⟩, FloatFmt.frac_field ⟨e, f, bias, .noSpec⟩, FloatFmt.scaled]
  split <;> push_cast <;> rfl

/-- Every other code is below the largest one. -/
theorem FiniteRow.size_lt {c : Nat} (width : c < 2 ^ w) (plus : c ≠ 2 ^ (w - 1) - 1) (minus : c ≠ 2 ^ (w - 1) - 1 + 2 ^ (w - 1)) :
    (valueOf fmt c).size < (valueOf fmt (2 ^ (w - 1) - 1)).size := by
  have half : w - 1 = e + f := by rw [row.width, Nat.add_sub_cancel]
  have last : FloatFmt.below ⟨e, f, bias, .noSpec⟩ (2 ^ (w - 1) - 1) = 2 ^ (w - 1) - 1 := by
    rw [FloatFmt.below, half]
    exact Nat.mod_eq_of_lt (Nat.sub_one_lt (Nat.two_pow_pos _).ne')
  rw [half] at plus minus
  have low : c % 2 ^ (e + f) ≠ 2 ^ (e + f) - 1 := FloatFmt.below_ne (t := ⟨e, f, bias, .noSpec⟩)
    (by simpa [row.width, Nat.add_comm 1, Nat.add_right_comm] using width) plus minus
  have below := Nat.mod_lt c (Nat.two_pow_pos (e + f))
  have less : c % 2 ^ (e + f) < 2 ^ (e + f) - 1 := by omega
  rw [row.value c, row.value (2 ^ (w - 1) - 1), last, half]
  exact FloatFmt.mag_number_lt _ less

end

/-! ### E4M3 and the integers (R25, R28) -/

/-- E4M3 has no infinity. -/
theorem e4m3_no_infinity (c : Nat) (neg : Bool) : valueOf 7 c ≠ .inf neg := by
  have row : floatFmt 7 = some ⟨4, 3, 7, .nanOnly⟩ := rfl
  rw [valueOf_floatFmt row, FloatFmt.value_eq (floatFmt_sound row).1]
  simp only [reduceCtorEq, false_and, if_false]
  split <;> simp

theorem e4m3_nan {c : Nat} (width : c < 256) : valueOf 7 c = .nan ↔ c = 0x7F ∨ c = 0xFF := by
  have row : floatFmt 7 = some ⟨4, 3, 7, .nanOnly⟩ := rfl
  have beyond : ¬ c % 128 ≤ 126 ↔ c = 0x7F ∨ c = 0xFF := by omega
  rw [← beyond, valueOf_floatFmt row, FloatFmt.value_eq (floatFmt_sound row).1]
  show (if c % 128 ≤ 126 then _ else if _ then _ else _) = _ ↔ _
  split <;> simp [*]

theorem e4m3_largest {c : Nat} {d : Dy} (width : c < 256) (value : valueOf 7 c = .fin d) :
    d.ltMag ⟨false, 14, 5⟩ = true ∨ c = 0x7E ∨ c = 0xFE := by
  have row : floatFmt 7 = some ⟨4, 3, 7, .nanOnly⟩ := rfl
  by_contra no
  obtain ⟨notLess, plus, minus⟩ : ¬ d.ltMag ⟨false, 14, 5⟩ = true ∧ ¬ c = 0x7E ∧ ¬ c = 0xFE := by simpa [not_or] using no
  exact notLess ((Dy.ltMag_iff _ _).2 (FloatFmt.mag_lt_maxVal (floatFmt_sound row).1 value
    (FloatFmt.below_ne (t := ⟨4, 3, 7, .nanOnly⟩) width plus minus)))

theorem signed_of_lt {w c : Nat} (h : c < 2 ^ w) : signed w c = if c < 2 ^ (w - 1) then (c : Int) else (c : Int) - 2 ^ w := by
  rw [signed, Nat.mod_eq_of_lt h]
  push_cast
  rfl

/-- An integer format holds every two's complement number of its width. -/
theorem intFmt_codes {f w c : Nat} (row : (f, w) ∈ [(0x0C, 8), (0x0D, 4), (0x0E, 32)]) (h : c < 2 ^ w) : ∃ d, valueOf f c = .fin d ∧
    d.units 0 = (if c < 2 ^ (w - 1) then (c : Int) else (c : Int) - 2 ^ w) ∧ ∀ mode r, convert f mode r 0 (valueOf f c) = { code := c } := by
  have value : valueOf f c = .fin (Dy.ofInt (signed w c) 0) ∧ f ≤ 0x0E ∧ fmtWidth f = w := by
    simp only [List.mem_cons, List.not_mem_nil, or_false, Prod.mk.injEq] at row
    rcases row with ⟨rfl, rfl⟩ | ⟨rfl, rfl⟩ | ⟨rfl, rfl⟩
    all_goals exact ⟨rfl, by decide, rfl⟩
  obtain ⟨value, low, width⟩ := value
  refine ⟨_, value, ?_, fun mode r => value ▸ convert_valueOf low (width ▸ h) value mode r⟩
  rw [← signed_of_lt h]
  simpa [Dy.units, Dy.ofInt] using Dy.ofInt_signed (signed w c) 0

theorem size_largest_finite {fmt w big : Nat} {v : ℚ} (row : (fmt, w, big, v) ∈ [(0x08, 6, 0x1F, 28), (0x09, 6, 0x1F, 15 / 2), (0x0A, 4, 0x7, 6)]) :
    (∃ e f bias, FiniteRow fmt w e f bias) ∧ big = 2 ^ (w - 1) - 1 ∧ (valueOf fmt big).size = v ∧ (valueOf fmt (big + 2 ^ (w - 1))).size = v := by
  simp only [List.mem_cons, List.not_mem_nil, or_false, Prod.mk.injEq] at row
  rcases row with ⟨rfl, rfl, rfl, rfl⟩ | ⟨rfl, rfl, rfl, rfl⟩ | ⟨rfl, rfl, rfl, rfl⟩
  · refine ⟨⟨3, 2, 3, rfl, rfl⟩, rfl, ?_, ?_⟩
    · show Dy.mag ⟨false, 7, 2⟩ = 28; norm_num [Dy.mag]
    · show Dy.mag ⟨true, 7, 2⟩ = 28; norm_num [Dy.mag]
  · refine ⟨⟨2, 3, 1, rfl, rfl⟩, rfl, ?_, ?_⟩
    · show Dy.mag ⟨false, 15, -1⟩ = 15 / 2; norm_num [Dy.mag]
    · show Dy.mag ⟨true, 15, -1⟩ = 15 / 2; norm_num [Dy.mag]
  · refine ⟨⟨2, 1, 1, rfl, rfl⟩, rfl, ?_, ?_⟩
    · show Dy.mag ⟨false, 3, 1⟩ = 6; norm_num [Dy.mag]
    · show Dy.mag ⟨true, 3, 1⟩ = 6; norm_num [Dy.mag]

/-- The eight non-negative values of E2M1 (R26). -/
theorem e2m1_sizes : (List.range 8).map (fun c => (valueOf 0x0A c).size) = [0, 1 / 2, 1, 3 / 2, 2, 3, 4, 6] := by
  show [Dy.mag ⟨false, 0, -1⟩, Dy.mag ⟨false, 1, -1⟩, Dy.mag ⟨false, 2, -1⟩, Dy.mag ⟨false, 3, -1⟩, Dy.mag ⟨false, 2, 0⟩, Dy.mag ⟨false, 3, 0⟩,
    Dy.mag ⟨false, 2, 1⟩, Dy.mag ⟨false, 3, 1⟩] = _
  norm_num [Dy.mag]

/-- Settles O58: the codes of each format beyond its largest finite one are its infinities and NaNs, and magnitudes rise with the code. -/
theorem codesOfTheFormats : Obligations.CodesOfTheFormats := by
  unfold Obligations.CodesOfTheFormats
  refine ⟨⟨e4m3_no_infinity, fun c => e4m3_nan, fun _ _ _ => rfl, ⟨_, _, rfl, rfl, rfl, rfl, fun c d => e4m3_largest⟩, fun f w c => intFmt_codes⟩, ?_⟩
  intro size
  have same : size = XVal.size := funext (fun v => by cases v <;> rfl)
  rw [same]
  refine ⟨fun fmt w inf nan big row => ?_, by decide, fun fmt w e f bias c row _ => (finiteRow_of_mem row).units c,
    fun fmt w big v row => ?_, e2m1_sizes⟩
  · obtain ⟨t, row⟩ := infRow_of_mem row
    exact row.codes
  · obtain ⟨⟨e, f, bias, finite⟩, rfl, plus, minus⟩ := size_largest_finite row
    exact ⟨plus, minus, fun c width other other' => plus ▸ finite.size_lt width other other'⟩

end Sys2Proof.Machine
end

section
/-! SUPPORT. The scale of the next step (spec/02_number_formats.md R52): the exponent that covers a maximum with the headroom, and the history
of an entry at a mark. -/

namespace Sys2Proof.Machine

/-! ### The exponent that covers a maximum -/

/-- The least k with |a| ≤ |m| · 2^k. -/
def Dy.coverExp (a m : Dy) : Int := if (m.shift (a.lg - m.lg)).ltMag a then a.lg - m.lg + 1 else a.lg - m.lg

theorem chooseScale_eq (a m : Dy) (h : Nat) : chooseScale a m h = max (-32768) (min 32767 (a.coverExp m + h)) := rfl

theorem Dy.coverExp_le_iff {a m : Dy} (ha : 0 < a.m) (hm : 0 < m.m) (k : Int) : a.coverExp m ≤ k ↔ a.mag ≤ m.mag * (2 : ℚ) ^ k := by
  obtain ⟨a1, a2⟩ := Dy.mag_lg ha.ne'
  obtain ⟨m1, m2⟩ := Dy.mag_lg hm.ne'
  have scaled : ∀ j : Int, (2 : ℚ) ^ (m.lg + j) ≤ m.mag * 2 ^ j ∧ m.mag * (2 : ℚ) ^ j < 2 ^ (m.lg + 1 + j) := fun j => by
    rw [zpow_add₀ two_ne_zero, zpow_add₀ two_ne_zero (m.lg + 1)]
    exact ⟨mul_le_mul_of_nonneg_right m1 (by positivity), mul_lt_mul_of_pos_right m2 (by positivity)⟩
  have mono : ∀ {i j : Int}, i ≤ j → m.mag * (2 : ℚ) ^ i ≤ m.mag * 2 ^ j := fun h =>
    mul_le_mul_of_nonneg_left (zpow_le_zpow_right₀ one_le_two h) (Dy.mag_pos hm.ne').le
  unfold Dy.coverExp
  by_cases less : (m.shift (a.lg - m.lg)).ltMag a = true
  · rw [if_pos less]
    rw [Dy.ltMag_iff, Dy.mag_shift] at less
    constructor
    · intro h
      have next := (scaled (a.lg - m.lg + 1)).1
      rw [show m.lg + (a.lg - m.lg + 1) = a.lg + 1 by ring] at next
      exact a2.le.trans (next.trans (mono h))
    · intro h
      by_contra below
      exact absurd (h.trans (mono (show k ≤ a.lg - m.lg by omega))) (not_le.2 less)
  · rw [if_neg less]
    rw [Dy.ltMag_iff, Dy.mag_shift, not_lt] at less
    constructor
    · exact fun h => less.trans (mono h)
    · intro h
      by_contra above
      have before := (scaled (a.lg - m.lg - 1)).2
      rw [show m.lg + 1 + (a.lg - m.lg - 1) = a.lg by ring] at before
      exact absurd (h.trans (mono (show k ≤ a.lg - m.lg - 1 by omega))) (not_le.2 (before.trans_le a1))

/-- Within 16 bits the scale is the smallest exponent that covers the maximum with the headroom. -/
theorem chooseScale_spec {a m : Dy} (h : Nat) {e : Int} (ha : 0 < a.m) (hm : 0 < m.m) (low : -32768 ≤ e) (high : e < 32767) :
    (chooseScale a m h ≤ e ↔ a.mag ≤ m.mag * (2 : ℚ) ^ (e - h)) ∧ -32768 ≤ chooseScale a m h ∧ chooseScale a m h ≤ 32767 := by
  rw [← Dy.coverExp_le_iff ha hm, chooseScale_eq]
  omega

/-! ### The largest finite value of a managed format -/

/-- `fmtMax` is the value of a code, and no code has a greater one. -/
def IsFmtMax (f : Nat) : Prop :=
  (∃ c d, c < 2 ^ fmtWidth f ∧ valueOf f c = .fin d ∧ d.neg = false ∧ d.ltMag (fmtMax f) = false) ∧
    ∀ c d, c < 2 ^ fmtWidth f → valueOf f c = .fin d → d.neg = false → (fmtMax f).ltMag d = false

theorem isFmtMax_float {f : Nat} {t : FloatFmt} (float : floatFmt f = some t) : IsFmtMax f := by
  obtain ⟨sound, width⟩ := floatFmt_sound float
  have max : fmtMax f = t.maxVal := by simp only [fmtMax, float]
  have code : t.maxCode < 2 ^ fmtWidth f := (FloatFmt.maxCode_lt sound).trans (Nat.pow_lt_pow_right one_lt_two (by omega))
  rw [IsFmtMax, max]
  refine ⟨⟨t.maxCode, t.maxVal, code, ?_, ?_, (Dy.ltMag_false_iff _ _).2 le_rfl⟩, fun c d _ value _ => ?_⟩
  · rw [valueOf_floatFmt float]
    simpa [FloatFmt.sign, FloatFmt.maxVal_eq sound, t.number_sign] using FloatFmt.value_maxCode sound false
  · rw [FloatFmt.maxVal_eq sound, t.number_neg]
  · obtain ⟨low, rfl⟩ := (FloatFmt.value_eq_fin_iff sound c d).1 (valueOf_floatFmt float c 0 ▸ value)
    exact (Dy.ltMag_false_iff _ _).2 (FloatFmt.number_le_maxVal sound low)

/-- The magnitude of an integer. -/
theorem Dy.mag_ofInt (n : Int) : (Dy.ofInt n 0).mag = n.natAbs := by simp [Dy.mag, Dy.ofInt]

theorem isFmtMax_int {f w : Nat} (value : ∀ c, valueOf f c = .fin (Dy.ofInt (signed w c) 0)) (width : fmtWidth f = w)
    (max : fmtMax f = { m := 2 ^ (w - 1) - 1 }) : IsFmtMax f := by
  have half := Nat.two_pow_pos (w - 1)
  have size : (fmtMax f).mag = ((2 ^ (w - 1) - 1 : Nat) : ℚ) := by simp [max, Dy.mag]
  have code : 2 ^ (w - 1) - 1 < 2 ^ w := lt_of_lt_of_le (Nat.sub_one_lt half.ne') (Nat.pow_le_pow_right two_pos (Nat.sub_le w 1))
  have largest : signed w (2 ^ (w - 1) - 1) = (2 ^ (w - 1) - 1 : Nat) := by
    rw [signed_of_lt code, if_pos (Nat.sub_one_lt half.ne')]
  refine ⟨⟨2 ^ (w - 1) - 1, _, width ▸ code, value _, ?_, ?_⟩, fun c d _ eq positive => ?_⟩
  · simp only [largest, Dy.ofInt, decide_eq_false_iff_not]
    omega
  · rw [Dy.ltMag_false_iff, Dy.mag_ofInt, largest, size, Int.natAbs_natCast]
  · cases (value c).symm.trans eq
    have high := (signed_range w c).2
    have cast : (2 : Int) ^ (w - 1) = ((2 ^ (w - 1) : Nat) : Int) := by push_cast; rfl
    have least : ¬ signed w c < 0 := by simpa [Dy.ofInt] using positive
    rw [cast] at high
    rw [Dy.ltMag_false_iff, Dy.mag_ofInt, size, Nat.cast_le]
    omega

/-! ### The history of an entry -/

/-- A step's report enters the history and the counts of an entry (R52). -/
def SmEntry.reported (e : SmEntry) (r : SmRep) (step : Nat) : SmEntry :=
  { e with history := BitVec.ofNat 32 r.maxAbs :: (e.history.take e.hlen ++ e.history.drop (e.hlen + 1)),
           hcount := min (e.hcount + 1) (e.hlen + 1), lastSat := r.sat, totalSat := satAdd 64 e.totalSat r.sat,
           totalNonfinite := satAdd 64 e.totalNonfinite r.nonfin,
           nfIndex := if 0 < r.nonfin then r.nfIndex else e.nfIndex, nfStep := if 0 < r.nonfin then step else e.nfStep }

/-- An entry with the scale of the next step. -/
def SmEntry.rescaled (e : SmEntry) : SmEntry :=
  if ¬ e.frozenScale ∧ 0 < e.hcount ∧ 0 < e.maxHistory.toNat then
    match f32.value e.maxHistory.toNat with
    | .fin d => { e with scale := chooseScale d (fmtMax e.fmt) e.headroom }
    | _ => e
  else e

theorem SmEntry.rescaled_eq (e : SmEntry) : e.rescaled = { e with scale := e.rescaled.scale } := by
  unfold SmEntry.rescaled
  split
  · split <;> rfl
  · rfl

/-- A mark sets the scale after the step's report, if any. -/
theorem SmEntry.mark_some (e : SmEntry) (r : SmRep) (step : Nat) : e.mark (some r) step = (e.reported r step).rescaled := rfl
theorem SmEntry.mark_none (e : SmEntry) (step : Nat) : e.mark none step = ({ e with lastSat := 0 } : SmEntry).rescaled := rfl

theorem SmEntry.rescaled_stays (e : SmEntry) (h : e.frozenScale = true ∨ e.hcount = 0) : e.rescaled = e := by
  rw [SmEntry.rescaled, if_neg]
  rintro ⟨thawed, some', -⟩
  rcases h with frozen | none'
  · exact thawed frozen
  · omega

theorem SmEntry.rescaled_scale (e : SmEntry) {d : Dy} (thawed : e.frozenScale = false) (some' : 0 < e.hcount)
    (positive : 0 < e.maxHistory.toNat) (value : f32.value e.maxHistory.toNat = .fin d) :
    e.rescaled.scale = chooseScale d (fmtMax e.fmt) e.headroom := by
  rw [SmEntry.rescaled, if_pos ⟨by simp [thawed], some', positive⟩, value]

/-- The report moves the history on by one place up to HLEN and leaves the places beyond. -/
theorem SmEntry.reported_history (e : SmEntry) (r : SmRep) (step : Nat) (small : e.hlen < 16) (full : e.history.length = 16) :
    nth 0 (e.reported r step).history 0 = BitVec.ofNat 32 r.maxAbs ∧
    (∀ i, i < e.hlen → nth 0 (e.reported r step).history (i + 1) = nth 0 e.history i) ∧
    ∀ i, e.hlen < i → i < 16 → nth 0 (e.reported r step).history i = nth 0 e.history i := by
  have taken : (e.history.take e.hlen).length = e.hlen := by rw [List.length_take]; omega
  refine ⟨rfl, fun i lt => ?_, fun i beyond lt => ?_⟩
  · simp only [nth, SmEntry.reported, List.getElem?_cons_succ]
    rw [List.getElem?_append_left (by omega), List.getElem?_take_of_lt lt]
  · obtain ⟨j, rfl⟩ : ∃ j, i = j + 1 := ⟨i - 1, by omega⟩
    simp only [nth, SmEntry.reported, List.getElem?_cons_succ]
    rw [List.getElem?_append_right (by omega), taken, List.getElem?_drop, show e.hlen + 1 + (j - e.hlen) = j + 1 by omega]

/-- A mark with a report of the step (R52). -/
theorem SmEntry.mark_some_spec (e : SmEntry) (r : SmRep) (step : Nat) (small : e.hlen < 16) (full : e.history.length = 16) :
    let y := e.mark (some r) step
    nth 0 y.history 0 = BitVec.ofNat 32 r.maxAbs ∧ (∀ i, i < e.hlen → nth 0 y.history (i + 1) = nth 0 e.history i) ∧
    (∀ i, e.hlen < i → i < 16 → nth 0 y.history i = nth 0 e.history i) ∧ y.hcount = min (e.hcount + 1) (e.hlen + 1) ∧
    y.lastSat = r.sat ∧ y.totalSat = satAdd 64 e.totalSat r.sat ∧ y.totalNonfinite = satAdd 64 e.totalNonfinite r.nonfin ∧
    (0 < r.nonfin → y.nfIndex = r.nfIndex ∧ y.nfStep = step) ∧ (r.nonfin = 0 → y.nfIndex = e.nfIndex ∧ y.nfStep = e.nfStep) ∧
    (e.frozenScale = true → y.scale = e.scale) := by
  obtain ⟨first, next, beyond⟩ := e.reported_history r step small full
  have frozen : e.frozenScale = true → (e.mark (some r) step).scale = e.scale := fun h => by
    rw [SmEntry.mark_some, (e.reported r step).rescaled_stays (.inl h)]
    rfl
  intro y
  have eq : y = { e.reported r step with scale := y.scale } := (e.reported r step).rescaled_eq
  rw [eq]
  exact ⟨first, next, beyond, rfl, rfl, rfl, rfl, fun h => ⟨if_pos h, if_pos h⟩, fun h => ⟨if_neg h.not_gt, if_neg h.not_gt⟩, frozen⟩

/-- A mark of an entry of which no task reported (R52). -/
theorem SmEntry.mark_none_spec (e : SmEntry) (step : Nat) : let y := e.mark none step
    y = { e with lastSat := 0, scale := y.scale } ∧ (e.frozenScale = true ∨ e.hcount = 0 → y.scale = e.scale) ∧
    (∀ d, e.frozenScale = false → 0 < e.hcount → 0 < e.maxHistory.toNat → f32.value e.maxHistory.toNat = .fin d →
      y.scale = chooseScale d (fmtMax e.fmt) e.headroom) := by
  refine ⟨SmEntry.rescaled_eq _, fun h => ?_, fun d thawed some' positive value => ?_⟩
  · rw [SmEntry.mark_none, SmEntry.rescaled_stays { e with lastSat := 0 } h]
  · exact SmEntry.rescaled_scale { e with lastSat := 0 } thawed some' positive value

/-! ### The greatest value of the history -/

theorem foldl_greater (l : List (BitVec 32)) : ∀ a : BitVec 32, let m := l.foldl (fun a b => if a.toNat < b.toNat then b else a) a
    a.toNat ≤ m.toNat ∧ (∀ x ∈ l, x.toNat ≤ m.toNat) ∧ (m = a ∨ m ∈ l) := by
  induction l with
  | nil => exact fun a => ⟨le_rfl, by simp, .inl rfl⟩
  | cons b l ih =>
    intro a
    obtain ⟨least, greatest, one⟩ := ih (if a.toNat < b.toNat then b else a)
    have step : a.toNat ≤ (if a.toNat < b.toNat then b else a).toNat ∧ b.toNat ≤ (if a.toNat < b.toNat then b else a).toNat := by
      split <;> omega
    refine ⟨step.1.trans least, fun x hx => ?_, ?_⟩
    · rcases List.mem_cons.1 hx with rfl | hx
      · exact step.2.trans least
      · exact greatest x hx
    · rcases one with eq | mem
      · by_cases less : a.toNat < b.toNat
        · exact .inr (List.mem_cons.2 (.inl (eq.trans (if_pos less))))
        · exact .inl (eq.trans (if_neg less))
      · exact .inr (List.mem_cons_of_mem _ mem)

/-- The maximum of an entry is the greatest of the values that count. -/
theorem SmEntry.maxHistory_spec (e : SmEntry) :
    (∀ i, i < e.hcount → i < e.history.length → (nth 0 e.history i).toNat ≤ e.maxHistory.toNat) ∧
    (e.maxHistory = 0 ∨ ∃ i, i < e.hcount ∧ i < e.history.length ∧ nth 0 e.history i = e.maxHistory) := by
  obtain ⟨-, greatest, one⟩ := foldl_greater (e.history.take e.hcount) 0
  refine ⟨fun i counted inside => greatest _ ?_, one.imp id fun mem => ?_⟩
  · rw [nth, List.getElem?_eq_getElem inside, Option.getD_some, List.mem_take_iff_getElem]
    exact ⟨i, by omega, rfl⟩
  · obtain ⟨i, lt, eq⟩ := List.mem_take_iff_getElem.1 mem
    exact ⟨i, by omega, by omega, by rw [nth, List.getElem?_eq_getElem (by omega), Option.getD_some]; exact eq⟩

end Sys2Proof.Machine
end

section
/-! SUPPORT. Step-end marks and barrier releases (spec/02_number_formats.md R51, R52, spec/05_vector_engines.md R128,
spec/08_backward_and_deposit.md R239, spec/09_ledger_reduction_update.md R250, R263, spec/11_ralda_link.md R327). -/

namespace Sys2Proof.Machine

/-! ### Programs -/

@[simp] theorem State.prog_updProg (s : State) (c : Nat) (f : Prog → Prog) : (s.updProg c f).prog c = (s.prog c).map f := by
  simp [State.updProg, State.updCx_eq, State.prog]

theorem State.prog_congr {s t : State} (h : t.ctx = s.ctx) (c : Nat) : t.prog c = s.prog c := by simp only [State.prog, State.cx, h]
theorem State.ledger_congr {s t : State} (h : t.ctx = s.ctx) (c le : Nat) : t.ledger c le = s.ledger c le := by
  simp only [State.ledger, State.prog_congr h]

theorem nth_setNth {α : Type} (d : α) {l : List α} {i : Nat} (h : i < l.length) (x : α) (j : Nat) :
    nth d (setNth l i x) j = if j = i then x else nth d l j := by
  by_cases e : j = i
  · subst e
    simp [nth, setNth, h]
  · simp [nth, setNth, e, List.getElem?_set_ne (Ne.symm e)]

/-- A ledger that is set reads back, and the others of its program stay. -/
theorem State.ledger_setLedger {s : State} {c le : Nat} {p : Prog} (admitted : s.prog c = some p) (known : le < p.ledgers.length)
    (x : LedgerRt) (le' : Nat) : (s.setLedger c le x).ledger c le' = if le' = le then x else s.ledger c le' := by
  simp only [State.ledger, State.setLedger, State.prog_updProg, admitted, Option.map_some, Option.getD_some]
  exact nth_setNth _ known x le'

/-! ### What a mark does to counters, shelves and ledgers -/

theorem Tbl.get_filter_keys {α : Type} (d : α) (f : Nat → Bool) (k : Nat) : ∀ m : Tbl α,
    Tbl.get d (m.filter (fun x => f x.1)) k = if f k then Tbl.get d m k else d
  | [] => by simp [Tbl.get]
  | c :: m => by
    have ih := Tbl.get_filter_keys d f k m
    by_cases here : c.1 = k
    · subst here
      cases kept : f c.1 <;> simp [kept, Tbl.get, ih]
    · cases kept : f c.1 <;> simp [kept, Tbl.get, here, ih]

/-- A mark clears the event counters that the context holds, and no others. -/
theorem State.clearCounters_ev (s : State) (c k : Nat) :
    Tbl.get 0 (s.clearCounters c).ev k = if Tbl.get 0 s.evOwn k = c + 1 then 0 else Tbl.get 0 s.ev k := by
  rw [State.clearCounters, Tbl.get_filter_keys 0 (fun k => Tbl.get 0 s.evOwn k != c + 1)]
  by_cases own : Tbl.get 0 s.evOwn k = c + 1 <;> simp [own]

/-- A shelf of the context is emptied; another stays. -/
def Shelf.emptiedFor (c : Nat) (x : Shelf) : Shelf :=
  if x.held && x.ctx == c then { x with top := 0, homes := [], marked := [], broken := false } else x

theorem Shelf.emptiedFor_twice (c : Nat) (x : Shelf) : (x.emptiedFor c).emptiedFor c = x.emptiedFor c := by
  by_cases own : (x.held && x.ctx == c) = true
  · simp only [Shelf.emptiedFor, own, if_true]
  · rw [Shelf.emptiedFor, Shelf.emptiedFor, if_neg own, if_neg own]

theorem State.putShelf_shelf (s : State) (w h : Nat) (x : Shelf) : (s.putShelf w h x).shelf = Tbl.set {} s.shelf (16 * w + h) x := by
  rw [State.putShelf_regs s w h x]
  rfl

/-- What a mark does at one shelf of the table. -/
def State.emptyShelf (c : Nat) (k : Nat × Shelf) (s : State) : State :=
  let x := s.shelfOf (k.1 / 16) (k.1 % 16)
  if x.held && x.ctx == c then
    let s := if s.flag RegF.ctxStsOpen c && decide (0 < x.top) then s.incFld RegF.wingDepWaitLeftover 1 (k.1 / 16) else s
    s.putShelf (k.1 / 16) (k.1 % 16) { x with top := 0, homes := [], marked := [], broken := false }
  else s

theorem State.emptyShelves_eq (s : State) (c : Nat) : s.emptyShelves c = overList s.shelf (State.emptyShelf c) s := rfl

theorem State.emptyShelf_shelf (c : Nat) (k : Nat × Shelf) (s : State) (j : Nat) :
    Tbl.get {} (s.emptyShelf c k).shelf j = if j = k.1 then (Tbl.get {} s.shelf j).emptiedFor c else Tbl.get {} s.shelf j := by
  have key : 16 * (k.1 / 16) + k.1 % 16 = k.1 := Nat.div_add_mod k.1 16
  have put : ∀ (t : State) (x : Shelf), t.shelf = s.shelf →
      (t.putShelf (k.1 / 16) (k.1 % 16) x).shelf = Tbl.set {} s.shelf k.1 x := fun t x same => by
    rw [State.putShelf_shelf, key, same]
  simp only [State.emptyShelf, State.shelfOf, key]
  split
  · rename_i own
    rw [put _ _ (by split <;> rfl)]
    by_cases here : j = k.1
    · subst here
      rw [Tbl.get_set_same, if_pos rfl, Shelf.emptiedFor, if_pos own]
    · rw [Tbl.get_set_other _ _ _ _ _ _ here, if_neg here]
  · rename_i other
    split
    · rename_i here
      rw [here, Shelf.emptiedFor, if_neg other]
    · rfl

/-- A mark empties every listed shelf of the context. -/
theorem State.overList_emptyShelf (c j : Nat) : ∀ (l : List (Nat × Shelf)) (s : State), Tbl.get {} (overList l (State.emptyShelf c) s).shelf j =
    if j ∈ l.map (fun k => k.1) then (Tbl.get {} s.shelf j).emptiedFor c else Tbl.get {} s.shelf j
  | [], s => rfl
  | k :: l, s => by
    rw [overList_cons, State.overList_emptyShelf c j l, State.emptyShelf_shelf]
    by_cases here : j = k.1 <;> by_cases later : j ∈ l.map (fun k => k.1) <;> simp [here, later, Shelf.emptiedFor_twice]

theorem State.emptyShelves_shelf {s : State} {c k : Nat} {x : Shelf} (at' : Tbl.get {} s.shelf k = x) (held : x.held = true) (own : x.ctx = c) :
    Tbl.get {} (s.emptyShelves c).shelf k = { x with top := 0, homes := [], marked := [], broken := false } := by
  have listed : k ∈ s.shelf.map (fun k => k.1) :=
    List.mem_map.2 ⟨_, Tbl.mem_of_get_ne (d := {}) (k := k) (by rw [at']; rintro rfl; cases held), rfl⟩
  rw [State.emptyShelves_eq, State.overList_emptyShelf, if_pos listed, at', Shelf.emptiedFor, if_pos (by simp [held, own])]

theorem State.clearCstat_ctx (s : State) (l : LedgerEntry) : (s.clearCstat l).ctx = s.ctx :=
  overList_same (fun s => s.ctx) (fun j s => s.wr (l.cstatAddr j) ({} : ChunkHdr).record) (fun _ _ => rfl) _ s

/-- A mark moves LSCALE_NEXT into LSCALE and clears the ledger's mark; the other ledgers stay. -/
theorem State.markLedger_spec {s : State} {c le : Nat} {p : Prog} (admitted : s.prog c = some p) (known : le < p.ledgers.length) :
    ((s.markLedger c le).ledger c le).lscale = (s.ledger c le).lscaleNext ∧ ((s.markLedger c le).ledger c le).mark = none ∧
    ((s.markLedger c le).ledger c le).telW = [] ∧ ∀ le', le' ≠ le → (s.markLedger c le).ledger c le' = s.ledger c le' := by
  have reads : ∀ x : LedgerRt, ∀ le', (((s.putLedger c le x).clearCstat ((s.putLedger c le x).ledgerEnt c le)).ledger c le') =
      if le' = le then x else s.ledger c le' := fun x le' => by
    rw [State.ledger_congr (State.clearCstat_ctx _ _), ← State.ledger_setLedger admitted known]
    exact State.ledger_congr (State.wr_ctx _ _ _) c le'
  simp only [State.markLedger, reads, if_true, true_and]
  exact fun le' other => if_neg other

/-! ### STEP_END_MARK_FINISH -/

/-- The ranges that a mark writes. -/
theorem State.markWrites_eq (s : State) (c : Nat) : s.markWrites c = (let sm := ((s.prog c).getD {}).sm
    (if (s.cert c).smTable = none then [] else (sm.base + 12, 8) ::
      (List.range sm.entries.length).map (fun n => (sm.base + 128 + 128 * n, 128))) ++
    ((s.cert c).ledgers.map (fun l => (l.stateBase, 64) :: (List.range l.chunks).map (fun j => (l.cstatBase + 16 * j, 16)))).flatten) := by
  simp only [State.markWrites]
  cases (s.cert c).smTable <;> rfl

/-- The state after a mark. -/
def State.marked (s : State) (c t : Nat) : State :=
  let failed := (s.runTasks c).any (fun k => (s.rt c k).st == .aborted)
  let u := ((s.markScales c).clearCounters c).emptyShelves c
  let v := (List.range (u.cert c).ledgers.length).foldl (fun v le => v.markLedger c le) u
  let w := v.updProg c (fun p => { p with frozen := v.frozenNow c, markRunning := none, products := if failed then [] else p.products,
                                          prodHdr := if failed then [] else p.prodHdr, smalls := if failed then [] else p.smalls })
  ((w.completeTask c t .ok 0).settle).formGroup s c

section
variable {s : State} {c t : Nat} (running : s.running c t = true) (marking : (s.prog c).map (fun p => p.markRunning) = some (some t))
include marking

theorem State.mark_bind : (s.prog c).bind (fun p => p.markRunning) = some t := by
  cases h : s.prog c with
  | none => simp [h] at marking
  | some p => simpa [h] using marking

include running

theorem exec_stepEndMarkFinish_done (may : ∀ r ∈ s.markWrites c, s.allows c (s.rt c t).epochOld true r.1 r.2 = true) :
    exec (.stepEndMarkFinish c) s = .next (s.marked c t) := by
  have fail : s.markFail c t = none := by
    rw [State.markFail, List.find?_eq_none.2 (fun r hr => by simp [may r hr])]
    rfl
  show execStepEndMarkFinish c s = _
  rw [execStepEndMarkFinish]
  simp only [State.mark_bind marking, running, fail, not_true, if_false]
  rfl

theorem exec_stepEndMarkFinish_denied {p q : List (Nat × Nat)} {r : Nat × Nat} (ranges : s.markWrites c = p ++ r :: q)
    (before : ∀ y ∈ p, s.allows c (s.rt c t).epochOld true y.1 y.2 = true) (denied : s.allows c (s.rt c t).epochOld true r.1 r.2 = false) :
    exec (.stepEndMarkFinish c) s = .next (s.failTask c t ⟨.protFault, BitVec.ofNat 64 r.1⟩) := by
  have fail : s.markFail c t = some r.1 := by
    rw [State.markFail, ranges, List.find?_eq_some_iff_append.2 ⟨by simp [denied], p, q, rfl, fun y hy => by simp [before y hy]⟩]
    rfl
  show execStepEndMarkFinish c s = _
  rw [execStepEndMarkFinish]
  simp only [State.mark_bind marking, running, fail, not_true, if_false]
  rfl

end

/-! ### BARRIER_RELEASE -/

theorem State.comeTo_time (s : State) (t : Nat) : t ≤ (s.comeTo t).time ∧ (s.comeTo t).ctx = s.ctx := by
  unfold State.comeTo
  split
  · exact ⟨le_rfl, rfl⟩
  · exact ⟨not_lt.1 ‹_›, rfl⟩

theorem exec_barrierRelease {s : State} {c t r : Nat} {b : BarrierEntry} {x : BarrierSt} (running : s.running c t = true)
    (barrier : (s.task c t).barrier = some b) (bar : (s.rt c t).bar = some x) (release : x.release = some r) (sent : x.sentUp = true) :
    let wait := if b.stagger then (b.devIndex % 64) * 125 else 0
    let u := s.comeTo ((2 * r + wait + 1) / 2)
    let v := u.updProg c (fun p => { p with uses := Tbl.set 0 p.uses t ((u.barUse c t + 1) % 2 ^ 32),
                                            arrived := Tbl.set 0 p.arrived (t * 2 ^ 32 + u.barUse c t) 0 })
    exec (.barrierRelease c t) s = .next ((((v.completeTask c t .ok 0).settle).formGroup u c)) ∧
      2 * r + wait ≤ 2 * u.time ∧ v.barUse c t = (s.barUse c t + 1) % 2 ^ 32 := by
  intro wait u v
  obtain ⟨come, same⟩ : (2 * r + wait + 1) / 2 ≤ u.time ∧ u.ctx = s.ctx := s.comeTo_time _
  obtain ⟨p, admitted⟩ := State.prog_of_running running
  refine ⟨?_, by clear_value u wait; omega, ?_⟩
  · show execBarrierRelease c t s = _
    rw [execBarrierRelease]
    simp only [barrier, bar, release, running, sent, not_true, or_self, if_false]
    rfl
  · have admitted' : u.prog c = some p := (State.prog_congr same c).trans admitted
    simp only [v, State.barUse, State.prog_updProg, admitted', admitted, Option.map_some, Option.getD_some, Tbl.get_set_same]

/-- Settles O33: a mark is its parts in order, each with the fields it changes; the new scale is the least exponent that covers the greatest
value of the history, and a release counts the use. -/
theorem marksReleasesAndScales : Obligations.MarksReleasesAndScales := by
  unfold Obligations.MarksReleasesAndScales
  refine ⟨fun s c t running => ⟨fun marking => ?_, s.clearCounters_ev c, fun k x at' held own => State.emptyShelves_shelf at' held own,
    fun p le admitted known => State.markLedger_spec admitted known, fun b x r barrier bar release sent =>
      exec_barrierRelease running barrier bar release sent⟩,
    fun e r step small full => e.mark_some_spec r step small full, fun e step => e.mark_none_spec step, fun e => e.maxHistory_spec,
    fun a m h e ha hm low high => chooseScale_spec h ha hm low high, fun f managed => ?_⟩
  · intro failed u v w sm ranges may
    have writes : s.markWrites c = ranges := s.markWrites_eq c
    refine ⟨fun all => ?_,
      fun p r q split before denied => exec_stepEndMarkFinish_denied running marking (writes.trans split) before denied⟩
    have done := exec_stepEndMarkFinish_done running marking (fun r hr => all r ((congrArg (r ∈ ·) writes).mp hr))
    rw [State.marked] at done
    exact done
  · simp only [List.mem_cons, List.not_mem_nil, or_false] at managed
    rcases managed with rfl | rfl | rfl | rfl | rfl | rfl | rfl | rfl
    · exact isFmtMax_float rfl
    · exact isFmtMax_float rfl
    · exact isFmtMax_float rfl
    · exact isFmtMax_float rfl
    · exact isFmtMax_float rfl
    · exact isFmtMax_float rfl
    · exact isFmtMax_int (w := 8) (fun _ => rfl) rfl rfl
    · exact isFmtMax_int (w := 4) (fun _ => rfl) rfl rfl

end Sys2Proof.Machine
end

section
/-! SUPPORT. Control messages and device time (spec/02_number_formats.md R56, spec/09_ledger_reduction_update.md R256,
spec/11_ralda_link.md R320, R321, R325, R327): what each command does with the message it takes. -/

namespace Sys2Proof.Machine

/-! ### What sending a message leaves alone -/

/-- Only ports and registers other than those of fields outside LNK_CNT differ. -/
structure State.OnlySends (s t : State) : Prop where
  rest : t = { s with regs := t.regs, port := t.port }
  fld : ∀ f i j, f.reg ≠ .lnkCnt → t.fld f i j = s.fld f i j

theorem State.OnlySends.refl (s : State) : s.OnlySends s := ⟨rfl, fun _ _ _ _ => rfl⟩

theorem State.OnlySends.trans {s t u : State} (h : s.OnlySends t) (h' : t.OnlySends u) : s.OnlySends u :=
  ⟨by rw [h'.rest, h.rest], fun f i j other => (h'.fld f i j other).trans (h.fld f i j other)⟩

theorem State.OnlySends.setPort (s : State) (p : Nat) (x : Port) : s.OnlySends (s.setPort p x) := ⟨rfl, fun _ _ _ _ => rfl⟩

theorem State.OnlySends.sendSeq (s : State) (p cls : Nat) (pay : List Byte) : s.OnlySends (s.sendSeq p cls pay) := by
  unfold State.sendSeq
  dsimp only
  split
  · exact (State.OnlySends.setPort s p _).trans ⟨rfl, fun f i j other => State.fld_incFld_reg _ other _ _ _ _ _⟩
  · exact .setPort s p _

theorem State.OnlySends.pumpClass (p cls : Nat) : ∀ (n : Nat) (s : State), s.OnlySends (s.pumpClass p cls n)
  | 0, s => .refl s
  | n + 1, s => by
    simp only [State.pumpClass]
    split
    · exact .refl s
    · exact iteInduction (fun _ => .refl s) (fun _ =>
        ((State.OnlySends.setPort s p _).trans (.sendSeq _ p cls _)).trans (State.OnlySends.pumpClass p cls n _))

theorem State.OnlySends.pump (s : State) (p : Nat) : s.OnlySends (s.pump p) := by
  unfold State.pump
  dsimp only
  split
  · exact .refl s
  · refine State.OnlySends.trans ?_ ((State.OnlySends.pumpClass p 1 _ _).trans (.pumpClass p 0 _ _))
    split
    · exact .refl s
    · exact .setPort s p _

/-- A message that is sent changes its port and LNK_CNT alone. -/
theorem State.OnlySends.sendMsg (s : State) (p : Nat) (m : Msg) (o : Option (Nat × Nat)) : s.OnlySends (s.sendMsg p m o) := by
  unfold State.sendMsg
  split
  · exact .refl s
  · exact (State.OnlySends.setPort s p _).trans (.pump _ p)

theorem State.OnlySends.sendTree (s : State) (ports : List Nat) (m : Msg) : s.OnlySends (s.sendTree ports m) :=
  overList_keeps (fun t => s.OnlySends t) _ (fun _ t h => h.trans (.sendMsg t _ _ _)) ports s (.refl s)

theorem State.OnlySends.ctx {s t : State} (h : s.OnlySends t) : t.ctx = s.ctx := by rw [h.rest]

/-! ### Certificates of admitted programs -/

/-- Every program of t is one of s, as far as its certificate goes. -/
def State.KeepsCerts (s t : State) : Prop :=
  ∀ x ∈ t.ctx, ∀ g, x.2.prog = some g → ∃ y ∈ s.ctx, ∃ h, y.2.prog = some h ∧ h.cert = g.cert

theorem State.KeepsCerts.of_ctx {s t : State} (h : t.ctx = s.ctx) : s.KeepsCerts t := fun x hx g hg => ⟨x, h ▸ hx, g, hg, rfl⟩

theorem State.KeepsCerts.trans {s t u : State} (h : s.KeepsCerts t) (h' : t.KeepsCerts u) : s.KeepsCerts u := fun x hx g hg => by
  obtain ⟨y, hy, k, hk, same⟩ := h' x hx g hg
  obtain ⟨z, hz, l, hl, same'⟩ := h y hy k hk
  exact ⟨z, hz, l, hl, same'.trans same⟩

theorem Tbl.mem_set {α : Type} [DecidableEq α] {d : α} {m : Tbl α} {k : Nat} {x : α} {c : Nat × α} (h : c ∈ Tbl.set d m k x) :
    c ∈ m ∨ c = (k, x) := by
  simp only [Tbl.set, Tbl.setRun, List.mem_append, List.mem_filter, Tbl.cells] at h
  rcases h with (h | h) | h
  · exact .inl h.1
  · split at h
    · exact absurd h List.not_mem_nil
    · exact .inr (List.mem_singleton.1 h)
  · exact .inl h.1

theorem State.KeepsCerts.updProg (s : State) (c : Nat) {f : Prog → Prog} (keeps : ∀ g, (f g).cert = g.cert) : s.KeepsCerts (s.updProg c f) := by
  intro x hx g hg
  rcases Tbl.mem_set hx with old | rfl
  · exact ⟨x, old, g, hg, rfl⟩
  · obtain ⟨h, admitted, rfl⟩ := Option.map_eq_some_iff.1 hg
    have listed : (c, s.cx c) ∈ s.ctx := Tbl.mem_of_get_ne (d := ({} : Context)) (m := s.ctx) (k := c) fun none' => by
      rw [State.cx, none'] at admitted
      cases admitted
    exact ⟨_, listed, h, admitted, (keeps h).symm⟩

theorem State.KeepsCerts.updRt (s : State) (c t : Nat) (f : TaskRt → TaskRt) : s.KeepsCerts (s.updRt c t f) := .updProg s c fun _ => rfl

theorem State.KeepsCerts.setSmall (s : State) (c op : Nat) (x : SmallRt) : s.KeepsCerts (s.setSmall c op x) := .updProg s c fun _ => rfl

theorem State.KeepsCerts.overList {α : Type} {f : α → State → State} (hf : ∀ x t, State.KeepsCerts t (f x t)) (l : List α) (s : State) :
    s.KeepsCerts (overList l f s) :=
  overList_keeps (fun t => s.KeepsCerts t) f (fun x t h => h.trans (hf x t)) l s (.of_ctx rfl)

theorem State.KeepsCerts.handReports (s : State) (c t : Nat) : s.KeepsCerts (s.handReports c t) :=
  .updProg s c fun g => by
    generalize (s.rt c t).rep = l
    induction l generalizing g with
    | nil => rfl
    | cons x l ih => exact ih _

theorem State.endChans_ctx (s : State) (courier : Bool) (unit : Nat) : (s.endChans courier unit).ctx = s.ctx :=
  overList_same (fun s => s.ctx) _ (fun k s => by dsimp only; split <;> rfl) (List.range 64) s

theorem State.KeepsCerts.freeArrays (l : List Nat) (s : State) : s.KeepsCerts (Machine.overList l (fun a s => s.freeArray a) s) :=
  .overList (f := fun a s => s.freeArray a) (fun _ _ => .of_ctx rfl) l s

theorem State.KeepsCerts.freeEngines (l : List Nat) (s : State) : s.KeepsCerts (Machine.overList l (fun e s => s.freeEngine e) s) :=
  .overList (f := fun e s => s.freeEngine e) (fun _ _ => .of_ctx rfl) l s

theorem State.KeepsCerts.endCouriers (c t : Nat) (l : Tbl Courier) (s : State) : s.KeepsCerts (Machine.overList l (fun k s =>
    let x := s.courier k.1
    if x.held && x.ctx == c && x.task == t then (s.endChans true k.1).putCourier k.1 { x with held := false } else s) s) := by
  refine .overList (fun k u => ?_) l s
  dsimp only
  split
  · exact .of_ctx ((State.putCourier_regs _ _ _).ctx.trans ((State.setCourier_ctx _ _ _).trans (u.endChans_ctx true k.1)))
  · exact .of_ctx rfl

/-- The end of a task changes no certificate. -/
theorem State.KeepsCerts.completeTask (s : State) (c t : Nat) (st : Status) (d : W64) : s.KeepsCerts (s.completeTask c t st d) := by
  have ended := (State.KeepsCerts.handReports s c t).trans (.updRt _ c t (fun x => { x with st := .completed, status := st, detail := d }))
  exact ((ended.trans (.freeArrays _ _)).trans (.freeEngines _ _)).trans (.endCouriers c t _ _)

theorem State.KeepsCerts.smallEnd (s : State) (c t : Nat) (g : RedGroup) (l : List Nat) : s.KeepsCerts (s.smallEnd c t g l) :=
  ((State.KeepsCerts.updProg s c (f := fun p => { p with smalls := p.smalls.filter (fun x => x.1 != g.number) }) fun _ => rfl).trans
    (.updRt _ c t _)).trans (.completeTask _ c t .ok 0)

theorem State.ledgersOfGroup_nil_iff (s : State) (op : Nat) : s.ledgersOfGroup op = [] ↔
    ∀ x ∈ s.ctx, ∀ g, x.2.prog = some g → g.cert.ledgerOfGroup op = none := by
  simp only [State.ledgersOfGroup, List.flatten_eq_nil_iff, List.mem_map, forall_exists_index, and_imp, forall_apply_eq_imp_iff₂]
  refine forall₂_congr fun x _ => ?_
  cases x.2.prog with
  | none => simp
  | some g => cases h : g.cert.ledgerOfGroup op <;> simp [h]

/-- A group that no ledger reduces stays so. -/
theorem State.KeepsCerts.noLedger {s t : State} (h : s.KeepsCerts t) {op : Nat} (none' : s.ledgersOfGroup op = []) :
    t.ledgersOfGroup op = [] := by
  rw [State.ledgersOfGroup_nil_iff] at none' ⊢
  intro x hx g hg
  obtain ⟨y, hy, k, hk, same⟩ := h x hx g hg
  rw [← same]
  exact none' y hy k hk

/-! ### Taking a message -/

theorem State.receive_takes {s u : State} {p kind : Nat} {m : Msg} (lt : p < 16) (up : s.portUp p = true) (here : m.hops ≤ m.hop)
    (taken : s.takeMsg p kind = some (m, u)) (f : Msg → State → State) : s.receive p kind f = .next (f m u) := by
  simp only [State.receive, if_neg (show ¬ (16 ≤ p ∨ ¬ s.portUp p = true) by simp [up, lt]), taken, if_neg (not_lt.2 here), if_true, ok]

section
variable {s u : State} {p : Nat} {m : Msg} (lt : p < 16) (up : s.portUp p = true) (here : m.hops ≤ m.hop)
include lt up here

theorem exec_arrive (taken : s.takeMsg p 7 = some (m, u)) : exec (.arrive p) s =
    .next (((u.barriers m.op).filter (fun y => y.2.2.children.getLsbD p)).foldl (fun v y => v.updProg y.1 (fun g =>
      { g with arrived := Tbl.upd 0 g.arrived (y.2.1 * 2 ^ 32 + m.index) (fun a => a ||| 2 ^ p) })) u).settle :=
  State.receive_takes lt up here taken _

theorem exec_token {c t : Nat} {b : BarrierEntry} {x : BarrierSt} (taken : s.takeMsg p 8 = some (m, u))
    (one : (u.barriers m.op).filter (fun y => !y.2.2.root && y.2.2.parent == p && u.barUse y.1 y.2.1 == m.index) = [(c, t, b)])
    (bar : (u.rt c t).bar = some x) : let v := if m.time < u.time then u.incFld RegF.glbTimeStsLateTokens 1 else u
    exec (.token p) s = .next ((v.updRt c t (fun r => { r with bar := some { x with release := some (max m.time u.time) } })).sendTree
      (portsOf b.children) { kind := kToken, op := m.op, index := m.index, time := m.time }) := by
  have time : (if m.time < u.time then u.incFld RegF.glbTimeStsLateTokens 1 else u).time = u.time := by split <;> rfl
  refine (State.receive_takes lt up here taken _).trans ?_
  simp only [one, overList_cons, overList_nil, bar, time]

/-- SMALL where a ledger alone reduces the group. -/
theorem exec_small_ledger {c le : Nat} (taken : s.takeMsg p 10 = some (m, u)) (noSmalls : u.smallsOfGroup m.op = [])
    (one : u.ledgersOfGroup m.op = [(c, le)]) : let g := (u.cert c).redGroup m.op
    let x := u.ledger c le
    exec (.small p) s = .next ((if g.children.getLsbD p then
        u.setLedger c le { x with kids := x.kids.merge (Summary.ofBytes m.payload), heard := x.heard ||| BitVec.ofNat 16 (2 ^ p) }
      else if g.rank ≠ 0 ∧ g.parent = p ∧ x.sentUp ∧ x.verdict.isNone then
        (u.sendTree (portsOf g.children) { kind := kSmall, op := m.op, payload := m.payload }).judge c le (Summary.ofBytes m.payload)
      else u).settle) := by
  refine (State.receive_takes lt up here taken _).trans ?_
  simp only [noSmalls, one, overList_cons, overList_nil]

/-- SMALL where tasks of small traffic alone combine the group: a child's words are merged. -/
theorem exec_small_child {c : Nat} {k : Option Nat} (taken : s.takeMsg p 10 = some (m, u)) (noLedgers : u.ledgersOfGroup m.op = [])
    (one : u.smallsOfGroup m.op = [(c, k)]) (child : ((u.cert c).redGroup m.op).children.getLsbD p = true) :
    exec (.small p) s = .next (u.setSmall c m.op { u.smallRt c m.op with
      vals := maxWords (u.smallRt c m.op).vals (smallWords m.payload),
      heard := (u.smallRt c m.op).heard ||| BitVec.ofNat 16 (2 ^ p) }).settle := by
  refine (State.receive_takes lt up here taken _).trans ?_
  simp only [one, overList_cons, overList_nil, State.takeSmall, child, if_true, (State.KeepsCerts.setSmall u c m.op _).noLedger noLedgers]

/-- SMALL where tasks of small traffic alone combine the group: the parent's words are final. -/
theorem exec_small_parent {c t : Nat} (taken : s.takeMsg p 10 = some (m, u)) (noLedgers : u.ledgersOfGroup m.op = [])
    (one : u.smallsOfGroup m.op = [(c, some t)]) (parent : ((u.cert c).redGroup m.op).children.getLsbD p = false)
    (member : ((u.cert c).redGroup m.op).rank ≠ 0 ∧ ((u.cert c).redGroup m.op).parent = p ∧ (u.smallRt c m.op).sentUp = true) :
    let g := (u.cert c).redGroup m.op
    exec (.small p) s = .next ((u.sendTree (portsOf g.children) { kind := kSmall, op := m.op, payload := m.payload }).smallEnd c t g
      (smallWords m.payload)).settle := by
  intro g
  have take : u.takeSmall p c (some t) m = (u.sendTree (portsOf g.children) { kind := kSmall, op := m.op, payload := m.payload }).smallEnd c t g
      (smallWords m.payload) := by
    simp only [State.takeSmall, parent, Bool.false_eq_true, if_false, if_pos member]
    rfl
  have noLedgers' := ((State.KeepsCerts.of_ctx (State.OnlySends.sendTree u (portsOf g.children)
    { kind := kSmall, op := m.op, payload := m.payload }).ctx).trans (.smallEnd _ c t g (smallWords m.payload))).noLedger noLedgers
  refine (State.receive_takes lt up here taken _).trans ?_
  simp only [one, overList_cons, overList_nil, take, noLedgers']

/-- ABORT: ledger marks, or the ends of the tasks that receive and send the operation. -/
theorem exec_abortMessage (taken : s.takeMsg p 11 = some (m, u)) :
    let st := Status.ofCode (field m.payload 0 1)
    let marks := if field m.payload 1 1 = 1 then (u.ledgersOfGroup m.op).filter (fun y => ((u.cert y.1).redGroup m.op).treePorts.contains p) else []
    let v := (u.receiversOf m.op ++ u.smallsAt p m.op).foldl (fun v y => v.abortTask y.1 y.2 st (BitVec.ofNat 64 m.srcDev) true) u
    exec (.abortMessage p) s = .next (if marks ≠ [] then (marks.foldl (fun v y => v.takeMark p y.1 y.2 st (field m.payload 2 2)) u).settle
      else ((v.sendsOf m.op).foldl (fun v y => let e := nth {} (v.task y.1 y.2.1).sends y.2.2
        if e.kind = .multicast then (if p ∈ e.receivers then v.dropReceiver y.1 y.2.1 y.2.2 p else v)
        else if e.target = m.srcDev ∨ st = .unitAbsent then v.abortTask y.1 y.2.1 st (BitVec.ofNat 64 m.srcDev) true
        else v) v).settle) := by
  refine (State.receive_takes lt up here taken _).trans ?_
  simp only [List.isEmpty_iff, ne_eq]
  rfl

/-- SYNC from the upstream port keeps its stamps. -/
theorem exec_sync_upstream (stamp : Nat) (taken : s.takeMsg p 9 = some (m, u))
    (upstream : u.fld RegF.glbTimeCfgUpValid = 1 ∧ u.fld RegF.glbTimeCfgUpstream = p ∧ u.fld RegF.glbTimeCfgMaster ≠ 1) :
    exec (.sync p stamp) s = .next { u with syncStamps := [16 * m.time, stamp] } := by
  refine (State.receive_takes lt up here taken _).trans ?_
  rw [if_pos (by simpa [State.flag] using upstream)]

/-- Any other SYNC is answered with the device time. -/
theorem exec_sync_answer (stamp : Nat) (taken : s.takeMsg p 9 = some (m, u))
    (other : ¬ (u.fld RegF.glbTimeCfgUpValid = 1 ∧ u.fld RegF.glbTimeCfgUpstream = p ∧ u.fld RegF.glbTimeCfgMaster ≠ 1)) :
    exec (.sync p stamp) s = .next (u.sendMsg p
      { kind := kSync, hops := 1, hop := 1, srcDev := u.fld RegF.glbLinkCfgDevId, dstDev := m.srcDev, route := BitVec.ofNat 20 p,
        time := u.time }) := by
  refine (State.receive_takes lt up here taken _).trans ?_
  rw [if_neg (by simpa [State.flag] using other)]

end

/-- A mark from a rank no lower than the one that stands changes nothing. -/
theorem State.takeMark_later {u : State} {c le n r : Nat} (stands : (u.ledger c le).mark = some (n, r)) (p : Nat) (st : Status) {rank : Nat}
    (later : r ≤ rank) : u.takeMark p c le st rank = u := by
  simp only [State.takeMark, stands, later, decide_true, if_true]

/-! ### TIME_SYNC_EXCHANGE -/

/-- The rate lies within 200 ppm of the period, and is the offset where that does (R325). -/
theorem syncRate_spec (off : Int) (n : Nat) : -(80 * (n : Int)) ≤ syncRate off n ∧ syncRate off n ≤ 80 * n ∧
    (-(80 * (n : Int)) ≤ off → off ≤ 80 * n → syncRate off n = off) := by
  unfold syncRate
  push_cast
  omega

/-- Good exchanges in a row: those within 4 ns. -/
def State.goodExchanges (s : State) (off : Int) : Nat := if decide (-16 ≤ off ∧ off ≤ 16) then s.syncGood + 1 else 0

/-- The device time and the sync state after an exchange, before the next SYNC goes out. -/
def State.disciplined (s : State) (off : Int) : State :=
  let t := s.setFld RegF.glbTimeStsOffset (unsigned 16 off)
  let u : State := { t with syncGood := s.goodExchanges off, rate := syncRate off (max 1 (t.fld RegF.glbTimeCfgPeriod)) }
  if ¬ s.flag RegF.glbTimeStsLocked ∧ ¬ u.timeSet then u.stepTime (max u.time ((u.time : Int) + off / 16).toNat) else u

theorem State.disciplined_spec (s : State) (off : Int) : let t := s.disciplined off
    s.time ≤ t.time ∧ t.syncGood = s.goodExchanges off ∧ t.fld RegF.glbTimeStsOffset = unsigned 16 off ∧
    (s.fld RegF.glbTimeStsLocked = 1 ∨ s.timeSet = true → t.time = s.time ∧ t.rate = syncRate off (max 1 (s.fld RegF.glbTimeCfgPeriod))) ∧
    (s.fld RegF.glbTimeStsLocked ≠ 1 → s.timeSet = false → t.timeSet = true ∧ t.time = max s.time ((s.time : Int) + off / 16).toNat) := by
  have offset : (s.setFld RegF.glbTimeStsOffset (unsigned 16 off)).fld RegF.glbTimeStsOffset = unsigned 16 off := by
    rw [State.fld_setFld_same]
    exact Nat.mod_eq_of_lt (by rw [unsigned_toNat]; exact BitVec.isLt _)
  have period : (s.setFld RegF.glbTimeStsOffset (unsigned 16 off)).fld RegF.glbTimeCfgPeriod = s.fld RegF.glbTimeCfgPeriod :=
    s.fld_setFld_reg _ _ _ _ _ _ _ (by decide)
  have locked : s.flag RegF.glbTimeStsLocked = true ↔ s.fld RegF.glbTimeStsLocked = 1 := by simp [State.flag]
  intro t
  by_cases fresh : ¬ s.flag RegF.glbTimeStsLocked = true ∧ ¬ s.timeSet = true
  · rw [show t = _ from if_pos fresh]
    exact ⟨le_max_left _ _, rfl, offset, fun no => absurd no (not_or.2 ⟨mt locked.2 fresh.1, fresh.2⟩), fun _ _ => ⟨rfl, rfl⟩⟩
  · rw [show t = _ from if_neg fresh, period]
    exact ⟨le_rfl, rfl, offset, fun _ => ⟨rfl, rfl⟩, fun a b => absurd ⟨mt locked.1 a, by rw [b]; exact Bool.false_ne_true⟩ fresh⟩

/-- The exchange disciplines the time, the next SYNC goes out, and the third good one in a row locks. -/
theorem exec_timeSyncExchange {s : State} {t1 t2 t3 t4 : Int} (member : s.fld RegF.glbTimeCfgMaster ≠ 1)
    (valid : s.fld RegF.glbTimeCfgUpValid = 1) (up : s.portUp (s.fld RegF.glbTimeCfgUpstream) = true) (run : s.timeRun = true) :
    let off := ((t2 - t1) - (t4 - t3)) / 2
    ∃ u, (s.disciplined off).OnlySends u ∧
      exec (.timeSyncExchange t1 t2 t3 t4) s = .next (if 3 ≤ s.goodExchanges off then u.setFld RegF.glbTimeStsLocked 1 else u) := by
  intro off
  have goes : ¬ (s.flag RegF.glbTimeCfgMaster = true ∨ ¬ s.flag RegF.glbTimeCfgUpValid = true ∨
      ¬ s.portUp (s.fld RegF.glbTimeCfgUpstream) = true ∨ ¬ s.timeRun = true) := by simp [State.flag, member, valid, up, run]
  refine ⟨_, State.OnlySends.sendMsg (s.disciplined off) ((s.disciplined off).fld RegF.glbTimeCfgUpstream)
    { kind := kSync, hops := 1, hop := 1, srcDev := (s.disciplined off).fld RegF.glbLinkCfgDevId,
      dstDev := (s.disciplined off).peer ((s.disciplined off).fld RegF.glbTimeCfgUpstream),
      route := BitVec.ofNat 20 ((s.disciplined off).fld RegF.glbTimeCfgUpstream), time := (s.disciplined off).time } none, ?_⟩
  show execTimeSyncExchange t1 t2 t3 t4 s = _
  rw [execTimeSyncExchange, if_neg goes]
  rfl

/-- What an exchange does to the device time and to GLB_TIME_STS (R325). -/
theorem timeSyncExchange_spec {s : State} (t1 t2 t3 t4 : Int) (member : s.fld RegF.glbTimeCfgMaster ≠ 1)
    (valid : s.fld RegF.glbTimeCfgUpValid = 1) (up : s.portUp (s.fld RegF.glbTimeCfgUpstream) = true) (run : s.timeRun = true) :
    let off := ((t2 - t1) - (t4 - t3)) / 2
    let period : Int := max 1 (s.fld RegF.glbTimeCfgPeriod)
    ∃ t, exec (.timeSyncExchange t1 t2 t3 t4) s = .next t ∧ s.time ≤ t.time ∧
      t.syncGood = (if -16 ≤ off ∧ off ≤ 16 then s.syncGood + 1 else 0) ∧ t.fld RegF.glbTimeStsOffset = unsigned 16 off ∧
      (2 ≤ s.syncGood → -16 ≤ off → off ≤ 16 → t.fld RegF.glbTimeStsLocked = 1) ∧
      (s.fld RegF.glbTimeStsLocked = 1 ∨ s.timeSet = true → t.time = s.time ∧ -(80 * period) ≤ t.rate ∧ t.rate ≤ 80 * period ∧
        (-(80 * period) ≤ off → off ≤ 80 * period → t.rate = off)) ∧
      (s.fld RegF.glbTimeStsLocked ≠ 1 → s.timeSet = false → t.timeSet = true ∧ t.time = max s.time ((s.time : Int) + off / 16).toNat) := by
  intro off period
  obtain ⟨u, sends, runs⟩ := exec_timeSyncExchange (t1 := t1) (t2 := t2) (t3 := t3) (t4 := t4) member valid up run
  obtain ⟨forward, good, offset, keeps, steps⟩ := s.disciplined_spec off
  obtain ⟨t, ht, same⟩ : ∃ t, (if 3 ≤ s.goodExchanges off then u.setFld RegF.glbTimeStsLocked 1 else u) = t ∧ u.SameButRegs t := ⟨_, rfl, by
    split
    · exact State.SameButRegs.refl.setFld ..
    · exact State.SameButRegs.refl⟩
  have shown : t.fld RegF.glbTimeStsOffset = u.fld RegF.glbTimeStsOffset := by
    rw [← ht]
    split
    · exact u.fld_setFld_beside _ _ _ _ _ rfl (by decide)
    · rfl
  have rest : t = { s.disciplined off with regs := t.regs, port := t.port } := by rw [same, sends.rest]
  have goodEq : s.goodExchanges off = if -16 ≤ off ∧ off ≤ 16 then s.syncGood + 1 else 0 := by simp only [State.goodExchanges, decide_eq_true_eq]
  have time : t.time = (s.disciplined off).time := by rw [rest]
  have rate : t.rate = (s.disciplined off).rate := by rw [rest]
  have timeSet : t.timeSet = (s.disciplined off).timeSet := by rw [rest]
  have syncGood : t.syncGood = (s.disciplined off).syncGood := by rw [rest]
  refine ⟨t, runs.trans (congrArg _ ht), time ▸ forward, by rw [syncGood, good, goodEq],
    by rw [shown, sends.fld _ _ _ (by decide), offset], fun two low high => ?_, fun known => ?_, fun notLocked notSet => ?_⟩
  · rw [← ht, if_pos (by rw [goodEq, if_pos ⟨low, high⟩]; omega), State.fld_setFld_same]
    rfl
  · obtain ⟨stays, kept⟩ := keeps known
    obtain ⟨least, most, exact'⟩ := syncRate_spec off (max 1 (s.fld RegF.glbTimeCfgPeriod))
    rw [time, rate, kept, show period = ((max 1 (s.fld RegF.glbTimeCfgPeriod) : Nat) : Int) by push_cast; rfl]
    exact ⟨stays, least, most, exact'⟩
  · rw [time, timeSet]
    exact steps notLocked notSet

/-- Settles O45: each message is taken and its action is the one stated; the answer of a tree and the end of small traffic leave the
certificates, so that no ledger comes to reduce the group in between. -/
theorem controlMessagesAndDeviceTime : Obligations.ControlMessagesAndDeviceTime := by
  unfold Obligations.ControlMessagesAndDeviceTime
  refine ⟨fun s u p m lt up here => ?_, fun s u p stamp m lt up here taken => ?_, fun s t1 t2 t3 t4 member valid up run =>
    timeSyncExchange_spec t1 t2 t3 t4 member valid up run⟩
  · refine ⟨fun taken => exec_arrive lt up here taken, fun c t b x taken one bar => exec_token lt up here taken one bar,
      fun c le taken noSmalls one => ?_, fun c k taken noLedgers one => ?_, fun taken => ?_,
      fun c le st rank n r stands later => State.takeMark_later stands p st later⟩
    · have runs := exec_small_ledger lt up here taken noSmalls one
      refine ⟨fun child => runs.trans ?_, fun other rank parent sent open' => runs.trans ?_⟩
      · rw [if_pos child]
      · rw [if_neg (by simp [other]), if_pos ⟨rank, parent, sent, by rw [open']; rfl⟩]
    · refine ⟨fun child => exec_small_child lt up here taken noLedgers one child, ?_⟩
      rintro t rfl other rank parent sent
      exact exec_small_parent lt up here taken noLedgers one other ⟨rank, parent, sent⟩
    · have runs := exec_abortMessage lt up here taken
      exact ⟨fun some' => runs.trans (congrArg _ (if_pos some')), fun none' => runs.trans (congrArg _ (if_neg (not_not.2 none')))⟩
  · exact ⟨fun upstream => exec_sync_upstream lt up here stamp taken upstream, fun other => exec_sync_answer lt up here stamp taken other⟩

end Sys2Proof.Machine
end

section
/-! SUPPORT. Chains of the exact class (spec/03_exact_path.md R61 to R64): the special state joins in any order, the products of a pass enter its
state as one list, and products of exact-class codes are multiples of 2^-32 below 2^32. -/

namespace Sys2Proof.Machine

/-! ### Special states (R61) -/

theorem Special.join_comm (a b : Special) : a.join b = b.join a := by cases a <;> cases b <;> rfl

theorem Special.join_assoc (a b c : Special) : (a.join b).join c = a.join (b.join c) := by cases a <;> cases b <;> cases c <;> rfl

@[simp] theorem Special.join_none (a : Special) : a.join .none = a := by cases a <;> rfl

theorem foldl_join (l : List (Special × Dy)) : ∀ a : Special, l.foldl (fun a p => a.join p.1) a = a.join (joinAll l) := by
  induction l with
  | nil => exact fun a => a.join_none.symm
  | cons p l ih => exact fun a => by rw [joinAll, List.foldl_cons, List.foldl_cons, ih, ih, Special.join_assoc]; rfl

theorem joinAll_cons (p : Special × Dy) (l : List (Special × Dy)) : joinAll (p :: l) = p.1.join (joinAll l) := foldl_join l p.1

theorem joinAll_append (l l' : List (Special × Dy)) : joinAll (l ++ l') = (joinAll l).join (joinAll l') := by
  induction l with
  | nil => rfl
  | cons p l ih => rw [List.cons_append, joinAll_cons, joinAll_cons, ih, Special.join_assoc]

theorem joinAll_perm {l l' : List (Special × Dy)} (h : l.Perm l') : joinAll l = joinAll l' :=
  h.foldl_eq' (fun x _ y _ a => by rw [Special.join_assoc, Special.join_assoc, Special.join_comm x.1]) _

/-! ### Exact sums (R62, R63) -/

theorem sumUnits_append (l l' : List (Special × Dy)) : sumUnits (l ++ l') = sumUnits l + sumUnits l' := by simp [sumUnits]

theorem sumUnits_perm {l l' : List (Special × Dy)} (h : l.Perm l') : sumUnits l = sumUnits l' := (h.map _).sum_eq

theorem ChainSt.exactStep_nil (st : ChainSt) : st.exactStep [] = st := by simp [ChainSt.exactStep, sumUnits, joinAll]

theorem ChainSt.exactStep_append (st : ChainSt) (l l' : List (Special × Dy)) :
    st.exactStep (l ++ l') = (st.exactStep l).exactStep l' := by
  simp only [ChainSt.exactStep, sumUnits_append, joinAll_append, Special.join_assoc, Int.add_assoc]

theorem ChainSt.exactStep_perm (st : ChainSt) {l l' : List (Special × Dy)} (h : l.Perm l') : st.exactStep l = st.exactStep l' := by
  simp only [ChainSt.exactStep, sumUnits_perm h, joinAll_perm h]

/-- Steps taken one after the other are one step over all their products. -/
theorem ChainSt.foldl_exactStep (ls : List (List (Special × Dy))) (st : ChainSt) :
    ls.foldl ChainSt.exactStep st = st.exactStep ls.flatten := by
  induction ls generalizing st with
  | nil => exact st.exactStep_nil.symm
  | cons l ls ih => rw [List.foldl_cons, ih, List.flatten_cons, ChainSt.exactStep_append]

/-! ### Panels -/

theorem panels_map {α β : Type} (f : α → β) : ∀ (n : Nat) (l : List α), panels n (l.map f) = (panels n l).map (List.map f)
  | 0, _ => rfl
  | n + 1, l => by
    cases l with
    | nil => rfl
    | cons x l => simp only [panels, List.map_take.symm, List.map_drop.symm, panels_map f n]; rfl

/-- The panels of a list hold all of it, in its order. -/
theorem panels_flatten {α : Type} : ∀ (n : Nat) (l : List α), l.length ≤ n → (panels n l).flatten = l
  | 0, l, h => (List.length_eq_zero_iff.1 (Nat.le_zero.1 h)).symm
  | n + 1, [], _ => rfl
  | n + 1, x :: l, h => by
    have rest : ((x :: l).drop 32).length ≤ n := by simp only [List.length_drop, List.length_cons] at h ⊢; omega
    show (x :: l).take 32 ++ (panels n ((x :: l).drop 32)).flatten = x :: l
    rw [panels_flatten n _ rest, List.take_append_drop]

/-- The products of a list of operand pairs. -/
def products (l : List (XVal × XVal)) : List (Special × Dy) := l.map (fun p => product p.1 p.2)

theorem zipWith_product (l : List (XVal × XVal)) : List.zipWith product (l.map Prod.fst) (l.map Prod.snd) = products l := by
  rw [List.zipWith_map, List.zipWith_self, products]

theorem ChainSt.panel_exact (st : ChainSt) (p : List (XVal × XVal)) (σ : Int) (bad : Bool) :
    st.panel .exact (p.map Prod.fst) (p.map Prod.snd) σ bad = st.exactStep (products p) := by simp only [ChainSt.panel, zipWith_product]

/-- A pass of the exact class adds the products of all its pairs to the chain state, wherever its panels begin. -/
theorem ChainSt.pass_exact (st : ChainSt) (l : List (XVal × XVal)) (sig : List (Int × Bool)) :
    st.pass .exact (l.map Prod.fst) (l.map Prod.snd) sig = st.exactStep (products l) := by
  have each : ∀ (ps : List (List (XVal × XVal))) (k : Nat) (s : ChainSt),
      ((ps.map (fun p => (p.map Prod.fst, p.map Prod.snd))).zipIdx k).foldl (fun s x => s.panel .exact x.1.1 x.1.2
        (nth (0, false) sig x.2).1 (nth (0, false) sig x.2).2) s = (ps.map products).foldl ChainSt.exactStep s := fun ps => by
    induction ps with
    | nil => exact fun _ _ => rfl
    | cons p ps ih => exact fun k s => by simp only [List.map_cons, List.zipIdx_cons, List.foldl_cons, ChainSt.panel_exact, ih]
  simp only [ChainSt.pass, List.length_map, panels_map, List.zip_map', each, ChainSt.foldl_exactStep]
  rw [show products = List.map (fun p => product p.1 p.2) from rfl, ← List.map_flatten, panels_flatten _ _ le_rfl]

/-! ### Products of exact-class codes (R62) -/

/-- The value is a multiple of 2^-16 below 2^16 in magnitude. -/
def Dy.Narrow (d : Dy) : Prop := -16 ≤ d.e ∧ d.m * 2 ^ (d.e + 16).toNat < 2 ^ 32

theorem Dy.Narrow.mul {x y : Dy} (hx : x.Narrow) (hy : y.Narrow) :
    -32 ≤ (x.mul y).e ∧ (x.mul y).m * 2 ^ ((x.mul y).e + 32).toNat < 2 ^ 64 := by
  obtain ⟨ex, mx⟩ := hx
  obtain ⟨ey, my⟩ := hy
  refine ⟨by simp only [Dy.mul]; omega, ?_⟩
  calc x.m * y.m * 2 ^ (x.e + y.e + 32).toNat
      = (x.m * 2 ^ (x.e + 16).toNat) * (y.m * 2 ^ (y.e + 16).toNat) := by
        rw [show (x.e + y.e + 32).toNat = (x.e + 16).toNat + (y.e + 16).toNat by omega, Nat.pow_add, Nat.mul_mul_mul_comm]
    _ < 2 ^ 32 * 2 ^ 32 := Nat.mul_lt_mul'' mx my

/-- The format's least unit is at least 2^-16 and its largest finite value is below 2^16. -/
def FloatFmt.Narrow (t : FloatFmt) : Prop := -16 ≤ t.unit ∧ t.scaled t.maxCode * 2 ^ (t.unit + 16).toNat < 2 ^ 32

theorem FloatFmt.Narrow.value {t : FloatFmt} (narrow : t.Narrow) (sound : t.Sound) {c : Nat} {d : Dy} (value : t.value c = .fin d) :
    d.Narrow := by
  obtain ⟨least, largest⟩ := narrow
  obtain ⟨below, rfl⟩ := (FloatFmt.value_eq_fin_iff sound c d).1 value
  obtain ⟨unit, scaled⟩ := t.number_shape (c.testBit (t.e + t.f)) (t.below c)
  refine ⟨by omega, Nat.lt_of_le_of_lt ?_ largest⟩
  generalize t.number (c.testBit (t.e + t.f)) (t.below c) = d at unit scaled
  calc d.m * 2 ^ (d.e + 16).toNat = t.scaled (t.below c) * 2 ^ (t.unit + 16).toNat := by
        rw [scaled, Nat.mul_assoc, ← Nat.pow_add, show (d.e - t.unit).toNat + (t.unit + 16).toNat = (d.e + 16).toNat by omega]
    _ ≤ t.scaled t.maxCode * 2 ^ (t.unit + 16).toNat := Nat.mul_le_mul_right _ (t.scaled_strictMono.monotone below)

theorem Dy.Narrow.ofInt {n : Int} (h : n.natAbs < 2 ^ 16) : (Dy.ofInt n 0).Narrow :=
  ⟨by simp [Dy.ofInt], Nat.mul_lt_mul_of_pos_right h (Nat.two_pow_pos 16)⟩

/-- The formats of the exact class (R57). -/
theorem exactClass_format {f : Nat} (h : f ∈ [6, 7, 8, 9, 0xA, 0xC, 0xD]) : (∃ t, floatFmt f = some t ∧ t.Narrow) ∨
    ∃ w, w ≤ 8 ∧ ∀ c, valueOf f c = .fin (Dy.ofInt (signed w c) 0) := by
  simp only [List.mem_cons, List.not_mem_nil, or_false] at h
  rcases h with rfl | rfl | rfl | rfl | rfl | rfl | rfl
  · exact .inl ⟨_, rfl, by decide, by decide⟩
  · exact .inl ⟨_, rfl, by decide, by decide⟩
  · exact .inl ⟨_, rfl, by decide, by decide⟩
  · exact .inl ⟨_, rfl, by decide, by decide⟩
  · exact .inl ⟨_, rfl, by decide, by decide⟩
  · exact .inr ⟨8, by decide, fun _ => rfl⟩
  · exact .inr ⟨4, by decide, fun _ => rfl⟩

theorem exactClass_narrow {f c : Nat} {d : Dy} (h : f ∈ [6, 7, 8, 9, 0xA, 0xC, 0xD]) (value : valueOf f c = .fin d) : d.Narrow := by
  rcases exactClass_format h with ⟨t, float, narrow⟩ | ⟨w, small, codes⟩
  · exact narrow.value (floatFmt_sound float).1 ((valueOf_floatFmt float c 0).symm.trans value)
  · obtain rfl : Dy.ofInt (signed w c) 0 = d := XVal.fin.inj ((codes c).symm.trans value)
    have range := signed_range w c
    have top : (2 : Int) ^ (w - 1) ≤ 2 ^ 7 := pow_le_pow_right₀ (by decide) (by omega)
    exact .ofInt (by omega)

/-- Settles O14: each pass adds the products of its pairs as one list, and a sum and a joined special state do not depend on order. -/
theorem exactChainIndependentOfOrderAndSplit : Obligations.ExactChainIndependentOfOrderAndSplit := by
  unfold Obligations.ExactChainIndependentOfOrderAndSplit
  refine ⟨fun fa fb ca cb x y ha hb _ _ hx hy => ?_, fun st l l' sig sig' perm => ?_, fun st l l' sig sig' sig'' => ?_⟩
  · obtain ⟨least, below⟩ := (exactClass_narrow ha hx).mul (exactClass_narrow hb hy)
    exact ⟨x.mul y, by rw [hx, hy, product], rfl, least, below⟩
  · rw [ChainSt.pass_exact, ChainSt.pass_exact]
    exact st.exactStep_perm (perm.map _)
  · rw [ChainSt.pass_exact, ChainSt.pass_exact, ChainSt.pass_exact, ← ChainSt.exactStep_append, products, List.map_append]
    rfl

end Sys2Proof.Machine
end

section
/-! SUPPORT. Chain-state records and the split form (spec/03_exact_path.md R77, R78): the fields of a record read back, and the sums of the two
buffers hold the sum of the finite parts and how many parts were not finite. -/

namespace Sys2Proof.Machine

/-! ### The chain-state record (R77) -/

/-- A two's complement integer that its width holds is read back from its code. -/
theorem signed_unsigned {w : Nat} (pos : 0 < w) {x : Int} (low : -2 ^ (w - 1) ≤ x) (high : x < 2 ^ (w - 1)) :
    signed w (unsigned w x) = x := by
  rw [signed_toInt, unsigned_toNat, BitVec.ofNat_toNat, BitVec.setWidth_eq, BitVec.toInt_ofInt_eq_self pos low high]

theorem unsigned_lt (w : Nat) (x : Int) : unsigned w x < 2 ^ w := by
  rw [unsigned_toNat]
  exact BitVec.isLt _

/-- Byte 22 of a record. -/
def ChainSt.stateByte (st : ChainSt) : Nat :=
  st.sp.bits + 4 * (if st.span then 1 else 0) + 8 * (if st.sticky then 1 else 0) + 16 * (if st.seen then 1 else 0)

theorem ChainSt.stateByte_parts (st : ChainSt) : st.stateByte < 2 ^ 8 ∧ Special.ofBits (st.stateByte % 4) = st.sp ∧
    st.stateByte.testBit 2 = st.span ∧ st.stateByte.testBit 3 = st.sticky ∧ st.stateByte.testBit 4 = st.seen := by
  unfold ChainSt.stateByte
  generalize st.span = span, st.sticky = sticky, st.seen = seen
  revert span sticky seen
  cases st.sp <;> decide

/-- The fields of a record of an exact or block-scaled chain read back. -/
theorem ChainSt.record_fields (c : Cls) (hc : c = .exact ∨ c = .block) (st : ChainSt) (k : Nat) : let b := st.record c k
    field b 0 16 = unsigned 128 st.x ∧ field b 16 2 = unsigned 16 st.anchor ∧ field b 18 2 = unsigned 16 st.sigLo ∧
      field b 20 2 = unsigned 16 st.sigHi ∧ field b 22 1 = st.stateByte := by
  have read : ∀ (p q : List Byte) (o n x : Nat), o = p.length → x < 2 ^ (8 * n) → field (p ++ (leBytes n x ++ q)) o n = x :=
    fun p q o n x ho h => by rw [ho, ← List.append_assoc, field_mid, Nat.mod_eq_of_lt h]
  have bytes : ∃ q, st.record c k = leBytes 16 (unsigned 128 st.x) ++ (leBytes 2 (unsigned 16 st.anchor) ++
      (leBytes 2 (unsigned 16 st.sigLo) ++ (leBytes 2 (unsigned 16 st.sigHi) ++ (leBytes 1 st.stateByte ++ q)))) := by
    refine ⟨leBytes 1 c.code ++ (leBytes 4 k ++ leBytes 4 0), ?_⟩
    rcases hc with rfl | rfl <;> simp only [ChainSt.record, ChainSt.stateByte, List.append_assoc]
  obtain ⟨q, hq⟩ := bytes
  intro b
  rw [show b = _ from hq]
  refine ⟨read [] _ 0 16 _ rfl (unsigned_lt _ _), read (leBytes 16 _) _ 16 2 _ (by simp) (unsigned_lt _ _), ?_, ?_, ?_⟩
  · rw [← List.append_assoc]
    exact read _ _ 18 2 _ (by simp) (unsigned_lt _ _)
  · rw [← List.append_assoc, ← List.append_assoc]
    exact read _ _ 20 2 _ (by simp) (unsigned_lt _ _)
  · rw [← List.append_assoc, ← List.append_assoc, ← List.append_assoc]
    exact read _ _ 22 1 _ (by simp) st.stateByte_parts.1

/-- The record of an exact or block-scaled chain without a running sum gives its state back. -/
theorem ChainSt.ofRecord_record (c : Cls) (hc : c = .exact ∨ c = .block) (st : ChainSt) (k : Nat) (low : -2 ^ 127 ≤ st.x)
    (high : st.x < 2 ^ 127) (noSum : st.s = {}) (fits : st.ovf = false)
    (small : ∀ v ∈ [st.anchor, st.sigLo, st.sigHi], -2 ^ 15 ≤ v ∧ v < 2 ^ 15) : ChainSt.ofRecord c (st.record c k) = st := by
  obtain ⟨value, anchor, lo, hi, state⟩ := st.record_fields c hc k
  obtain ⟨-, sp, span, sticky, seen⟩ := st.stateByte_parts
  have back : ∀ v ∈ [st.anchor, st.sigLo, st.sigHi], signed 16 (unsigned 16 v) = v := fun v mem =>
    signed_unsigned (by decide) (small v mem).1 (small v mem).2
  have whole : signed 128 (unsigned 128 st.x) = st.x := signed_unsigned (by decide) low high
  have parts : ChainSt.ofRecord c (st.record c k) = { st with s := {}, ovf := false } := by
    simp only [ChainSt.ofRecord, value, anchor, lo, hi, state, sp, span, sticky, seen, whole, back st.anchor (by simp),
      back st.sigLo (by simp), back st.sigHi (by simp)]
    rcases hc with rfl | rfl <;> rfl
  rw [parts, ← noSum, ← fits]

/-! ### The split form (R78) -/

/-- How many parts of a list were not finite. -/
def badParts (l : List ChainSt) : Nat := l.countP (fun st => decide (st.sp ≠ .none))

/-- Over the parts, the HIGH buffer and the LOW buffer sum to X less 2^98 for each part that was not finite, where X is a sum of integers
whose magnitudes are those of the accumulators at most. -/
theorem splitForm_sums (l : List ChainSt) : let low : Int := (l.map (fun st => st.splitForm.1)).sum
    let high : Int := (l.map (fun st => st.splitForm.2)).sum
    0 ≤ low ∧ low ≤ 2 ^ 48 * l.length ∧ ∃ x : Int, high * 2 ^ 48 + low = x - 2 ^ 98 * badParts l ∧
      x.natAbs ≤ (l.map (fun st => st.x.natAbs)).sum ∧ (badParts l = 0 → x = (l.map ChainSt.x).sum) := by
  induction l with
  | nil => exact ⟨le_rfl, le_rfl, 0, rfl, le_rfl, fun _ => rfl⟩
  | cons st l ih =>
    obtain ⟨nonneg, bound, x, sum, size, finite⟩ := ih
    simp only [List.map_cons, List.sum_cons, List.length_cons]
    by_cases none' : st.sp = .none
    · have same : badParts (st :: l) = badParts l := by simp [badParts, none']
      rw [show st.splitForm = (st.x % 2 ^ 48, st.x / 2 ^ 48) from if_pos none', same]
      refine ⟨by omega, by push_cast; omega, st.x + x, by omega, by omega, fun all => by rw [finite all]⟩
    · have more : badParts (st :: l) = badParts l + 1 := by simp [badParts, none']
      rw [show st.splitForm = (0, -(2 : Int) ^ 50) from if_neg none', more]
      refine ⟨by omega, by push_cast; omega, x, by push_cast; omega, by omega, fun all => by omega⟩

theorem badParts_eq_zero_iff (l : List ChainSt) : badParts l = 0 ↔ l.all (fun st => decide (st.sp = .none)) = true := by
  simp [badParts, List.countP_eq_zero]

/-- The summed buffers of at most 4,096 parts give the sum back, or show that a part was not finite. -/
theorem splitJoin_sums (l : List ChainSt) (few : l.length ≤ 4096) (small : (l.map (fun st => st.x.natAbs)).sum < 2 ^ 88) :
    splitJoin (l.map (fun st => st.splitForm.1)).sum (l.map (fun st => st.splitForm.2)).sum =
      if l.all (fun st => decide (st.sp = .none)) then some (l.map ChainSt.x).sum else none := by
  obtain ⟨nonneg, bound, x, sum, size, finite⟩ := splitForm_sums l
  generalize (l.map (fun st => st.splitForm.1)).sum = low at *
  generalize (l.map (fun st => st.splitForm.2)).sum = high at *
  by_cases all : badParts l = 0
  · rw [if_pos ((badParts_eq_zero_iff l).1 all), ← finite all, splitJoin, if_neg (by omega)]
    congr 1
    omega
  · rw [if_neg (mt (badParts_eq_zero_iff l).2 all), splitJoin, if_pos (by omega)]

/-- Settles O15: every field of a record is read back, and the split form's sums are those of the accumulators less 2^98 for each part that
was not finite. -/
theorem chainRecordsAndSplitForm : Obligations.ChainRecordsAndSplitForm := by
  unfold Obligations.ChainRecordsAndSplitForm
  refine ⟨fun st k low high noSum fits anchor lo hi => st.ofRecord_record .exact (.inl rfl) k low high noSum fits ?_,
    fun st k low high noSum fits small => st.ofRecord_record .block (.inr rfl) k low high noSum fits small, splitJoin_sums⟩
  simp [anchor, lo, hi]

end Sys2Proof.Machine
end

section
/-! SUPPORT. The ends of tasks (spec/03_exact_path.md R81, spec/04_matrix_arrays.md R108, spec/06_gallery_streams_tiles.md R183,
spec/12_rings_contexts_rota.md R340, spec/15_integrity_records_guarantees.md R431): the units of a task that ends give up their work, what else
an abort does stops units at most, and a task that has ended keeps its status. -/

namespace Sys2Proof.Machine

/-! ### What leaves units and contexts alone -/

/-- Arrays, engines, streams and contexts are as before. -/
structure State.SameUnits (s t : State) : Prop where
  arr : t.arr = s.arr
  eng : t.eng = s.eng
  strm : t.strm = s.strm
  ctx : t.ctx = s.ctx

section
variable {s t u : State}

theorem State.SameUnits.refl (s : State) : s.SameUnits s := ⟨rfl, rfl, rfl, rfl⟩

theorem State.SameUnits.trans (h : s.SameUnits t) (h' : t.SameUnits u) : s.SameUnits u :=
  ⟨h'.arr.trans h.arr, h'.eng.trans h.eng, h'.strm.trans h.strm, h'.ctx.trans h.ctx⟩

theorem State.SameUnits.overList {α : Type} {f : α → State → State} (hf : ∀ x t, State.SameUnits t (f x t)) (l : List α) (s : State) :
    s.SameUnits (overList l f s) :=
  overList_keeps (fun t => s.SameUnits t) f (fun x t h => h.trans (hf x t)) l s (.refl s)

theorem State.SameUnits.ofIf {p : Prop} [Decidable p] (h : p → s.SameUnits t) : s.SameUnits (if p then t else s) := by
  split
  · exact h ‹_›
  · exact .refl s

theorem State.SameButRegs.sameUnits (h : s.SameButRegs t) : s.SameUnits t := by
  unfold State.SameButRegs at h
  exact ⟨by rw [h], by rw [h], by rw [h], by rw [h]⟩

theorem State.OnlySends.sameUnits (h : s.OnlySends t) : s.SameUnits t :=
  ⟨by rw [h.rest], by rw [h.rest], by rw [h.rest], h.ctx⟩

end

theorem State.SameUnits.wr (s : State) (a : Nat) (bs : List Byte) : s.SameUnits (s.wr a bs) := ⟨rfl, rfl, rfl, rfl⟩
theorem State.SameUnits.setSeq (s : State) (n : Nat) (x : Seq) : s.SameUnits (s.setSeq n x) := ⟨rfl, rfl, rfl, rfl⟩
theorem State.SameUnits.setFld (s : State) (f : Fld) (v i j : Nat) : s.SameUnits (s.setFld f v i j) := ⟨rfl, rfl, rfl, rfl⟩

theorem State.SameUnits.tornTout (s : State) (e : Nat) : s.SameUnits (s.tornTout e) := by
  unfold State.tornTout
  dsimp only
  split
  · exact .refl s
  · exact .ofIf fun _ => ⟨rfl, rfl, rfl, rfl⟩

theorem State.SameUnits.dropStreamReads (s : State) (f : Nat → Bool) : s.SameUnits (s.dropStreamReads f) := ⟨rfl, rfl, rfl, rfl⟩

theorem State.SameUnits.restoreCat (s : State) (m : Nat) : s.SameUnits (s.restoreCat m) := by
  unfold State.restoreCat
  dsimp only
  split
  · exact .refl s
  · exact ⟨rfl, rfl, rfl, rfl⟩

theorem State.SameUnits.putMover (s : State) (m : Nat) (x : Mover) : s.SameUnits (s.putMover m x) :=
  (show s.SameUnits (s.setMover m x) from ⟨rfl, rfl, rfl, rfl⟩).trans (s.putMover_regs m x).sameUnits

theorem State.SameUnits.stopMovers (s : State) (c t : Nat) : s.SameUnits (s.stopMovers c t) :=
  .overList (fun k u => .ofIf fun _ =>
    ((show u.SameUnits (u.dropMoverReads k.1) from ⟨rfl, rfl, rfl, rfl⟩).trans (.restoreCat _ k.1)).trans (.putMover _ k.1 _)) _ s

theorem State.SameUnits.putCourier (s : State) (q : Nat) (x : Courier) : s.SameUnits (s.putCourier q x) :=
  (show s.SameUnits (s.setCourier q x) from ⟨rfl, rfl, rfl, rfl⟩).trans (s.putCourier_regs q x).sameUnits

theorem State.SameUnits.stopCouriers (s : State) (c t : Nat) : s.SameUnits (s.stopCouriers c t) :=
  .overList (fun k _ => .ofIf fun _ => .putCourier _ k.1 _) _ s

theorem State.SameUnits.putShelf (s : State) (w h : Nat) (x : Shelf) : s.SameUnits (s.putShelf w h x) :=
  (show s.SameUnits (s.setShelf w h x) from ⟨rfl, rfl, rfl, rfl⟩).trans (s.putShelf_regs w h x).sameUnits

theorem State.SameUnits.breakShelf (s : State) (w h : Nat) : s.SameUnits (s.breakShelf w h) := by
  unfold State.breakShelf
  dsimp only
  split
  · exact .refl s
  · exact (State.SameUnits.putShelf s w h _).trans (.setFld _ _ _ _ _)

theorem State.SameUnits.breakShelves (s : State) (c t : Nat) : s.SameUnits (s.breakShelves c t) :=
  .overList (fun b u => .ofIf fun _ => .breakShelf u _ b.shelf) _ s

/-! ### The append of a task that stops (spec/10_attention_kv.md R296) -/

theorem State.SameUnits.setData (s : State) (n page : Nat) : s.SameUnits (s.setData n page) :=
  (s.galleryCorrected_regs (vestibule (s.seqOf n).wing (s.seqOf n).vslot) pageBytes).sameUnits.trans ⟨rfl, rfl, rfl, rfl⟩

theorem State.SameUnits.writePages (n : Nat) : ∀ (l : List Nat) (s : State), s.SameUnits (s.writePages n l)
  | [], s => .refl s
  | p :: l, s => by
    refine State.SameUnits.trans ?_ (State.SameUnits.writePages n l _)
    split
    · exact .setData s n p
    · exact ⟨rfl, rfl, rfl, rfl⟩

theorem State.SameUnits.keepLeaf (s : State) (c t n : Nat) (l : List Nat) : s.SameUnits (s.keepLeaf c t n l) := by
  unfold State.keepLeaf
  dsimp only
  split
  · exact .refl s
  · exact .writePages n _ s

theorem State.SameUnits.pushPage (s : State) (c p : Nat) (back : Bool) : s.SameUnits (s.pushPage c p back) := by
  unfold State.pushPage
  dsimp only
  split <;> exact ⟨rfl, rfl, rfl, rfl⟩

theorem State.SameUnits.reopenSeq (s : State) (n : Nat) : s.SameUnits (s.reopenSeq n) := .ofIf fun _ => .setSeq s n _

theorem State.SameUnits.endWait (s : State) (c t w : Nat) :
    let u := { s with kvWait := s.kvWait.filter (fun k => !(k.ctx == c && k.task == t)) }
    s.SameUnits ((u.setPool c 20 (u.poolWanted c - 1)).syncKva w) := ⟨rfl, rfl, rfl, rfl⟩

theorem State.SameUnits.stopAppend (s : State) (c t : Nat) : s.SameUnits (s.stopAppend c t) := by
  unfold State.stopAppend
  split
  · exact .refl s
  · next k _ =>
      exact (((State.SameUnits.keepLeaf s c t k.seq k.pages).trans (.overList (fun p u => .pushPage u c p true) _ _)).trans
        (.reopenSeq _ k.seq)).trans (.endWait _ c t (s.seqOf k.seq).wing)

/-! ### What an abort sends (spec/11_ralda_link.md R321) -/

theorem State.SameUnits.sendMsg (s : State) (p : Nat) (m : Msg) (o : Option (Nat × Nat)) : s.SameUnits (s.sendMsg p m o) :=
  (State.OnlySends.sendMsg s p m o).sameUnits

theorem State.SameUnits.abortBack (s : State) (p : Nat) (m : Msg) (st : Status) : s.SameUnits (s.abortBack p m st) := by
  have route : s.SameUnits (s.backRoute p m.hop).2 := by
    unfold State.backRoute
    split
    · exact .refl s
    · exact ⟨rfl, rfl, rfl, rfl⟩
  exact route.trans (.sendMsg _ p _ _)

theorem State.SameUnits.abortOnward (s : State) (c op : Nat) (st : Status) : s.SameUnits (s.abortOnward c op st) :=
  .ofIf fun _ => .overList (fun _ u => .sendMsg u _ _ _) _ s

theorem State.SameUnits.transportAborts (s : State) (c t : Nat) (st : Status) : s.SameUnits (s.transportAborts c t st) := by
  refine ((State.OnlySends.sendTree s _ _).sameUnits.trans
    (.overList (fun e u => .overList (fun p v => .sendMsg v _ _ _) _ u) _ _)).trans (.overList (fun b u => .ofIf fun _ => ?_) _ _)
  exact (State.SameUnits.overList (fun y v => .abortBack v _ _ st) _ u).trans (.abortOnward _ c b.op st)

theorem State.SameUnits.emptyQueues (s : State) (c t : Nat) : s.SameUnits (s.emptyQueues c t) := by
  refine .overList (fun b u => ?_) _ s
  dsimp only
  exact .ofIf fun _ => ⟨rfl, rfl, rfl, rfl⟩

/-! ### Units that stop -/

/-- An array that holds no work: no chain state, no shadow register and no active operand. -/
def ArrayU.Quiet (x : ArrayU) : Prop := x.busy = false ∧ x.store = [] ∧ x.shadow = [] ∧ x.active = []

/-- A stream that serves no task and whose slots are EMPTY. -/
def Stream.Quiet (x : Stream) : Prop := x.held = false ∧ ∀ i, x.slot i = .empty

theorem ArrayU.quiet_aborted (x : ArrayU) : x.aborted.Quiet := ⟨rfl, rfl, rfl, rfl⟩

theorem Stream.quiet_stopped (x : Stream) : x.stopped.Quiet := by
  refine ⟨rfl, fun i => ?_⟩
  simp only [Stream.slot, nth, Stream.stopped, List.getElem?_map]
  cases x.slots[i]? <;> rfl

/-- Some units have stopped; every other unit, and every task as it runs, is as before. -/
structure State.StopsUnits (s t : State) : Prop where
  array : ∀ a, t.array a = s.array a ∨ (t.array a).Quiet
  engine : ∀ e, t.engine e = s.engine e ∨ (t.engine e).run = .idle
  stream : ∀ u, t.stream u = s.stream u ∨ (t.stream u).Quiet
  task : ∀ c k, t.rt c k = s.rt c k

section
variable {s t u : State}

theorem State.rt_congr (h : t.ctx = s.ctx) (c k : Nat) : t.rt c k = s.rt c k := by rw [State.rt, State.prog_congr h, State.rt]

theorem State.SameUnits.stopsUnits (h : s.SameUnits t) : s.StopsUnits t :=
  ⟨fun _ => .inl (by rw [State.array, h.arr, State.array]), fun _ => .inl (by rw [State.engine, h.eng, State.engine]),
    fun _ => .inl (by rw [State.stream, h.strm, State.stream]), State.rt_congr h.ctx⟩

theorem State.StopsUnits.trans (h : s.StopsUnits t) (h' : t.StopsUnits u) : s.StopsUnits u where
  array a := (h'.array a).elim (fun same => same ▸ h.array a) .inr
  engine e := (h'.engine e).elim (fun same => same ▸ h.engine e) .inr
  stream k := (h'.stream k).elim (fun same => same ▸ h.stream k) .inr
  task c k := (h'.task c k).trans (h.task c k)

theorem State.StopsUnits.overList {α : Type} {f : α → State → State} (hf : ∀ x t, State.StopsUnits t (f x t)) (l : List α) (s : State) :
    s.StopsUnits (overList l f s) :=
  overList_keeps (fun t => s.StopsUnits t) f (fun x t h => h.trans (hf x t)) l s (State.SameUnits.refl s).stopsUnits

/-- What has stopped stays so. -/
theorem State.StopsUnits.quietArray (h : s.StopsUnits t) {a : Nat} (quiet : (s.array a).Quiet) : (t.array a).Quiet :=
  (h.array a).elim (fun same => same ▸ quiet) id

theorem State.StopsUnits.idleEngine (h : s.StopsUnits t) {e : Nat} (idle : (s.engine e).run = .idle) : (t.engine e).run = .idle :=
  (h.engine e).elim (fun same => same ▸ idle) id

theorem State.StopsUnits.quietStream (h : s.StopsUnits t) {k : Nat} (quiet : (s.stream k).Quiet) : (t.stream k).Quiet :=
  (h.stream k).elim (fun same => same ▸ quiet) id

end

theorem State.cx_setCx_eq (s : State) (c c' : Nat) (x : Context) : (s.setCx c x).cx c' = if c' = c then x else s.cx c' := by
  split
  · subst c'
    exact s.cx_setCx c x
  · exact s.cx_setCx_other c c' x ‹_›

/-- A change of a program beside its tasks leaves every task as it runs. -/
theorem State.rt_updProg (s : State) (c : Nat) {f : Prog → Prog} (keeps : ∀ g, (f g).tasks = g.tasks) (c' k : Nat) :
    (s.updProg c f).rt c' k = s.rt c' k := by
  simp only [State.rt, State.prog, State.updProg, State.updCx_eq, State.cx_setCx_eq]
  split
  · subst c'
    cases (s.cx c).prog with
    | none => rfl
    | some g => exact congrArg (Tbl.get {} · k) (keeps g)
  · rfl

theorem State.StopsUnits.updProg (s : State) (c : Nat) {f : Prog → Prog} (keeps : ∀ g, (f g).tasks = g.tasks) : s.StopsUnits (s.updProg c f) :=
  ⟨fun _ => .inl rfl, fun _ => .inl rfl, fun _ => .inl rfl, s.rt_updProg c keeps⟩

theorem State.StopsUnits.dropProducts (s : State) (c t : Nat) : s.StopsUnits (s.dropProducts c t) := .updProg s c fun _ => rfl

theorem State.StopsUnits.setLedger (s : State) (c le : Nat) (x : LedgerRt) : s.StopsUnits (s.setLedger c le x) := .updProg s c fun _ => rfl

theorem State.StopsUnits.undoUpdates (s : State) (c le st : Nat) : s.StopsUnits (s.undoUpdates c le st) :=
  (State.SameUnits.overList (f := fun (g : Nat × List Byte) u =>
    let a := u.groupAddr c g.1
    ((u.wr a (g.2.take 4)).wr (a + 48) ((g.2.drop 48).take 16)).setLastStatus c g.1 st)
    (fun _ _ => ⟨rfl, rfl, rfl, rfl⟩) _ s).stopsUnits.trans (.setLedger _ c le _)

theorem State.StopsUnits.ledgerAbortMark (s : State) (c t : Nat) (st : Status) : s.StopsUnits (s.ledgerAbortMark c t st) := by
  refine .overList (fun le u => ?_) _ s
  dsimp only
  split
  · exact (State.SameUnits.refl u).stopsUnits
  · exact ((State.StopsUnits.setLedger u c le _).trans (.undoUpdates _ c le _)).trans (State.OnlySends.sendTree _ _ _).sameUnits.stopsUnits

/-! ### Arrays, engines and streams of a task that aborts (R108, R183) -/

/-- Storing an array changes it and registers. -/
theorem State.putArray_regs (s : State) (a : Nat) (x : ArrayU) : (s.setArray a x).SameButRegs (s.putArray a x) :=
  (State.SameButRegs.refl.setFld _ _ _ _).setFld _ _ _ _

theorem State.array_putArray (s : State) (a : Nat) (x : ArrayU) (b : Nat) : (s.putArray a x).array b = if b = a then x else s.array b := by
  have arr : (s.putArray a x).arr = (s.setArray a x).arr := (s.putArray_regs a x).sameUnits.arr
  rw [State.array, arr]
  split
  · subst b
    exact s.array_setArray a x
  · exact s.array_setArray_other a b x ‹_›

theorem State.array_freeArray (s : State) (a b : Nat) : (s.freeArray a).array b = if b = a then (s.array a).freed else s.array b :=
  s.array_putArray a _ b

theorem State.array_abortArray (s : State) (a b : Nat) : (s.abortArray a).array b = if b = a then (s.array a).aborted else s.array b :=
  State.array_putArray _ a _ b

theorem State.engine_freeEngine (s : State) (e b : Nat) :
    (s.freeEngine e).engine b = if b = e then { s.engine e with run := .idle } else s.engine b := by
  split
  · subst b
    exact s.engine_setEngine e _
  · exact s.engine_setEngine_other e b _ ‹_›

theorem State.StopsUnits.abortArray (s : State) (a : Nat) : s.StopsUnits (s.abortArray a) where
  array b := by
    rw [State.array_abortArray]
    split
    · exact .inr (ArrayU.quiet_aborted _)
    · exact .inl rfl
  engine _ := .inl rfl
  stream _ := .inl rfl
  task _ _ := rfl

theorem State.StopsUnits.freeEngine (s : State) (e : Nat) : s.StopsUnits (s.freeEngine e) where
  array _ := .inl rfl
  engine b := by
    rw [State.engine_freeEngine]
    split
    · exact .inr rfl
    · exact .inl rfl
  stream _ := .inl rfl
  task _ _ := rfl

/-- A stream unit works for a task. -/
def State.serves (s : State) (c t k : Nat) : Bool := (s.stream k).held && (s.stream k).ctx == c && (s.stream k).task == t

/-- A stream unit that works for a task ends. -/
def State.stopStream (c t k : Nat) (s : State) : State := if s.serves c t k then s.putStream k (s.stream k).stopped else s

theorem State.stopStreams_eq (s : State) (c t : Nat) :
    s.stopStreams c t = overList s.strm (fun k u => u.stopStream c t k.1) (s.dropStreamReads (s.serves c t)) := rfl

theorem State.stream_putStream (s : State) (k : Nat) (x : Stream) (j : Nat) :
    (s.putStream k x).stream j = if j = k then x else s.stream j := by
  have strm : (s.putStream k x).strm = (s.setStream k x).strm := (s.putStream_regs k x false).strm
  rw [State.stream, strm]
  split
  · subst j
    exact s.stream_setStream k x
  · exact s.stream_setStream_other x ‹_›

theorem State.StopsUnits.stopStream (s : State) (c t k : Nat) : s.StopsUnits (s.stopStream c t k) := by
  unfold State.stopStream
  split
  · have same := (s.putStream_regs k (s.stream k).stopped false).sameUnits
    refine ⟨fun a => .inl ?_, fun e => .inl ?_, fun j => ?_, State.rt_congr same.ctx⟩
    · rw [State.array, same.arr]; rfl
    · rw [State.engine, same.eng]; rfl
    · rw [State.stream_putStream]
      split
      · exact .inr (Stream.quiet_stopped _)
      · exact .inl rfl
  · exact (State.SameUnits.refl s).stopsUnits

theorem State.StopsUnits.not_serves {s u : State} (h : s.StopsUnits u) {c t k : Nat} (no : s.serves c t k = false) : u.serves c t k = false := by
  rcases h.stream k with same | quiet
  · rw [State.serves, same]
    exact no
  · simp [State.serves, quiet.1]

theorem State.stopStream_not_serves (s : State) (c t k : Nat) : (s.stopStream c t k).serves c t k = false := by
  unfold State.stopStream
  split
  · simp [State.serves, State.stream_putStream, Stream.stopped]
  · exact eq_false_of_ne_true ‹_›

theorem State.StopsUnits.stopStreams (s : State) (c t : Nat) : s.StopsUnits (s.stopStreams c t) := by
  rw [State.stopStreams_eq]
  exact (State.SameUnits.dropStreamReads s _).stopsUnits.trans (.overList
    (f := fun (k : Nat × Stream) u => u.stopStream c t k.1) (fun k u => .stopStream u c t k.1) _ _)

/-- Every stream that works for the task ends. -/
theorem State.stopStreams_quiet (s : State) {c t k : Nat} (serves : s.serves c t k = true) : ((s.stopStreams c t).stream k).Quiet := by
  have listed : (k, s.stream k) ∈ s.strm := Tbl.mem_of_get_ne fun none' => by
    rw [State.serves, State.stream, none'] at serves
    cases serves
  have ended : (s.stopStreams c t).serves c t k = false := by
    rw [State.stopStreams_eq]
    exact overList_attains (P := fun u => u.serves c t k = false) (f := fun (j : Nat × Stream) u => u.stopStream c t j.1) listed
      (fun u => u.stopStream_not_serves c t k) (fun j u no => (State.StopsUnits.stopStream u c t j.1).not_serves no) _
  refine ((State.StopsUnits.stopStreams s c t).stream k).resolve_left fun same => ?_
  rw [State.serves, same] at ended
  exact Bool.false_ne_true (ended.symm.trans serves)

/-! ### The stages of an abort -/

/-- The entry of a task that aborts. -/
def TaskRt.aborted (x : TaskRt) (st : Status) (detail : W64) (remote : Bool) : TaskRt :=
  { x with st := .aborted, status := st, detail := detail, remote := remote, rep := [], att := none }

def State.abortArrays (s : State) (c t : Nat) : State := overList (s.arraysOf c t) (fun a s => s.abortArray a) s

def State.abortEngines (s : State) (c t : Nat) : State := overList (s.enginesOf c t) (fun e s => (s.tornTout e).freeEngine e) s

def State.abortStreams (s : State) (c t : Nat) : State := (s.stopStreams c t).dropStreamReads (s.task c t).recallUnits.contains

/-- What an abort does after the task's arrays, engines and streams have stopped. -/
def State.abortRest (s : State) (c t : Nat) (st : Status) (remote : Bool) : State :=
  let s := ((((s.stopMovers c t).stopCouriers c t).breakShelves c t).stopAppend c t).dropProducts c t
  let s := overList (s.task c t).updGroups (fun g s => s.setLastStatus c g st.code) s
  ((if remote then s else s.ledgerAbortMark c t st).transportAborts c t st).emptyQueues c t

/-- What an abort does after it has set the task's own entry. -/
def State.abortUnits (s : State) (c t : Nat) (st : Status) (remote : Bool) : State :=
  (((s.abortArrays c t).abortEngines c t).abortStreams c t).abortRest c t st remote

theorem State.abortOne_eq (s : State) (c t : Nat) (st : Status) (d : W64) (remote : Bool) :
    s.abortOne c t st d remote = (s.updRt c t (fun x => x.aborted st d remote)).abortUnits c t st remote := rfl

theorem State.StopsUnits.abortArrays (s : State) (c t : Nat) : s.StopsUnits (s.abortArrays c t) :=
  .overList (f := fun a s => s.abortArray a) (fun a u => .abortArray u a) _ s

theorem State.StopsUnits.tornFree (s : State) (e : Nat) : s.StopsUnits ((s.tornTout e).freeEngine e) :=
  (State.SameUnits.tornTout s e).stopsUnits.trans (.freeEngine _ e)

theorem State.StopsUnits.abortEngines (s : State) (c t : Nat) : s.StopsUnits (s.abortEngines c t) :=
  .overList (f := fun e s => (s.tornTout e).freeEngine e) (fun e u => .tornFree u e) _ s

theorem State.StopsUnits.abortStreams (s : State) (c t : Nat) : s.StopsUnits (s.abortStreams c t) :=
  (State.StopsUnits.stopStreams s c t).trans (State.SameUnits.dropStreamReads _ _).stopsUnits

theorem State.StopsUnits.markUnlessRemote (s : State) (c t : Nat) (st : Status) (remote : Bool) :
    s.StopsUnits (if remote then s else s.ledgerAbortMark c t st) := by
  split
  · exact (State.SameUnits.refl s).stopsUnits
  · exact .ledgerAbortMark s c t st

theorem State.StopsUnits.setStatuses (s : State) (c : Nat) (l : List Nat) (code : Nat) :
    s.StopsUnits (Machine.overList l (fun g s => s.setLastStatus c g code) s) :=
  (State.SameUnits.overList (f := fun g s => s.setLastStatus c g code) (fun _ _ => .wr _ _ _) l s).stopsUnits

theorem State.StopsUnits.abortRest (s : State) (c t : Nat) (st : Status) (remote : Bool) : s.StopsUnits (s.abortRest c t st remote) := by
  have moves := (((State.SameUnits.stopMovers s c t).trans (.stopCouriers _ c t)).trans (.breakShelves _ c t)).trans (.stopAppend _ c t)
  exact ((((moves.stopsUnits.trans (.dropProducts _ c t)).trans (.setStatuses _ c _ st.code)).trans (.markUnlessRemote _ c t st remote)).trans
    (State.SameUnits.transportAborts _ c t st).stopsUnits).trans (State.SameUnits.emptyQueues _ c t).stopsUnits

section
variable (s : State) (c t : Nat)

theorem State.mem_arraysOf {a : Nat} :
    a ∈ s.arraysOf c t ↔ a < 8 ∧ (s.array a).busy = true ∧ (s.array a).ctx = c ∧ (s.array a).task = t := by
  simp [State.arraysOf, and_assoc]

theorem State.mem_enginesOf {e : Nat} (busy : (s.engine e).run ≠ .idle) (ctx : (s.engine e).ctx = c) (task : (s.engine e).task = t) :
    e ∈ s.enginesOf c t := by
  have listed : (e, s.engine e) ∈ s.eng := Tbl.mem_of_get_ne fun none' => busy (by rw [State.engine, none'])
  exact List.mem_map.2 ⟨_, List.mem_filter.2 ⟨listed, by simp [busy, ctx, task]⟩, rfl⟩

theorem State.abortArrays_quiet {a : Nat} (mem : a ∈ s.arraysOf c t) : ((s.abortArrays c t).array a).Quiet :=
  overList_attains (P := fun u => (u.array a).Quiet) (f := fun a s => s.abortArray a) mem
    (fun u => by rw [State.array_abortArray, if_pos rfl]; exact ArrayU.quiet_aborted _)
    (fun b u quiet => (State.StopsUnits.abortArray u b).quietArray quiet) s

theorem State.abortEngines_idle {e : Nat} (mem : e ∈ s.enginesOf c t) : ((s.abortEngines c t).engine e).run = .idle :=
  overList_attains (P := fun u => (u.engine e).run = .idle) (f := fun e s => (s.tornTout e).freeEngine e) mem
    (fun u => by rw [State.engine_freeEngine, if_pos rfl]) (fun b u idle => (State.StopsUnits.tornFree u b).idleEngine idle) s

end

section
variable (s : State) (c t : Nat) (st : Status) (remote : Bool)

theorem State.StopsUnits.abortUnits : s.StopsUnits (s.abortUnits c t st remote) :=
  (((State.StopsUnits.abortArrays s c t).trans (.abortEngines _ c t)).trans (.abortStreams _ c t)).trans (.abortRest _ c t st remote)

theorem State.abortUnits_array {a : Nat} (mem : a ∈ s.arraysOf c t) : ((s.abortUnits c t st remote).array a).Quiet :=
  (((State.StopsUnits.abortEngines _ c t).trans (.abortStreams _ c t)).trans (.abortRest _ c t st remote)).quietArray
    (s.abortArrays_quiet c t mem)

theorem State.abortUnits_engine {e : Nat} (busy : (s.engine e).run ≠ .idle) (ctx : (s.engine e).ctx = c) (task : (s.engine e).task = t) :
    ((s.abortUnits c t st remote).engine e).run = .idle := by
  refine ((State.StopsUnits.abortStreams _ c t).trans (.abortRest _ c t st remote)).idleEngine ?_
  rcases (State.StopsUnits.abortArrays s c t).engine e with same | idle
  · exact State.abortEngines_idle _ c t (State.mem_enginesOf _ c t (same ▸ busy) (same ▸ ctx) (same ▸ task))
  · exact (State.StopsUnits.abortEngines _ c t).idleEngine idle

theorem State.abortUnits_stream {k : Nat} (serves : s.serves c t k = true) : ((s.abortUnits c t st remote).stream k).Quiet := by
  refine (State.StopsUnits.abortRest _ c t st remote).quietStream ((State.SameUnits.dropStreamReads _ _).stopsUnits.quietStream ?_)
  rcases ((State.StopsUnits.abortArrays s c t).trans (.abortEngines _ c t)).stream k with same | quiet
  · exact State.stopStreams_quiet _ (by unfold State.serves; rw [same]; exact serves)
  · exact (State.StopsUnits.stopStreams _ c t).quietStream quiet

end

/-! ### The abort of a task and of its peers -/

theorem State.rt_updRt_other (s : State) (c : Nat) {t k : Nat} (h : k ≠ t) (f : TaskRt → TaskRt) : (s.updRt c t f).rt c k = s.rt c k := by
  simp only [State.rt, State.updRt, State.prog_updProg]
  cases s.prog c with
  | none => rfl
  | some g => exact Tbl.get_upd_other _ _ _ _ _ _ h

/-- Tasks of a context that have ended, and units that have stopped, are so still. -/
structure State.KeepsEnds (c : Nat) (s t : State) : Prop where
  task : ∀ k, (s.rt c k).st.ended = true → t.rt c k = s.rt c k
  array : ∀ a, (s.array a).Quiet → (t.array a).Quiet
  engine : ∀ e, (s.engine e).run = .idle → (t.engine e).run = .idle
  stream : ∀ u, (s.stream u).Quiet → (t.stream u).Quiet

theorem State.KeepsEnds.refl (c : Nat) (s : State) : State.KeepsEnds c s s := ⟨fun _ _ => rfl, fun _ => id, fun _ => id, fun _ => id⟩

theorem State.KeepsEnds.trans {c : Nat} {s t u : State} (h : State.KeepsEnds c s t) (h' : State.KeepsEnds c t u) : State.KeepsEnds c s u where
  task k ended := (h'.task k (by rw [h.task k ended]; exact ended)).trans (h.task k ended)
  array a quiet := h'.array a (h.array a quiet)
  engine e idle := h'.engine e (h.engine e idle)
  stream k quiet := h'.stream k (h.stream k quiet)

theorem State.KeepsEnds.abortOne (s : State) (c t : Nat) (going : (s.rt c t).st.ended = false) (st : Status) (d : W64) (remote : Bool) :
    State.KeepsEnds c s (s.abortOne c t st d remote) := by
  have stops : (s.updRt c t (fun x => x.aborted st d remote)).StopsUnits (s.abortOne c t st d remote) := .abortUnits _ c t st remote
  refine ⟨fun k ended => ?_, fun _ => stops.quietArray, fun _ => stops.idleEngine, fun _ => stops.quietStream⟩
  have other : k ≠ t := fun same => Bool.false_ne_true (going.symm.trans (same ▸ ended))
  rw [stops.task c k, s.rt_updRt_other c other]

/-- The aborts of peers pass by every task that has ended. -/
theorem State.KeepsEnds.abortPeers (c : Nat) (st : Status) : ∀ (n : Nat) (l : List Nat) (s : State),
    State.KeepsEnds c s (State.abortPeers c st n l s)
  | 0, _, s => .refl c s
  | _ + 1, [], s => .refl c s
  | n + 1, t :: l, s => by
    rw [State.abortPeers]
    split
    · exact .abortPeers c st n l s
    · next going =>
      exact (State.KeepsEnds.abortOne s c t (eq_false_of_ne_true fun ended => going (.inl ended)) st _ true).trans
        (.abortPeers c st n _ _)

theorem State.prog_of_live {s : State} {c t : Nat} (live : (s.rt c t).st.live = true) : ∃ g, s.prog c = some g := by
  cases admitted : s.prog c with
  | some g => exact ⟨g, rfl⟩
  | none =>
    rw [State.rt, admitted] at live
    cases live

theorem TaskState.not_ended_of_live {x : TaskState} (live : x.live = true) : x.ended = false := by
  cases x with
  | armed | running | suspended => rfl
  | idle | completed | aborted | cancelled => cases live

section
variable {s : State} {c t : Nat} (live : (s.rt c t).st.live = true) (inRun : (s.rt c t).inRun = true) (st : Status) (d : W64)
include live inRun

/-- What the abort of the task itself brings about, the aborts of its peers keep. -/
theorem State.KeepsEnds.abortTask : State.KeepsEnds c (s.abortOne c t st d false) (s.abortTask c t st d) := by
  rw [State.abortTask, if_neg (by simp [TaskState.not_ended_of_live live, inRun])]
  exact .abortPeers c st _ _ _

theorem State.abortTask_rt : (s.abortTask c t st d).rt c t = (s.rt c t).aborted st d false := by
  obtain ⟨g, admitted⟩ := State.prog_of_live live
  have own : (s.abortOne c t st d false).rt c t = (s.rt c t).aborted st d false := by
    rw [State.abortOne_eq, (State.StopsUnits.abortUnits _ c t st false).task c t, State.rt_updRt admitted]
  rw [(State.KeepsEnds.abortTask live inRun st d).task t (by rw [own]; rfl), own]

theorem State.abortTask_spec : let u := s.abortTask c t st d
    (u.rt c t).st = .aborted ∧ (u.rt c t).status = st ∧ (u.rt c t).detail = d ∧ (u.rt c t).rep = [] ∧
    (∀ a, a < 8 → (s.array a).busy = true → (s.array a).ctx = c → (s.array a).task = t → (u.array a).Quiet) ∧
    (∀ e, (s.engine e).run ≠ .idle → (s.engine e).ctx = c → (s.engine e).task = t → (u.engine e).run = .idle) ∧
    (∀ k, (s.stream k).held = true → (s.stream k).ctx = c → (s.stream k).task = t → (u.stream k).Quiet) := by
  intro u
  have after : State.KeepsEnds c (s.abortOne c t st d false) u := .abortTask live inRun st d
  rw [show u.rt c t = _ from State.abortTask_rt live inRun st d]
  exact ⟨rfl, rfl, rfl, rfl,
    fun a lt busy ctx task => after.array a (State.abortUnits_array _ c t st false ((State.mem_arraysOf _ c t).2 ⟨lt, busy, ctx, task⟩)),
    fun e busy ctx task => after.engine e (State.abortUnits_engine _ c t st false busy ctx task),
    fun k held ctx task => after.stream k (State.abortUnits_stream _ c t st false
      (show s.serves c t k = true by simp [State.serves, held, ctx, task]))⟩

end

/-! ### The completion of a task -/

theorem foldl_reports_tasks (l : Tbl SmRep) : ∀ p : Prog, (l.foldl (fun p x => { p with
    sm := p.sm.stick x.1 x.2, merged := if x.1 = 0xFFFF then p.merged else Tbl.upd {} p.merged x.1 (fun y => y.merge x.2) }) p).tasks = p.tasks := by
  induction l with
  | nil => exact fun _ => rfl
  | cons x l ih => exact fun p => by rw [List.foldl_cons, ih]

theorem State.rt_handReports (s : State) (c t c' k : Nat) : (s.handReports c t).rt c' k = s.rt c' k :=
  s.rt_updProg c (foldl_reports_tasks _) c' k

theorem State.SameUnits.endChans (s : State) (courier : Bool) (unit : Nat) : s.SameUnits (s.endChans courier unit) :=
  .overList (fun _ _ => .ofIf fun _ => .wr _ _ _) _ s

/-- The end of a task gives up its courier queues. -/
def State.endCouriers (s : State) (c t : Nat) : State := overList s.cour (fun k s =>
  let x := s.courier k.1
  if x.held && x.ctx == c && x.task == t then (s.endChans true k.1).putCourier k.1 { x with held := false } else s) s

theorem State.SameUnits.endCouriers (s : State) (c t : Nat) : s.SameUnits (s.endCouriers c t) :=
  .overList (fun k u => .ofIf fun _ => (State.SameUnits.endChans u true k.1).trans (.putCourier _ k.1 _)) _ s

/-- The arrays of a task are freed. -/
def State.freeArrays (s : State) (l : List Nat) : State := overList l (fun a s => s.freeArray a) s

def State.freeEngines (s : State) (l : List Nat) : State := overList l (fun e s => s.freeEngine e) s

theorem State.freeArrays_array (a : Nat) : ∀ (l : List Nat) (s : State),
    (s.freeArrays l).array a = if a ∈ l then (s.array a).freed else s.array a
  | [], _ => rfl
  | b :: l, s => by
    show ((s.freeArray b).freeArrays l).array a = _
    rw [State.freeArrays_array a l, State.array_freeArray]
    by_cases same : a = b <;> by_cases more : a ∈ l <;> simp [same, more, ArrayU.freed]

theorem State.freeEngines_engine (e : Nat) : ∀ (l : List Nat) (s : State),
    (s.freeEngines l).engine e = if e ∈ l then { s.engine e with run := .idle } else s.engine e
  | [], _ => rfl
  | b :: l, s => by
    show ((s.freeEngine b).freeEngines l).engine e = _
    rw [State.freeEngines_engine e l, State.engine_freeEngine]
    by_cases same : e = b <;> by_cases more : e ∈ l <;> simp [same, more]

theorem State.freeArrays_ctx (l : List Nat) (s : State) : (s.freeArrays l).ctx = s.ctx :=
  overList_same (fun u => u.ctx) (fun a u => u.freeArray a) (fun _ _ => rfl) l s

theorem State.freeArrays_eng (l : List Nat) (s : State) : (s.freeArrays l).eng = s.eng :=
  overList_same (fun u => u.eng) (fun a u => u.freeArray a) (fun _ _ => rfl) l s

theorem State.freeEngines_ctx (l : List Nat) (s : State) : (s.freeEngines l).ctx = s.ctx :=
  overList_same (fun u => u.ctx) (fun e u => u.freeEngine e) (fun _ _ => rfl) l s

theorem State.freeEngines_arr (l : List Nat) (s : State) : (s.freeEngines l).arr = s.arr :=
  overList_same (fun u => u.arr) (fun e u => u.freeEngine e) (fun _ _ => rfl) l s

/-- The entry of a task that completes. -/
def TaskRt.completed (x : TaskRt) (st : Status) (detail : W64) : TaskRt := { x with st := .completed, status := st, detail := detail }

/-- A task's reports go to the scale manager, and its entry is completed. -/
def State.completeEntry (s : State) (c t : Nat) (st : Status) (d : W64) : State :=
  (s.handReports c t).updRt c t (fun x => x.completed st d)

theorem State.enginesOf_congr {s u : State} (h : u.eng = s.eng) (c t : Nat) : u.enginesOf c t = s.enginesOf c t := by
  rw [State.enginesOf, h, State.enginesOf]

section
variable (s : State) (c t : Nat) (st : Status) (d : W64)

theorem State.completeTask_eq : s.completeTask c t st d =
    (((s.completeEntry c t st d).freeArrays (s.arraysOf c t)).freeEngines (s.enginesOf c t)).endCouriers c t := by
  have same : ((s.completeEntry c t st d).freeArrays (s.arraysOf c t)).enginesOf c t = s.enginesOf c t :=
    State.enginesOf_congr (s := s) (State.freeArrays_eng _ (s.completeEntry c t st d)) c t
  rw [← same]
  rfl

theorem State.completeTask_array (a : Nat) :
    (s.completeTask c t st d).array a = if a ∈ s.arraysOf c t then (s.array a).freed else s.array a := by
  rw [State.completeTask_eq, State.array, (State.SameUnits.endCouriers _ c t).arr, State.freeEngines_arr]
  exact State.freeArrays_array a _ _

theorem State.completeTask_engine (e : Nat) :
    (s.completeTask c t st d).engine e = if e ∈ s.enginesOf c t then { s.engine e with run := .idle } else s.engine e := by
  have same : ((s.completeEntry c t st d).freeArrays (s.arraysOf c t)).engine e = s.engine e := by
    rw [State.engine, State.freeArrays_eng]
    rfl
  rw [State.completeTask_eq, State.engine, (State.SameUnits.endCouriers _ c t).eng, ← same]
  exact State.freeEngines_engine e _ _

theorem State.completeTask_rt {g : Prog} (admitted : s.prog c = some g) : (s.completeTask c t st d).rt c t = (s.rt c t).completed st d := by
  have ctx : (s.completeTask c t st d).ctx = (s.completeEntry c t st d).ctx := by
    rw [State.completeTask_eq, (State.SameUnits.endCouriers _ c t).ctx, State.freeEngines_ctx, State.freeArrays_ctx]
  have handed : ∃ h, (s.handReports c t).prog c = some h := by
    simp only [State.handReports, State.prog_updProg, admitted]
    exact ⟨_, rfl⟩
  obtain ⟨h, handed⟩ := handed
  rw [State.rt_congr ctx, State.completeEntry, State.rt_updRt handed, State.rt_handReports]

end

theorem Tbl.get_of_mem {α : Type} {d e : α} [DecidableEq α] {k : Nat} {x : α} :
    ∀ {m : Tbl α}, Tbl.Wf d m → (k, x) ∈ m → Tbl.get e m k = x
  | b :: m, wf, mem => by
    obtain ⟨rising, listed⟩ := wf
    rw [List.pairwise_cons] at rising
    rcases List.mem_cons.1 mem with rfl | later
    · exact if_pos rfl
    · rw [Tbl.get, if_neg (rising.1 _ later).ne]
      exact Tbl.get_of_mem ⟨rising.2, fun y hy => listed y (List.mem_cons_of_mem _ hy)⟩ later

/-- With one entry for each engine, the engines that work for a task are of its context. -/
theorem State.ctx_of_mem_enginesOf {s : State} {c t e : Nat} (wf : Tbl.Wf {} s.eng) (mem : e ∈ s.enginesOf c t) : (s.engine e).ctx = c := by
  obtain ⟨⟨k, x⟩, filtered, rfl⟩ := List.mem_map.1 mem
  obtain ⟨listed, works⟩ := List.mem_filter.1 filtered
  rw [State.engine, Tbl.get_of_mem wf listed]
  simp only [Bool.and_eq_true, beq_iff_eq] at works
  obtain ⟨⟨-, ctx⟩, -⟩ := works
  exact ctx

theorem State.completeTask_spec {s : State} {c t : Nat} (running : s.running c t = true) (st : Status) (d : W64) : let u := s.completeTask c t st d
    (u.rt c t).st = .completed ∧ (u.rt c t).status = st ∧ (u.rt c t).detail = d ∧
    (∀ a, a < 8 → (s.array a).busy = true → (s.array a).ctx = c → (s.array a).task = t → (u.array a).busy = false) ∧
    (∀ e, (s.engine e).run ≠ .idle → (s.engine e).ctx = c → (s.engine e).task = t → (u.engine e).run = .idle) ∧
    (∀ a, (s.array a).ctx ≠ c → u.array a = s.array a) ∧ ∀ e, Tbl.Wf {} s.eng → (s.engine e).ctx ≠ c → u.engine e = s.engine e := by
  obtain ⟨g, admitted⟩ := State.prog_of_running running
  intro u
  rw [show u.rt c t = _ from s.completeTask_rt c t st d admitted]
  refine ⟨rfl, rfl, rfl, fun a lt busy ctx task => ?_, fun e busy ctx task => ?_, fun a other => ?_, fun e wf other => ?_⟩
  · rw [s.completeTask_array, if_pos ((s.mem_arraysOf c t).2 ⟨lt, busy, ctx, task⟩)]
    rfl
  · rw [s.completeTask_engine, if_pos (s.mem_enginesOf c t busy ctx task)]
  · have free : a ∉ s.arraysOf c t := fun mem => by
      obtain ⟨-, -, ctx, -⟩ := (s.mem_arraysOf c t).1 mem
      exact other ctx
    rw [s.completeTask_array, if_neg free]
  · rw [s.completeTask_engine, if_neg fun mem => other (State.ctx_of_mem_enginesOf wf mem)]

/-! ### The commands -/

theorem exec_taskAbort {s : State} {c t : Nat} {st : Status} (live : (s.rt c t).st.live = true) (inRun : (s.rt c t).inRun = true)
    (task : (s.task c t).stepEnd = false) (error : 0x10 ≤ st.code) (d : W64) :
    exec (.taskAbort c t st d) s = .next ((s.abortTask c t st d).settle) := by
  show execTaskAbort c t st d s = _
  rw [execTaskAbort, if_pos ⟨live, inRun, by simp [task], error⟩]
  rfl

theorem exec_stallTimeout {s : State} {c t : Nat} (running : s.running c t = true) (opened : s.fld RegF.ctxStsOpen c = 1) (unit : Nat) :
    let u := s.event unit 0x0301 3 (some c) [(16, 4, t)]
    exec (.stallTimeout c t unit) s = .next ((u.abortTask c t .stallTimeout (BitVec.ofNat 64 (unit + 2 ^ 32 * (u.evr.last % 2 ^ 32)))).settle) := by
  intro u
  show execStallTimeout c t unit s = _
  rw [execStallTimeout, if_pos ⟨running, by simp [State.flag, opened]⟩]
  rfl

/-- Settles O31: completion frees the task's units alone; an abort stops the task's units, and what it does after that, the aborts of its peers
among it, stops units and unended tasks at most. -/
theorem tasksCompleteAndAbort : Obligations.TasksCompleteAndAbort := by
  unfold Obligations.TasksCompleteAndAbort
  refine fun s c t => ⟨fun running done => ?_, fun running more => ?_, fun st d running => State.completeTask_spec running st d,
    fun st d live inRun task error => exec_taskAbort live inRun task error d, fun st d live inRun => ?_, fun st d ended => ?_,
    fun unit running opened => exec_stallTimeout running opened unit⟩
  · show execTaskComplete c t s = _
    rw [execTaskComplete, if_pos ⟨running, done⟩]
  · show execTaskComplete c t s = _
    rw [execTaskComplete, if_neg (by simp [more])]
  · obtain ⟨aborted, status, detail, reports, arrays, engines, streams⟩ := State.abortTask_spec live inRun st d
    exact ⟨aborted, status, detail, reports, arrays, engines, streams⟩
  · rw [State.abortTask, if_pos (.inl ended)]

end Sys2Proof.Machine
end

section
/-! SUPPORT. Starts and loads of matrix arrays (spec/04_matrix_arrays.md R91 to R94, R100, R106, R107, R110 to R112): the job that an array
starts next, what a start leaves, what the load bus does with a fixed tile, and the end of a stream that skipped jobs alone would use. -/

namespace Sys2Proof.Machine

/-! ### The next job of an array -/

theorem nth_of_lt {α : Type} (d : α) {l : List α} {i : Nat} (h : i < l.length) : nth d l i = l[i] := by
  rw [nth, List.getElem?_eq_getElem h, Option.getD_some]

/-- The array's next job is the first of its task's that it has not done. -/
theorem State.nextJob_eq_some {s : State} {a i : Nat} (lt : i < (s.task (s.array a).ctx (s.array a).task).arrayJobs.length)
    (mine : (s.jobAt a i).array = a % 2) (undone : (s.array a).doneJobs.contains i = false)
    (first : ∀ k, k < i → (s.jobAt a k).array = a % 2 → (s.array a).doneJobs.contains k = true) : s.nextJob a = some i := by
  simp only [State.jobAt] at mine first
  rw [State.nextJob, Option.map_eq_some_iff]
  refine ⟨(nth {} (s.task (s.array a).ctx (s.array a).task).arrayJobs i, i),
    List.find?_eq_some_iff_getElem.2 ⟨?_, i, ?_, ?_, fun k lt' => ?_⟩, rfl⟩
  · rw [undone, mine]
    simp
  · rwa [List.length_zipIdx]
  · rw [List.getElem_zipIdx, nth_of_lt _ lt, Nat.zero_add]
  · have known := first k lt'
    rw [nth_of_lt _ (lt'.trans lt)] at known
    rw [List.getElem_zipIdx, Nat.zero_add]
    by_cases own : (s.task (s.array a).ctx (s.array a).task).arrayJobs[k].array = a % 2
    · simp only [known own, Bool.not_true, Bool.and_false, Bool.false_and, Bool.not_false]
    · simp only [beq_eq_false_iff_ne.2 own, Bool.false_and, Bool.not_false]

theorem State.jobReady_of {s : State} {a i : Nat} (busy : (s.array a).busy = true) (idle : (s.array a).started = false)
    (running : s.running (s.array a).ctx (s.array a).task = true) (next : s.nextJob a = some i) : s.jobReady a = true := by
  simp only [State.jobReady, busy, idle, running, next, Bool.not_false, Bool.and_self, Option.isSome_some]

theorem State.inStarts_eq_false {s : State} {a : Nat} (none' : ∀ g ∈ s.starts, ∀ q ∈ g.queue, q.1 ≠ a) : s.inStarts a = false := by
  simp only [State.inStarts, List.any_eq_false, beq_iff_eq, not_exists, not_and, List.any_eq_true]
  exact fun g hg q hq => none' g hg q hq

theorem State.frozenJob_iff (s : State) (c : Nat) (j : ArrayJob) : s.frozenJob c j = true ↔
    j.role = 2 ∧ j.group ≠ 0xFFFF ∧ ((s.prog c).getD {}).frozen.contains j.group = true := by
  simp only [State.frozenJob, Bool.and_eq_true, beq_iff_eq, bne_iff_ne, and_assoc]

/-! ### Starting it (R94, R100, R106, R110, R111) -/

section
variable {s : State} {a i : Nat} (next : s.nextJob a = some i)
include next

/-- A job of a frozen group is done at once. -/
theorem State.jobStart_frozen (frozen : s.frozenJob (s.array a).ctx (s.jobAt a i) = true) (group : Bool) : s.jobStart a group =
    ((s.setArray a { s.array a with job := i, doneJobs := (s.array a).doneJobs ++ [i] }).incFld RegF.wingMaEvtFrozenSkips 1 (arrWing a)
      (a % 2)).endIdleRings (s.array a).ctx (s.array a).task := by
  rw [State.jobStart]
  simp only [next, if_pos frozen]

/-- Any other job is set up and its first operand loads. -/
theorem State.jobStart_begins (going : ¬ s.frozenJob (s.array a).ctx (s.jobAt a i) = true) (group : Bool) : s.jobStart a group =
    ((((s.putArray a ((s.array a).startJob i (s.forceFront a) group)).setFld RegF.wingMaStsForm (s.jobAt a i).form (arrWing a) (a % 2)).setFld
      RegF.wingMaStsCtx (s.array a).ctx (arrWing a) (a % 2)).countFront a ((s.array a).front || s.forceFront a)).loadOn a := by
  rw [State.jobStart]
  simp only [next, if_neg going]

end

theorem exec_arrayJobStart {s : State} {a : Nat} (ready : s.jobReady a = true) (free : s.inStarts a = false) :
    exec (.arrayJobStart a) s = .next (s.jobStart a (s.lateStart a)) := by
  show execArrayJobStart a s = _
  rw [execArrayJobStart, if_pos ⟨ready, by rw [free]; exact Bool.false_ne_true⟩]

/-- The array at the front of the first start group leaves it. -/
def State.popStart (s : State) (g : StartGroup) (l : List (Nat × Nat)) (rest : List StartGroup) : State :=
  { s with starts := if l = [] then rest else { g with queue := l, begun := true } :: rest }

/-- The array at the front of the first start group starts, and leaves the group (R112). -/
theorem exec_barrierGroupJobStart {s : State} {a n : Nat} {g : StartGroup} {l : List (Nat × Nat)} {rest : List StartGroup}
    (starts : s.starts = g :: rest) (queue : g.queue = (a, n) :: l) (ready : s.jobReady a = true) :
    exec (.barrierGroupJobStart a) s = .next ((s.popStart g l rest).jobStart a true) := by
  show execBarrierGroupJobStart a s = _
  rw [execBarrierGroupJobStart]
  simp only [starts, queue, ready, and_self, if_true, List.isEmpty_iff]
  rfl

/-! ### The load bus (R91, R107) -/

theorem State.SameButRegs.array {s t : State} (h : s.SameButRegs t) (a : Nat) : t.array a = s.array a := by rw [h]; rfl

theorem State.spendTiles_fixed (s : State) {t : OpTile} (fixed : t.ring = none) : s.spendTiles [t] = s := by
  rw [State.spendTiles, List.foldl_cons, fixed, List.foldl_nil]

theorem State.tileSound_of_clean {s : State} {t : OpTile} (clean : s.poisoned t.addr tileBytes = false) (j : ArrayJob) (fmt : Nat)
    (kaxis : Bool) : s.tileSound j fmt kaxis t = j.tileOk fmt kaxis t := by
  rw [State.tileSound, clean, Bool.not_false, Bool.true_and]

/-- Tile i of an operand in fixed tiles. -/
def State.fixedTile (s : State) (base i : Nat) : OpTile := ⟨base + tileBytes * i, s.rd (base + tileBytes * i) tileBytes, none⟩

/-- A tile that the load takes gives its elements to the registers that the load fills, and leaves the others. -/
theorem State.takeTile_spec (s : State) (a : Nat) (l : StatLoad) {t : OpTile} (fixed : t.ring = none) :
    let x := s.array a
    let j := s.jobAt a l.job
    let h := Hdr.ofBytes t.img
    let org := l.org.getD (if j.orient then h.rowO else h.colO)
    let y := (s.takeTile a l t).array a
    (if l.front then y.active else y.shadow) = j.statLoad l.pass org (if l.front then x.active else x.shadow) [t] ∧
    (if l.front then y.shadow = x.shadow else y.active = x.active) ∧
    (y.load.map (fun z => (z.job, z.pass, z.next, z.org))) = some (l.job, l.pass, l.next + 1, some org) := by
  intro x j h org y
  have stored : ∃ z : StatLoad, (z.job, z.pass, z.next, z.org) = (l.job, l.pass, l.next + 1, some org) ∧
      y = if l.front then { x with active := j.statLoad l.pass org (if l.front then x.active else x.shadow) [t], load := some z }
        else { x with shadow := j.statLoad l.pass org (if l.front then x.active else x.shadow) [t], load := some z } := by
    refine ⟨?load, ?place, ?stored⟩
    case stored =>
      show (s.takeTile a l t).array a = _
      simp only [State.takeTile, State.spendTiles_fixed _ fixed, ite_self]
      rw [(State.galleryCorrected_regs _ _ _).array, State.array_putArray, if_pos rfl]
    case place => rfl
  obtain ⟨z, place, stored⟩ := stored
  rw [stored]
  cases l.front with
  | true => exact ⟨rfl, rfl, congrArg some place⟩
  | false => exact ⟨rfl, rfl, congrArg some place⟩

theorem ArrayJob.passesBy_iff (j : ArrayJob) (l : StatLoad) :
    j.passesBy l = true ↔ ∃ k, l.seen[l.next]? = some k ∧ (k.2 ≤ j.passLo l.pass ∨ j.passHi l.pass ≤ k.1) := by
  unfold ArrayJob.passesBy
  cases l.seen[l.next]? with
  | none => simp
  | some k => simp

section
variable {s : State} {a : Nat} {l : StatLoad} (load : (s.array a).load = some l) (more : l.done = false)
  (lt : l.next < (s.jobAt a l.job).statTiles)
include load more lt

/-- A fixed tile known to hold nothing of the pass is passed by. -/
theorem State.takeTiles_passesBy (by' : (s.jobAt a l.job).passesBy l = true) (n : Nat) :
    s.takeTiles a (n + 1) = (s.putArray a { s.array a with load := some { l with next := l.next + 1 } }).takeTiles a n := by
  rw [State.takeTiles]
  simp only [load, more, Bool.false_eq_true, if_false, if_neg (Nat.not_le.2 lt), by', if_true]

variable (new : ¬ (s.jobAt a l.job).passesBy l = true) (fixed : s.ringAt (arrWing a) (s.jobAt a l.job).statBase false = none)
  (slot : s.portSlot a loadPort = true) (reach : s.arrayReach a (s.fixedTile (s.jobAt a l.job).statBase l.next).addr tileBytes = true)
include new fixed slot reach

/-- A fixed tile within reach is taken where it is sound; else it ends the load. -/
theorem State.takeTiles_fixed (n : Nat) : s.takeTiles a (n + 1) =
    let t := s.fixedTile (s.jobAt a l.job).statBase l.next
    if s.tileSound (s.jobAt a l.job) (s.jobAt a l.job).fmtS (!(s.jobAt a l.job).orient) t = true then (s.takeTile a l t).takeTiles a n
    else ((s.tileFail a t).2, some (s.tileFail a t).1) := by
  have there : s.opTile (arrWing a) (s.jobAt a l.job).statBase (s.jobAt a l.job).statTiles l.slot l.next =
      some (s.fixedTile (s.jobAt a l.job).statBase l.next) := by
    simp only [State.opTile, fixed, if_pos lt, State.fixedTile]
  have still : l.done ≠ true := by rw [more]; exact Bool.false_ne_true
  rw [State.takeTiles]
  simp only [load, if_neg still, if_neg (Nat.not_le.2 lt), if_neg new, fixed, Option.map_none, Option.or_none, there, slot, reach,
    not_true, or_self, if_false]
  by_cases sound : s.tileSound (s.jobAt a l.job) (s.jobAt a l.job).fmtS (!(s.jobAt a l.job).orient)
      (s.fixedTile (s.jobAt a l.job).statBase l.next) = true
  · rw [if_neg (not_not.2 sound), if_pos sound, if_neg (by simp [State.fixedTile])]
  · rw [if_pos sound, if_neg sound]

variable (clean : s.poisoned (s.fixedTile (s.jobAt a l.job).statBase l.next).addr tileBytes = false)
include clean

/-- A tile whose header or seal does not agree with the job ends the array's task with TILE_SEAL (R107). -/
theorem State.loadOn_badTile (bad : (s.jobAt a l.job).tileOk (s.jobAt a l.job).fmtS (!(s.jobAt a l.job).orient)
      (s.fixedTile (s.jobAt a l.job).statBase l.next) = false) :
    let t := s.fixedTile (s.jobAt a l.job).statBase l.next
    s.loadOn a = (s.evSeal (uArray a) (s.array a).ctx t.addr t.img).failTask (s.array a).ctx (s.array a).task (Fail.addr .tileSeal t.addr) := by
  intro t
  have unsound : ¬ s.tileSound (s.jobAt a l.job) (s.jobAt a l.job).fmtS (!(s.jobAt a l.job).orient) t = true := by
    rw [State.tileSound_of_clean clean, bad]
    exact Bool.false_ne_true
  have fails : s.takeTiles a ((s.jobAt a l.job).statTiles + 1) =
      (s.evSeal (uArray a) (s.array a).ctx t.addr t.img, some (Fail.addr .tileSeal t.addr)) := by
    rw [State.takeTiles_fixed load more lt new fixed slot reach]
    simp only [if_neg unsound, State.tileFail, clean, Bool.false_eq_true, if_false, t]
  rw [State.loadOn, State.loadStep]
  simp only [load, fails]

end

/-! ### Streams that skipped jobs leave idle (R106) -/

/-- A stream whose slots are EMPTY and whose list is done is over. -/
theorem Stream.over_emptied (x : Stream) (standing : x.ent.standing = false) :
    ({ x with next := x.listCount, slots := x.slots.map (fun _ => .empty), writing := none } : Stream).over = true := by
  simp [Stream.over, Stream.drained, standing]

theorem State.held_endStream (s : State) (u : Nat) (done : (s.stream u).over = true) : ((s.endStream u).stream u).held = false := by
  rw [State.endStream]
  split
  · rw [State.stream_putStream, if_pos rfl]
  · next free => simpa [done] using free

/-- The only stream ends where it is idle. -/
theorem State.held_endIdleRings {s : State} {c t u : Nat} {y : Stream} (only : s.strm = [(u, y)]) (idle : s.idleRing c t y = true) :
    ((s.endIdleRings c t).stream u).held = false := by
  have here : s.stream u = y := by rw [State.stream, only, Tbl.get, if_pos rfl]
  have standing : y.ent.standing = false := by
    simp only [State.idleRing, Bool.and_eq_true, Bool.not_eq_true'] at idle
    obtain ⟨⟨⟨⟨⟨-, standing⟩, -⟩, -⟩, -⟩, -⟩ := idle
    exact standing
  rw [State.endIdleRings, only, overList_cons, overList_nil]
  simp only [here, if_pos idle]
  apply State.held_endStream
  rw [State.stream_putStream, if_pos rfl]
  exact y.over_emptied standing

/-- Settles O16: the next job starts or is skipped, and the load bus passes by, takes or refuses the next fixed tile. -/
theorem arrayJobStarts : Obligations.ArrayJobStarts := by
  unfold Obligations.ArrayJobStarts
  intro s a i x j w
  refine ⟨?_, ?_, fun c t u y only idle => State.held_endIdleRings only idle⟩
  · intro busy idle running lt mine undone first frozen begun skipped
    have next : s.nextJob a = some i := State.nextJob_eq_some lt mine undone first
    have ready : s.jobReady a = true := State.jobReady_of busy idle running next
    have frozen_iff : s.frozenJob (s.array a).ctx (s.jobAt a i) = true ↔ frozen := s.frozenJob_iff x.ctx j
    refine ⟨fun none' yes => ?_, fun none' no => ?_, fun g n l rest starts queue => ⟨fun yes => ?_, fun no => ?_⟩⟩
    · rw [exec_arrayJobStart ready (State.inStarts_eq_false none'), State.jobStart_frozen next (frozen_iff.2 yes)]
      rfl
    · rw [exec_arrayJobStart ready (State.inStarts_eq_false none'), State.jobStart_begins next (mt frozen_iff.1 no)]
      rfl
    · rw [exec_barrierGroupJobStart starts queue ready, State.jobStart_frozen (s := s.popStart g l rest) next (frozen_iff.2 yes)]
      rfl
    · rw [exec_barrierGroupJobStart starts queue ready, State.jobStart_begins (s := s.popStart g l rest) next (mt frozen_iff.1 no)]
      rfl
  · intro l load j img t by' more lt
    have by_iff : (s.jobAt a l.job).passesBy l = true ↔ by' := j.passesBy_iff l
    refine ⟨fun yes => s.takeTiles_passesBy load more lt (by_iff.2 yes) 0, fun new fixed slot reach clean => ⟨fun good => ?_, fun bad => ?_⟩⟩
    · intro h org r y
      have sound : s.tileSound j j.fmtS (!j.orient) t = true := (State.tileSound_of_clean clean _ _ _).trans good
      have taken : r = (s.takeTile a l t, none) :=
        (State.takeTiles_fixed load more lt (mt by_iff.1 new) fixed slot reach 0).trans (if_pos sound)
      have left : y = (s.takeTile a l t).array a := by rw [show y = r.1.array a from rfl, taken]
      rw [left]
      exact ⟨by rw [taken], s.takeTile_spec a l rfl⟩
    · exact State.loadOn_badTile load more lt (mt by_iff.1 new) fixed slot reach clean bad

end Sys2Proof.Machine
end

section
/-! SUPPORT. Issue of matrix arrays (spec/04_matrix_arrays.md R84, R89, R90, R96, R102 to R104): what lets a moving vector issue, what an issue
does to its array, and what holds it up. -/

namespace Sys2Proof.Machine

/-! ### What an issue needs (R102, R103) -/

/-- The operand is loaded and every row group in use has a slice for each vector. -/
def State.SlicesReady (s : State) (a : Nat) : Prop :=
  (s.array a).loaded = true ∧ ∀ g ∈ (s.jobOf a).rowGroups (s.array a).pass, s.issueCount a ≤ nth 0 (s.array a).skidIn g

/-- The elements that a ring delivers are there, and the array reaches the chain-state records that it takes. -/
def State.TilesReady (s : State) (a : Nat) : Prop :=
  (s.ringAt (arrWing a) (s.jobOf a).movBase false = none ∨ s.issueHere a (s.issueTiles a).1 = true) ∧
    ∀ r, s.handRange a = some r → s.arrayReach a r.1 r.2 = true

/-- Every column group has a free entry. -/
def State.SpaceReady (s : State) (a : Nat) : Prop := ∀ g ∈ (s.jobOf a).colGroups, nth 0 (s.array a).skidOut g < 8

section
variable (s : State) (a : Nat)

theorem State.not_slicesReady_iff : ¬ s.SlicesReady a ↔ ¬ (s.array a).loaded = true ∨
    ((s.jobOf a).rowGroups (s.array a).pass).any (fun g => decide (nth 0 (s.array a).skidIn g < s.issueCount a)) = true := by
  simp only [State.SlicesReady, not_and_or, not_forall, Nat.not_le, List.any_eq_true, decide_eq_true_eq, exists_prop]

theorem State.not_tilesReady_iff : ¬ s.TilesReady a ↔
    (s.ringAt (arrWing a) (s.jobOf a).movBase false).isSome = true ∧ ¬ s.issueHere a (s.issueTiles a).1 = true ∨
      (s.handRange a).any (fun r => !s.arrayReach a r.1 r.2) = true := by
  simp only [State.TilesReady, not_and_or, not_or, Option.isSome_iff_ne_none, ne_eq, not_forall, Option.any_eq_true, Bool.not_eq_true',
    Bool.not_eq_true, exists_prop]

theorem State.not_spaceReady_iff : ¬ s.SpaceReady a ↔ (s.jobOf a).colGroups.any (fun g => decide (8 ≤ nth 0 (s.array a).skidOut g)) = true := by
  simp only [State.SpaceReady, not_forall, Nat.not_lt, List.any_eq_true, decide_eq_true_eq, exists_prop]

end

/-! ### Issue, or what holds it up (R103, R104, R107) -/

section
variable {s : State} {a : Nat}

theorem State.tryIssue_noSlices (missing : ¬ s.SlicesReady a) : s.tryIssue a = s.stallCycle a RegF.wingMaStallRowStall := by
  rw [State.tryIssue, if_pos ((s.not_slicesReady_iff a).1 missing)]

variable (slices : s.SlicesReady a)
include slices

/-- A tile within reach that fails its check ends the task with TILE_SEAL. -/
theorem State.tryIssue_badTile {t : OpTile} (bad : (s.issueTiles a).2 = some t) (reach : s.arrayReach a t.addr tileBytes = true)
    (clean : s.poisoned t.addr tileBytes = false) : s.tryIssue a =
      (s.evSeal (uArray a) (s.array a).ctx t.addr t.img).failTask (s.array a).ctx (s.array a).task (Fail.addr .tileSeal t.addr) := by
  rw [State.tryIssue, if_neg (mt (s.not_slicesReady_iff a).2 (not_not.2 slices))]
  simp only [bad, reach, not_true, if_false, State.tileFail, clean, Bool.false_eq_true]

variable (sound : (s.issueTiles a).2 = none)
include sound

theorem State.tryIssue_noTiles (missing : ¬ s.TilesReady a) : s.tryIssue a = s.stallCycle a RegF.wingMaStallRowStall := by
  rw [State.tryIssue, if_neg (mt (s.not_slicesReady_iff a).2 (not_not.2 slices))]
  simp only [sound]
  rw [if_pos ((s.not_tilesReady_iff a).1 missing)]

variable (tiles : s.TilesReady a)
include tiles

theorem State.tryIssue_noSpace (missing : ¬ s.SpaceReady a) : s.tryIssue a = s.stallCycle a RegF.wingMaStallColStall := by
  rw [State.tryIssue, if_neg (mt (s.not_slicesReady_iff a).2 (not_not.2 slices))]
  simp only [sound]
  rw [if_neg (mt (s.not_tilesReady_iff a).2 (not_not.2 tiles)), if_pos ((s.not_spaceReady_iff a).1 missing)]

theorem State.tryIssue_issues (space : s.SpaceReady a) (clean : ∀ r, s.handRange a = some r → s.poisoned r.1 r.2 = false) :
    s.tryIssue a = s.issueVec a (s.issueTiles a).1 := by
  have unspoilt : (s.handRange a).filter (fun r => s.poisoned r.1 r.2) = none :=
    Option.filter_eq_none_iff.2 fun r mem => by rw [clean r mem]; exact Bool.false_ne_true
  rw [State.tryIssue, if_neg (mt (s.not_slicesReady_iff a).2 (not_not.2 slices))]
  simp only [sound]
  rw [if_neg (mt (s.not_tilesReady_iff a).2 (not_not.2 tiles)), if_neg (mt (s.not_spaceReady_iff a).2 (not_not.2 space)), unspoilt]

end

/-! ### What an issue does to its array (R84, R90) -/

/-- An array is as before but for the output tiles counted in SPAN_COUNT. -/
def ArrayU.SameButSpans (x y : ArrayU) : Prop := y = { x with spans := y.spans }

theorem ArrayU.SameButSpans.refl (x : ArrayU) : x.SameButSpans x := rfl

theorem ArrayU.SameButSpans.trans {x y z : ArrayU} (h : x.SameButSpans y) (h' : y.SameButSpans z) : x.SameButSpans z := by
  unfold ArrayU.SameButSpans at *
  rw [h', h]

theorem State.countSpans_array (s : State) (a : Nat) (l : List Nat) : (s.array a).SameButSpans ((s.countSpans a l).array a) := by
  unfold State.countSpans
  dsimp only
  split
  · exact .refl _
  · split
    all_goals
      show (s.array a).SameButSpans (State.array (s.setArray a _) a)
      rw [State.array_setArray]
      rfl

theorem State.issueFlags_array (s : State) (a : Nat) (old new : Tbl ChainSt) :
    (s.array a).SameButSpans ((s.issueFlags a old new).array a) := by
  have flag : ∀ (p : Prop) [Decidable p] (t : State) (f : Fld) (w : Nat), (if p then t.setFld f 1 w else t).array a = t.array a :=
    fun p _ t f w => by split <;> rfl
  unfold State.issueFlags
  dsimp only
  split
  · rw [flag, flag]
    exact .refl _
  · refine .trans ?_ (State.countSpans_array _ a _)
    rw [flag, flag]
    exact .refl _

/-- What no use of a ring slot changes, spending the slots of tiles leaves. -/
theorem State.spendTiles_same {β : Type} (g : State → β) (keeps : ∀ s u i, g (State.spendSlot s u i) = g s) (s : State) (l : List OpTile) :
    g (s.spendTiles l) = g s :=
  overList_same g (fun (t : OpTile) s => match t.ring with | some (u, i) => s.spendSlot u i | none => s)
    (fun t s => by
      cases t.ring with
      | none => rfl
      | some r => exact keeps s r.1 r.2) l s

/-- The use of a ring slot is the store of its stream, and the stream's end where it is over. -/
theorem State.spendSlot_same {β : Type} (g : State → β) (put : ∀ s u x, g (State.putStream s u x) = g s)
    (chans : ∀ s u, g (State.endChans s false u) = g s) (s : State) (u i : Nat) : g (s.spendSlot u i) = g s := by
  have ended : ∀ t, g (State.endStream t u) = g t := fun t => by
    rw [State.endStream]
    split
    · rw [put, chans]
    · rfl
  rw [State.spendSlot, ended, put]

theorem State.array_spendTiles (s : State) (l : List OpTile) (a : Nat) : (s.spendTiles l).array a = s.array a := by
  have arr : (s.spendTiles l).arr = s.arr := State.spendTiles_same (fun t => t.arr)
    (State.spendSlot_same _ (fun s u x => (State.putStream_regs s u x false).sameUnits.arr) (fun s u => (State.SameUnits.endChans s false u).arr)) s l
  rw [State.array, arr, State.array]

/-- Storing a stream shows in its own status and in that of its mover alone. -/
theorem State.fld_putStream {f : Fld} (strm : f.reg ≠ .wingStrmSts) (mov : f.reg ≠ .wingTmSts) (s : State) (u : Nat) (x : Stream) (i j : Nat) :
    (s.putStream u x).fld f i j = s.fld f i j := by
  have beside : ∀ (g : Fld), g.reg ≠ f.reg → ∀ (t : State) (v k l : Nat), (t.setFld g v k l).fld f i j = t.fld f i j :=
    fun g other t v k l => State.fld_setFld_reg t g f v k l i j (Ne.symm other)
  unfold State.putStream
  dsimp only
  split
  · rw [beside _ mov.symm, beside _ mov.symm, beside _ strm.symm, beside _ strm.symm, beside _ strm.symm, beside _ strm.symm, beside _ strm.symm,
      beside _ strm.symm]
    rfl
  · rw [beside _ strm.symm, beside _ strm.symm, beside _ strm.symm, beside _ strm.symm, beside _ strm.symm, beside _ strm.symm]
    rfl

theorem State.endChans_regs (s : State) (courier : Bool) (unit : Nat) : (s.endChans courier unit).regs = s.regs :=
  overList_same (fun t => t.regs) _ (fun k t => by dsimp only; split <;> rfl) _ s

theorem State.fld_spendTiles {f : Fld} (strm : f.reg ≠ .wingStrmSts) (mov : f.reg ≠ .wingTmSts) (s : State) (l : List OpTile) (i j : Nat) :
    (s.spendTiles l).fld f i j = s.fld f i j :=
  have chans : ∀ t u, (State.endChans t false u).fld f i j = t.fld f i j := fun t u => by
    rw [State.fld, State.reg, State.endChans_regs]
    rfl
  State.spendTiles_same (fun t => t.fld f i j) (State.spendSlot_same (fun t => t.fld f i j)
    (fun s u x => State.fld_putStream strm mov s u x i j) chans) s l

theorem State.SameButRegs.overList {α : Type} {f : α → State → State} (hf : ∀ x t, State.SameButRegs t (f x t)) (l : List α) (s : State) :
    s.SameButRegs (overList l f s) :=
  overList_keeps (fun t => s.SameButRegs t) f (fun x t h => h.trans (hf x t)) l s .refl

theorem State.SameButRegs.issueSeen {s t : State} (h : s.SameButRegs t) (a : Nat) (tiles : List OpTile) :
    t.issueSeen a tiles = s.issueSeen a tiles := by
  rw [h]
  rfl

/-- The chains of the block as an issue leaves them: those that the block begins with or has, advanced by the pass (R84, R90). -/
def State.issueStore (s : State) (a : Nat) (tiles : List OpTile) : Tbl ChainSt :=
  let x := s.array a
  let j := s.jobOf a
  (List.range (s.issueCount a)).foldl (fun st i => j.issueRow x.pass x.active tiles (s.issueRow a tiles + i) (x.vec + i) st)
    (if x.pass = 0 ∧ x.vec = 0 then s.chainIn j x.block else x.store)

/-- The array after an issue: it takes a slice of each row group for each vector, and in the last pass gives an entry to each column group. -/
def State.issued (s : State) (a : Nat) (tiles : List OpTile) : ArrayU :=
  let x := s.array a
  let j := s.jobOf a
  { x with
    vec := x.vec + s.issueCount a
    mOrg := some (x.mOrg.getD ((tiles.head?.map (fun t => (Hdr.ofBytes t.img).rowO)).getD 0))
    eM := if x.mOrg.isSome then x.eM else (tiles.head?.map (fun t => (Hdr.ofBytes t.img).scale)).getD 0
    store := s.issueStore a tiles
    skidIn := x.skidIn.zipIdx.map (fun v => if (j.rowGroups x.pass).contains v.2 then v.1 - s.issueCount a else v.1)
    skidOut := if x.pass + 1 < j.passes then x.skidOut else
      x.skidOut.zipIdx.map (fun v => if j.colGroups.contains v.2 then v.1 + 1 else v.1)
    movSeen := s.issueSeen a tiles }

theorem skidOut_of_pass (l : List Nat) (more : Prop) [Decidable more] (groups : List Nat) :
    l.zipIdx.map (fun v => if (if more then [] else groups).contains v.2 then v.1 + 1 else v.1) =
      if more then l else l.zipIdx.map (fun v => if groups.contains v.2 then v.1 + 1 else v.1) := by
  by_cases h : more
  · simp only [if_pos h, List.contains_nil, Bool.false_eq_true, if_false]
    exact List.zipIdx_map_fst 0 l
  · simp only [if_neg h]

theorem State.issueVec_array (s : State) (a : Nat) (tiles : List OpTile) : (s.issued a tiles).SameButSpans ((s.issueVec a tiles).array a) := by
  have read : ∀ (l : List OpTile) (p : Prop) [Decidable p] (b n : Nat), s.SameButRegs
      (let u := overList l (fun t u => u.galleryCorrected t.addr tileBytes) s; if p then u.galleryCorrected b n else u) := fun l p _ b n => by
    have tiles : s.SameButRegs (overList l (fun t u => u.galleryCorrected t.addr tileBytes) s) :=
      .overList (fun t u => u.galleryCorrected_regs t.addr tileBytes) l s
    dsimp only
    split
    · exact tiles.trans (State.galleryCorrected_regs _ b n)
    · exact tiles
  have counts : ∀ (u : State) (p : Prop) [Decidable p] (l : List Nat), (u.array a).SameButSpans ((if p then u.countSpans a l else u).array a) :=
    fun u p _ l => by
      split
      · exact u.countSpans_array a l
      · exact .refl _
  unfold State.issueVec
  dsimp only
  rw [State.array_spendTiles]
  refine .trans (.trans ?_ (counts _ _ _)) (State.issueFlags_array _ a _ _)
  rw [State.array_setArray, (read _ _ _ _).issueSeen, skidOut_of_pass, Option.map_map, Option.map_map]
  exact .refl _

theorem State.issueVec_stalled (s : State) (a : Nat) (tiles : List OpTile) :
    (s.issueVec a tiles).fld RegF.wingMaStsStalled (arrWing a) (a % 2) = 0 := by
  have strm : RegF.wingMaStsStalled.reg ≠ .wingStrmSts := by decide
  have mov : RegF.wingMaStsStalled.reg ≠ .wingTmSts := by decide
  unfold State.issueVec
  dsimp only
  rw [State.fld_spendTiles strm mov, State.setStalled]
  exact State.fld_setFld_same _ _ _ _ _

/-! ### A cycle of an array (R103) -/

section
variable {s : State} {a : Nat} (started : (s.array a).started = true) (running : s.running (s.array a).ctx (s.array a).task = true)
  (going : (s.array a).lastOut = false) (arrived : BitVec 24) (drained : BitVec 16)
include started running going

theorem exec_arrayIssue : exec (.arrayIssue a arrived drained) s = .next (let p := (s.ports a arrived drained).loadOn a
    if (s.jobOf a).blockRows (s.array a).block ≤ (s.array a).vec ∨ ¬ (p.array a).started = true ∨ (p.array a).ramp = true then p
    else p.tryIssue a) := by
  show execArrayIssue a arrived drained s = _
  rw [execArrayIssue]
  simp only [started, running, going, not_true, Bool.false_eq_true, or_self, if_false]

/-- While a pass waits for its end the ports and the load go on. -/
theorem exec_arrayIssue_passDone (done : (s.jobOf a).blockRows (s.array a).block ≤ (s.array a).vec) :
    exec (.arrayIssue a arrived drained) s = .next ((s.ports a arrived drained).loadOn a) := by
  rw [exec_arrayIssue started running going]
  exact congrArg _ (if_pos (.inl done))

/-- Where the load has ended the task nothing issues. -/
theorem exec_arrayIssue_stopped (stopped : (((s.ports a arrived drained).loadOn a).array a).started = false) :
    exec (.arrayIssue a arrived drained) s = .next ((s.ports a arrived drained).loadOn a) := by
  rw [exec_arrayIssue started running going]
  exact congrArg _ (if_pos (.inr (.inl (by rw [stopped]; exact Bool.false_ne_true))))

theorem exec_arrayIssue_tries (more : (s.array a).vec < (s.jobOf a).blockRows (s.array a).block)
    (works : (((s.ports a arrived drained).loadOn a).array a).started = true) (full : (((s.ports a arrived drained).loadOn a).array a).ramp = false) :
    exec (.arrayIssue a arrived drained) s = .next (((s.ports a arrived drained).loadOn a).tryIssue a) := by
  rw [exec_arrayIssue started running going]
  exact congrArg _ (if_neg (by simp [works, full, more]))

end

/-- Settles O17: a cycle moves the ports and the load; then a vector issues where slices, tiles and space are there, else the array stalls. -/
theorem arrayIssueOrStall : Obligations.ArrayIssueOrStall := by
  unfold Obligations.ArrayIssueOrStall
  intro s a arrived drained x started running going
  refine ⟨exec_arrayIssue_passDone started running going arrived drained, ?_⟩
  intro _ more q p y j w n k slices here space stall
  have moved : q.array a = _ := State.array_setArray _ a _
  refine ⟨⟨by rw [moved], by rw [moved]⟩, exec_arrayIssue_stopped started running going arrived drained, fun works full => ?_⟩
  rw [exec_arrayIssue_tries started running going arrived drained more works full]
  refine ⟨fun no => ?_, fun yes sound no => ?_, fun yes sound tiles no => ?_,
    fun t yes bad reach clean => ?_, fun yes sound tiles room clean => ?_⟩
  · exact congrArg _ (State.tryIssue_noSlices no)
  · exact congrArg _ (State.tryIssue_noTiles yes sound no)
  · exact congrArg _ (State.tryIssue_noSpace yes sound tiles no)
  · exact congrArg _ (State.tryIssue_badTile yes bad reach clean)
  · have array := p.issueVec_array a k.1
    simp only [ArrayU.SameButSpans, State.issued] at array
    exact ⟨p.issueVec a k.1, congrArg _ (State.tryIssue_issues yes sound tiles room clean), array, p.issueVec_stalled a k.1⟩

end Sys2Proof.Machine
end

section
/-! SUPPORT. Ends of passes, blocks and jobs of matrix arrays, their outputs, gating and parity errors (spec/03_exact_path.md R77,
spec/04_matrix_arrays.md R89, R93, R94, R100, R106, R108 to R110). -/

namespace Sys2Proof.Machine

/-! ### Parts of what is written -/

section
variable {α : Type} [DecidableEq α]

theorem Tbl.cells_append (d : α) : ∀ (xs ys : List α) (k : Nat), Tbl.cells d k (xs ++ ys) = Tbl.cells d k xs ++ Tbl.cells d (k + xs.length) ys
  | [], _, _ => rfl
  | x :: xs, ys, k => by
    have rest := Tbl.cells_append d xs ys (k + 1)
    rw [show k + 1 + xs.length = k + (x :: xs).length by rw [List.length_cons]; omega] at rest
    rw [List.cons_append, Tbl.cells, Tbl.cells, rest]
    split
    · rfl
    · rfl

/-- The middle of a run that is written reads back. -/
theorem Tbl.getRun_setRun_mid (d : α) (m : Tbl α) (k : Nat) (xs ys zs : List α) :
    Tbl.getRun d (Tbl.setRun d m k (xs ++ ys ++ zs)) (k + xs.length) ys.length = ys := by
  have part : (Tbl.setRun d m k (xs ++ ys ++ zs)).filter (fun c => decide (k + xs.length ≤ c.1) && decide (c.1 < k + xs.length + ys.length)) =
      Tbl.cells d (k + xs.length) ys := by
    have bounds : ∀ (l : List α) (k : Nat) (c : Nat × α), c ∈ Tbl.cells d k l → k ≤ c.1 ∧ c.1 < k + l.length :=
      fun l k c mem => ⟨Tbl.cells_lower d l k c mem, Tbl.cells_upper d l k c mem⟩
    unfold Tbl.setRun
    rw [Tbl.cells_append, Tbl.cells_append]
    simp only [List.filter_append, List.filter_filter, List.length_append]
    rw [List.filter_eq_nil_iff.2 (fun c _ => by simp; omega), List.filter_eq_nil_iff.2,
      List.filter_eq_self.2, List.filter_eq_nil_iff.2, List.filter_eq_nil_iff.2 (fun c _ => by simp; omega)]
    · simp only [List.nil_append, List.append_nil]
    · exact fun c mem => by have := bounds zs _ c mem; simp; omega
    · exact fun c mem => by have := bounds ys _ c mem; simp; omega
    · exact fun c mem => by have := bounds xs _ c mem; simp; omega
  rw [Tbl.getRun, part, Tbl.runFrom_cells]

end

theorem State.rd_wr_mid (s : State) (a : Nat) (xs ys zs : List Byte) : (s.wr a (xs ++ ys ++ zs)).rd (a + xs.length) ys.length = ys :=
  Tbl.getRun_setRun_mid _ _ _ _ _ _

/-- Items of one length, joined: the item at a place follows the items before it. -/
theorem flatten_around {α : Type} (l : List (List α)) (n i : Nat) (even : ∀ x ∈ l, x.length = n) (lt : i < l.length) :
    l.flatten = (l.take i).flatten ++ l[i] ++ (l.drop (i + 1)).flatten ∧ (l.take i).flatten.length = n * i := by
  constructor
  · conv_lhs => rw [← List.take_append_drop i l, List.drop_eq_getElem_cons lt]
    rw [List.flatten_append, List.flatten_cons, List.append_assoc]
  · have lengths : ∀ x ∈ (l.take i).map List.length, x = n := fun x mem => by
      obtain ⟨y, taken, rfl⟩ := List.mem_map.1 mem
      exact even y (List.mem_of_mem_take taken)
    rw [List.length_flatten, List.sum_eq_card_nsmul _ n lengths, List.length_map, List.length_take_of_le lt.le, smul_eq_mul, Nat.mul_comm]

/-! ### Chain-state records of an output row (R77) -/

@[simp] theorem ChainSt.record_length (c : Cls) (st : ChainSt) (k : Nat) : (st.record c k).length = 32 := by simp [ChainSt.record]

/-- The records of a row's columns. -/
def State.rowRecords (s : State) (a row : Nat) : List (List Byte) :=
  (List.range (s.jobOf a).nCount).map (fun c => (Tbl.get {} (s.array a).store (row * 6144 + c)).record (s.jobOf a).cls (s.jobOf a).kEnd)

theorem State.emitRow_chainOut {s : State} {a : Nat} (chain : (s.jobOf a).chainOut = true) (row : Nat) : s.emitRow a row =
    s.wr ((s.jobOf a).outBase + 32 * (((s.array a).block * (s.jobOf a).blockSize + row) * (s.jobOf a).nCount)) (s.rowRecords a row).flatten := by
  have joined : (s.rowRecords a row).flatten = (((List.range (s.jobOf a).nCount).map (fun c => Tbl.get {} (s.array a).store (row * 6144 + c))).map
      (fun st => st.record (s.jobOf a).cls (s.jobOf a).kEnd)).flatten := by
    rw [List.map_map]
    rfl
  rw [State.emitRow, joined]
  exact if_pos chain

/-- The record of each column lies at its own place. -/
theorem State.emitRow_record (s : State) (a row : Nat) {c : Nat} (chain : (s.jobOf a).chainOut = true) (lt : c < (s.jobOf a).nCount) :
    (s.emitRow a row).rd ((s.jobOf a).outBase + 32 * (((s.array a).block * (s.jobOf a).blockSize + row) * (s.jobOf a).nCount + c)) 32 =
      (Tbl.get {} (s.array a).store (row * 6144 + c)).record (s.jobOf a).cls (s.jobOf a).kEnd := by
  have listed : c < (s.rowRecords a row).length := by rwa [State.rowRecords, List.length_map, List.length_range]
  have even : ∀ x ∈ s.rowRecords a row, x.length = 32 := fun x mem => by
    obtain ⟨k, -, rfl⟩ := List.mem_map.1 mem
    exact ChainSt.record_length _ _ _
  have own : (s.rowRecords a row)[c] = (Tbl.get {} (s.array a).store (row * 6144 + c)).record (s.jobOf a).cls (s.jobOf a).kEnd := by
    simp only [State.rowRecords, List.getElem_map, List.getElem_range]
  obtain ⟨split, before⟩ := flatten_around (s.rowRecords a row) 32 c even listed
  have back := s.rd_wr_mid ((s.jobOf a).outBase + 32 * (((s.array a).block * (s.jobOf a).blockSize + row) * (s.jobOf a).nCount))
    ((s.rowRecords a row).take c).flatten (s.rowRecords a row)[c] ((s.rowRecords a row).drop (c + 1)).flatten
  rw [← split, before, even _ (List.getElem_mem listed), own, ← State.emitRow_chainOut chain, Nat.add_assoc, ← Nat.mul_add] at back
  exact back

/-! ### The next pass, block and job (R89, R93, R100) -/

section
variable {s : State} {a : Nat}

/-- After a pass that is not the block's last the next one loads by moving front, or from the shadow registers. -/
theorem State.nextPass_pass (more : (s.array a).pass + 1 < (s.jobOf a).passes) (left : (s.array a).block < (s.jobOf a).blocks) :
    s.nextPass a =
      let x := s.array a
      let u := s.setStalled a 0
      let y := { x with pass := x.pass + 1, vec := 0, emitted := 0, loaded := false }
      if x.force then ((u.putArray a { y with active := [], load := some (u.passLoad a (x.pass + 1) true) }).countFront a true).loadOn a
      else (u.putArray a y).loadOn a := by
  have notLast : ¬ (s.jobOf a).passes ≤ (s.array a).pass + 1 := by omega
  have several : ¬ (s.jobOf a).passes ≤ 1 := by omega
  rw [State.nextPass]
  simp only [decide_eq_false notLast, Bool.false_eq_true, if_false, if_neg (Nat.not_le.2 left), if_neg several]

/-- After the last pass of the last block the job waits for its end. -/
theorem State.nextPass_jobDone (blocks : (s.jobOf a).blocks ≤ (s.array a).block + 1) (passes : (s.jobOf a).passes ≤ (s.array a).pass + 1) :
    s.nextPass a = (s.setStalled a 0).putArray a
      { s.array a with lastOut := true, vec := 0, skidIn := List.replicate 24 0, skidOut := List.replicate 16 0 } := by
  rw [State.nextPass]
  simp only [decide_eq_true passes, if_true, if_pos blocks]

/-- A load that is complete for the present pass becomes active. -/
theorem State.swapLoad_array {l : StatLoad} (load : (s.array a).load = some l) (done : l.done = true) (job : l.job = (s.array a).job)
    (pass : l.pass = (s.array a).pass) (idle : (s.array a).loaded = false) : ∃ next, (s.swapLoad a).array a =
      { s.array a with
        active := if l.front then (s.array a).active else (s.array a).shadow, shadow := [], load := next, loaded := true,
        statFrom := l.keep.getD l.next, statSlot := l.slot, statSeen := l.seen, nOrg := l.org, eS := l.scale } := by
  rw [State.swapLoad]
  simp only [load, done, job, pass, idle, Bool.false_eq_true, not_true, ne_eq, or_self, if_false]
  rw [State.array_putArray, if_pos rfl, State.array_setArray]
  exact ⟨_, rfl⟩

theorem exec_arrayJobEnd (started : (s.array a).started = true) (out : (s.array a).lastOut = true) :
    exec (.arrayJobEnd a) s = .next ((s.putArray a { s.array a with
      started := false, lastOut := false, loaded := false, store := [], active := [], doneJobs := (s.array a).doneJobs ++ [(s.array a).job] }
        ).endIdleRings (s.array a).ctx (s.array a).task) := by
  show execArrayJobEnd a s = _
  rw [execArrayJobEnd]
  simp only [started, out, and_self, if_true]

variable (started : (s.array a).started = true) (running : s.running (s.array a).ctx (s.array a).task = true)
  (going : (s.array a).lastOut = false) (issued : (s.jobOf a).blockRows (s.array a).block ≤ (s.array a).vec)
include started running going issued

theorem execArrayPassEnd_goesOn : ¬ (¬ (s.array a).started = true ∨ ¬ s.running (s.array a).ctx (s.array a).task = true ∨
    (s.array a).lastOut = true ∨ (s.array a).vec < (s.jobOf a).blockRows (s.array a).block) := by
  simp [started, running, going, issued]

theorem exec_arrayPassEnd_pass (more : (s.array a).pass + 1 < (s.jobOf a).passes) :
    exec (.arrayPassEnd a) s = .next (s.nextPass a) := by
  show execArrayPassEnd a s = _
  rw [execArrayPassEnd]
  exact (if_neg (execArrayPassEnd_goesOn started running going issued)).trans (if_pos more)

/-- At the end of a block its outputs leave as far as they can. -/
theorem exec_arrayPassEnd_block (last : (s.jobOf a).passes ≤ (s.array a).pass + 1) :
    let n := (s.jobOf a).blockRows (s.array a).block
    let r := s.emitFrom a (n - (s.array a).emitted) (s.array a).emitted
    let u := r.1.setArray a { r.1.array a with emitted := r.2 }
    exec (.arrayPassEnd a) s = .next (if r.2 < n then u.stallCycle a RegF.wingMaStallColStall else (u.blockFlags a).nextPass a) := by
  intro n r u
  show execArrayPassEnd a s = _
  rw [execArrayPassEnd]
  refine ((if_neg (execArrayPassEnd_goesOn started running going issued)).trans (if_neg (Nat.not_lt.2 last))).trans ?_
  exact (apply_ite Host.Outcome.next _ _ _).symm

end

/-- Where no job of a task is frozen no stream ends (R106). -/
theorem State.endIdleRings_of_noneFrozen (s : State) (c t : Nat) (none' : ∀ j ∈ (s.task c t).arrayJobs, s.frozenJob c j = false) :
    s.endIdleRings c t = s := by
  have busy : ∀ x, s.idleRing c t x = false := fun x => by
    have unskipped : ((s.task c t).arrayJobs.zipIdx.filter (fun j => j.1.bases.any x.covers)).any (fun j => s.frozenJob c j.1) = false :=
      List.any_eq_false.2 fun j mem => by
        rw [none' j.1 (List.fst_mem_of_mem_zipIdx (List.mem_filter.1 mem).1)]
        exact Bool.false_ne_true
    simp only [State.idleRing, unskipped, Bool.and_false, Bool.false_and]
  exact overList_keeps (fun u => u = s) _ (fun u v same => by subst same; simp only [busy, Bool.false_eq_true, if_false]) _ s rfl

/-! ### Gating and parity errors (R94, R109, R110) -/

theorem exec_columnGroupGate {s : State} {a : Nat} (present : s.hasArray a = true) (enabled : ((s.array a).cfg.getD (0, 0x05E)).2 ≠ 0)
    (on : (s.array a).groupsOn ≠ 0) : exec (.columnGroupGate a) s =
      .next (s.putArray a { s.array a with groupsOn := 0, ramp := (s.array a).started }) := by
  show execColumnGroupGate a s = _
  rw [execColumnGroupGate]
  exact congrArg _ (if_neg (not_or.2 ⟨not_not.2 present, not_or.2 ⟨enabled, on⟩⟩))

/-- The first i of 16 column groups. -/
def firstGroups (i : Nat) : BitVec 16 := BitVec.ofNat 16 (2 ^ i - 1)

theorem getLsbD_firstGroups (i k : Nat) : (firstGroups i).getLsbD k = (decide (k < 16) && decide (k < i)) := by
  rw [firstGroups, BitVec.getLsbD_ofNat, Nat.testBit_two_pow_sub_one]

theorem firstGroups_succ (i : Nat) : firstGroups i ||| BitVec.ofNat 16 (2 ^ i) = firstGroups (i + 1) := by
  refine BitVec.eq_of_getLsbD_eq fun k lt => ?_
  rw [BitVec.getLsbD_or, getLsbD_firstGroups, getLsbD_firstGroups, BitVec.getLsbD_ofNat, Nat.testBit_two_pow]
  simp only [lt, decide_true, Bool.true_and, ← Bool.decide_or, decide_eq_decide]
  omega

/-- Ramping turns on one column group after another. -/
theorem exec_columnGroupUngate {s : State} {a i : Nat} (lt : i < 16) (ramp : (s.array a).ramp = true)
    (on : (s.array a).groupsOn = firstGroups i) : exec (.columnGroupUngate a i) s =
      .next (s.putArray a { s.array a with groupsOn := firstGroups (i + 1), ramp := decide (i ≠ 15) }) := by
  have inOrder : (List.range 16).all (fun k => (s.array a).groupsOn.getLsbD k == decide (k < i)) = true :=
    List.all_eq_true.2 fun k mem => by rw [on, getLsbD_firstGroups, decide_eq_true (List.mem_range.1 mem), Bool.true_and, beq_self_eq_true]
  show execColumnGroupUngate a i s = _
  rw [execColumnGroupUngate]
  refine congrArg _ ((if_neg (by simp only [ramp, inOrder, not_true, false_or, Nat.not_le, lt])).trans ?_)
  rw [on, firstGroups_succ]

section
variable {s : State} {a : Nat} (present : s.hasArray a = true) (part : Nat)
include present

/-- A parity error ends the task of the running job with INTERNAL, which names the record just made. -/
theorem exec_arrayParityError_running (started : (s.array a).started = true) (running : s.running (s.array a).ctx (s.array a).task = true) :
    let u := s.event (uArray a) 0x0106 3 (some (s.array a).ctx) [(16, 1, part)]
    exec (.arrayParityError a part) s = .next (u.failTask (s.array a).ctx (s.array a).task (u.unitFail .internal (uArray a))) := by
  show execArrayParityError a part s = _
  rw [execArrayParityError]
  simp only [present, started, running, not_true, if_false, Bool.and_self, if_true]

/-- With no running job the record stands alone, and the next load goes by moving front. -/
theorem exec_arrayParityError_idle (idle : (s.array a).started = false ∨ s.running (s.array a).ctx (s.array a).task = false) :
    exec (.arrayParityError a part) s = .next ((s.event (uArray a) 0x0106 3 none [(16, 1, part)]).putArray a
      { s.array a with front := true, shadow := [], load := none }) := by
  have noJob : ((s.array a).started && s.running (s.array a).ctx (s.array a).task) = false := by
    rcases idle with idle | idle
    · rw [idle, Bool.false_and]
    · rw [idle, Bool.and_false]
  show execArrayParityError a part s = _
  rw [execArrayParityError]
  simp only [present, noJob, not_true, if_false, Bool.false_eq_true]

end

theorem exec_wingMaCntClr {s : State} (ready : s.ready = true) (a : Nat) : exec (.wingMaCntClr a) s =
    .next ((s.setReg .wingMaStall (a / 2) (a % 2) 0).setReg .wingMaEvt (a / 2) (a % 2) 0) := by
  show execWingMaCntClr a s = _
  rw [execWingMaCntClr, if_neg (not_not.2 ready)]
  rfl

/-- Settles O18: passes, blocks and jobs end in order, records lie by their elements, and gating, parity errors and aborts leave the array
ready for its next load. -/
theorem arrayEndsGatingAndErrors : Obligations.ArrayEndsGatingAndErrors := by
  unfold Obligations.ArrayEndsGatingAndErrors
  constructor
  · intro s a x j w u
    refine ⟨exec_arrayJobEnd, s.endIdleRings_of_noneFrozen, ?_, ?_, exec_arrayPassEnd_block, State.nextPass_jobDone,
      fun row c chain lt _ => s.emitRow_record a row chain lt⟩
    · intro started running going issued more left y
      rw [exec_arrayPassEnd_pass started running going issued more, State.nextPass_pass more left]
      exact ⟨fun force => congrArg _ (if_pos force), fun force => congrArg _ (if_neg (by rw [force]; exact Bool.false_ne_true))⟩
    · intro l load done job pass idle
      obtain ⟨next, swapped⟩ := State.swapLoad_array load done job pass idle
      rw [swapped]
  · intro s a x w
    refine ⟨exec_columnGroupGate, ?_, ?_, fun part present started running => exec_arrayParityError_running present part started running,
      fun part present idle => exec_arrayParityError_idle present part idle, ?_, fun ready => ⟨_, exec_wingMaCntClr ready a, rfl, ?_, ?_⟩⟩
    · intro i lt ramp on
      rw [exec_columnGroupUngate (by omega) ramp on, decide_eq_true (by omega), ← ramp]
      rfl
    · exact fun ramp on => exec_columnGroupUngate (i := 15) (by decide) ramp on
    · intro y
      rw [show y.array a = x.aborted by rw [State.array_abortArray, if_pos rfl]]
      exact ⟨rfl, rfl, rfl, rfl, rfl⟩
    · rw [State.reg_setReg, if_neg (fun same => by cases same.1), State.reg_setReg_same]
    · rw [State.reg_setReg_same]

end Sys2Proof.Machine
end

section
/-! SUPPORT. Messages received (spec/06_gallery_streams_tiles.md R157, spec/11_ralda_link.md R315 to R317, R319, R323): what each command does
with the message it takes, forwarding, and what a queue does with data, with its slots and with their credits. -/

namespace Sys2Proof.Machine

/-! ### Taking a message, for its receiver or for a further link -/

section
variable {s u : State} {p kind : Nat} {m : Msg} (lt : p < 16) (up : s.portUp p = true)
include lt up

/-- A command of a port that is up does with the message it takes what its links and its receiver ask. -/
theorem State.receive_taken (taken : s.takeMsg p kind = some (m, u)) (f : Msg → State → State) (may : Msg → Bool) :
    s.receive p kind f may = .next (if m.hop < m.hops then u.forward p m else if may m then f m u else s) := by
  simp only [State.receive, if_neg (show ¬ (16 ≤ p ∨ ¬ s.portUp p = true) by simp [up, lt]), taken, ok]

/-- One with links still to take is forwarded, whatever its receiver would do with it. -/
theorem State.receive_forwards (onward : m.hop < m.hops) (taken : s.takeMsg p kind = some (m, u)) (f : Msg → State → State)
    (may : Msg → Bool) : s.receive p kind f may = .next (u.forward p m) :=
  (State.receive_taken lt up taken f may).trans (congrArg _ (if_pos onward))

variable (here : m.hops ≤ m.hop)
include here

theorem State.receive_allowed (taken : s.takeMsg p kind = some (m, u)) (f : Msg → State → State) {may : Msg → Bool} (allowed : may m = true) :
    s.receive p kind f may = .next (f m u) := by
  rw [State.receive_taken lt up taken, if_neg (Nat.not_lt.2 here), if_pos allowed]

/-- One that its receiver may not take yet stays at the port. -/
theorem State.receive_waits (taken : s.takeMsg p kind = some (m, u)) (f : Msg → State → State) {may : Msg → Bool} (refused : may m = false) :
    s.receive p kind f may = .next s := by
  rw [State.receive_taken lt up taken, if_neg (Nat.not_lt.2 here), if_neg (by rw [refused]; exact Bool.false_ne_true)]

theorem exec_detach (taken : s.takeMsg p 5 = some (m, u)) : let x := u.rqueue m.dstWing m.queue
    exec (.detach p) s = .next (if x.accepts m then u.sendMsg p
      { kind := kRecall, hops := 1, hop := 1, dstWing := m.dstWing, srcDev := u.fld RegF.glbLinkCfgDevId, dstDev := m.srcDev,
        queue := m.queue, route := BitVec.ofNat 20 p, op := m.op, count := m.index } (some (x.ctx, x.bind.task)) else u.discardMsg p m) :=
  State.receive_takes lt up here taken _

end

/-! ### Transit (R315) -/

theorem State.forward_transit {u : State} {m : Msg} (slots : u.hasTransit (m.port m.hop) = true) (p : Nat) :
    u.forward p m = u.sendMsg (m.port m.hop) { m with hop := m.hop + 1 } := if_pos slots

theorem State.forward_no_transit {u : State} {m : Msg} (slots : u.hasTransit (m.port m.hop) = false) (p : Nat) :
    u.forward p m = u.abortBack p m .unitAbsent := if_neg (by rw [slots]; exact Bool.false_ne_true)

/-! ### Data at a queue (R157, R316, R317) -/

theorem RQueue.accepts_iff (x : RQueue) (m : Msg) : x.accepts m = true ↔ x.held = true ∧ x.bind.op = m.op := by simp [RQueue.accepts]

theorem RQueue.not_accepts_iff (x : RQueue) (m : Msg) : ¬ x.accepts m = true ↔ x.held = false ∨ x.bind.op ≠ m.op := by
  rw [RQueue.accepts_iff, not_and_or, Bool.not_eq_true]

theorem State.rqueue_setRq (s : State) (w q : Nat) (x : RQueue) : (s.setRq w q x).rqueue w q = x := Tbl.get_set_same ..

/-- A queue once it has taken a message by a port into its next slot. -/
def RQueue.filled (x : RQueue) (p : Nat) (m : Msg) : RQueue :=
  { x.hear p m with wr := (x.wr + 1) % max 1 x.bind.slots, used := x.used + 1, froms := x.froms ++ [(m.srcDev, p, m.hops)] }

section
variable {u : State} {m : Msg}

theorem State.deliver_discards (no : ¬ (u.rqueue m.dstWing m.queue).accepts m = true) (p : Nat) : u.deliver p m = u.discardMsg p m :=
  if_pos (.inl no)

variable (takes : (u.rqueue m.dstWing m.queue).accepts m = true)
include takes

/-- A queue that no out-stream shares writes the payload into its next slot, and changes nothing else. -/
theorem State.deliver_slot (room : (u.rqueue m.dstWing m.queue).used < (u.rqueue m.dstWing m.queue).bind.slots)
    (bound : (u.rqueue m.dstWing m.queue).bind.toStream = false) (p : Nat) : let x := u.rqueue m.dstWing m.queue
    u.deliver p m = (u.wr (x.bind.base + tileBytes * x.wr) m.payload).setRq m.dstWing m.queue (x.filled p m) := by
  intro x
  have kept : ¬ (¬ x.accepts m = true ∨ x.bind.slots ≤ x.used) := not_or.2 ⟨not_not.2 takes, Nat.not_le.2 room⟩
  rw [State.deliver, if_neg kept, if_neg (fun stream => by simp [bound] at stream)]
  rfl

/-! ### Contributions at a queue (R319) -/

theorem State.receiveReduce_queued (other : u.controlled (u.rqueue m.dstWing m.queue).ctx m = false) (p : Nat) :
    u.receiveReduce p m = (u.countWide (u.rqueue m.dstWing m.queue).ctx m).deliver p m := by
  rw [State.receiveReduce, if_neg (not_not.2 takes), if_pos (by rw [other]; exact Bool.false_ne_true)]

/-- The reduction control adds a contribution, and its credit goes back at once. -/
theorem State.receiveReduce_controlled (control : u.controlled (u.rqueue m.dstWing m.queue).ctx m = true) (p : Nat) :
    let x := u.rqueue m.dstWing m.queue
    let v := u.setRq m.dstWing m.queue (x.hear p m)
    u.receiveReduce p m = (v.contribute x.ctx ((v.cert x.ctx).redGroup m.op) m).returnCredit m.dstWing m.queue 1 := by
  rw [State.receiveReduce, if_neg (not_not.2 takes), if_neg (not_not.2 control)]

end

/-! ### Slots and their credits (R317) -/

/-- The oldest message of a queue frees its slot, and its own sender gets the credit. -/
theorem State.freeMsg_oldest {u : State} {w q : Nat} {d : Nat × Nat × Nat} {rest : List (Nat × Nat × Nat)} (inUse : 0 < (u.rqueue w q).used)
    (senders : (u.rqueue w q).froms = d :: rest) : let x := u.rqueue w q
    u.freeMsg w q = (u.setRq w q { x with rd := (x.rd + 1) % max 1 x.bind.slots, used := x.used - 1, taken := x.taken - 1, froms := rest }).creditTo
      w q 1 d := by
  rw [State.freeMsg, if_neg inUse.ne', senders]
  rfl

/-- Credits of a sender on another device go back to it in a CREDIT. -/
theorem State.creditTo_remote {u : State} {d : Nat × Nat × Nat} (remote : d.1 ≠ u.fld RegF.glbLinkCfgDevId) (w q : Nat) {n : Nat} (hn : n ≠ 0) :
    let back := u.backRoute d.2.1 d.2.2
    u.creditTo w q n d = back.2.sendMsg d.2.1
      { kind := kCredit, hops := d.2.2, hop := 1, srcDev := u.fld RegF.glbLinkCfgDevId, dstDev := d.1, dstWing := w, queue := q, route := back.1,
        op := (u.rqueue w q).bind.op, count := n } := by
  rw [State.creditTo, if_neg hn, if_neg remote]

/-- Settles O44: a command takes its message, and forwards it, keeps it waiting or hands it to its receiver, where a lemma for each case says what
becomes of it. -/
theorem messagesReceived : Obligations.MessagesReceived := by
  unfold Obligations.MessagesReceived
  intro s u p m lt up got x
  have takes : x.held = true → x.bind.op = m.op → x.accepts m = true := fun held op => (x.accepts_iff m).2 ⟨held, op⟩
  refine ⟨fun onward => ?forwarded, fun slots => State.forward_transit slots p, fun slots => State.forward_no_transit slots p,
    fun here => ?received, fun held op room bound _ => ?delivered, fun d rest inUse senders => State.freeMsg_oldest inUse senders,
    fun d remote => State.creditTo_remote remote _ _ one_ne_zero,
    fun no => State.deliver_discards ((x.not_accepts_iff m).2 no) p⟩
  case forwarded =>
    have goes : ∀ {kind}, got kind → ∀ f may, s.receive p kind f may = .next (u.forward p m) := State.receive_forwards lt up onward
    exact ⟨fun taken => goes taken _ _, fun taken => goes taken _ _, fun taken => goes taken _ _, fun taken => goes taken _ _⟩
  case received =>
    refine ⟨fun allowed => ?_, fun refused => ?_, fun taken control held op control' => ?_,
      fun held op other => State.receiveReduce_queued (takes held op) other p, fun taken => State.receive_takes lt up here taken _,
      fun taken held op => ?_, fun taken free => ?_, fun taken => State.receive_takes lt up here taken _⟩
    · exact ⟨fun taken => State.receive_allowed lt up here taken _ allowed, fun taken => State.receive_allowed lt up here taken _ allowed,
        fun taken => State.receive_allowed lt up here taken _ (by rw [allowed, Bool.or_true])⟩
    · exact ⟨fun taken => State.receive_waits lt up here taken _ refused, fun taken => State.receive_waits lt up here taken _ refused,
        fun taken other => State.receive_waits lt up here taken _ (by rw [other, refused, Bool.or_false])⟩
    · exact (State.receive_allowed lt up here taken _ (by rw [control, Bool.true_or])).trans
        (congrArg _ (State.receiveReduce_controlled (takes held op) control' p))
    · exact (exec_detach lt up here taken).trans (congrArg _ (if_pos (takes held op)))
    · exact (exec_detach lt up here taken).trans (congrArg _ (if_neg ((x.not_accepts_iff m).2 (.inl free))))
  case delivered =>
    intro v
    have slot : v = (u.wr (x.bind.base + tileBytes * x.wr) m.payload).setRq m.dstWing m.queue (x.filled p m) :=
      State.deliver_slot (takes held op) room bound p
    rw [slot, State.rqueue_setRq]
    exact ⟨u.rd_wr _ _, rfl, rfl, rfl, fun a outside => u.wr_other _ _ a outside⟩

end Sys2Proof.Machine
end

section
/-! SUPPORT. Board-tier ports (spec/07_memory_tiers.md R198, R202 to R205): what a request in an allotted slot comes to, what a response, a late
response and a time-out do. -/

namespace Sys2Proof.Machine

/-! ### Ports and tags -/

/-- The first index that a test accepts lies in the list. -/
theorem getElem?_of_indexFrom {α : Type} {f : α → Bool} : ∀ {l : List α} {i k : Nat}, indexFrom f l i = some k →
    ∃ j x, k = i + j ∧ l[j]? = some x ∧ f x = true
  | x :: l, i, k, found => by
    by_cases hit : f x = true
    · rw [indexFrom, if_pos hit] at found
      cases found
      exact ⟨0, x, rfl, rfl, hit⟩
    · rw [indexFrom, if_neg hit] at found
      obtain ⟨j, y, rfl, at', hit'⟩ := getElem?_of_indexFrom found
      exact ⟨j + 1, y, by omega, at', hit'⟩

/-- The free tag is one of 4,096, and no request holds it. -/
theorem BtPort.freeTag_spec {x : BtPort} {t : Nat} (free : x.freeTag = some t) :
    t < 4096 ∧ (∀ q ∈ x.out, q.tag ≠ t) ∧ t ∉ x.late ∧ t ∉ x.cfgOut := by
  obtain ⟨j, u, rfl, at', unused⟩ := getElem?_of_indexFrom free
  obtain ⟨lt, rfl⟩ := List.getElem?_eq_some_iff.1 at'
  rw [List.length_range] at lt
  simp only [List.getElem_range, Bool.and_eq_true, Bool.not_eq_true', List.any_eq_false, beq_iff_eq, List.contains_eq_mem,
    decide_eq_false_iff_not] at unused
  obtain ⟨⟨out, late⟩, cfg⟩ := unused
  rw [Nat.zero_add]
  exact ⟨lt, out, late, cfg⟩

@[simp] theorem State.btPort_setFld (s : State) (f : Fld) (v i j b : Nat) : (s.setFld f v i j).btPort b = s.btPort b := rfl

theorem State.btPort_putBt (s : State) (b : Nat) (x : BtPort) (b' : Nat) : (s.putBt b x).btPort b' = if b' = b then x else s.btPort b' := by
  rw [State.putBt, State.btPort_setFld]
  split
  · subst b'
    exact s.btPort_setBt b x
  · exact Tbl.get_set_other _ _ _ _ _ _ ‹_›


/-! ### Requests (R198, R202, R203) -/

theorem State.shareOk_iff (s : State) (w b slot : Nat) : s.shareOk w b slot = true ↔ b / 2 = w / 2 ∧
    (if s.fld RegF.btpCfgShareMode b = 1 then (slot % 16 < s.fld RegF.btpCfgShareLow b ↔ w % 2 = 0) else slot % 2 = w % 2) := by
  simp only [State.shareOk, State.flag, Bool.and_eq_true, beq_iff_eq]
  refine and_congr_right fun _ => ?_
  split
  · rw [beq_iff_eq, decide_eq_decide]
  · rw [beq_iff_eq]

/-- An access of whole lines at port b comes in a slot of its task that has not come yet. -/
structure State.PortSlot (s : State) (b slot : Nat) (r : Access) : Prop where
  home : homeOf r.addr = .board b
  lines : accBoardOk r = true
  mine : s.allots r.ctx (.boardPort b) slot r.task = true
  share : s.shareOk (s.task r.ctx r.task).wing b slot = true
  free : (s.btPort b).comes ≤ slot

/-- The port is up, no outstanding request bars the access and the credits suffice. -/
structure State.PortGoes (s : State) (b : Nat) (r : Access) : Prop where
  up : s.fld RegF.btpStsState b = 2
  alone : (s.btPort b).conflict r = false
  credit : s.dbm b = true → (s.btPort b).hasCredit r = true

theorem exec_boardTierRequest_taken {s : State} {b slot : Nat} (r : Access) (taken : slot < (s.btPort b).comes) :
    exec (.boardTierRequest b slot r) s = .next s :=
  show execBoardTierRequest b slot r s = _ from if_pos (.inr (.inr (.inl taken)))

theorem exec_boardTierRequest_foreign {s : State} {b slot : Nat} {r : Access}
    (wing : s.shareOk (s.task r.ctx r.task).wing b slot = false) (host : s.shares r.ctx (.hostSharePort b) slot = false) :
    exec (.boardTierRequest b slot r) s = .next s :=
  show execBoardTierRequest b slot r s = _ from if_pos (.inr (.inr (.inr (by simp [wing, host]))))

section
variable {s : State} {b slot : Nat} {r : Access} (own : s.PortSlot b slot r)
include own

/-- What a request comes to in its own slot. -/
theorem exec_boardTierRequest_own : exec (.boardTierRequest b slot r) s =
    if ¬ s.mayAccess r = true then .next ((s.abortTask r.ctx r.task .protFault (BitVec.ofNat 64 r.addr)).settle)
    else if s.fld RegF.btpStsState b ≠ 2 ∨ (s.btPort b).conflict r = true ∨ (s.dbm b = true ∧ ¬ (s.btPort b).hasCredit r = true) then .next s
    else match (s.btPort b).freeTag with
      | none => .next s
      | some t => .next (s.btIssue b slot r t false) := by
  obtain ⟨home, lines, mine, share, free⟩ := own
  show execBoardTierRequest b slot r s = _
  simp only [execBoardTierRequest, mine, share, Bool.and_self, Bool.not_true, if_true]
  rw [if_neg (by simp [home, lines, free])]
  generalize (s.btPort b).freeTag = tag
  rfl

theorem exec_boardTierRequest_denied (denied : s.mayAccess r = false) :
    exec (.boardTierRequest b slot r) s = .next ((s.abortTask r.ctx r.task .protFault (BitVec.ofNat 64 r.addr)).settle) := by
  rw [exec_boardTierRequest_own own, if_pos (by rw [denied]; exact Bool.false_ne_true)]

section
variable (reach : s.mayAccess r = true)
include reach

theorem exec_boardTierRequest_waits (waits : s.fld RegF.btpStsState b ≠ 2 ∨ (s.btPort b).conflict r = true ∨
      (s.dbm b = true ∧ (s.btPort b).hasCredit r = false) ∨ (s.btPort b).freeTag = none) :
    exec (.boardTierRequest b slot r) s = .next s := by
  rw [exec_boardTierRequest_own own, if_neg (not_not.2 reach)]
  split
  · rfl
  · next goes =>
    have noTag : (s.btPort b).freeTag = none := by
      rcases waits with down | conflict | credit | noTag
      · exact absurd (.inl down) goes
      · exact absurd (.inr (.inl conflict)) goes
      · exact absurd (.inr (.inr ⟨credit.1, by rw [credit.2]; exact Bool.false_ne_true⟩)) goes
      · exact noTag
    rw [noTag]

theorem exec_boardTierRequest_issues (goes : s.PortGoes b r) {t : Nat} (tag : (s.btPort b).freeTag = some t) :
    exec (.boardTierRequest b slot r) s = .next (s.btIssue b slot r t false) := by
  obtain ⟨up, alone, credit⟩ := goes
  rw [exec_boardTierRequest_own own, if_neg (not_not.2 reach), if_neg (by simpa [up, alone] using credit), tag]

end
end

/-- The credits of a request that goes: one header, and one unit for each line written. -/
theorem BtPort.hasCredit_iff (x : BtPort) (r : Access) :
    x.hasCredit r = true ↔ 1 ≤ x.hdrCr ∧ (if r.data.isSome then accLines r else 0) ≤ x.dataCr := by
  cases h : r.data <;> simp [BtPort.hasCredit, h]

/-- An issued request is outstanding under its tag; in DBM mode its message goes out for its credits. -/
theorem State.btIssue_spec {s : State} {b : Nat} {r : Access} (goes : s.PortGoes b r) (slot t : Nat) : let x := s.btPort b
    let v := s.btIssue b slot r t false
    v = { s with bt := v.bt, regs := v.regs } ∧ (v.btPort b).comes = slot + 1 ∧
    (v.btPort b).out = x.out ++ [{ tag := t, line := lineOf r.addr, lines := accLines r, acc := r }] ∧
    (s.dbm b = true → (v.btPort b).hdrCr + 1 = x.hdrCr ∧ (v.btPort b).dataCr + (if r.data.isSome then accLines r else 0) = x.dataCr ∧
      (v.btPort b).sent = x.sent ++ [dbmRequest r t]) ∧ ∀ b', b' ≠ b → v.btPort b' = s.btPort b' := by
  intro x v
  have port : ∀ b', v.btPort b' = _ := State.btPort_putBt s b _
  refine ⟨rfl, ?_, ?_, fun dbm => ?_, fun b' other => (port b').trans (if_neg other)⟩
  · rw [port, if_pos rfl]
  · rw [port, if_pos rfl]
  · obtain ⟨hdr, data⟩ := (BtPort.hasCredit_iff _ r).1 (goes.credit dbm)
    rw [port, if_pos rfl]
    refine ⟨?_, ?_, ?_⟩
    · simp only [dbm, if_true]
      exact Nat.sub_add_cancel hdr
    · simp only [dbm, Bool.true_and]
      split at data
      · next write => rw [if_pos write, if_pos write]; exact Nat.sub_add_cancel data
      · next read => rw [if_neg read, if_neg read]; rfl
    · simp only [dbm, if_true]; rfl

/-! ### Responses and time-outs (R205) -/

/-- The port once a request has left its ledger. -/
def BtPort.drop (x : BtPort) (tag : Nat) : BtPort := { x with out := x.out.filter (fun q => q.tag != tag) }

section
variable {s : State} {b op : Nat} {msg : List Byte} (up : s.fld RegF.btpStsState b = 2) (dbm : s.dbm b = true) (whole : 16 ≤ msg.length)
include up dbm whole

/-- A message of an operation that R202 does not reserve is used by the command of its operation. -/
theorem State.dbmTake_used (kind : field msg 0 1 % 16 = op) (known : op ∈ [1, 2, 4, 5, 8, 9, 0xA, 0xC]) (f : State → State) :
    s.dbmTake b op msg f = f s := by
  have used : dbmReserved msg = false := by rw [dbmReserved, dbmOp, kind, List.contains_iff_mem.2 known]; rfl
  rw [State.dbmTake, if_neg (by simp [up, dbm, whole]), if_neg (by simp [used])]
  exact if_pos kind

/-- A reserved operation is a link error. -/
theorem State.dbmTake_reserved (reserved : field msg 0 1 % 16 ∉ [1, 2, 4, 5, 8, 9, 0xA, 0xC]) (f : State → State) :
    s.dbmTake b op msg f = s.btDown b := by
  have bad : dbmReserved msg = true := by
    rw [dbmReserved, dbmOp, Bool.not_eq_true', ← Bool.not_eq_true, List.contains_iff_mem]
    exact reserved
  rw [State.dbmTake, if_neg (by simp [up, dbm, whole]), if_pos bad]

end

/-- A request that no host-copy share issued ends its task with TIER_ERROR. -/
theorem State.btError_own {q : BtReq} (own : q.share = false) (s : State) :
    s.btError q = (s.abortTask q.acc.ctx q.acc.task .tierError (BitVec.ofNat 64 q.acc.addr)).settle := by
  rw [State.btError, if_neg (by simp [own])]
  rfl

section
variable {s : State} {b tag : Nat} {q : BtReq} (late : tag ∉ (s.btPort b).late) (cfg : tag ∉ (s.btPort b).cfgOut)
  (found : (s.btPort b).out.find? (fun q => q.tag == tag) = some q)
include late cfg found

/-- What a response to an outstanding request comes to. -/
theorem State.btAnswer_found (status : Nat) (data : List Byte) : let free := s.putBt b ((s.btPort b).drop tag)
    s.btAnswer b tag status data = if status = 0 then free.wr q.acc.addr (q.acc.data.getD (pad q.acc.len data))
      else let st := if status = 1 then 1 else if status = 2 then 2 else 3
        ((free.incFld (if st = 1 then RegF.btpErrPoisoned else RegF.btpErrFaults) 1 b).evTier (uBt b) (some q.acc.ctx) q.line st).btError q := by
  rw [State.btAnswer, if_neg cfg, if_neg late, found]
  dsimp only
  split
  · cases q.acc.data <;> rfl
  · rfl

theorem State.btAnswer_read (read : q.acc.data = none) (data : List Byte) :
    s.btAnswer b tag 0 data = (s.putBt b ((s.btPort b).drop tag)).wr q.acc.addr (pad q.acc.len data) := by
  rw [State.btAnswer_found late cfg found, if_pos rfl, read]
  rfl

theorem State.btAnswer_write {d : List Byte} (write : q.acc.data = some d) (data : List Byte) :
    s.btAnswer b tag 0 data = (s.putBt b ((s.btPort b).drop tag)).wr q.acc.addr d := by
  rw [State.btAnswer_found late cfg found, if_pos rfl, write]
  rfl

section
variable (own : q.share = false) (data : List Byte)
include own

theorem State.btAnswer_poisoned : s.btAnswer b tag 1 data = ((((s.putBt b ((s.btPort b).drop tag)).incFld RegF.btpErrPoisoned 1 b).evTier (uBt b)
    (some q.acc.ctx) q.line 1).abortTask q.acc.ctx q.acc.task .tierError (BitVec.ofNat 64 q.acc.addr)).settle := by
  rw [State.btAnswer_found late cfg found, if_neg one_ne_zero]
  exact State.btError_own own _

theorem State.btAnswer_fault : s.btAnswer b tag 2 data = ((((s.putBt b ((s.btPort b).drop tag)).incFld RegF.btpErrFaults 1 b).evTier (uBt b)
    (some q.acc.ctx) q.line 2).abortTask q.acc.ctx q.acc.task .tierError (BitVec.ofNat 64 q.acc.addr)).settle := by
  rw [State.btAnswer_found late cfg found, if_neg two_ne_zero]
  exact State.btError_own own _

end
end

/-- A late response frees its tag alone. -/
theorem State.btAnswer_late {s : State} {b tag : Nat} (late : tag ∈ (s.btPort b).late) (cfg : tag ∉ (s.btPort b).cfgOut) (status : Nat)
    (data : List Byte) :
    s.btAnswer b tag status data = s.putBt b { s.btPort b with late := (s.btPort b).late.filter (fun t => t != tag) } := by
  rw [State.btAnswer, if_neg cfg, if_pos late]

section
variable {s : State} {b : Nat} {msg : List Byte} (up : s.fld RegF.btpStsState b = 2) (dbm : s.dbm b = true) (whole : 16 ≤ msg.length)
include up dbm whole

theorem exec_rdata (kind : field msg 0 1 % 16 = 8) :
    exec (.rdata b msg) s = .next (s.btAnswer b (field msg 2 2 % 4096) (field msg 1 1 % 16) (msg.drop 16)) :=
  show execRdata b msg s = _ from congrArg _ (State.dbmTake_used up dbm whole kind (by decide) _)

theorem exec_wack (kind : field msg 0 1 % 16 = 9) :
    exec (.wack b msg) s = .next (s.btAnswer b (field msg 2 2 % 4096) (field msg 1 1 % 16) []) :=
  show execWack b msg s = _ from congrArg _ (State.dbmTake_used up dbm whole kind (by decide) _)

end

theorem exec_cxlMemResponse {s : State} {b : Nat} (up : s.fld RegF.btpStsState b = 2) (cxl : s.dbm b = false) (tag : Nat) (poison : Bool)
    (data : List Byte) : exec (.cxlMemResponse b tag poison data) s = .next (s.btAnswer b tag (bit poison) data) :=
  show execCxlMemResponse b tag poison data s = _ from if_neg (by simp [up, cxl])

/-- A request that times out ends its task, and its tag stays reserved. -/
theorem exec_btpRequestTimeout {s : State} {b tag : Nat} {q : BtReq} (found : (s.btPort b).out.find? (fun q => q.tag == tag) = some q)
    (own : q.share = false) : let x := s.btPort b
    let v := (s.putBt b { x with out := x.out.filter (fun q => q.tag != tag), late := x.late ++ [tag] }).incFld RegF.btpErrTimeouts 1 b
    exec (.btpRequestTimeout b tag) s = .next (((v.evTierOpen (uBt b) (some q.acc.ctx) q.line).abortTask q.acc.ctx q.acc.task .tierError
      (BitVec.ofNat 64 q.acc.addr)).settle) := by
  intro x v
  show execBtpRequestTimeout b tag s = _
  simp only [execBtpRequestTimeout, found, ok]
  exact congrArg _ (State.btError_own own _)

/-! ### The statement -/

/-- Settles O39: a request by the lemmas for its cases, a response by what its status and its request make of it. -/
theorem boardTierRequestsAndResponses : Obligations.BoardTierRequestsAndResponses := by
  unfold Obligations.BoardTierRequestsAndResponses
  refine ⟨fun s b slot r home lines mine => ?request, fun s w b slot => s.shareOk_iff w b slot,
    fun s b tag q msg up dbm whole named late cfg found => ?dbm, fun s b tag q data up cxl late cfg found read => ?cxl,
    fun s b tag poison data up cxl late cfg => ?late, fun s b tag q found own => exec_btpRequestTimeout found own⟩
  case request =>
    intro x go
    refine ⟨fun taken => exec_boardTierRequest_taken r taken, fun wing host => exec_boardTierRequest_foreign wing host, fun share =>
      ⟨fun free denied => exec_boardTierRequest_denied ⟨home, lines, mine, share, free⟩ denied, fun free reach =>
      ⟨fun waits => exec_boardTierRequest_waits ⟨home, lines, mine, share, free⟩ reach waits, fun t up alone credit tag => ?_⟩⟩⟩
    have goes : s.PortGoes b r := ⟨up, alone, credit⟩
    obtain ⟨only, comes, out, paid, others⟩ := State.btIssue_spec goes slot t
    obtain ⟨lt, out', late', cfg'⟩ := BtPort.freeTag_spec tag
    exact ⟨_, exec_boardTierRequest_issues ⟨home, lines, mine, share, free⟩ reach goes tag, only, lt, out', late', cfg', comes, out, paid, others⟩
  case dbm =>
    subst named
    refine ⟨fun kind good read => ?_, fun d kind good write => ?_, fun kind poisoned own => ?_, fun kind fault own => ?_⟩
    · rw [exec_rdata up dbm whole kind, good, State.btAnswer_read late cfg found read]
      rfl
    · rw [exec_wack up dbm whole kind, good, State.btAnswer_write late cfg found write]
      rfl
    · rw [exec_rdata up dbm whole kind, poisoned, State.btAnswer_poisoned late cfg found own]
      rfl
    · rw [exec_rdata up dbm whole kind, fault, State.btAnswer_fault late cfg found own]
      rfl
  case cxl => exact (exec_cxlMemResponse up cxl tag false data).trans (congrArg _ (State.btAnswer_read late cfg found read data))
  case late => exact (exec_cxlMemResponse up cxl tag poison data).trans (congrArg _ (State.btAnswer_late late cfg _ _))

end Sys2Proof.Machine
end

section
/-! SUPPORT. Certificates outlast the ends of tasks (spec/12_rings_contexts_rota.md R340, R349, R351): no abort of a task, and nothing that follows
by itself, loads or unloads a program. -/

namespace Sys2Proof.Machine

/-! ### What leaves every certificate alone -/

/-- Every context has the same certificate. -/
def State.SameCerts (s t : State) : Prop := ∀ c, t.cert c = s.cert c

section
variable {s t u : State}

theorem State.SameCerts.refl (s : State) : s.SameCerts s := fun _ => rfl

theorem State.SameCerts.trans (h : s.SameCerts t) (h' : t.SameCerts u) : s.SameCerts u := fun c => (h' c).trans (h c)

theorem State.SameCerts.of_ctx (h : t.ctx = s.ctx) : s.SameCerts t := fun c => by rw [State.cert, State.prog_congr h, State.cert]

theorem State.SameUnits.sameCerts (h : s.SameUnits t) : s.SameCerts t := .of_ctx h.ctx

theorem State.SameButRegs.sameCerts (h : s.SameButRegs t) : s.SameCerts t := .of_ctx h.ctx

theorem State.SameCerts.overList {α : Type} {f : α → State → State} (hf : ∀ x t, State.SameCerts t (f x t)) (l : List α) (s : State) :
    s.SameCerts (overList l f s) :=
  overList_keeps (fun t => s.SameCerts t) f (fun x t h => h.trans (hf x t)) l s (.refl s)

theorem State.SameCerts.ite {p : Prop} [Decidable p] (h : s.SameCerts t) (h' : s.SameCerts u) : s.SameCerts (if p then t else u) := by
  split
  · exact h
  · exact h'

theorem State.SameCerts.when {f : State → State} (h : s.SameCerts (f s)) (b : Bool) : s.SameCerts (when b f s) := .ite h (.refl s)

end

theorem State.SameCerts.whenInc (s : State) (b : Bool) (f : Fld) (n i : Nat) (j : State → Nat) :
    s.SameCerts (Machine.when b (fun s => s.incFld f n i (j s)) s) :=
  .when (.of_ctx rfl) b

/-- A change of a context beside its program. -/
theorem State.SameCerts.updCx (s : State) (c : Nat) {f : Context → Context} (keeps : ∀ x, ((f x).prog.getD {}).cert = (x.prog.getD {}).cert) :
    s.SameCerts (s.updCx c f) := fun c' => by
  rw [State.cert, State.prog, State.updCx_eq, State.cx_setCx_eq]
  split
  · subst c'
    exact keeps _
  · rfl

/-- A change of a program beside its certificate. -/
theorem State.SameCerts.updProg (s : State) (c : Nat) {f : Prog → Prog} (keeps : ∀ g, (f g).cert = g.cert) : s.SameCerts (s.updProg c f) :=
  .updCx s c fun x => by
    dsimp only
    cases x.prog with
    | none => rfl
    | some g => exact keeps g

theorem State.SameCerts.updRt (s : State) (c t : Nat) (f : TaskRt → TaskRt) : s.SameCerts (s.updRt c t f) := .updProg s c fun _ => rfl

theorem State.SameCerts.setLedger (s : State) (c le : Nat) (x : LedgerRt) : s.SameCerts (s.setLedger c le x) := .updProg s c fun _ => rfl

theorem State.SameCerts.putLedger (s : State) (c le : Nat) (x : LedgerRt) : s.SameCerts (s.putLedger c le x) :=
  (State.SameCerts.setLedger s c le x).trans (.of_ctx rfl)

theorem State.SameCerts.setSend (s : State) (c t k : Nat) (x : SendSt) : s.SameCerts (s.setSend c t k x) := .updRt s c t _

theorem State.SameCerts.event (s : State) (source code severity : Nat) (ctx : Option Nat) (pl : List (Nat × Nat × Nat)) :
    s.SameCerts (s.event source code severity ctx pl) := by
  obtain ⟨r, e, eq⟩ := s.event_eq source code severity ctx pl
  exact .of_ctx (by rw [eq])

theorem State.SameCerts.sendTree (s : State) (ports : List Nat) (m : Msg) : s.SameCerts (s.sendTree ports m) :=
  .of_ctx (State.OnlySends.sendTree s ports m).ctx

theorem State.SameCerts.setStatuses (s : State) (c : Nat) (l : List Nat) (code : Nat) :
    s.SameCerts (Machine.overList l (fun g s => s.setLastStatus c g code) s) :=
  .overList (f := fun g s => s.setLastStatus c g code) (fun _ _ => .of_ctx rfl) l s

theorem State.SameCerts.putStream (s : State) (u : Nat) (x : Stream) (mark : Bool) : s.SameCerts (s.putStream u x mark) :=
  .of_ctx (s.putStream_regs u x mark).ctx

/-! ### The abort of a task (R81, R108, R183, R321) -/

section
variable (s : State) (c t : Nat)

theorem State.SameCerts.abortArrays : s.SameCerts (s.abortArrays c t) :=
  .overList (f := fun a s => s.abortArray a) (fun _ _ => .of_ctx rfl) _ s

theorem State.SameCerts.abortEngines : s.SameCerts (s.abortEngines c t) :=
  .overList (f := fun e s => (s.tornTout e).freeEngine e) (fun e u => (State.SameUnits.tornTout u e).sameCerts.trans (.of_ctx rfl)) _ s

theorem State.SameCerts.stopStream (k : Nat) : s.SameCerts (s.stopStream c t k) := .ite (.putStream s k _ false) (.refl s)

theorem State.SameCerts.abortStreams : s.SameCerts (s.abortStreams c t) := by
  have stops : s.SameCerts (s.stopStreams c t) := by
    rw [State.stopStreams_eq]
    exact (State.SameUnits.dropStreamReads s _).sameCerts.trans (.overList (f := fun (k : Nat × Stream) u => u.stopStream c t k.1)
      (fun k u => .stopStream u c t k.1) _ _)
  exact stops.trans (State.SameUnits.dropStreamReads _ _).sameCerts

theorem State.SameCerts.undoUpdates (le st : Nat) : s.SameCerts (s.undoUpdates c le st) :=
  (State.SameCerts.overList (f := fun (g : Nat × List Byte) u =>
    let a := u.groupAddr c g.1
    ((u.wr a (g.2.take 4)).wr (a + 48) ((g.2.drop 48).take 16)).setLastStatus c g.1 st)
    (fun _ _ => .of_ctx rfl) _ s).trans (.setLedger _ c le _)

theorem State.SameCerts.ledgerAbortMark (st : Status) : s.SameCerts (s.ledgerAbortMark c t st) := by
  refine .overList (fun le u => ?_) _ s
  dsimp only
  split
  · exact .refl u
  · exact ((State.SameCerts.setLedger u c le _).trans (.undoUpdates _ c le _)).trans (.sendTree _ _ _)

theorem State.SameCerts.dropProducts : s.SameCerts (s.dropProducts c t) := .updProg s c fun _ => rfl

theorem State.SameCerts.abortRest (st : Status) (remote : Bool) : s.SameCerts (s.abortRest c t st remote) := by
  have moves := (((State.SameUnits.stopMovers s c t).trans (.stopCouriers _ c t)).trans (.breakShelves _ c t)).trans (.stopAppend _ c t)
  have marks (u : State) : u.SameCerts (if remote then u else u.ledgerAbortMark c t st) := .ite (.refl u) (.ledgerAbortMark u c t st)
  exact ((((moves.sameCerts.trans (.dropProducts _ c t)).trans (.setStatuses _ c _ st.code)).trans (marks _)).trans
    (State.SameUnits.transportAborts _ c t st).sameCerts).trans (State.SameUnits.emptyQueues _ c t).sameCerts

theorem State.SameCerts.abortOne (st : Status) (d : W64) (remote : Bool) : s.SameCerts (s.abortOne c t st d remote) := by
  rw [State.abortOne_eq]
  exact ((((State.SameCerts.updRt s c t _).trans (.abortArrays _ c t)).trans (.abortEngines _ c t)).trans (.abortStreams _ c t)).trans
    (.abortRest _ c t st remote)

theorem State.SameCerts.abortPeers (st : Status) : ∀ (n : Nat) (l : List Nat) (s : State), s.SameCerts (State.abortPeers c st n l s)
  | 0, _, s => .refl s
  | _ + 1, [], s => .refl s
  | n + 1, t :: l, s => by
    rw [State.abortPeers]
    split
    · exact .abortPeers st n l s
    · exact (State.SameCerts.abortOne s c t st _ true).trans (.abortPeers st n _ _)

theorem State.SameCerts.abortTask (st : Status) (d : W64) (remote : Bool) : s.SameCerts (s.abortTask c t st d remote) :=
  .ite (.refl s) ((State.SameCerts.abortOne s c t st d remote).trans (.abortPeers c st _ _ _))

/-! ### The completion of a task and of a RUN (R340) -/

theorem State.SameCerts.handReports : s.SameCerts (s.handReports c t) :=
  .updProg s c fun g => List.foldlRecOn _ _ (motive := fun p : Prog => p.cert = g.cert) rfl fun _ same _ _ => same

theorem State.SameCerts.completeTask (st : Status) (d : W64) : s.SameCerts (s.completeTask c t st d) := by
  rw [State.completeTask_eq]
  exact ((((State.SameCerts.handReports s c t).trans (.updRt _ c t _)).trans (.of_ctx (State.freeArrays_ctx _ _))).trans
    (.of_ctx (State.freeEngines_ctx _ _))).trans (State.SameUnits.endCouriers _ c t).sameCerts

theorem State.SameCerts.syncFull : s.SameCerts (s.syncFull c) := .of_ctx rfl

theorem State.SameCerts.updDesc (i : Nat) (f : Desc → Desc) : s.SameCerts (s.updDesc c i f) := .updCx s c fun _ => rfl

theorem State.SameCerts.complete (r : CRec) : s.SameCerts (s.complete c r) := by
  refine .ite (.refl s) (State.SameCerts.trans ?_ (.syncFull _ c))
  exact .updCx s c fun _ => rfl

theorem State.SameCerts.finish (i : Nat) (st : Status) (d : W64) (k : Nat) (remote : Bool) : s.SameCerts (s.finish c i st d k remote) := by
  unfold State.finish
  split
  · exact .refl s
  · exact .ite (.refl s) ((State.SameCerts.updDesc s c i _).trans (.complete _ c _))

theorem State.SameCerts.endRun : s.SameCerts (s.endRun c) := by
  unfold State.endRun
  split
  · exact .refl s
  · refine State.SameCerts.trans ?_ (.updProg _ c fun _ => rfl)
    split
    · exact .finish s c _ _ _ _ _
    · split <;> exact .finish s c _ _ _ _ _

end

/-! ### Arming (R227, R232 to R235, R243) -/

section
variable (s : State) (c t : Nat)

theorem State.SameCerts.putShelf (w h : Nat) (x : Shelf) : s.SameCerts (s.putShelf w h x) := (State.SameUnits.putShelf s w h x).sameCerts

theorem State.SameCerts.bindStream (e : StreamEntry) (isVoid : Bool) : s.SameCerts (s.bindStream c t e isVoid) := by
  unfold State.bindStream
  dsimp only
  split
  · exact .ite (.refl s) (.ite (.putStream s _ _ false) (.putStream s _ _ false))
  · exact .putStream s _ _ false

theorem State.SameCerts.reserve (b : DepBind) (isVoid : Bool) : s.SameCerts (s.reserve c t b isVoid).1 := by
  unfold State.reserve
  dsimp only
  split
  · exact .refl s
  · split
    · split
      · exact .refl s
      · exact (State.SameCerts.putShelf s _ _ _).trans (.updRt _ c t _)
    · split
      · exact .event s _ _ _ _ _
      · exact (State.SameCerts.putShelf s _ _ _).trans (.updRt _ c t _)

/-- The entry of a task that arms is set, before its reservations. -/
def State.armEntry : State := s.updRt c t (fun x => { x with
  st := .armed, isVoid := s.voidTask c t, att := (s.task c t).attend.map (s.attendStart c),
  bar := (s.task c t).barrier.map (fun _ => ({} : BarrierSt)) })

/-- The reservations of a task that arms, up to the first that fails. -/
def State.reserveAll (isVoid : Bool) (frozen : List Nat) : State × Option Fail :=
  (s.task c t).binds.foldl (fun (a : State × Option Fail) b =>
    match a.2 with
    | some _ => a
    | none => a.1.reserve c t b (isVoid || frozen.contains b.guard)) (s, none)

theorem State.SameCerts.reserveAll (isVoid : Bool) (frozen : List Nat) : s.SameCerts (s.reserveAll c t isVoid frozen).1 := by
  refine List.foldlRecOn _ _ (motive := fun a : State × Option Fail => s.SameCerts a.1) (.refl s) fun a same b _ => ?_
  split
  · exact same
  · exact same.trans (.reserve a.1 c t b _)

theorem State.SameCerts.armTask : s.SameCerts (s.armTask c t) := by
  have reserved := (State.SameCerts.updRt s c t _).trans
    (.reserveAll (s.armEntry c t) c t (s.voidTask c t) ((s.prog c).getD {}).frozen)
  show s.SameCerts (match ((s.armEntry c t).reserveAll c t (s.voidTask c t) ((s.prog c).getD {}).frozen).2 with
    | some f => State.abortTask _ c t f.st f.detail
    | none => _)
  split
  · exact reserved.trans (.abortTask _ c t _ _ _)
  · refine .ite (reserved.trans (.abortTask _ c t _ _ _)) (.ite reserved (reserved.trans ?_))
    exact .overList (fun e u => .bindStream u c t e _) _ _

/-! ### Appends (R291 to R296) -/

/-- The state in which a flush ends. -/
def FlushRes.state : FlushRes → State
  | .done s => s
  | .wait s _ => s
  | .stuck s => s
  | .fail s _ => s

theorem State.SameCerts.galleryFail (a n : Nat) : s.SameCerts (s.galleryFail c a n).2 := by
  show s.SameCerts (s.galleryUe c (s.firstBad a n))
  unfold State.galleryUe
  refine State.SameCerts.trans ?_ (.event _ _ _ _ _ _)
  split <;> exact .of_ctx rfl

theorem State.ctx_of_takePage {s u : State} {c t w p : Nat} (taken : s.takePage c t w = .page p u) : u.ctx = s.ctx := by
  unfold State.takePage at taken
  dsimp only at taken
  split_ifs at taken
  cases taken
  rfl

theorem State.SameCerts.takePages (n : Nat) : ∀ (k : Nat) (l : List Nat) (s : State), s.SameCerts (s.takePages c t n k l).state
  | 0, _, s => .refl s
  | k + 1, l, s => by
    rw [State.takePages]
    split
    · exact .refl s
    · split
      · next taken => exact (State.SameCerts.of_ctx (State.ctx_of_takePage taken)).trans (.takePages n k _ _)
      · exact .refl s
      · exact (State.SameUnits.keepLeaf s c t n l).sameCerts
      · exact (State.SameUnits.keepLeaf s c t n l).sameCerts

theorem State.SameCerts.flush (n : Nat) (taken : List Nat) : s.SameCerts (s.flush c t n taken).state := by
  unfold State.flush
  dsimp only
  split
  · exact .refl s
  split
  · exact .refl s
  split
  · exact .galleryFail s c _ _
  have pages := State.SameCerts.takePages c t n 3 taken s
  split
  · next u l res =>
    rw [res] at pages
    split <;> exact pages.trans (State.SameUnits.writePages n _ u).sameCerts
  · exact pages

theorem State.SameCerts.placeToken (n : Nat) (img : List Byte) (row : Nat) : s.SameCerts (s.placeToken n img row) :=
  (State.SameUnits.overList (fun _ u => .wr u _ _) _ s).sameCerts.trans (.of_ctx rfl)

theorem State.SameCerts.appendRun (n : Nat) (a : AppendEntry) : ∀ (k : Nat) (s : State), s.SameCerts (s.appendRun c t n a k).state
  | 0, s => .refl s
  | k + 1, s => by
    rw [State.appendRun]
    dsimp only
    split
    · have flushed := State.SameCerts.flush s c t n []
      split
      · next u res =>
        rw [res] at flushed
        exact flushed.trans (.appendRun n a k u)
      · exact flushed
    split
    · exact .refl s
    split
    · exact .refl s
    split
    · exact .galleryFail s c _ _
    split
    · exact .event s _ _ _ _ _
    split
    · exact .refl s
    · refine State.SameCerts.trans ?_ (.appendRun n a k _)
      refine State.SameCerts.trans ?_ (.updRt _ c t _)
      exact State.SameCerts.trans (.ite (s.galleryCorrected_regs _ _).sameCerts (.refl s)) (.placeToken _ n _ _)

theorem State.SameCerts.appendGo : s.SameCerts (s.appendGo c t) := by
  unfold State.appendGo
  split
  · exact .refl s
  next a _ =>
  split
  · exact .refl s
  next n _ =>
  have run := State.SameCerts.appendRun c t n a (s.appendFuel a) s
  split
  · next res => rwa [res] at run
  · next res => rwa [res] at run
  · next res =>
    rw [res] at run
    exact run.trans (.abortTask _ c t _ _ _)
  · next u _ res =>
    rw [res] at run
    have waits := run.trans (.updRt u c t (fun x => { x with st := .suspended, flushing := true }))
    dsimp only
    split
    · split
      · exact (waits.trans (.of_ctx rfl)).trans (.complete _ c _)
      · exact waits.trans (.of_ctx rfl)
    · exact waits.trans (.of_ctx rfl)

theorem State.SameCerts.resumeDone (k : KvWait) : s.SameCerts (s.resumeDone k) :=
  (State.SameUnits.reopenSeq s k.seq).sameCerts.trans (.trans (.of_ctx rfl) (.updRt _ k.ctx k.task _))

theorem State.SameCerts.resumeWait (k : KvWait) : s.SameCerts (s.resumeWait k) := by
  have flushed := State.SameCerts.flush s k.ctx k.task k.seq k.pages
  unfold State.resumeWait
  split
  · next res =>
    rw [res] at flushed
    exact flushed.trans (.resumeDone _ k)
  · next res =>
    rw [res] at flushed
    exact flushed.trans (.of_ctx rfl)
  · next res =>
    rw [res] at flushed
    exact flushed.trans (.of_ctx rfl)
  · next res =>
    rw [res] at flushed
    exact flushed.trans (.abortTask _ _ _ _ _ _)

theorem State.SameCerts.resumeAdvance {u : State} (goes : s.resumeAdvance = some u) : s.SameCerts u := by
  obtain ⟨k, -, rfl⟩ := Option.map_eq_some_iff.1 goes
  exact .ite ((State.SameCerts.resumeWait s k).trans (.appendGo _ _ _)) (.resumeWait s k)

end

/-! ### Starting (R351) -/

section
variable (s : State) (c t : Nat)

theorem State.SameCerts.startFails {f : Fail × State} (mem : f ∈ s.startFails c t) : s.SameCerts f.2 := by
  simp only [State.startFails, List.mem_append, List.mem_map, List.mem_filterMap, Option.map_eq_some_iff] at mem
  rcases mem with ((⟨e, -, rfl⟩ | ⟨p, -, st, -, rfl⟩) | ⟨r, -, g, -, rfl⟩) | ⟨a, -, rfl⟩
  · exact .event s _ _ _ _ _
  · exact .refl s
  · exact .refl s
  · exact .refl s

theorem mem_of_lowestFail {l : List (Fail × State)} {f : Fail × State} (lowest : lowestFail l = some f) : f ∈ l := by
  revert f
  refine List.foldlRecOn (motive := fun a : Option (Fail × State) => ∀ {f}, a = some f → f ∈ l) l _ (by simp) fun a same g mem f found => ?_
  split at found
  · split at found
    · cases found
      exact mem
    · exact same found
  · cases found
    exact mem

theorem State.SameCerts.addContribution (le turn j : Nat) (h : ChunkHdr) (scale : Int) (elems : List Nat) :
    s.SameCerts (s.addContribution c le turn j h scale elems) :=
  .ite ((State.SameCerts.setLedger s c le _).trans (.of_ctx rfl)) (.setLedger s c le _)

theorem State.SameCerts.ownContributions (le : Nat) : s.SameCerts (s.ownContributions c le) :=
  .overList (fun _ u => .addContribution u c le _ _ _ _ _) _ s

/-- The ledger of a task that starts begins its first round. -/
def State.beginLedger (s : State) (c : Nat) : Option Nat → State
  | some le =>
    let x := s.ledger c le
    (s.setLedger c le { x with
      round := 0, roundScale := x.lscale, sentUp := false, verdict := none,
      chunks := x.chunks.filter (fun y => decide (4 * x.step ≤ y.1 / 2 ^ 32)) }).ownContributions c le
  | none => s

theorem State.SameCerts.beginLedger : ∀ o, s.SameCerts (s.beginLedger c o)
  | some le => (State.SameCerts.setLedger s c le _).trans (.ownContributions _ c le)
  | none => .refl s

/-- WING_RP_CNT and WING_ROTA_STS show that a task starts. -/
def State.noteStart : State :=
  let w := (s.task c t).wing
  (when (decide (((s.notStarted c w).head?.map (fun e => e.task)) ≠ some t)) (fun s => s.incFld RegF.wingRpCntAhead 1 w (s.listIndex c w))
    s).setFld RegF.wingRotaStsCurCtx c w

theorem State.SameCerts.noteStart : s.SameCerts (s.noteStart c t) :=
  (State.SameCerts.whenInc s _ _ _ _ _).trans (.of_ctx rfl)

/-- The entry of a task that starts has made no move and done no job. -/
def State.freshEntry : State := s.updRt c t (fun x => { x with movesDone := [], jobs := [] })

/-- The entry of a task runs, under the set-up generations in force. -/
def State.runEntry : State := s.updRt c t (fun x => { x with st := .running, gens := s.nowGens })

/-- A task that starts binds its out-streams, courier queues, arrays and sends. -/
def State.startUnits (k : Task) (frozen : List Nat) : State :=
  let w := k.wing
  let s := overList (k.streams.filter (fun e => e.out)) (fun e s =>
    s.bindStream c t e (k.binds.any (fun b => b.unit == e.unit && frozen.contains b.guard))) s
  let s := overList ((s.cert c).couriers.filter (fun b => b.task == t)) (fun b s =>
    s.putCourier (16 * w + b.queue) { held := true, ctx := c, task := t, bind := b, posted := (s.evGet w b.postEvt).toNat }) s
  let s := overList ((List.range 2).filter (fun j => (s.entryOf c t).arrays.getLsbD j)) (fun j s =>
    let a := 2 * w + j
    s.setArray a { s.array a with busy := true, ctx := c, task := t, job := 0, started := false, doneJobs := [],
                                  cfg := some (s.eff RegF.wingMaCfgForceFront w j, s.eff RegF.wingMaCfgGateIdle w j) }) s
  overList k.sends.zipIdx (fun x s => s.setSend c t x.2 x.1.start) s

theorem State.SameCerts.startUnits (k : Task) (frozen : List Nat) : s.SameCerts (s.startUnits c t k frozen) := by
  unfold State.startUnits
  refine State.SameCerts.trans ?_ (.overList (fun x u => .setSend u c t _ _) _ _)
  refine State.SameCerts.trans ?_ (.overList (fun j u => ?array) _ _)
  case array => exact .of_ctx rfl
  exact (State.SameCerts.overList (fun e u => .bindStream u c t e _) _ s).trans
    (.overList (fun b u => (State.SameUnits.putCourier u _ _).sameCerts) _ _)

theorem State.startTask_eq : s.startTask c t =
    let k := s.task c t
    let u := s.noteStart c t
    if (u.rt c t).isVoid then u.completeTask c t .ok 0
    else match u.startFail c t with
      | some f => f.2.abortTask c t f.1.st f.1.detail
      | none =>
        let v := u.freshEntry c t
        ((((v.runEntry c t).startUnits c t k ((v.prog c).getD {}).frozen).beginLedger c k.ledger).appendGo c t).syncList c k.wing := by
  unfold State.startTask
  cases (s.task c t).ledger <;> rfl

theorem State.SameCerts.startTask : s.SameCerts (s.startTask c t) := by
  have noted := State.SameCerts.noteStart s c t
  rw [State.startTask_eq]
  dsimp only
  refine .ite (noted.trans (.completeTask _ c t _ _)) ?_
  split
  · next f fails =>
    exact (noted.trans (State.SameCerts.startFails _ c t (mem_of_lowestFail fails))).trans (.abortTask _ c t _ _ _)
  · have entered : s.SameCerts (((s.noteStart c t).freshEntry c t).runEntry c t) := (noted.trans (.updRt _ c t _)).trans (.updRt _ c t _)
    exact (((entered.trans (.startUnits _ c t _ _)).trans (.beginLedger _ c _)).trans (.appendGo _ c t)).trans (.of_ctx rfl)

end

/-! ### Ledger rounds and what else goes on by itself (R256 to R263, R273, R320, R327) -/

section
variable (s : State) (c t : Nat)

theorem State.SameCerts.telemetry (le : Nat) : s.SameCerts (s.telemetry c le) := by
  unfold State.telemetry
  split
  · exact .refl s
  · refine State.SameCerts.trans (.overList (fun g u => ?record) _ s) (.putLedger _ c le _)
    refine .ite (.setLedger u c le _) ?_
    exact .updProg u c (f := fun p => { p with telSeq := p.telSeq + 1 }) fun _ => rfl

theorem State.SameCerts.evSkipped (le : Nat) (st : Status) (sum : Summary) : s.SameCerts (s.evSkipped c le st sum) :=
  .ite (.event s _ _ _ _ _) (.event s _ _ _ _ _)

/-- A verdict that ends the step completes the ledger task. -/
def State.endLedgerTask (le : Nat) (st : Status) (d : W64) : State :=
  match s.ledgerTask c le with
  | some k => s.completeTask c k st d
  | none => s

theorem State.SameCerts.endLedgerTask (le : Nat) (st : Status) (d : W64) : s.SameCerts (s.endLedgerTask c le st d) := by
  unfold State.endLedgerTask
  split
  · exact .completeTask s c _ st d
  · exact .refl s

theorem State.SameCerts.endLedger (le : Nat) (st : Status) (sum : Summary) : s.SameCerts (s.endLedger c le st sum) := by
  have ended (x : LedgerRt) := (State.SameCerts.putLedger s c le x).trans (.endLedgerTask _ c le st (verdictDetail st sum))
  unfold State.endLedger
  refine .ite (.ite ?due (State.SameCerts.trans ?ok (.telemetry _ c le))) (State.SameCerts.trans ?skip (.telemetry _ c le))
  case due => exact ((ended _).trans (.setStatuses _ c _ 0)).trans (.setLedger _ c le _)
  case ok => exact (ended _).trans (.setStatuses _ c _ 0)
  case skip =>
    refine State.SameCerts.trans (State.SameCerts.trans ?_ (.setStatuses _ c _ st.code)) (.evSkipped _ c le st sum)
    exact (ended _).trans (.overList (fun k u => .updRt u c k _) _ _)

theorem State.SameCerts.showVerdict (outcome round : Nat) (again : Bool) (scale : Int) :
    s.SameCerts (s.showVerdict c outcome round again scale) := .of_ctx rfl

theorem State.SameCerts.incFld (f : Fld) (n i j : Nat) : s.SameCerts (s.incFld f n i j) := .of_ctx rfl

theorem State.SameCerts.judge (le : Nat) (sum : Summary) : s.SameCerts (s.judge c le sum) := by
  unfold State.judge
  dsimp only
  split
  · exact (State.SameCerts.showVerdict s c _ _ _ _).trans (.endLedger _ c le _ _)
  · exact ((State.SameCerts.incFld s _ _ _ _).trans (.showVerdict _ c _ _ _ _)).trans (.endLedger _ c le _ _)
  · refine State.SameCerts.trans ?_ (.ownContributions _ c le)
    have told (x : LedgerRt) (n : Nat) (sc : Int) :=
      ((State.SameCerts.incFld s RegF.redLdgCntRepeats 1 0 0).trans (.showVerdict _ c 0 n true sc)).trans (.putLedger _ c le x)
    split
    · exact (told _ _ _).trans (.overList (fun e u => .setSend u _ _ _ _) _ _)
    · exact told _ _ _

theorem State.SameCerts.ledgerAdvance {u : State} (goes : s.ledgerAdvance c t = some u) : s.SameCerts u := by
  unfold State.ledgerAdvance at goes
  dsimp only at goes
  split at goes
  · cases goes
  split at goes
  · cases goes
  split at goes
  · cases goes
    refine State.SameCerts.trans ?_ (.judge _ c _ _)
    split
    · exact .setLedger s c _ _
    · exact (State.SameCerts.setLedger s c _ _).trans (.sendTree _ _ _)
  · cases goes
    exact (State.SameCerts.setLedger s c _ _).trans (.sendTree _ _ _)

theorem State.SameCerts.barrierAdvance {u : State} (goes : s.barrierAdvance c t = some u) : s.SameCerts u := by
  unfold State.barrierAdvance at goes
  dsimp only at goes
  split at goes
  · split at goes
    · cases goes
    split at goes <;> cases goes <;> exact (State.SameCerts.updRt s c t _).trans (.sendTree _ _ _)
  · cases goes

theorem State.SameCerts.smallEnd (g : RedGroup) (l : List Nat) : s.SameCerts (s.smallEnd c t g l) := by
  refine State.SameCerts.trans (State.SameCerts.trans ?_ (.updRt _ c t _)) (.completeTask _ c t _ _)
  exact .updProg s c fun _ => rfl

theorem State.SameCerts.smallAdvance {u : State} (goes : s.smallAdvance c t = some u) : s.SameCerts u := by
  unfold State.smallAdvance at goes
  dsimp only at goes
  split at goes
  · cases goes
  split at goes
  · cases goes
  split at goes
  · cases goes
    exact (State.SameCerts.sendTree s _ _).trans (.smallEnd _ c t _ _)
  · cases goes
    refine State.SameCerts.trans ?_ (.sendTree _ _ _)
    exact .updProg s c fun _ => rfl

theorem State.SameCerts.productTile (w : Nat) (r : RedGroup) (o : ProdOut) (i : Nat) : s.SameCerts (s.productTile c t w r o i) := by
  unfold State.productTile
  dsimp only
  split
  · refine State.SameCerts.trans ?_ (.putStream _ _ _ false)
    exact State.SameCerts.trans (.updRt s c t _) (.of_ctx rfl)
  · exact State.SameCerts.trans (.updRt s c t _) (.of_ctx rfl)

theorem State.SameCerts.convertProduct (w : Nat) (r : RedGroup) (o : ProdOut) : ∀ (n : Nat) (s : State), s.SameCerts (s.convertProduct c t w r o n)
  | 0, s => .refl s
  | n + 1, s => by
    rw [State.convertProduct]
    refine .ite ?_ (.ite (.refl s) ?_)
    · refine State.SameCerts.trans ?_ (.updRt _ c t _)
      exact .updProg s c fun _ => rfl
    · exact ((State.SameCerts.productTile s c t w r o _).trans (.updRt _ c t _)).trans (.convertProduct w r o n _)

theorem State.SameCerts.productAdvance {u : State} (goes : s.productAdvance c t = some u) : s.SameCerts u := by
  unfold State.productAdvance at goes
  dsimp only at goes
  split at goes
  · split at goes
    · cases goes
      exact .convertProduct c t _ _ _ _ s
    · cases goes
  · cases goes

theorem State.SameCerts.moveAdvance {u : State} (goes : s.moveAdvance c t = some u) : s.SameCerts u := by
  unfold State.moveAdvance at goes
  dsimp only at goes
  split at goes
  · cases goes
  · obtain ⟨i, -, rfl⟩ := Option.map_eq_some_iff.1 goes
    exact (State.SameUnits.putMover s _ _).sameCerts

theorem State.SameCerts.telemetryAdvance {u : State} (goes : s.telemetryAdvance c = some u) : s.SameCerts u := by
  obtain ⟨le, -, rfl⟩ := Option.map_eq_some_iff.1 goes
  exact .telemetry s c le

theorem State.SameCerts.startMark : s.SameCerts (s.startMark c t) := by
  refine State.SameCerts.trans (.updRt s c t (fun x => { x with st := .running, gens := s.nowGens })) ?_
  exact .updProg _ c fun _ => rfl

theorem exists_of_head?_filterMap {α β : Type} {f : α → Option β} {l : List α} {y : β} (first : (l.filterMap f).head? = some y) :
    ∃ x ∈ l, f x = some y :=
  List.mem_filterMap.1 (List.mem_of_mem_head? first)

/-- What an abort mark or a cancelling does. -/
theorem State.SameCerts.endByMark {u : State} (first : ((s.runTasks c).filterMap (fun t => (s.markedBy c t).map (fun m =>
      s.abortTask c t m.1 (BitVec.ofNat 64 m.2.1) m.2.2)) ++ (s.runTasks c).filterMap (fun t =>
        if s.canCancel c t then some (s.updRt c t (fun x => { x with st := .cancelled })) else none)).head? = some u) : s.SameCerts u := by
  rcases List.mem_append.1 (List.mem_of_mem_head? first) with marked | cancelled
  · obtain ⟨t, -, goes⟩ := List.mem_filterMap.1 marked
    obtain ⟨m, -, rfl⟩ := Option.map_eq_some_iff.1 goes
    exact .abortTask s c t _ _ _
  · obtain ⟨t, -, goes⟩ := List.mem_filterMap.1 cancelled
    split at goes
    · cases goes
      exact .updRt s c t _
    · cases goes

theorem State.SameCerts.advanceRun {u : State} (goes : s.advanceRun c = some u) : s.SameCerts u := by
  unfold State.advanceRun at goes
  dsimp only at goes
  split at goes
  · next first =>
    cases goes
    exact .endByMark s c first
  split at goes
  · cases goes
    exact .armTask s c _
  split at goes
  · next first =>
    cases goes
    obtain ⟨t, -, goes⟩ := exists_of_head?_filterMap first
    exact .ledgerAdvance s c t goes
  split at goes
  · next first =>
    cases goes
    have listed := List.mem_of_mem_head? first
    simp only [List.mem_append, List.mem_filterMap] at listed
    rcases listed with ((⟨t, -, goes⟩ | ⟨t, -, goes⟩) | ⟨t, -, goes⟩) | ⟨t, -, goes⟩
    · exact .barrierAdvance s c t goes
    · exact .smallAdvance s c t goes
    · exact .productAdvance s c t goes
    · exact .moveAdvance s c t goes
  split at goes
  · next telemetry =>
    cases goes
    exact .telemetryAdvance s c telemetry
  split at goes
  · cases goes
    exact .startMark s c _
  split at goes
  · cases goes
    exact .endRun s c
  · cases goes

theorem State.SameCerts.advance {u : State} (goes : s.advance = some u) : s.SameCerts u := by
  unfold State.advance at goes
  split at goes
  · next first =>
    cases goes
    obtain ⟨c, -, goes⟩ := exists_of_head?_filterMap first
    exact .advanceRun s c goes
  split at goes
  · next resumes =>
    cases goes
    exact .resumeAdvance s resumes
  split at goes
  · cases goes
    exact .startTask s _ _
  · cases goes

theorem State.SameCerts.settleN : ∀ (n : Nat) (s : State), s.SameCerts (s.settleN n)
  | 0, s => .refl s
  | n + 1, s => by
    rw [State.settleN]
    split
    · next goes => exact (State.SameCerts.advance s goes).trans (.settleN n _)
    · exact .refl s

/-! ### The scheduler's look (R221, R245, R354) -/

theorem State.SameCerts.endOverhangs : s.SameCerts s.endOverhangs := by
  refine .overList (fun w u => ?_) _ s
  dsimp only
  split
  · exact .refl u
  · exact .ite (.of_ctx rfl) (.refl u)

theorem State.SameCerts.setWrota (w : Nat) (x : WingRota) : s.SameCerts (s.setWrota w x) := .of_ctx rfl

theorem State.SameCerts.noteLook (b : State) (w : Nat) : s.SameCerts (s.noteLook b w) := by
  unfold State.noteLook
  split
  · exact .setWrota s w _
  · refine State.SameCerts.trans ?_ (.setWrota _ w _)
    split
    · exact .refl s
    · exact (State.SameCerts.whenInc s _ _ _ _ _).trans (.whenInc _ _ _ _ _ _)

theorem State.SameCerts.syncLists (w : Nat) : s.SameCerts (s.syncLists w) := by
  refine .overList (fun c u => .when ?_ _) _ s
  exact .of_ctx rfl

theorem State.SameCerts.settle : s.SameCerts s.settle :=
  ((State.SameCerts.endOverhangs s).trans (.settleN _ _)).trans
    (.overList (fun w u => (State.SameCerts.noteLook u _ w).trans (.syncLists _ w)) _ _)

theorem State.SameCerts.failTask (f : Fail) : s.SameCerts (s.failTask c t f) :=
  (State.SameCerts.abortTask s c t f.st f.detail false).trans (.settle _)

end

end Sys2Proof.Machine
end

section
/-! SUPPORT. Board-tier links and legacy flash (spec/07_memory_tiers.md R202, R203, R206, R209, R210): the configuration of a TB2, the loss, the
return and the withdrawal of a port, and the ends of flash reads. -/

namespace Sys2Proof.Machine

/-! ### Configuration requests (R202, R203) -/

theorem times_fixed {α : Type} {f : α → α} {x : α} (fixed : f x = x) : ∀ n, times n f x = x
  | 0 => rfl
  | n + 1 => by rw [times, fixed, times_fixed fixed n]

theorem BtPort.sendOne_waits {x : BtPort} (waits : x.cfgDue = [] ∨ x.hdrCr = 0) : x.sendOne = x := by
  unfold BtPort.sendOne
  rcases waits with none' | noCredit
  · rw [none']
  · split
    · exact if_pos noCredit
    · rfl

theorem BtPort.sendOne_goes {x : BtPort} {m : Bool × Nat × Nat} {l : List (Bool × Nat × Nat)} {t : Nat} (due : x.cfgDue = m :: l)
    (tag : x.freeTag = some t) (credit : x.hdrCr ≠ 0) : x.sendOne =
      { x with cfgDue := l, cfgOut := x.cfgOut ++ [t], hdrCr := x.hdrCr - 1, sent := x.sent ++ [dbmConfig m.1 t m.2.1 m.2.2] } := by
  rw [BtPort.sendOne, due, tag]
  exact if_neg credit

theorem State.sendConfig_waits {x : BtPort} (waits : x.cfgDue = [] ∨ x.hdrCr = 0) (s : State) (b : Nat) : s.sendConfig b x = s.putBt b x := by
  rw [State.sendConfig, times_fixed (BtPort.sendOne_waits waits)]

/-- Tags do not depend on credits. -/
theorem BtPort.freeTag_credits (x : BtPort) (h d : Nat) : ({ x with hdrCr := h, dataCr := d } : BtPort).freeTag = x.freeTag := rfl

/-- One credit sends the first configuration request that waits. -/
theorem State.sendConfig_one {x : BtPort} {m : Bool × Nat × Nat} {l : List (Bool × Nat × Nat)} {t : Nat} (due : x.cfgDue = m :: l)
    (tag : x.freeTag = some t) (credit : x.hdrCr = 1) (s : State) (b : Nat) : s.sendConfig b x = s.putBt b
      { x with cfgDue := l, cfgOut := x.cfgOut ++ [t], hdrCr := 0, sent := x.sent ++ [dbmConfig m.1 t m.2.1 m.2.2] } := by
  have goes := BtPort.sendOne_goes due tag (by omega)
  rw [credit] at goes
  rw [State.sendConfig, due, List.length_cons, times, goes, times_fixed (BtPort.sendOne_waits (.inr rfl))]

section
variable {s : State} {b : Nat} (up : s.fld RegF.btpStsState b = 2)
include up

section
variable (dbm : s.dbm b = true)
include dbm

theorem exec_boardTierCreditReturn (h d : Nat) : exec (.boardTierCreditReturn b h d) s = .next (s.sendConfig b
    { s.btPort b with hdrCr := (s.btPort b).hdrCr + h, dataCr := (s.btPort b).dataCr + d }) :=
  show execBoardTierCreditReturn b h d s = _ from if_neg (by simp [up, dbm])

variable {msg : List Byte} (whole : 16 ≤ msg.length)
include whole

theorem exec_cfgdata (kind : field msg 0 1 % 16 = 0xA) : let x := s.btPort b
    let t := field msg 2 2 % 4096
    exec (.cfgdata b msg) s = .next (if t ∈ x.cfgOut then
      s.putBt b { x with cfg := x.cfg ++ [(msg.drop 8).take 4], cfgOut := x.cfgOut.filter (fun u => u != t) } else s) :=
  show execCfgdata b msg s = _ from congrArg _ (State.dbmTake_used up dbm whole kind (by decide) _)

theorem exec_evt (kind : field msg 0 1 % 16 = 0xC) : exec (.evt b msg) s =
    .next (s.setBt b { s.btPort b with events := (s.btPort b).events ++ [(msg.drop 4).take 12] }) :=
  show execEvt b msg s = _ from congrArg _ (State.dbmTake_used up dbm whole kind (by decide) _)

/-- A reserved operation takes the link down, whichever command receives it. -/
theorem exec_reserved (reserved : field msg 0 1 % 16 ∉ [1, 2, 4, 5, 8, 9, 0xA, 0xC]) :
    exec (.evt b msg) s = .next (s.btDown b) ∧ exec (.cfgdata b msg) s = .next (s.btDown b) ∧
      exec (.rdata b msg) s = .next (s.btDown b) ∧ exec (.wack b msg) s = .next (s.btDown b) :=
  have down (op : Nat) := State.dbmTake_reserved (op := op) up dbm whole reserved
  ⟨congrArg _ (down 0xC _), congrArg _ (down 0xA _), congrArg _ (down 8 _), congrArg _ (down 9 _)⟩

end

theorem exec_cxlDeviceEvent (cxl : s.dbm b = false) (ev : List Byte) :
    exec (.cxlDeviceEvent b ev) s = .next (s.event (uBt b) 0x010A 1 none [(16, 40, leNat (pad 40 ev))]) :=
  show execCxlDeviceEvent b ev s = _ from if_neg (by simp [up, cxl])

/-! ### Links that go down and come back (R206) -/

theorem State.btDown_up : let x := s.btPort b
    let v := ((s.setFld RegF.btpStsState 3 b).incFld RegF.btpErrLinkDowns 1 b).putBt b
      { x with out := [], late := x.late ++ x.out.map (fun q => q.tag) ++ x.cfgOut, cfgOut := [], hdrCr := 0, dataCr := 0 }
    s.btDown b = x.out.foldl (fun v q => (v.evTierOpen (uBt b) (some q.acc.ctx) q.line).btError q) v :=
  if_neg (not_not.2 up)

end

theorem exec_btLinkRetrained {s : State} {b : Nat} (down : s.fld RegF.btpStsState b = 3) :
    exec (.btLinkRetrained b) s = .next ((s.putBt b { s.btPort b with late := [] }).setFld RegF.btpStsState 2 b) :=
  show execBtLinkRetrained b s = _ from if_neg (not_not.2 down)

/-! ### Withdrawal (R206) -/

section
variable (s : State)

theorem State.SameCerts.evTierOpen (unit : Nat) (c : Option Nat) (a : Nat) : s.SameCerts (s.evTierOpen unit c a) :=
  (State.SameCerts.of_ctx (t := s.free.2) rfl).trans (.event _ _ _ _ _ _)

theorem State.SameCerts.moveFail (m : Nat) (f : Fail) : s.SameCerts (s.moveFail m f) :=
  ((State.SameUnits.restoreCat s m).trans (.putMover _ m _)).sameCerts.trans (.failTask _ _ _ f)

theorem State.SameCerts.withdrawMoves (b : Nat) : s.SameCerts (s.withdrawMoves b) := by
  refine .overList (fun k u => ?_) _ s
  refine .ite (.refl u) (.ite (.of_ctx rfl) (.ite ?_ (.refl u)))
  refine State.SameCerts.trans (State.SameCerts.trans ?_ (.evTierOpen _ _ _ _)) (.moveFail _ _ _)
  exact .of_ctx rfl

theorem State.SameCerts.holdChanged (unit code : Nat) : s.SameCerts (s.holdChanged unit code) :=
  (State.SameCerts.of_ctx (t := s.setHold 32 8 (s.holdField 32 8 + 1)) rfl).trans (.event _ _ _ _ _ _)

end

theorem State.SameCerts.allotsPort {s t : State} (same : s.SameCerts t) (c b : Nat) : t.allotsPort c b = s.allotsPort c b := by
  rw [State.allotsPort, same c, State.allotsPort]

/-- A byte of the holdings table that is set reads back. -/
theorem State.holdByte_setHold {s : State} {o : Nat} (lt : o < s.hold.length) (v : Nat) : (s.setHold o 1 v).holdByte o = v % 256 := by
  simp [State.holdByte, State.setHold, nth, leBytes, Nat.min_eq_left lt.le]

/-- A byte before what is set stays. -/
theorem State.holdByte_setHold_before {s : State} {i o : Nat} (lt : i < o) (le : o ≤ s.hold.length) (n v : Nat) :
    (s.setHold o n v).holdByte i = s.holdByte i := by
  have before : (s.hold.take o ++ leBytes n v ++ s.hold.drop (o + n))[i]? = s.hold[i]? := by
    rw [List.append_assoc, List.getElem?_append_left (by rw [List.length_take]; omega), List.getElem?_take_of_lt lt]
  rw [State.holdByte, State.setHold, nth, before, State.holdByte, nth]

/-- A port leaves the holdings. -/
theorem State.hasBt_withdrawn {s : State} {b : Nat} (whole : s.hold.length = 64) (lt : b < 4) :
    ((s.setHold 16 1 (setBits (s.holdByte 16) b 1 0)).setHold (20 + 2 * b) 2 0).hasBt b = false := by
  have long : 20 + 2 * b ≤ (s.setHold 16 1 (setBits (s.holdByte 16) b 1 0)).hold.length := by
    simp [State.setHold, whole]
    omega
  rw [State.hasBt, State.holdByte_setHold_before (by omega) long, State.holdByte_setHold (by omega), show 256 = 2 ^ 8 from rfl,
    Nat.testBit_mod_two_pow, setBits_zero_testBit]
  simp

theorem State.SameCerts.strandAll (l : List (Nat × Nat)) (s : State) : s.SameCerts (l.foldl (fun v k => v.strand k.1 k.2) s) :=
  .overList (f := fun (k : Nat × Nat) v => v.strand k.1 k.2) (fun _ _ => .of_ctx rfl) l s

/-- A port that is withdrawn leaves the holdings, strands what is at home on it and ends the contexts that use it. -/
theorem exec_btPortWithdraw {s : State} {b : Nat} (lt : b < 4) (down : s.fld RegF.btpStsState b = 3) : let cs := s.progContexts
    let keys := (cs.map (fun c => (s.homedKeys c b).map (fun k => (c, k)))).flatten
    let u := (((s.setFld RegF.btpStsState 4 b).setFld RegF.btpStsCapGib 0 b).setHold 16 1 (setBits (s.holdByte 16) b 1 0)).setHold (20 + 2 * b) 2 0
    let v := (((keys.foldl (fun v k => v.strand k.1 k.2) u).withdrawMoves b).event (uBt b) 0x0204 3 none [(16, 4, keys.length)]).holdChanged (uBt b) 0
    exec (.btPortWithdraw b) s = .next (v.abortContexts (cs.filter (fun c => s.allotsPort c b)) .linkDown (BitVec.ofNat 64 b)) := by
  intro cs keys u v
  have same : s.SameCerts v := ((((State.SameCerts.of_ctx (t := u) rfl).trans (.strandAll keys u)).trans (.withdrawMoves _ b)).trans
    (.event _ _ _ _ _ _)).trans (.holdChanged _ _ _)
  have users : (fun c => v.allotsPort c b) = fun c => s.allotsPort c b := funext fun c => same.allotsPort c b
  rw [← users]
  exact if_neg (by omega)

/-! ### Flash reads (R209, R210) -/

/-- A completion leaves what a read serves. -/
theorem State.readWanted_cqAdvance (s : State) (n cid st : Nat) (r : LfRead) : (s.cqAdvance n cid st).readWanted r = s.readWanted r := rfl

/-- The entry of the completion queue names the command, the phase and the status. -/
theorem State.cqAdvance_entry (s : State) (n cid st : Nat) :
    let e := Tbl.getRun 0 (s.cqAdvance n cid st).land (0x100000 + 0x4000 * n + 16 * (s.flash n).cqHead) 16
    field e 12 2 = cid % 2 ^ 16 ∧ field e 14 2 = ((if (s.flash n).phase then 1 else 0) + 2 * st) % 2 ^ 16 := by
  intro e
  have entry : e = leBytes 8 s.free.1.toNat ++ leBytes 4 s.free.2.free.1.toNat ++ leBytes 2 cid ++ leBytes 2 (bit (s.flash n).phase + 2 * st) :=
    Tbl.getRun_setRun 0 _ _ (leBytes 8 s.free.1.toNat ++ leBytes 4 s.free.2.free.1.toNat ++ leBytes 2 cid ++
      leBytes 2 (bit (s.flash n).phase + 2 * st))
  rw [entry]
  constructor
  · exact field_mid (leBytes 8 s.free.1.toNat ++ leBytes 4 s.free.2.free.1.toNat) (leBytes 2 (bit (s.flash n).phase + 2 * st)) 2 cid
  · have last := field_mid (leBytes 8 s.free.1.toNat ++ leBytes 4 s.free.2.free.1.toNat ++ leBytes 2 cid) [] 2 (bit (s.flash n).phase + 2 * st)
    rwa [List.append_nil] at last

section
variable {s : State} {n cid : Nat} {r : LfRead} (found : (s.flash n).reads.find? (fun r => r.cid == cid && !r.ready) = some r)
include found

/-- What a completion of an outstanding read comes to. -/
theorem exec_nvmeReadCompletion (st : Nat) (data : List Byte) : let v := s.cqAdvance n cid st
    let d := pad recordBytes data
    let w := v.setFlash n { v.flash n with reads := (v.flash n).reads.map (fun y => if y.cid = cid then { y with data := d, ready := true } else y) }
    exec (.nvmeReadCompletion n cid st data) s = if ¬ s.readWanted r = true then .next (v.dropRead n cid)
      else if st = 0 then .next { w with land := Tbl.setRun 0 w.land (0x200000 + recordBytes * r.buffer) d }
      else .next ((v.dropRead n cid).readFailed r (some (st % 256))) := by
  intro v d w
  show execNvmeReadCompletion n cid st data s = _
  rw [execNvmeReadCompletion, found]
  rfl

theorem exec_legacyFlashTimeout : exec (.legacyFlashTimeout n cid) s =
    .next (if s.readWanted r then (s.dropRead n cid).readFailed r none else s.dropRead n cid) := by
  show execLegacyFlashTimeout n cid s = _
  rw [execLegacyFlashTimeout, found]

end

/-! ### The statement -/

/-- Settles O40: messages and links by the lemma for each command; a withdrawal by what aborts and settling leave of the certificates; flash reads
by the three ends of a completion. -/
theorem boardTierLinksAndLegacyFlash : Obligations.BoardTierLinksAndLegacyFlash := by
  unfold Obligations.BoardTierLinksAndLegacyFlash
  refine ⟨fun s b msg up dbm whole => ?dbm, fun s b ev up cxl => exec_cxlDeviceEvent up cxl ev, fun s b up => ?down,
    fun s b down => exec_btLinkRetrained down, fun s b lt down => ⟨exec_btPortWithdraw lt down, fun whole => State.hasBt_withdrawn whole lt⟩,
    fun s n cid st r data found => ?flash⟩
  case dbm =>
    refine ⟨fun kind => ?_, exec_evt up dbm whole, exec_reserved up dbm whole, fun h d => ⟨fun waits => ?_, fun m l t due tag credit => ?_⟩⟩
    · have takes := exec_cfgdata up dbm whole kind
      exact ⟨fun mine => takes.trans (congrArg _ (if_pos mine)), fun other => takes.trans (congrArg _ (if_neg other))⟩
    · exact (exec_boardTierCreditReturn up dbm h d).trans (congrArg _ (State.sendConfig_waits waits s b))
    · rw [← (s.btPort b).freeTag_credits ((s.btPort b).hdrCr + h) ((s.btPort b).dataCr + d)] at tag
      rw [exec_boardTierCreditReturn up dbm h d, State.sendConfig_one (by exact due) tag credit]
  case down => exact congrArg _ (State.btDown_up up)
  case flash =>
    refine ⟨s.cqAdvance_entry n cid st, fun wanted => ?_, fun wanted error => ?_, fun unwanted => ⟨?_, ?_⟩, fun wanted => ?_⟩
    · exact (exec_nvmeReadCompletion found 0 data).trans ((if_neg (not_not.2 wanted)).trans (if_pos rfl))
    · exact (exec_nvmeReadCompletion found st data).trans ((if_neg (not_not.2 wanted)).trans (if_neg error))
    · exact (exec_nvmeReadCompletion found st data).trans (if_pos (by simp [unwanted]))
    · rw [exec_legacyFlashTimeout found, unwanted]
      rfl
    · rw [exec_legacyFlashTimeout found, if_pos wanted]

end Sys2Proof.Machine
end

section
/-! SUPPORT. Spills and returns of the deposit (spec/08_backward_and_deposit.md R235, R237): the position that each moves next, and what
DEPOSIT_SPILL and DEPOSIT_RETURN do, a lemma for each of their cases. -/

namespace Sys2Proof.Machine

/-! ### Shelves -/

theorem State.SameButRegs.incFld {s t : State} (h : s.SameButRegs t) (f : Fld) (n i j : Nat) : s.SameButRegs (t.incFld f n i j) :=
  h.setFld f _ i j

@[simp] theorem Shelf.home_setHome_same (x : Shelf) (p : Nat) (h : DepHome) : (x.setHome p h).home p = h :=
  Tbl.get_set_same DepHome.released x.homes p h

theorem Shelf.home_setHome_other (x : Shelf) {p q : Nat} (h : DepHome) (other : q ≠ p) : (x.setHome p h).home q = x.home q :=
  Tbl.get_set_other DepHome.released DepHome.released x.homes p q h other

theorem State.SameButRegs.shelfOf {s t : State} (same : s.SameButRegs t) (w h : Nat) : t.shelfOf w h = s.shelfOf w h := by rw [same]; rfl

theorem State.shelfOf_setShelf (s : State) (w h : Nat) (x : Shelf) : (s.setShelf w h x).shelfOf w h = x := Tbl.get_set_same ({} : Shelf) s.shelf _ x

@[simp] theorem State.shelfOf_putShelf (s : State) (w h : Nat) (x : Shelf) : (s.putShelf w h x).shelfOf w h = x :=
  ((s.putShelf_regs w h x).shelfOf w h).trans (s.shelfOf_setShelf w h x)

/-- The lesser of a number and one kept so far. -/
def keepLeast (a : Option Nat) (p : Nat) : Option Nat :=
  match a with
  | some b => some (min b p)
  | none => some p

theorem foldl_keepLeast (b : Nat) (l : List Nat) : l.foldl keepLeast (some b) = some (l.foldl min b) := by
  induction l generalizing b with
  | nil => rfl
  | cons p l ih => exact ih (min b p)

theorem Shelf.nextSpill_eq_min? (x : Shelf) : x.nextSpill = x.marked.min? := by
  have fold : x.nextSpill = x.marked.foldl keepLeast none := rfl
  rw [fold]
  cases x.marked with
  | nil => rfl
  | cons p l => exact foldl_keepLeast p l

theorem Shelf.nextSpill_eq_some_iff (x : Shelf) (p : Nat) : x.nextSpill = some p ↔ p ∈ x.marked ∧ ∀ q ∈ x.marked, p ≤ q := by
  rw [x.nextSpill_eq_min?, List.min?_eq_some_iff]

theorem Shelf.slotTaken_iff (x : Shelf) (p : Nat) : x.slotTaken p = true ↔ ∃ c ∈ x.homes, c.1 ≠ p ∧
    c.1 % max 1 x.ent.nearTiles = p % max 1 x.ent.nearTiles ∧ (c.2 = .near ∨ c.2 = .waiting) := by
  simp [Shelf.slotTaken, and_assoc]

/-! ### Spills (R235) -/

/-- Position p has spilled: its home is the board, and its mark is gone. -/
def Shelf.spill (x : Shelf) (p : Nat) : Shelf := { x.setHome p .board with marked := x.marked.filter (fun q => q != p) }

/-- The state after a spill of position p. -/
def State.spillTile (s : State) (w h p : Nat) : State :=
  let x := s.shelfOf w h
  let u := (s.wr (x.ent.boardSlot p) (s.rd (x.ent.nearSlot p) tileBytes)).putShelf w h (x.spill p)
  (u.incFld RegF.wingDepCntSpillTiles 1 w).incFld RegF.wingTmStsTiles 1 w x.ent.spillMover

/-- A spill writes the tile to its board location and changes, beside registers, its shelf alone. -/
theorem State.spillTile_regs (s : State) (w h p : Nat) :
    ((s.wr ((s.shelfOf w h).ent.boardSlot p) (s.rd ((s.shelfOf w h).ent.nearSlot p) tileBytes)).setShelf w h
      ((s.shelfOf w h).spill p)).SameButRegs (s.spillTile w h p) :=
  ((State.putShelf_regs _ w h _).incFld _ _ _ _).incFld _ _ _ _

theorem State.spillTile_shelfOf (s : State) (w h p : Nat) : (s.spillTile w h p).shelfOf w h = (s.shelfOf w h).spill p :=
  ((s.spillTile_regs w h p).shelfOf w h).trans (State.shelfOf_setShelf _ w h _)

section
variable {s : State} {w h p : Nat} (next : (s.shelfOf w h).nextSpill = some p) (held : (s.shelfOf w h).held = true)
  (near : (s.shelfOf w h).home p = .near)
  (source : s.allows (s.shelfOf w h).ctx false false ((s.shelfOf w h).ent.nearSlot p) tileBytes = true)
  (dest : s.allows (s.shelfOf w h).ctx false true ((s.shelfOf w h).ent.boardSlot p) tileBytes = true)
include next held near source dest

/-- A spill that nothing fails outside the module turns on its slots, its lines and its seal. -/
theorem exec_depositSpill : let x := s.shelfOf w h
    let a := x.ent.nearSlot p
    let unit := uMover (16 * w + x.ent.spillMover)
    exec (.depositSpill w h .done) s = .next (
      if ¬ (s.slotted (x.asker w) a tileBytes && s.slotted (x.asker w) (x.ent.boardSlot p) tileBytes) then s
      else if s.poisoned a tileBytes then (s.evStream unit x.ctx a p).spillFail w h (s.poisonFail a)
      else if ¬ tileGood (s.rd a tileBytes) none then (s.evSeal unit x.ctx a (s.rd a tileBytes)).spillFail w h (Fail.addr .tileSeal a)
      else s.spillTile w h p) := by
  intro x a unit
  show execDepositSpill w h .done s = _
  have here : ¬ (¬ x.held = true ∨ x.home p ≠ .near) := by simp [x, held, near]
  unfold execDepositSpill
  simp only [next]
  rw [if_neg here, if_neg (not_not.2 source), if_neg (not_not.2 dest)]
  split_ifs <;> rfl

end

/-! ### Returns (R237) -/

/-- The position that a return brings back next: positions come in descending order. -/
def State.returnPos (s : State) (m : Nat) : Nat := (s.moveItem m).firstPos + ((s.moveItem m).count - 1 - (s.mover m).tile)

/-- The shelf of a return. -/
def State.returnShelf (s : State) (m : Nat) : Shelf := s.shelfOf (s.mover m).wing (s.moveItem m).shelf

theorem State.dueIdle_iff (s : State) (m : Nat) : s.dueIdle m = true ↔
    (s.rt (s.mover m).ctx ((s.mover m).due.getD (s.mover m).task)).st = .idle ∧
      (s.rt (s.mover m).ctx ((s.mover m).due.getD (s.mover m).task)).inRun = true := by
  simp [State.dueIdle]

theorem State.passesOver_iff (s : State) (m : Nat) (x : Shelf) (p : Nat) : s.passesOver m x p = true ↔
    x.home p = .void ∨ (¬ s.dueIdle m = true ∧ (x.home p = .released ∨ (x.home p = .near ∧ p ∉ x.marked))) := by
  simp [State.passesOver]

/-- A return passes over no tile that is on the board. -/
theorem State.not_passesOver_board {s : State} {m p : Nat} {x : Shelf} (board : x.home p = .board) : ¬ s.passesOver m x p = true := by
  simp [State.passesOver, board]

/-- A position's tile has come back to its near slot. -/
def State.returnTile (s : State) (m p : Nat) : State :=
  let x := s.returnShelf m
  let u := (s.wr (x.ent.nearSlot p) (s.rd (x.ent.boardSlot p) tileBytes)).putShelf (s.mover m).wing (s.moveItem m).shelf (x.setHome p .near)
  (u.incFld RegF.wingDepCntReturnTiles 1 (s.mover m).wing).incFld RegF.wingTmStsTiles 1 (m / 16) (m % 16)

theorem State.returnTile_regs (s : State) (m p : Nat) :
    ((s.wr ((s.returnShelf m).ent.nearSlot p) (s.rd ((s.returnShelf m).ent.boardSlot p) tileBytes)).setShelf (s.mover m).wing
      (s.moveItem m).shelf ((s.returnShelf m).setHome p .near)).SameButRegs (s.returnTile m p) :=
  ((State.putShelf_regs _ _ _ _).incFld _ _ _ _).incFld _ _ _ _

theorem State.returnTile_shelfOf (s : State) (m p : Nat) :
    (s.returnTile m p).shelfOf (s.mover m).wing (s.moveItem m).shelf = (s.returnShelf m).setHome p .near :=
  ((s.returnTile_regs m p).shelfOf _ _).trans (State.shelfOf_setShelf _ _ _ _)

section
variable {s : State} {m : Nat} (held : (s.mover m).held = true) (kind : (s.moveItem m).kind = .ret)
include held kind

theorem exec_depositReturn_passes (passes : s.passesOver m (s.returnShelf m) (s.returnPos m) = true) :
    exec (.depositReturn m .done) s = .next (s.moveNext m (s.moveItem m).count) := by
  show execDepositReturn m .done s = _
  rw [execDepositReturn]
  exact (if_neg (by simp [held, kind])).trans (if_pos passes)

theorem exec_depositReturn_waits (stays : ¬ s.passesOver m (s.returnShelf m) (s.returnPos m) = true)
    (waits : (s.returnShelf m).home (s.returnPos m) ≠ .board ∨ (s.returnShelf m).slotTaken (s.returnPos m) = true) :
    exec (.depositReturn m .done) s = .next s := by
  show execDepositReturn m .done s = _
  rw [execDepositReturn]
  exact (if_neg (by simp [held, kind])).trans ((if_neg stays).trans (if_pos waits))

variable (board : (s.returnShelf m).home (s.returnPos m) = .board) (free : ¬ (s.returnShelf m).slotTaken (s.returnPos m) = true)
  (source : s.allows (s.mover m).ctx (s.moverOld m) false ((s.returnShelf m).ent.boardSlot (s.returnPos m)) tileBytes = true)
  (dest : s.allows (s.mover m).ctx (s.moverOld m) true ((s.returnShelf m).ent.nearSlot (s.returnPos m)) tileBytes = true)
include board free source dest

theorem exec_depositReturn_noSlots
    (no : s.slotted (s.moverAsker m) ((s.returnShelf m).ent.boardSlot (s.returnPos m)) tileBytes = false ∨
      s.slotted (s.moverAsker m) ((s.returnShelf m).ent.nearSlot (s.returnPos m)) tileBytes = false) :
    exec (.depositReturn m .done) s = .next s := by
  show execDepositReturn m .done s = _
  rw [execDepositReturn]
  refine (if_neg (by simp [held, kind])).trans ((if_neg (State.not_passesOver_board board)).trans ((if_neg ?_).trans
    ((if_neg (not_not.2 source)).trans ((if_neg (not_not.2 dest)).trans (if_pos ?_)))))
  · exact not_or.2 ⟨not_not.2 board, free⟩
  · rcases no with no | no <;> simp only [State.returnShelf, State.returnPos] at no <;> simp [no]

theorem exec_depositReturn_moves
    (reads : s.slotted (s.moverAsker m) ((s.returnShelf m).ent.boardSlot (s.returnPos m)) tileBytes = true)
    (writes : s.slotted (s.moverAsker m) ((s.returnShelf m).ent.nearSlot (s.returnPos m)) tileBytes = true)
    (clean : s.poisoned ((s.returnShelf m).ent.boardSlot (s.returnPos m)) tileBytes = false)
    (good : tileGood (s.rd ((s.returnShelf m).ent.boardSlot (s.returnPos m)) tileBytes) none = true) :
    exec (.depositReturn m .done) s = .next ((s.returnTile m (s.returnPos m)).moveNext m (s.moveItem m).count) := by
  show execDepositReturn m .done s = _
  rw [execDepositReturn]
  refine (if_neg (by simp [held, kind])).trans ((if_neg (State.not_passesOver_board board)).trans ((if_neg ?_).trans
    ((if_neg (not_not.2 source)).trans ((if_neg (not_not.2 dest)).trans ((if_neg ?_).trans ?_)))))
  · exact not_or.2 ⟨not_not.2 board, free⟩
  · exact not_not.2 ((Bool.and_eq_true ..).mpr ⟨reads, writes⟩)
  · exact (if_neg (by rw [Bool.not_eq_true]; exact clean)).trans ((if_neg (not_not.2 good)).trans rfl)

end

/-! ### The statement -/

/-- Settles O37: each spill and each return falls under the lemma of its case. -/
theorem depositSpillsAndReturns : Obligations.DepositSpillsAndReturns := by
  unfold Obligations.DepositSpillsAndReturns
  refine ⟨fun s w h p => ?spill, fun s m held kind => ?ret⟩
  case spill =>
    intro x held marked least home near board k slots source dest
    have runs := exec_depositSpill ((x.nextSpill_eq_some_iff p).2 ⟨marked, least⟩) held home source dest
    have reach : (s.slotted (x.asker w) (x.ent.nearSlot p) tileBytes && s.slotted (x.asker w) (x.ent.boardSlot p) tileBytes) = true ↔ slots :=
      Bool.and_eq_true_iff
    refine ⟨fun no => runs.trans (congrArg _ (if_pos (mt reach.1 no))), fun ok clean good => ⟨s.spillTile w h p, ?_, ?_⟩, fun ok clean bad => ?_⟩
    · exact runs.trans (congrArg _ ((if_neg (not_not.2 (reach.2 ok))).trans ((if_neg (ne_true_of_eq_false clean)).trans (if_neg (not_not.2 good)))))
    · have shelf := s.spillTile_shelfOf w h p
      refine ⟨?_, ?_, fun q other => ?_, fun q => ?_, ?_⟩
      · rw [s.spillTile_regs w h p]
        rfl
      · exact (congrArg (Shelf.home · p) shelf).trans (x.home_setHome_same p .board)
      · exact (congrArg (Shelf.home · q) shelf).trans (x.home_setHome_other .board other)
      · rw [shelf, Shelf.spill, List.mem_filter, bne_iff_ne]
      · rw [shelf]
        rfl
    · exact runs.trans (congrArg _ ((if_neg (not_not.2 (reach.2 ok))).trans ((if_neg (ne_true_of_eq_false clean)).trans
        (if_pos (ne_true_of_eq_false bad)))))
  case ret =>
    intro y x h p near board k r idle taken passes
    have byPass : s.passesOver m h p = true ↔ passes := by rw [s.passesOver_iff, s.dueIdle_iff]
    have busy : h.slotTaken p = true ↔ taken := h.slotTaken_iff p
    refine ⟨fun pass => exec_depositReturn_passes held kind (byPass.2 pass),
      fun stays away => exec_depositReturn_waits held kind (mt byPass.1 stays) (.inl away),
      fun home full => exec_depositReturn_waits held kind (State.not_passesOver_board home) (.inr (busy.2 full)),
      fun home free source dest no => exec_depositReturn_noSlots held kind home (mt busy.1 free) source dest no,
      fun home free source dest reads writes clean good => ⟨s.returnTile m p,
        exec_depositReturn_moves held kind home (mt busy.1 free) source dest reads writes clean good, ?_⟩⟩
    have shelf := s.returnTile_shelfOf m p
    have same := s.returnTile_regs m p
    exact ⟨same.mem, (congrArg (Shelf.home · p) shelf).trans (h.home_setHome_same p .near),
      fun q other => (congrArg (Shelf.home · q) shelf).trans (h.home_setHome_other .near other), same.ctx, by rw [same]; rfl⟩

end Sys2Proof.Machine
end

section
/-! SUPPORT. What follows by itself (spec/08_backward_and_deposit.md R244, log 102): the order of its changes, and what the scheduler's look at a
wing changes. -/

namespace Sys2Proof.Machine

/-! ### Settling -/

theorem State.settleN_done {s : State} (done : s.advance = none) (n : Nat) : s.settleN n = s := by
  cases n with
  | zero => rfl
  | succ n => rw [State.settleN, done]

theorem State.settleN_goes {s t : State} (goes : s.advance = some t) (n : Nat) : s.settleN (n + 1) = t.settleN n := by
  rw [State.settleN, goes]

/-- Only registers and what the scheduler keeps of each wing differ. -/
def State.OnlyShows (s t : State) : Prop := t = { s with regs := t.regs, rota := t.rota }

section
variable {s t u : State}

theorem State.OnlyShows.refl (s : State) : s.OnlyShows s := rfl

theorem State.OnlyShows.trans (h : s.OnlyShows t) (h' : t.OnlyShows u) : s.OnlyShows u := by
  unfold State.OnlyShows at *
  rw [h', h]

theorem State.SameButRegs.onlyShows (h : s.SameButRegs t) : s.OnlyShows t := by
  unfold State.OnlyShows
  rw [h]

end

section
variable (s : State)

theorem State.SameButRegs.when {f : State → State} (h : s.SameButRegs (f s)) (b : Bool) : s.SameButRegs (when b f s) := by
  cases b
  · exact .refl
  · exact h

theorem State.OnlyShows.setWrota (w : Nat) (x : WingRota) : s.OnlyShows (s.setWrota w x) := rfl

theorem State.syncList_regs (c w : Nat) : s.SameButRegs (s.syncList c w) :=
  ((State.SameButRegs.refl.setFld _ _ _ _).setFld _ _ _ _).setFld _ _ _ _

theorem State.syncLists_regs (w : Nat) : s.SameButRegs (s.syncLists w) :=
  .overList (fun c u => .when u (u.syncList_regs c w) _) _ s

theorem State.OnlyShows.noteLook (b : State) (w : Nat) : s.OnlyShows (s.noteLook b w) := by
  unfold State.noteLook
  split
  · exact .setWrota s w _
  · refine State.OnlyShows.trans (State.SameButRegs.onlyShows ?_) (.setWrota _ w _)
    split
    · exact .refl
    · exact (State.SameButRegs.when s (.incFld .refl _ _ _ _) _).trans (.when _ (.incFld .refl _ _ _ _) _)

/-- The looks at the wings show what has settled and change nothing else. -/
theorem State.settle_onlyShows : (s.endOverhangs.settleN s.endOverhangs.settleFuel).OnlyShows s.settle :=
  overList_keeps (State.OnlyShows _) _ (fun w u shows =>
    (shows.trans (.noteLook u s.endOverhangs w)).trans (State.syncLists_regs _ w).onlyShows) _ _ (.refl _)

end

/-! ### The first change (R81, R243, R244) -/

theorem head?_filterMap_eq_some {α β : Type} {f : α → Option β} {p q : List α} {x : α} {y : β} (before : ∀ k ∈ p, f k = none)
    (found : f x = some y) : ((p ++ x :: q).filterMap f).head? = some y := by
  rw [List.filterMap_append, List.filterMap_eq_nil_iff.2 before, List.nil_append, List.filterMap_cons_some found, List.head?_cons]

theorem find?_eq_some_of_split {α : Type} {f : α → Bool} {p q : List α} {x : α} (before : ∀ k ∈ p, f k = false) (found : f x = true) :
    (p ++ x :: q).find? f = some x :=
  List.find?_eq_some_iff_append.2 ⟨found, p, q, rfl, fun k mem => by rw [before k mem]; rfl⟩

theorem range_four_eq {w : Nat} (lt : w < 4) : List.range 4 = List.range w ++ w :: List.range' (w + 1) (3 - w) := by
  interval_cases w <;> rfl

/-- Where no RUN and no append goes on, the first wing with a task to start starts it. -/
theorem State.advance_pick {s : State} {w c t : Nat} (lt : w < 4) (runs : ∀ k ∈ s.runContexts, s.advanceRun k = none)
    (appends : s.resumeAdvance = none) (before : ∀ v, v < w → s.pickOn v = none) (picked : s.pickOn w = some (c, t)) :
    s.advance = some (s.startTask c t) := by
  have first : ((List.range 4).filterMap (fun v => s.pickOn v)).head? = some (c, t) := by
    rw [range_four_eq lt]
    exact head?_filterMap_eq_some (fun v mem => before v (List.mem_range.1 mem)) picked
  unfold State.advance
  rw [List.filterMap_eq_nil_iff.2 runs, appends, first]
  rfl

section
variable {s : State} {c t : Nat} (unmarked : ∀ k ∈ s.runTasks c, s.markedBy c k = none)
include unmarked

theorem State.noMarks : (s.runTasks c).filterMap (fun k => (s.markedBy c k).map (fun m =>
    s.abortTask c k m.1 (BitVec.ofNat 64 m.2.1) m.2.2)) = [] :=
  List.filterMap_eq_nil_iff.2 fun k mem => by rw [unmarked k mem]; rfl

variable {p q : List Nat} (tasks : s.runTasks c = p ++ t :: q)
include tasks

theorem State.advanceRun_cancels (before : ∀ k ∈ p, s.canCancel c k = false) (can : s.canCancel c t = true) :
    s.advanceRun c = some (s.updRt c t (fun x => { x with st := .cancelled })) := by
  have first : ((s.runTasks c).filterMap (fun k => if s.canCancel c k then some (s.updRt c k (fun x => { x with st := .cancelled })) else
      none)).head? = some (s.updRt c t (fun x => { x with st := .cancelled })) := by
    rw [tasks]
    exact head?_filterMap_eq_some (fun k mem => if_neg (ne_true_of_eq_false (before k mem))) (if_pos can)
  unfold State.advanceRun
  dsimp only
  rw [State.noMarks unmarked, List.nil_append, first]

theorem State.advanceRun_arms (stay : ∀ k ∈ s.runTasks c, s.canCancel c k = false) (before : ∀ k ∈ p, s.canArm c k = false)
    (can : s.canArm c t = true) : s.advanceRun c = some (s.armTask c t) := by
  have none' : (s.runTasks c).filterMap (fun k => if s.canCancel c k then some (s.updRt c k (fun x => { x with st := .cancelled })) else
      none) = [] := List.filterMap_eq_nil_iff.2 fun k mem => if_neg (ne_true_of_eq_false (stay k mem))
  have first : (s.runTasks c).find? (fun k => s.canArm c k) = some t := by
    rw [tasks]
    exact find?_eq_some_of_split before can
  unfold State.advanceRun
  dsimp only
  rw [State.noMarks unmarked, List.nil_append, none', first]
  rfl

end

end Sys2Proof.Machine
end

section
/-! SUPPORT. Readiness and the pick (spec/08_backward_and_deposit.md R243, R244, spec/12_rings_contexts_rota.md R351): what each test of the
scheduler asks. -/

namespace Sys2Proof.Machine

section
variable (s : State) (c t : Nat)

theorem State.marksBefore_iff : s.marksBefore c t = true ↔
    ∀ e ∈ (s.wlist c (s.task c t).wing).takeWhile (fun e => e.task != t), (s.task c e.task).stepEnd = true → (s.rt c e.task).st.ended = true := by
  simp [State.marksBefore, ← Bool.not_eq_true, imp_iff_not_or]

theorem State.canArm_iff : s.canArm c t = true ↔ (s.rt c t).inRun = true ∧ (s.rt c t).st = .idle ∧
    (∀ e ∈ (s.wlist c (s.task c t).wing).takeWhile (fun e => e.task != t), (s.task c e.task).stepEnd = true → (s.rt c e.task).st.ended = true) ∧
    ∀ d ∈ (s.task c t).deps, (s.rt c d).inRun = true →
      if (s.task c t).stepEnd = true then (s.rt c d).st.ended = true else (s.rt c d).st = .completed := by
  rw [← s.marksBefore_iff]
  cases stepEnd : (s.task c t).stepEnd <;> simp [State.canArm, State.deps, stepEnd, and_assoc, imp_iff_not_or]

theorem State.isReady_iff : s.isReady c t = true ↔ (s.rt c t).st = .armed ∧ ((s.rt c t).isVoid = true ∨
    ((∀ e ∈ (s.task c t).streams, e.out = false → s.inputHere c t e = true) ∧ s.prefetched c t = true ∧ s.seqHeld c t = false)) := by
  simp [State.isReady, and_assoc, imp_iff_not_or]

theorem State.mem_wingsOf (w : Nat) : w ∈ s.wingsOf c ↔ w < 4 ∧ (s.fld RegF.ctxCfgWings c).testBit w = true := by
  simp [State.wingsOf]

theorem State.markReady_iff : s.markReady c t = true ↔ (s.task c t).stepEnd = true ∧ (s.rt c t).st = .armed ∧ s.holdFull c = false ∧
    (∀ y ∈ s.runningTasks, y.1 ≠ c) ∧ ∀ w, w < 4 → (s.fld RegF.ctxCfgWings c).testBit w = true →
      ((s.notStarted c w).head?.map (fun e => e.task)) = some t ∧ s.slotOwner w = some c ∧ ∀ y ∈ s.onWing w, y.1 = c := by
  have wings : (s.wingsOf c).all (fun w => ((s.notStarted c w).head?.map (fun e => e.task)) == some t && s.slotOwner w == some c &&
      (s.onWing w).all (fun y => y.1 == c)) = true ↔ ∀ w, w < 4 → (s.fld RegF.ctxCfgWings c).testBit w = true →
        ((s.notStarted c w).head?.map (fun e => e.task)) = some t ∧ s.slotOwner w = some c ∧ ∀ y ∈ s.onWing w, y.1 = c := by
    simp only [List.all_eq_true, s.mem_wingsOf, Bool.and_eq_true, beq_iff_eq, and_imp, and_assoc]
  have idle : (s.runningTasks.filter (fun y => y.1 == c)).isEmpty = true ↔ ∀ y ∈ s.runningTasks, y.1 ≠ c := by
    simp only [List.isEmpty_iff, List.filter_eq_nil_iff, beq_iff_eq, ne_eq]
  unfold State.markReady
  rw [Bool.and_eq_true, Bool.and_eq_true, Bool.and_eq_true, Bool.and_eq_true, wings, idle, beq_iff_eq, Bool.not_eq_true']
  tauto

end

/-! ### The pick -/

section
variable (s : State) (c w : Nat)

theorem State.unitsIdle_iff (e : ReadyEntry) : s.unitsIdle w e = true ↔
    ∀ y ∈ s.onWing w, (s.entryOf y.1 y.2).arrays &&& e.arrays = 0 ∧ (s.entryOf y.1 y.2).groups &&& e.groups = 0 := by
  simp [State.unitsIdle]

theorem State.startable_iff (limit : Option Nat) (e : ReadyEntry) : s.startable c w limit e = true ↔ s.isReady c e.task = true ∧
    ((s.rt c e.task).isVoid = true ∨
      ∀ y ∈ s.onWing w, (s.entryOf y.1 y.2).arrays &&& e.arrays = 0 ∧ (s.entryOf y.1 y.2).groups &&& e.groups = 0) ∧
    ∀ n, limit = some n → s.fits c e.task n = true := by
  rw [← s.unitsIdle_iff]
  cases limit <;> simp [State.startable, and_assoc]

theorem State.pickIn_eq_some_iff (t : Nat) (limit : Option Nat) : s.pickIn c w limit = some t ↔
    s.holdFull c = false ∧ s.cstate c = 3 ∧ s.pwr.computeOn = true ∧ ∃ p e q,
      ((s.notStarted c w).takeWhile (fun e => !(s.task c e.task).stepEnd)).take 64 = p ++ e :: q ∧ e.task = t ∧
      (∀ f ∈ p, s.startable c w limit f = false) ∧ s.startable c w limit e = true := by
  have mayStart : ¬ (s.holdFull c = true ∨ s.cstate c ≠ 3 ∨ ¬ s.pwr.computeOn = true) ↔
      s.holdFull c = false ∧ s.cstate c = 3 ∧ s.pwr.computeOn = true := by simp
  unfold State.pickIn
  split
  · next shut => simp only [reduceCtorEq, false_iff, ← and_assoc]; exact fun h => mayStart.2 (by tauto) shut
  · next may =>
    obtain ⟨full, state, on⟩ := mayStart.1 may
    simp only [full, state, on, true_and, Option.map_eq_some_iff, List.find?_eq_some_iff_append]
    constructor
    · rintro ⟨e, ⟨can, p, q, list, before⟩, task⟩
      exact ⟨p, e, q, list, task, fun f mem => by simpa using before f mem, can⟩
    · rintro ⟨p, e, q, list, task, before, can⟩
      exact ⟨e, ⟨can, p, q, list, fun f mem => by rw [before f mem]; rfl⟩, task⟩

variable {s c w}

theorem State.pickOn_noOwner (owner : s.slotOwner w = none) : s.pickOn w = none := by rw [State.pickOn, owner]

theorem State.pickOn_heldUp (owner : s.slotOwner w = some c) (other : ∃ y ∈ s.onWing w, y.1 ≠ c) : s.pickOn w = none := by
  have held : (s.onWing w).any (fun y => y.1 != c) = true := by simpa using other
  simp only [State.pickOn, owner, held, if_true]

theorem State.pickOn_owner {t : Nat} (owner : s.slotOwner w = some c) (own : ∀ y ∈ s.onWing w, y.1 = c)
    (picked : s.pickIn c w (s.runLeft w) = some t) : s.pickOn w = some (c, t) := by
  have free : ¬ (s.onWing w).any (fun y => y.1 != c) = true := by simpa using own
  simp only [State.pickOn, owner, if_neg free, picked]

theorem State.runLeft_none (owner : s.slotOwner w = some c) (all : ∀ x ∈ (s.wrota w).rota.slots, x.owner = some c) : s.runLeft w = none := by
  have every : (s.wrota w).rota.slots.all (fun x => x.owner == some c) = true := by simpa using all
  simp only [State.runLeft, owner, every, if_true]

end

end Sys2Proof.Machine
end

section
/-! SUPPORT. Arming and starting a task (spec/08_backward_and_deposit.md R233, R234, R243, spec/12_rings_contexts_rota.md R351): the parts of
each, with what each of them leaves as it was. -/

namespace Sys2Proof.Machine

/-! ### Entries of tasks -/

/-- A change of a task's entry that leaves part of it leaves that part. -/
theorem State.rt_updRt_keeps {α : Type} (s : State) (c t : Nat) {f : TaskRt → TaskRt} (part : TaskRt → α) (keeps : ∀ x, part (f x) = part x) :
    part ((s.updRt c t f).rt c t) = part (s.rt c t) := by
  cases admitted : s.prog c with
  | some g => rw [State.rt_updRt admitted, keeps]
  | none => simp [State.rt, State.updRt, State.prog_updProg, admitted]

theorem State.SameCerts.task {s u : State} (same : s.SameCerts u) (c t : Nat) : u.task c t = s.task c t := by
  rw [State.task, same c, State.task]

theorem State.SameCerts.entryOf {s u : State} (same : s.SameCerts u) (c t : Nat) : u.entryOf c t = s.entryOf c t := by
  rw [State.entryOf, same c, same.task, State.entryOf]

theorem State.task_updRt (s : State) (c t : Nat) (f : TaskRt → TaskRt) (c' t' : Nat) : (s.updRt c t f).task c' t' = s.task c' t' :=
  (State.SameCerts.updRt s c t f).task c' t'

theorem State.namesReleasing_updRt (s : State) (c t : Nat) (f : TaskRt → TaskRt) :
    (s.updRt c t f).namesReleasing c t = s.namesReleasing c t := by
  have names : ∀ r, (s.updRt c t f).seqRef c r = s.seqRef c r := fun r => by
    rw [State.seqRef, State.updRt, State.prog_updProg, State.seqRef]
    cases s.prog c <;> rfl
  simp only [State.namesReleasing, State.task_updRt, names]
  rfl

/-! ### Streams that a task binds -/

/-- Only stream units and registers differ. -/
def State.OnlyStreams (s t : State) : Prop := t = { s with strm := t.strm, regs := t.regs }

section
variable {s t u : State}

theorem State.OnlyStreams.refl (s : State) : s.OnlyStreams s := rfl

theorem State.OnlyStreams.trans (h : s.OnlyStreams t) (h' : t.OnlyStreams u) : s.OnlyStreams u := by
  unfold State.OnlyStreams at *
  rw [h', h]

theorem State.OnlyStreams.putStream (s : State) (u : Nat) (x : Stream) : s.OnlyStreams (s.putStream u x) := by
  unfold State.OnlyStreams
  rw [s.putStream_regs u x false]
  rfl

theorem State.OnlyStreams.ctx (h : s.OnlyStreams t) : t.ctx = s.ctx := by rw [h]
theorem State.OnlyStreams.arr (h : s.OnlyStreams t) : t.arr = s.arr := by rw [h]
theorem State.OnlyStreams.mem (h : s.OnlyStreams t) : t.mem = s.mem := by rw [h]

end

section
variable (s : State) (c t : Nat) (e : StreamEntry) (v : Bool)

/-- Binding stores the entry's stream unit, or changes nothing. -/
theorem State.bindStream_cases : s.bindStream c t e v = s ∨ ∃ x, s.bindStream c t e v = s.putStream (128 * (s.task c t).wing + e.unit) x := by
  unfold State.bindStream
  dsimp only
  split
  · split
    · exact .inl rfl
    · split <;> exact .inr ⟨_, rfl⟩
  · exact .inr ⟨_, rfl⟩

theorem State.OnlyStreams.bindStream : s.OnlyStreams (s.bindStream c t e v) := by
  obtain same | ⟨x, put⟩ := s.bindStream_cases c t e v
  · rw [same]
    exact .refl s
  · rw [put]
    exact .putStream s _ x

theorem State.stream_bindStream_other {u : Nat} (other : u ≠ 128 * (s.task c t).wing + e.unit) :
    (s.bindStream c t e v).stream u = s.stream u := by
  obtain same | ⟨x, put⟩ := s.bindStream_cases c t e v
  · rw [same]
  · rw [put, State.stream_putStream, if_neg other]

theorem State.OnlyStreams.bindStreams (void : StreamEntry → State → Bool) (l : List StreamEntry) :
    s.OnlyStreams (overList l (fun e u => u.bindStream c t e (void e u)) s) :=
  overList_keeps (fun u => s.OnlyStreams u) _ (fun e u only => only.trans (.bindStream u c t e _)) l s (.refl s)

/-- The stream unit of an in-stream that a task binds anew, without a deposit binding. -/
def StreamEntry.bound (e : StreamEntry) (c t : Nat) : Stream :=
  { held := true, ctx := c, task := t, ent := e, listBase := e.listBase, listCount := e.listCount,
    slots := List.replicate e.slots .empty, depUses := 1 }

variable {s c t e}

theorem State.stream_bindStream (unbound : (s.task c t).binds = []) (fresh : e.rearm = false) (input : e.out = false) :
    (s.bindStream c t e false).stream (128 * (s.task c t).wing + e.unit) = e.bound c t := by
  unfold State.bindStream
  simp only [fresh, input, unbound, Bool.false_eq_true, if_false, List.find?_nil, Option.map_none]
  exact (State.stream_putStream ..).trans (if_pos rfl)

theorem State.stream_bindStreams_other (void : StreamEntry → State → Bool) (l : List StreamEntry) {u : Nat}
    (other : ∀ d ∈ l, u ≠ 128 * (s.task c t).wing + d.unit) :
    (overList l (fun d w => w.bindStream c t d (void d w)) s).stream u = s.stream u := by
  induction l generalizing s with
  | nil => rfl
  | cons d l ih =>
    have task := (State.SameCerts.bindStream s c t d (void d s)).task c t
    rw [overList_cons, ih fun k mem => task ▸ other k (List.mem_cons_of_mem _ mem)]
    exact s.stream_bindStream_other c t d _ (other d (List.mem_cons_self ..))

/-- A task's binding to a frozen group makes a stream void. -/
def State.frozenBind (s : State) (c t : Nat) (frozen : List Nat) (e : StreamEntry) : Bool :=
  (s.task c t).binds.any (fun b => b.unit == e.unit && frozen.contains b.guard)

/-- Of in-streams on different units each is bound as its entry says. -/
theorem State.stream_bindStreams (frozen : List Nat) {l : List StreamEntry} (units : (l.map (fun e => e.unit)).Nodup)
    (unbound : (s.task c t).binds = []) (listed : e ∈ l) (fresh : e.rearm = false) (input : e.out = false) :
    (overList l (fun d w => w.bindStream c t d (w.frozenBind c t frozen d)) s).stream (128 * (s.task c t).wing + e.unit) = e.bound c t := by
  induction l generalizing s with
  | nil => exact absurd listed List.not_mem_nil
  | cons d l ih =>
    obtain ⟨apart, units⟩ := List.nodup_cons.1 units
    have alive : s.frozenBind c t frozen d = false := by rw [State.frozenBind, unbound, List.any_nil]
    have task := (State.SameCerts.bindStream s c t d false).task c t
    rw [overList_cons, alive]
    rcases List.mem_cons.1 listed with rfl | later
    · refine (State.stream_bindStreams_other _ l fun k mem same => ?_).trans (State.stream_bindStream unbound fresh input)
      exact apart (List.mem_map.2 ⟨k, mem, (Nat.add_left_cancel (same.trans (by rw [task]))).symm⟩)
    · rw [← task] at unbound ⊢
      exact ih units unbound later

end

/-! ### Arming (R243) -/

section
variable {s : State} {c t : Nat} (unbound : (s.task c t).binds = []) (live : s.namesReleasing c t = false)
include unbound live

/-- A task without deposit bindings arms: its entry is set, and where it is not void its in-streams are bound. -/
theorem State.armTask_unbound : s.armTask c t = if s.voidTask c t then s.armEntry c t else
    overList ((s.task c t).streams.filter (fun e => !e.out))
      (fun e u => u.bindStream c t e (u.frozenBind c t ((s.prog c).getD {}).frozen e)) (s.armEntry c t) := by
  unfold State.armTask
  simp only [unbound, List.foldl_nil, State.namesReleasing_updRt, live, Bool.and_false, Bool.false_eq_true, if_false, State.task_updRt]
  rfl

theorem State.armTask_rt : (s.armTask c t).rt c t = (s.armEntry c t).rt c t := by
  rw [State.armTask_unbound unbound live]
  split
  · rfl
  · exact State.rt_congr (State.OnlyStreams.bindStreams ..).ctx c t

theorem State.armTask_void (isVoid : s.voidTask c t = true) : (s.armTask c t).strm = s.strm := by
  rw [State.armTask_unbound unbound live, if_pos isVoid]
  rfl

theorem State.armTask_stream (real : s.voidTask c t = false)
    (units : (((s.task c t).streams.filter (fun e => !e.out)).map (fun e => e.unit)).Nodup) {e : StreamEntry}
    (listed : e ∈ (s.task c t).streams.filter (fun e => !e.out)) (fresh : e.rearm = false) :
    (s.armTask c t).stream (128 * (s.task c t).wing + e.unit) = e.bound c t := by
  have task : (s.armEntry c t).task c t = s.task c t := s.task_updRt c t _ c t
  have input : e.out = false := by simpa using (List.mem_filter.1 listed).2
  rw [State.armTask_unbound unbound live, if_neg (ne_true_of_eq_false real), ← task]
  exact State.stream_bindStreams _ (by rwa [task]) (by rwa [task]) (by rwa [task]) fresh input

end

/-! ### Deposit reservations (R233, R234) -/

/-- A pop takes the positions from TOP − n up: they are marked no more, and a void pop releases them. -/
def Shelf.pop (x : Shelf) (n : Nat) (isVoid : Bool) : Shelf :=
  { x with top := x.top - n, homes := if isVoid then x.homes.filter (fun h => decide (h.1 < x.top - n)) else x.homes,
           marked := x.marked.filter (fun p => decide (p < x.top - n)) }

/-- A push takes n positions from TOP up, and marks what comes within the shelf's lead. -/
def Shelf.push (x : Shelf) (n : Nat) (isVoid : Bool) : Shelf :=
  let y := (List.range n).foldl (fun (y : Shelf) i => y.setHome (x.top + i) (if isVoid then .void else .waiting)) x
  { y with top := x.top + n, marked := y.marked ++ { y with top := x.top + n }.toMark (x.top + n - 1) }

section
variable (s : State) (c t : Nat) (b : DepBind) (v : Bool)

theorem State.shelfOf_updRt (f : TaskRt → TaskRt) (w h : Nat) : (s.updRt c t f).shelfOf w h = s.shelfOf w h := rfl

/-- A task has taken positions of a shelf from position p up. -/
def State.takePositions (w : Nat) (x : Shelf) (p : Nat) : State :=
  (s.putShelf w b.shelf x).updRt c t (fun r => { r with depPos := Tbl.set 0 r.depPos b.unit p })

theorem State.takePositions_shelfOf (w : Nat) (x : Shelf) (p : Nat) : (s.takePositions c t b w x p).shelfOf w b.shelf = x := by
  rw [State.takePositions, State.shelfOf_updRt, State.shelfOf_putShelf]

theorem State.takePositions_depPos {g : Prog} (admitted : s.prog c = some g) (w : Nat) (x : Shelf) (p : Nat) :
    Tbl.get 0 ((s.takePositions c t b w x p).rt c t).depPos b.unit = p := by
  have admitted' : (s.putShelf w b.shelf x).prog c = some g := (State.prog_congr (State.SameUnits.putShelf s w b.shelf x).ctx c).trans admitted
  rw [State.takePositions, State.rt_updRt admitted', Tbl.get_set_same]

theorem State.shelfOf_event (source code severity : Nat) (ctx : Option Nat) (pl : List (Nat × Nat × Nat)) (w h : Nat) :
    (s.event source code severity ctx pl).shelfOf w h = s.shelfOf w h := by
  obtain ⟨r, e, recorded⟩ := s.event_eq source code severity ctx pl
  rw [recorded]
  rfl

end

section
variable {s : State} {c t : Nat} {b : DepBind} {x : Shelf} (v : Bool) (named : s.shelfOf (s.task c t).wing b.shelf = x)
include named

theorem State.reserve_shut (shut : x.held = false ∨ x.broken = true) : s.reserve c t b v = (s, some ⟨.streamFault, 0⟩) := by
  subst named
  unfold State.reserve
  rw [if_pos (by simpa using shut)]
  rfl

variable (held : x.held = true) (sound : x.broken = false)
include held sound

theorem State.reserve_short (pop : b.pop = true) (short : x.top < b.tiles) : s.reserve c t b v = (s, some ⟨.streamFault, 0⟩) := by
  subst named
  unfold State.reserve
  rw [if_neg (by simp [held, sound]), if_pos pop, if_pos short]
  rfl

theorem State.reserve_pop (pop : b.pop = true) (enough : b.tiles ≤ x.top) :
    s.reserve c t b v = (s.takePositions c t b (s.task c t).wing (x.pop b.tiles v) (x.top - b.tiles), none) := by
  subst named
  unfold State.reserve
  rw [if_neg (by simp [held, sound]), if_pos pop, if_neg (not_lt.2 enough)]
  rfl

theorem State.reserve_full (push : b.pop = false)
    (full : x.ent.depthTiles < x.top + b.tiles ∨ s.depFits c x.ent x.top b.tiles = false) :
    ∃ d, (s.reserve c t b v).2 = some ⟨.depositFull, d⟩ ∧ (s.reserve c t b v).1.shelfOf (s.task c t).wing b.shelf = x := by
  subst named
  unfold State.reserve
  rw [if_neg (by simp [held, sound]), if_neg (ne_true_of_eq_false push), if_pos (by simpa using full)]
  exact ⟨_, rfl, s.shelfOf_event ..⟩

theorem State.reserve_push (push : b.pop = false) (deep : x.top + b.tiles ≤ x.ent.depthTiles)
    (fits : s.depFits c x.ent x.top b.tiles = true) :
    s.reserve c t b v = (s.takePositions c t b (s.task c t).wing (x.push b.tiles v) x.top, none) := by
  subst named
  unfold State.reserve
  rw [if_neg (by simp [held, sound]), if_neg (ne_true_of_eq_false push), if_neg (by simp [deep, fits])]
  rfl

end

theorem Shelf.foldl_setHome (x : Shelf) (k : Nat) (h : DepHome) (n : Nat) : (List.range n).foldl (fun (y : Shelf) i => y.setHome (k + i) h) x =
    { x with homes := (List.range n).foldl (fun m i => Tbl.set .released m (k + i) h) x.homes } := by
  induction n with
  | zero => rfl
  | succ n ih => rw [List.range_succ, List.foldl_append, ih, List.foldl_append]; rfl

/-- The positions that a push takes wait for their tiles, or are void; the others stay as they were. -/
theorem Shelf.home_push (x : Shelf) (n : Nat) (v : Bool) (p : Nat) : (x.push n v).home p =
    if x.top ≤ p ∧ p < x.top + n then (if v then .void else .waiting) else x.home p := by
  have homes : (x.push n v).homes = (List.range n).foldl (fun m i => Tbl.set .released m (x.top + i) (if v then .void else .waiting)) x.homes :=
    congrArg Shelf.homes (x.foldl_setHome x.top _ n)
  rw [Shelf.home, homes, Tbl.get_foldl_set]
  rfl

end Sys2Proof.Machine
end

section
/-! SUPPORT. Starting a task (spec/12_rings_contexts_rota.md R351): what is noted of a start bears on no failure, and
what the task's units are then. -/

namespace Sys2Proof.Machine

/-! ### What is noted of a start -/

/-- Only WING_RP_CNT and WING_ROTA_STS differ. -/
structure State.OnlyNotes (s t : State) : Prop where
  regs : s.SameButRegs t
  fld : ∀ f i j, f.reg ≠ .wingRpCnt → f.reg ≠ .wingRotaSts → t.fld f i j = s.fld f i j

theorem State.OnlyNotes.noteStart (s : State) (c t : Nat) : s.OnlyNotes (s.noteStart c t) where
  regs := (State.SameButRegs.when s (.incFld .refl _ _ _ _) _).setFld _ _ _ _
  fld f i j notCnt notSts := by
    rw [State.noteStart, State.fld_setFld_reg _ _ _ _ _ _ _ _ notSts, when]
    split
    · exact s.fld_incFld_reg notCnt _ _ _ _ _
    · rfl

section
variable {s u : State} (notes : s.OnlyNotes u) (c t : Nat)
include notes

theorem State.OnlyNotes.rt : u.rt c t = s.rt c t := State.rt_congr notes.regs.ctx c t

theorem State.OnlyNotes.task : u.task c t = s.task c t := (State.SameButRegs.sameCerts notes.regs).task c t

theorem State.OnlyNotes.loanGone (e : StreamEntry) : u.loanGone c t e = s.loanGone c t e := by rw [notes.regs]; rfl

theorem State.OnlyNotes.seqFail (r : Nat) : u.seqFail c r = s.seqFail c r := by rw [notes.regs]; rfl

theorem State.OnlyNotes.portFail (p : Nat) : u.portFail c p = s.portFail c p := by
  have state : u.fld RegF.lnkStsState p = s.fld RegF.lnkStsState p := notes.fld _ p 0 (by decide) (by decide)
  rw [State.portFail, State.portUp, state, State.SameButRegs.sameCerts notes.regs c]
  rfl

theorem State.OnlyNotes.opPorts (mcast : Bool) : u.opPorts c t mcast = s.opPorts c t mcast := by
  have own : ∀ e, u.ownReduce e = s.ownReduce e := fun e => by
    rw [State.ownReduce, notes.fld _ 0 0 (by decide) (by decide)]
    rfl
  have queues : u.queuePorts c = s.queuePorts c := by rw [notes.regs]; rfl
  have out : u.smallPorts c t = s.smallPorts c t := by rw [notes.regs]; rfl
  have cert := State.SameButRegs.sameCerts notes.regs c
  simp only [State.opPorts, own, queues, out, notes.task, cert, State.ledgerEnt]
  rfl

end

/-- A task without a ledger may start where no loan of it has ended, none of its ports and sequences fails it. -/
theorem State.startFails_eq_nil_iff {s : State} {c t : Nat} (noLedger : (s.task c t).ledger = none) : s.startFails c t = [] ↔
    (∀ e ∈ (s.task c t).streams, s.loanGone c t e = false) ∧ (∀ p ∈ s.opPorts c t true, s.portFail c p = none) ∧
      ∀ r ∈ (s.task c t).seqRefs, s.seqFail c r = none := by
  simp [State.startFails, noLedger, List.filterMap_eq_nil_iff]

theorem State.OnlyNotes.startFails {s u : State} (notes : s.OnlyNotes u) {c t : Nat} (noLedger : (s.task c t).ledger = none)
    (may : s.startFails c t = []) : u.startFails c t = [] := by
  rw [State.startFails_eq_nil_iff noLedger] at may
  rw [State.startFails_eq_nil_iff ((congrArg Task.ledger (notes.task c t)).trans noLedger)]
  simpa only [notes.task, notes.loanGone, notes.opPorts, notes.portFail, notes.seqFail] using may

/-! ### The parts of a start -/

/-- Contexts, arrays and memory are as before. -/
structure State.SameCore (s t : State) : Prop where
  ctx : t.ctx = s.ctx
  arr : t.arr = s.arr
  mem : t.mem = s.mem

theorem State.SameCore.refl (s : State) : s.SameCore s := ⟨rfl, rfl, rfl⟩

theorem State.SameCore.trans {s t u : State} (h : s.SameCore t) (h' : t.SameCore u) : s.SameCore u :=
  ⟨h'.ctx.trans h.ctx, h'.arr.trans h.arr, h'.mem.trans h.mem⟩

theorem State.SameButRegs.sameCore {s t : State} (h : s.SameButRegs t) : s.SameCore t := ⟨h.ctx, h.sameUnits.arr, h.mem⟩

section
variable (s : State) (c t w : Nat)

theorem State.SameCore.putCourier (q : Nat) (x : Courier) : s.SameCore (s.putCourier q x) :=
  (show s.SameCore (s.setCourier q x) from ⟨rfl, rfl, rfl⟩).trans (s.putCourier_regs q x).sameCore

/-- A task that starts binds its out-streams and its courier queues. -/
def State.startQueues (k : Task) (frozen : List Nat) : State :=
  let u := overList (k.streams.filter (fun e => e.out)) (fun e s =>
    s.bindStream c t e (k.binds.any (fun b => b.unit == e.unit && frozen.contains b.guard))) s
  overList ((u.cert c).couriers.filter (fun b => b.task == t)) (fun b s =>
    s.putCourier (16 * k.wing + b.queue) { held := true, ctx := c, task := t, bind := b, posted := (s.evGet k.wing b.postEvt).toNat }) u

/-- A task that starts takes the arrays of its entry. -/
def State.startArrays : State :=
  overList ((List.range 2).filter (fun j => (s.entryOf c t).arrays.getLsbD j)) (fun j s =>
    let a := 2 * w + j
    s.setArray a { s.array a with
      busy := true, ctx := c, task := t, job := 0, started := false, doneJobs := [],
      cfg := some (s.eff RegF.wingMaCfgForceFront w j, s.eff RegF.wingMaCfgGateIdle w j) }) s

/-- A task that starts sets the state of each of its send entries. -/
def State.startSends (l : List (SendEntry × Nat)) : State := overList l (fun x s => s.setSend c t x.2 x.1.start) s

theorem State.startUnits_eq (k : Task) (frozen : List Nat) :
    s.startUnits c t k frozen = ((s.startQueues c t k frozen).startArrays c t k.wing).startSends c t k.sends.zipIdx := rfl

theorem State.startQueues_core (k : Task) (frozen : List Nat) : s.SameCore (s.startQueues c t k frozen) := by
  refine overList_keeps (fun u => s.SameCore u) _ (fun b u same => same.trans (.putCourier u _ _)) _ _ ?_
  exact overList_keeps (fun u => s.SameCore u) _ (fun e u same => same.trans
    ⟨(State.OnlyStreams.bindStream u c t e _).ctx, (State.OnlyStreams.bindStream u c t e _).arr, (State.OnlyStreams.bindStream u c t e _).mem⟩)
    _ s (.refl s)

/-- An array has been taken by a task that has started no job. -/
def State.Taken (a : Nat) : Prop := let y := s.array a
  y.busy = true ∧ y.ctx = c ∧ y.task = t ∧ y.started = false ∧ y.doneJobs = []

theorem State.startArrays_taken {j : Nat} (lt : j < 2) (named : (s.entryOf c t).arrays.getLsbD j = true) :
    (s.startArrays c t w).Taken c t (2 * w + j) := by
  refine overList_attains (P := fun u => u.Taken c t (2 * w + j)) (List.mem_filter.2 ⟨List.mem_range.2 lt, named⟩) (fun u => ?_)
    (fun i u taken => ?_) s
  · simp [State.Taken]
  · by_cases same : i = j
    · subst same
      simp [State.Taken]
    · unfold State.Taken
      rwa [State.array_setArray_other _ _ _ _ (by omega)]

theorem State.startArrays_other {a : Nat} (other : a / 2 ≠ w) : (s.startArrays c t w).array a = s.array a := by
  refine List.foldlRecOn _ _ (motive := fun u : State => u.array a = s.array a) rfl fun u same j mem => ?_
  have lt := List.mem_range.1 (List.mem_filter.1 mem).1
  rwa [State.array_setArray_other _ _ _ _ (by omega)]

theorem State.startArrays_ctx : (s.startArrays c t w).ctx = s.ctx :=
  overList_same State.ctx _ (fun _ _ => by rfl) _ s

theorem State.startArrays_mem : (s.startArrays c t w).mem = s.mem :=
  overList_same State.mem _ (fun _ _ => by rfl) _ s

theorem State.startSends_arr (l : List (SendEntry × Nat)) : (s.startSends c t l).arr = s.arr :=
  overList_same State.arr _ (fun _ _ => by rfl) l s

theorem State.startSends_mem (l : List (SendEntry × Nat)) : (s.startSends c t l).mem = s.mem :=
  overList_same State.mem _ (fun _ _ => by rfl) l s

theorem State.startSends_keeps {α : Type} (part : TaskRt → α) (keeps : ∀ x sends, part { x with sends := sends } = part x)
    (l : List (SendEntry × Nat)) : part ((s.startSends c t l).rt c t) = part (s.rt c t) :=
  overList_same (fun u => part (u.rt c t)) _ (fun _ u => u.rt_updRt_keeps c t part fun x => keeps x _) l s

section
variable (k : Task) (frozen : List Nat)

theorem State.startUnits_array (a : Nat) : (s.startUnits c t k frozen).array a = ((s.startQueues c t k frozen).startArrays c t k.wing).array a := by
  rw [State.startUnits_eq, State.array, State.startSends_arr, State.array]

theorem State.startUnits_taken {j : Nat} (lt : j < 2) (named : (s.entryOf c t).arrays.getLsbD j = true) :
    (s.startUnits c t k frozen).Taken c t (2 * k.wing + j) := by
  unfold State.Taken
  rw [State.startUnits_array]
  refine State.startArrays_taken _ c t k.wing lt ?_
  rwa [(State.SameCerts.of_ctx (s.startQueues_core c t k frozen).ctx).entryOf]

theorem State.startUnits_array_other {a : Nat} (other : a / 2 ≠ k.wing) : (s.startUnits c t k frozen).array a = s.array a := by
  rw [State.startUnits_array, State.startArrays_other _ c t _ other, State.array, (s.startQueues_core c t k frozen).arr, State.array]

theorem State.startUnits_mem : (s.startUnits c t k frozen).mem = s.mem := by
  rw [State.startUnits_eq, State.startSends_mem, State.startArrays_mem, (s.startQueues_core c t k frozen).mem]

theorem State.startUnits_keeps {α : Type} (part : TaskRt → α) (keeps : ∀ x sends, part { x with sends := sends } = part x) :
    part ((s.startUnits c t k frozen).rt c t) = part (s.rt c t) := by
  rw [State.startUnits_eq, State.startSends_keeps _ c t part keeps,
    State.rt_congr ((State.startArrays_ctx _ c t k.wing).trans (s.startQueues_core c t k frozen).ctx)]

end

end

/-! ### The start -/

section
variable {s : State} {c t : Nat}

theorem State.startTask_void (isVoid : (s.rt c t).isVoid = true) : s.startTask c t = (s.noteStart c t).completeTask c t .ok 0 := by
  rw [State.startTask_eq]
  exact if_pos ((congrArg TaskRt.isVoid ((State.OnlyNotes.noteStart s c t).rt c t)).trans isVoid)

/-- The state in which a task that starts binds its units. -/
def State.entered (s : State) (c t : Nat) : State := ((s.noteStart c t).freshEntry c t).runEntry c t

theorem State.SameCerts.entered (s : State) (c t : Nat) : s.SameCerts (s.entered c t) :=
  ((State.SameCerts.noteStart s c t).trans (.updRt _ c t _)).trans (.updRt _ c t _)

theorem State.entered_core (s : State) (c t : Nat) : (s.entered c t).arr = s.arr ∧ (s.entered c t).mem = s.mem := by
  have notes := (State.OnlyNotes.noteStart s c t).regs
  exact ⟨notes.sameUnits.arr, notes.mem⟩

theorem State.entered_rt (admitted : s.prog c ≠ none) :
    ((s.entered c t).rt c t).st = .running ∧ ((s.entered c t).rt c t).gens = s.nowGens := by
  have notes := (State.OnlyNotes.noteStart s c t).regs
  have admitted' : ((s.noteStart c t).freshEntry c t).prog c ≠ none := by
    rwa [State.freshEntry, State.updRt, State.prog_updProg, State.prog_congr notes.ctx, ne_eq, Option.map_eq_none_iff]
  obtain ⟨g, fresh⟩ := Option.ne_none_iff_exists'.1 admitted'
  have gens : ((s.noteStart c t).freshEntry c t).nowGens = (s.noteStart c t).nowGens := rfl
  rw [State.entered, State.runEntry, State.rt_updRt fresh, gens, notes]
  exact ⟨rfl, rfl⟩

theorem State.nth_nowGens (s : State) {i : Nat} (lt : i < 14) : nth 0 s.nowGens i = (s.scp i).gen := by
  simp [State.nowGens, nth, State.scp, lt]

/-- A task that nothing stops runs, and its units are bound. -/
theorem State.startTask_runs (real : (s.rt c t).isVoid = false) (may : s.startFails c t = []) (noAppend : (s.task c t).append = none)
    (noLedger : (s.task c t).ledger = none) : ∃ frozen,
      s.startTask c t = ((s.entered c t).startUnits c t (s.task c t) frozen).syncList c (s.task c t).wing := by
  have notes := State.OnlyNotes.noteStart s c t
  have real' : ¬ ((s.noteStart c t).rt c t).isVoid = true := by rw [notes.rt, real]; exact Bool.false_ne_true
  have may' : (s.noteStart c t).startFail c t = none := by rw [State.startFail, notes.startFails noLedger may]; rfl
  refine ⟨((((s.noteStart c t).freshEntry c t).prog c).getD {}).frozen, ?_⟩
  generalize frozen : ((((s.noteStart c t).freshEntry c t).prog c).getD {}).frozen = f
  have same : s.SameCerts ((s.entered c t).startUnits c t (s.task c t) f) :=
    (State.SameCerts.entered s c t).trans (.startUnits _ c t _ _)
  have goes : ((s.entered c t).startUnits c t (s.task c t) f).appendGo c t = (s.entered c t).startUnits c t (s.task c t) f := by
    rw [State.appendGo, same.task, noAppend]
  rw [State.startTask_eq]
  dsimp only
  rw [if_neg real', may', noLedger, frozen]
  exact congrArg (State.syncList · c (s.task c t).wing) goes

end

end Sys2Proof.Machine
end

section
/-! SUPPORT. The scheduler's statement (spec/01_module_and_one_step.md R13, spec/08_backward_and_deposit.md R233, R234, R243, R244,
spec/12_rings_contexts_rota.md R351), clause by clause. -/

namespace Sys2Proof.Machine

/-- A task without deposit bindings is armed, and is void as its guard groups say (R226, R243). -/
theorem State.armTask_armed {s : State} {c t : Nat} (admitted : s.prog c ≠ none) (unbound : (s.task c t).binds = [])
    (live : s.namesReleasing c t = false) :
    ((s.armTask c t).rt c t).st = .armed ∧ ((s.armTask c t).rt c t).isVoid = s.voidTask c t := by
  obtain ⟨g, admitted⟩ := Option.ne_none_iff_exists'.1 admitted
  rw [State.armTask_rt unbound live, State.armEntry, State.rt_updRt admitted]
  exact ⟨rfl, rfl⟩

/-- A pop of a shelf that holds enough, and a push that fits one, take their positions (R233, R234). -/
theorem State.reserve_spec (s : State) (c t : Nat) (b : DepBind) (v : Bool) (admitted : s.prog c ≠ none) :
    let w := (s.task c t).wing
    let x := s.shelfOf w b.shelf
    let r := s.reserve c t b v
    let y := r.1.shelfOf w b.shelf
    (x.held = true → x.broken = false → b.pop = true → b.tiles ≤ x.top →
      r.2 = none ∧ y.top = x.top - b.tiles ∧ Tbl.get 0 (r.1.rt c t).depPos b.unit = x.top - b.tiles ∧
        (v = false → y.homes = x.homes) ∧ (∀ p ∈ y.marked, p < x.top - b.tiles)) ∧
    (x.held = true → x.broken = false → b.pop = false → x.top + b.tiles ≤ x.ent.depthTiles → s.depFits c x.ent x.top b.tiles = true →
      r.2 = none ∧ y.top = x.top + b.tiles ∧ Tbl.get 0 (r.1.rt c t).depPos b.unit = x.top ∧
        (∀ i, i < b.tiles → y.home (x.top + i) = if v then .void else .waiting) ∧
        ∀ p, p < x.top ∨ x.top + b.tiles ≤ p → y.home p = x.home p) := by
  intro w x r y
  obtain ⟨g, admitted⟩ := Option.ne_none_iff_exists'.1 admitted
  refine ⟨fun held sound pop enough => ?_, fun held sound push deep fits => ?_⟩
  · have taken : r = _ := State.reserve_pop v rfl held sound pop enough
    have shelf : y = x.pop b.tiles v := by simp only [y, taken]; exact State.takePositions_shelfOf ..
    rw [shelf, taken]
    exact ⟨rfl, rfl, s.takePositions_depPos c t b admitted _ _ _, fun real => by rw [Shelf.pop, real]; rfl,
      fun p mem => by simpa using (List.mem_filter.1 mem).2⟩
  · have taken : r = _ := State.reserve_push v rfl held sound push deep fits
    have shelf : y = x.push b.tiles v := by simp only [y, taken]; exact State.takePositions_shelfOf ..
    rw [shelf, taken]
    exact ⟨rfl, rfl, s.takePositions_depPos c t b admitted _ _ _, fun i lt => (x.home_push _ v _).trans (if_pos (by omega)),
      fun p outside => (x.home_push _ v p).trans (if_neg (by omega))⟩

/-- A task that nothing stops runs under the set-up in force, with its arrays and the memory as it was (R351). -/
theorem State.startTask_spec {s : State} {c t : Nat} (admitted : s.prog c ≠ none) (noAppend : (s.task c t).append = none)
    (noLedger : (s.task c t).ledger = none) (real : (s.rt c t).isVoid = false) (may : s.startFails c t = []) :
    let k := s.task c t
    let u := s.startTask c t
    (u.rt c t).st = .running ∧ (∀ i, i < 14 → nth 0 (u.rt c t).gens i = (s.scp i).gen) ∧
      (∀ j, j < 2 → (s.entryOf c t).arrays.getLsbD j = true → u.Taken c t (2 * k.wing + j)) ∧
      (∀ a, a / 2 ≠ k.wing → u.array a = s.array a) ∧ u.mem = s.mem := by
  obtain ⟨frozen, starts⟩ := State.startTask_runs real may noAppend noLedger
  have notes := State.OnlyNotes.noteStart s c t
  obtain ⟨running, gens⟩ := State.entered_rt admitted
  intro k u
  have shown : ((s.entered c t).startUnits c t k frozen).SameButRegs u := by
    rw [show u = _ from starts]
    exact State.syncList_regs _ c k.wing
  refine ⟨?_, fun i lt => ?_, fun j lt named => ?_, fun a other => ?_, ?_⟩
  · rw [State.rt_congr shown.ctx, State.startUnits_keeps _ c t k frozen TaskRt.st fun _ _ => rfl, running]
  · rw [State.rt_congr shown.ctx, State.startUnits_keeps _ c t k frozen TaskRt.gens fun _ _ => rfl, gens, s.nth_nowGens lt]
  · unfold State.Taken
    rw [shown.array]
    exact State.startUnits_taken _ c t k frozen lt (((State.SameCerts.entered s c t).entryOf c t).symm ▸ named)
  · rw [shown.array, State.startUnits_array_other _ c t k frozen other, State.array, (s.entered_core c t).1, State.array]
  · rw [shown.mem, State.startUnits_mem, (s.entered_core c t).2]

/-- Settles O32: what follows by itself is the first change of its order; arming, the tests of the scheduler and a start are each as their parts
are. -/
theorem schedulerArmsPicksAndStarts : Obligations.SchedulerArmsPicksAndStarts := by
  unfold Obligations.SchedulerArmsPicksAndStarts
  refine ⟨fun s t n => ⟨fun done => State.settleN_done done n, fun goes => State.settleN_goes goes n⟩, State.settle_onlyShows,
    fun s w c t lt runs appends before picked => State.advance_pick lt runs appends before picked,
    fun s c t p q tasks unmarked => ⟨State.advanceRun_cancels unmarked tasks, State.advanceRun_arms unmarked tasks⟩,
    State.canArm_iff, fun s c t admitted unbound live => ?arm, fun s c t b v admitted => ?reserve,
    fun s c t => ⟨s.isReady_iff c t, s.markReady_iff c t⟩, fun s c w t limit => ?pick, fun s w => ⟨State.pickOn_noOwner, fun c owner =>
      ⟨State.pickOn_heldUp owner, fun own t => State.pickOn_owner owner own, State.runLeft_none owner⟩⟩,
    fun s c t admitted noAppend noLedger => ?start⟩
  case arm =>
    obtain ⟨armed, isVoid⟩ := State.armTask_armed admitted unbound live
    exact ⟨armed, isVoid, State.armTask_void unbound live, fun real units e listed fresh =>
      State.armTask_stream unbound live real units listed fresh⟩
  case reserve =>
    obtain ⟨pops, pushes⟩ := s.reserve_spec c t b v admitted
    exact ⟨State.reserve_shut v rfl, fun held sound pop => ⟨State.reserve_short v rfl held sound pop, pops held sound pop⟩,
      fun held sound push => ⟨State.reserve_full v rfl held sound push, pushes held sound push⟩⟩
  case pick =>
    rw [s.pickIn_eq_some_iff c w t limit]
    refine and_congr_right' (and_congr_right' (and_congr_right' (exists_congr fun p => exists_congr fun e => exists_congr fun q =>
      and_congr_right' (and_congr_right fun task => and_congr_right' ?_))))
    rw [s.startable_iff, task]
  case start =>
    exact ⟨fun isVoid => ⟨s.noteStart c t, (State.OnlyNotes.noteStart s c t).regs, State.startTask_void isVoid⟩,
      State.startTask_spec admitted noAppend noLedger⟩

end Sys2Proof.Machine
end

section
/-! SUPPORT. The KV unit's descriptors and page waits (spec/10_attention_kv.md R291, R296 to R298): what a push does to a pool, which vestibule
slot is the lowest free one, and what KV_GRANT, KV_OPEN, KV_RELEASE, its finish and a page timeout do, a lemma for each of their cases. -/

namespace Sys2Proof.Machine

/-! ### The pool (R291) -/

/-- Where the next page pushed is listed: at the top of the pool. -/
def State.poolTop (s : State) (c : Nat) : Nat := s.poolList c + 8 * s.poolCount c

theorem State.pushPage_granted (s : State) (c p : Nat) : s.pushPage c p false =
    (s.wr (s.poolTop c) (leBytes 8 p)).wr (s.poolBase c + 12) (leBytes 4 (s.poolCount c + 1)) := rfl

@[simp] theorem State.poolBase_wr (s : State) (a : Nat) (bs : List Byte) (c : Nat) : (s.wr a bs).poolBase c = s.poolBase c := rfl

theorem State.byteAt_wr_other (s : State) (a : Nat) (bs : List Byte) {b : Nat} (h : b < a ∨ a + bs.length ≤ b) :
    (s.wr a bs).byteAt b = s.byteAt b := s.wr_other a bs b h

/-- A number of n bytes reads back where it is written. -/
theorem State.leNat_rd_wr (s : State) (a n x : Nat) : leNat ((s.wr a (leBytes n x)).rd a n) = x % 2 ^ (8 * n) := by
  have wrote := s.rd_wr a (leBytes n x)
  rw [leBytes_length] at wrote
  rw [wrote, leNat_leBytes]

@[simp] theorem State.poolBase_pushPage (s : State) (c p : Nat) : (s.pushPage c p false).poolBase c = s.poolBase c := rfl

theorem State.poolCount_pushPage {s : State} {c : Nat} (fits : s.poolCount c + 1 < 2 ^ 32) (p : Nat) :
    (s.pushPage c p false).poolCount c = s.poolCount c + 1 := by
  rw [State.poolCount, State.poolBase_pushPage, State.pushPage_granted, State.leNat_rd_wr, Nat.mod_eq_of_lt fits]

theorem State.byteAt_pushPage_other (s : State) (c p : Nat) {a : Nat} (entry : a < s.poolTop c ∨ s.poolTop c + 8 ≤ a)
    (count : a < s.poolBase c + 12 ∨ s.poolBase c + 16 ≤ a) : (s.pushPage c p false).byteAt a = s.byteAt a := by
  rw [State.pushPage_granted, State.byteAt_wr_other _ _ _ (by rw [leBytes_length]; omega),
    State.byteAt_wr_other _ _ _ (by rw [leBytes_length]; omega)]

section
variable {s : State} {c : Nat} (apart : s.poolTop c + 8 ≤ s.poolBase c ∨ s.poolBase c + 64 ≤ s.poolTop c)
include apart

theorem State.poolHeld_pushPage (p : Nat) : (s.pushPage c p false).poolHeld c = s.poolHeld c := by
  rw [State.poolHeld, State.poolBase_pushPage, State.pushPage_granted, State.rd_wr_other _ _ _ _ _ (by rw [leBytes_length]; omega),
    State.rd_wr_other _ _ _ _ _ (by rw [leBytes_length]; omega), State.poolHeld]

theorem State.leNat_rd_pushPage (p : Nat) : leNat ((s.pushPage c p false).rd (s.poolTop c) 8) = p % 2 ^ 64 := by
  rw [State.pushPage_granted, State.rd_wr_other _ _ _ _ _ (by rw [leBytes_length]; omega), State.leNat_rd_wr]

end

/-! ### KV_GRANT (R291, R296, R298) -/

/-- The appends that a grant serves are those of its context. -/
theorem State.mem_waitOrder (s : State) (c n : Nat) (k : KvWait) : k ∈ s.waitOrder c n ↔ k ∈ s.kvWait ∧ k.ctx = c := by
  by_cases named : k.seq = n <;> simp [State.waitOrder, named]

section
variable {s : State} {c i : Nat} {d : Desc} (found : s.desc c i = some d) (starts : s.canStart c i 0x21 = true)
include found starts

theorem exec_kvGrant : exec (.kvGrant c i) s = match s.grantRefused c d.pages with
    | some a => .next (s.finish c i .protFault (BitVec.ofNat 64 a))
    | none => if s.poolCapacity c < s.poolCount c + s.poolHeld c + d.pages.length then .next (s.finish c i .streamFault)
      else .next ((((d.pages.foldl (fun u p => u.pushPage c p false) s).serveWaits
        ((d.pages.foldl (fun u p => u.pushPage c p false) s).waitOrder c (field d.bytes 8 4))).finish c i .ok).settle) := by
  show execKvGrant c i s = _
  rw [execKvGrant, if_neg (not_not.2 starts)]
  simp only [found]
  rfl

theorem exec_kvGrant_refused {a : Nat} (refused : s.grantRefused c d.pages = some a) :
    exec (.kvGrant c i) s = .next (s.finish c i .protFault (BitVec.ofNat 64 a)) := by
  rw [exec_kvGrant found starts, refused]

theorem exec_kvGrant_full (reach : s.grantRefused c d.pages = none)
    (full : s.poolCapacity c < s.poolCount c + s.poolHeld c + d.pages.length) :
    exec (.kvGrant c i) s = .next (s.finish c i .streamFault) := by
  rw [exec_kvGrant found starts, reach]
  exact if_pos full

theorem exec_kvGrant_served (reach : s.grantRefused c d.pages = none)
    (room : s.poolCount c + s.poolHeld c + d.pages.length ≤ s.poolCapacity c) :
    let u := d.pages.foldl (fun u p => u.pushPage c p false) s
    exec (.kvGrant c i) s = .next (((u.serveWaits (u.waitOrder c (field d.bytes 8 4))).finish c i .ok).settle) := by
  intro u
  rw [exec_kvGrant found starts, reach]
  exact if_neg (Nat.not_lt.2 room)

end

/-! ### The lowest free vestibule slot (R290) -/

/-- The first index that a test accepts, counted from the first number of the range, is the first number that it accepts. -/
theorem indexFrom_range' (f : Nat → Bool) : ∀ (n i : Nat), indexFrom f (List.range' i n) i = (List.range' i n).find? f
  | 0, _ => rfl
  | n + 1, i => by
    rw [List.range'_succ, indexFrom, List.find?_cons, indexFrom_range' f n (i + 1)]
    cases f i <;> rfl

/-- Vestibule slot v of wing w belongs to a sequence. -/
def State.VslotTaken (s : State) (w v : Nat) : Prop := ∃ x ∈ s.seqs, x.2.state ≠ .free ∧ x.2.wing = w ∧ x.2.vslot = v

section
variable {s : State} {w : Nat}

theorem State.freeVslot_eq_some {v : Nat} (lt : v < 2048) (free : ¬ s.VslotTaken w v) (below : ∀ v', v' < v → s.VslotTaken w v') :
    s.freeVslot w = some v := by
  rw [State.freeVslot, List.range_eq_range', indexFrom_range', ← List.range_eq_range', List.find?_range_eq_some]
  simp only [State.VslotTaken] at free below
  refine ⟨by simpa using free, List.mem_range.2 lt, fun v' lt' => by simpa [and_assoc] using below v' lt'⟩

theorem State.freeVslot_eq_none (all : ∀ v, v < 2048 → s.VslotTaken w v) : s.freeVslot w = none := by
  rw [State.freeVslot, List.range_eq_range', indexFrom_range', ← List.range_eq_range', List.find?_range_eq_none]
  simp only [State.VslotTaken] at all
  exact fun v lt => by simpa [and_assoc] using all v lt

end

/-! ### KV_OPEN (R297) -/

theorem State.seqInRange_iff (s : State) (c n : Nat) : s.seqInRange c n = true ↔
    n < 65536 ∧ s.eff RegF.kvaCtxSeqSeqFirst c ≤ n ∧ n < s.eff RegF.kvaCtxSeqSeqFirst c + s.eff RegF.kvaCtxSeqSeqCount c := decide_eq_true_iff

theorem State.reachAs_iff (s : State) (c : Nat) (old : Bool) (a n : Nat) : s.reachAs c old a n = true ↔
    (∃ k, homeOf a = .near k) ∧ s.allows c old false a n = true ∧ s.allows c old true a n = true := by
  cases h : homeOf a <;> simp [State.reachAs, State.kvMay, h]

/-- The sequence that a KV_OPEN binds to vestibule slot v (R297). -/
def Desc.opened (d : Desc) (c v : Nat) : Seq :=
  let fmt := field d.bytes 12 1 / 4 % 32
  let h := field d.bytes 13 1 % 128
  let dc := field d.bytes 14 1 % 4
  { state := .open, wing := field d.bytes 12 1 % 4, fmt := fmt, h := h, dcode := dc, ctx := c, vslot := v,
    scale := signed 16 (field d.bytes 16 2), t := seqTokens fmt h dc, rootBase := field d.bytes 24 8 }

/-- A KV_OPEN that is not refused takes vestibule slot v, or ends where there is none. -/
def State.openSeq (s : State) (c i : Nat) (d : Desc) : Option Nat → State
  | none => s.finish c i .noPage 1
  | some v => ((((s.wr (field d.bytes 24 8) (List.replicate 16384 0)).setSeq (field d.bytes 8 4) (d.opened c v)).syncKva
      (field d.bytes 12 1 % 4)).finish c i .ok).settle

/-- The geometry that a KV_OPEN names is one of R287. -/
def Desc.geometry (d : Desc) : Bool := seqGeometry (field d.bytes 12 1 / 4 % 32) (field d.bytes 13 1 % 128) (field d.bytes 14 1 % 4)

section
variable {s : State} {c i : Nat} {d : Desc} (found : s.desc c i = some d) (starts : s.canStart c i 0x22 = true)
include found starts

theorem exec_kvOpen : exec (.kvOpen c i) s =
    let n := field d.bytes 8 4
    let w := field d.bytes 12 1 % 4
    let root := field d.bytes 24 8
    if ¬ s.seqInRange c n ∨ ¬ (s.fld RegF.ctxCfgWings c).testBit w then .next (s.finish c i .protFault)
    else if root % pageBytes ≠ 0 ∨ ¬ s.reachAs c false root 16384 then .next (s.finish c i .protFault (BitVec.ofNat 64 root))
    else if (s.seqOf n).state ≠ .free ∨ ¬ d.geometry then .next (s.finish c i .streamFault)
    else .next (s.openSeq c i d (s.freeVslot w)) := by
  show execKvOpen c i s = _
  rw [execKvOpen, if_neg (not_not.2 starts)]
  simp only [found, Desc.f]
  generalize s.freeVslot (field d.bytes 12 1 % 4) = slot
  cases slot <;> rfl

theorem exec_kvOpen_foreign (foreign : ¬ (s.seqInRange c (field d.bytes 8 4) = true ∧
      (s.fld RegF.ctxCfgWings c).testBit (field d.bytes 12 1 % 4) = true)) :
    exec (.kvOpen c i) s = .next (s.finish c i .protFault) := by
  rw [exec_kvOpen found starts]
  exact if_pos (not_and_or.1 foreign)

variable (mine : s.seqInRange c (field d.bytes 8 4) = true) (wing : (s.fld RegF.ctxCfgWings c).testBit (field d.bytes 12 1 % 4) = true)
include mine wing

theorem exec_kvOpen_root (bad : field d.bytes 24 8 % 8192 ≠ 0 ∨ s.reachAs c false (field d.bytes 24 8) 16384 = false) :
    exec (.kvOpen c i) s = .next (s.finish c i .protFault (BitVec.ofNat 64 (field d.bytes 24 8))) := by
  rw [exec_kvOpen found starts]
  exact (if_neg (by simp [mine, wing])).trans (if_pos (by simpa [pageBytes] using bad))

variable (aligned : field d.bytes 24 8 % 8192 = 0) (reach : s.reachAs c false (field d.bytes 24 8) 16384 = true)
include aligned reach

theorem exec_kvOpen_unfit (unfit : (s.seqOf (field d.bytes 8 4)).state ≠ .free ∨ d.geometry = false) :
    exec (.kvOpen c i) s = .next (s.finish c i .streamFault) := by
  rw [exec_kvOpen found starts]
  exact ((if_neg (by simp [mine, wing])).trans (if_neg (by simp [aligned, reach, pageBytes]))).trans (if_pos (by simpa using unfit))

variable (free : (s.seqOf (field d.bytes 8 4)).state = .free) (fits : d.geometry = true)
include free fits

theorem exec_kvOpen_fits {slot : Option Nat} (lowest : s.freeVslot (field d.bytes 12 1 % 4) = slot) :
    exec (.kvOpen c i) s = .next (s.openSeq c i d slot) := by
  rw [exec_kvOpen found starts, ← lowest]
  exact (if_neg (by simp [mine, wing])).trans ((if_neg (by simp [aligned, reach, pageBytes])).trans (if_neg (by simp [free, fits])))

theorem exec_kvOpen_noSlot (all : ∀ v, v < 2048 → s.VslotTaken (field d.bytes 12 1 % 4) v) :
    exec (.kvOpen c i) s = .next (s.finish c i .noPage 1) := by
  rw [exec_kvOpen_fits found starts mine wing aligned reach free fits (State.freeVslot_eq_none all), State.openSeq]

theorem exec_kvOpen_opens {v : Nat} (lt : v < 2048) (unused : ¬ s.VslotTaken (field d.bytes 12 1 % 4) v)
    (below : ∀ v', v' < v → s.VslotTaken (field d.bytes 12 1 % 4) v') :
    exec (.kvOpen c i) s = .next (((((s.wr (field d.bytes 24 8) (List.replicate 16384 0)).setSeq (field d.bytes 8 4) (d.opened c v)).syncKva
      (field d.bytes 12 1 % 4)).finish c i .ok).settle) := by
  rw [exec_kvOpen_fits found starts mine wing aligned reach free fits (State.freeVslot_eq_some lt unused below), State.openSeq]

end

/-! ### KV_RELEASE and its finish (R298) -/

section
variable {s : State} {c i : Nat} {d : Desc} (found : s.desc c i = some d) (starts : s.canStart c i 0x23 = true)
include found starts

theorem exec_kvRelease : exec (.kvRelease c i) s =
    let n := field d.bytes 8 4
    let x := s.seqOf n
    if x.state = .free ∨ x.state = .releasing then .next (s.finish c i .streamFault)
    else if x.ctx ≠ c then .next (s.finish c i .protFault)
    else .next (((s.setSeq n { x with state := .releasing, release := some i }).startDesc c i).syncKva x.wing) := by
  show execKvRelease c i s = _
  rw [execKvRelease, if_neg (not_not.2 starts)]
  simp only [found]
  rfl

theorem exec_kvRelease_unopened (shut : (s.seqOf (field d.bytes 8 4)).state = .free ∨ (s.seqOf (field d.bytes 8 4)).state = .releasing) :
    exec (.kvRelease c i) s = .next (s.finish c i .streamFault) := by
  rw [exec_kvRelease found starts]
  exact if_pos shut

variable (used : (s.seqOf (field d.bytes 8 4)).state = .open ∨ (s.seqOf (field d.bytes 8 4)).state = .waiting)
include used

theorem exec_kvRelease_used : let x := s.seqOf (field d.bytes 8 4)
    exec (.kvRelease c i) s = if x.ctx ≠ c then .next (s.finish c i .protFault)
      else .next (((s.setSeq (field d.bytes 8 4) { x with state := .releasing, release := some i }).startDesc c i).syncKva x.wing) := by
  intro x
  rw [exec_kvRelease found starts]
  exact if_neg (by rcases used with h | h <;> simp [h])

end

section
variable {s : State} {c n i : Nat} (due : (s.seqOf n).release = some i) (releasing : (s.seqOf n).state = .releasing)
  (mine : (s.seqOf n).ctx = c) (unnamed : s.seqNamed n = false)
include due releasing mine unnamed

theorem exec_kvReleaseFinish : exec (.kvReleaseFinish c n) s = match s.releaseRefused c (s.seqPages n).length with
    | some a => .next (((s.freeSeq n).finish c i .protFault (BitVec.ofNat 64 a)).settle)
    | none => .next (((((s.seqPages n).foldl (fun u p => u.pushPage c p true) s).freeSeq n).finish c i .ok).settle) := by
  show execKvReleaseFinish c n s = _
  rw [execKvReleaseFinish]
  simp only [due, releasing, mine, unnamed, ne_eq, not_true, false_or, Bool.false_eq_true, if_false]
  rfl

end

/-! ### KV_PAGE_TIMEOUT (R296) -/

theorem exec_kvPageTimeout {s : State} {c t : Nat} {k : KvWait} (waits : s.kvWait.find? (fun x => x.ctx == c && x.task == t) = some k)
    (short : k.pages.length < s.flushNeeds (s.seqOf k.seq)) :
    exec (.kvPageTimeout c t) s = .next ((((s.incFld RegF.kvaCntNoPage 1 (s.seqOf k.seq).wing).abortTask c t .noPage
      (BitVec.ofNat 64 (k.seq + 2 ^ 32 * (s.seqOf k.seq).len)))).settle) := by
  show execKvPageTimeout c t s = _
  rw [execKvPageTimeout, waits]
  exact if_neg (by simp [State.waitFull, short])

/-! ### The statement -/

/-- Settles O30: a push by what its two writes leave, each descriptor by the lemma for each of its cases, and the slot of a KV_OPEN as the first
that no sequence of its wing has. -/
theorem kvGrantsAndSequences : Obligations.KvGrantsAndSequences := by
  unfold Obligations.KvGrantsAndSequences
  refine ⟨⟨fun s c i d found starts => ⟨fun a refused => exec_kvGrant_refused found starts refused,
      fun reach full => exec_kvGrant_full found starts reach (by simpa [Desc.pages, Desc.f] using full),
      fun reach room => exec_kvGrant_served found starts reach (by simpa [Desc.pages, Desc.f] using room)⟩,
    fun s c p whole fits => fun (apart : s.poolTop c + 8 ≤ s.poolBase c ∨ s.poolBase c + 64 ≤ s.poolTop c) =>
      ⟨State.poolCount_pushPage fits p, State.poolHeld_pushPage apart p, State.leNat_rd_pushPage apart p,
      fun a entry count => State.byteAt_pushPage_other s c p entry count⟩, State.mem_waitOrder⟩,
    fun s c i d found starts => ?opens, fun s c i d found starts => ⟨fun used mine => ?releases, fun used foreign => ?foreign,
      fun shut => exec_kvRelease_unopened found starts shut⟩,
    fun s c n i due releasing mine unnamed reach => ⟨?returned, ?freed⟩, fun s c n i a due releasing mine unnamed refused => ?refused,
    fun s c t k waits short => exec_kvPageTimeout waits short⟩
  case opens =>
    intro n w fmt h dc root mine
    have mine_iff : mine ↔ s.seqInRange c n = true ∧ (s.fld RegF.ctxCfgWings c).testBit w = true := by
      rw [State.seqInRange_iff]
      tauto
    refine ⟨fun foreign => exec_kvOpen_foreign found starts (mine_iff.not.1 foreign), fun own bad => ?_, fun own aligned reach => ?_⟩
    · obtain ⟨own, wing⟩ := mine_iff.1 own
      exact exec_kvOpen_root found starts own wing (bad.imp_right fun denied => by rwa [← Bool.not_eq_true, State.reachAs_iff])
    · obtain ⟨own, wing⟩ := mine_iff.1 own
      have reach := (State.reachAs_iff ..).2 reach
      exact ⟨exec_kvOpen_unfit found starts own wing aligned reach, fun free fits =>
        ⟨exec_kvOpen_noSlot found starts own wing aligned reach free fits, fun v lt unused below =>
          exec_kvOpen_opens found starts own wing aligned reach free fits lt
            (fun ⟨x, listed, busy, wing, slot⟩ => unused x listed busy wing slot) below⟩⟩
  case releases => exact (exec_kvRelease_used found starts used).trans (if_neg (not_not.2 mine))
  case foreign => exact (exec_kvRelease_used found starts used).trans (if_pos foreign)
  case returned => rw [exec_kvReleaseFinish due releasing mine unnamed, reach]
  case freed => rw [State.seqOf_freeSeq, if_pos rfl]
  case refused => rw [exec_kvReleaseFinish due releasing mine unnamed, refused]

end Sys2Proof.Machine
end

section
/-! SUPPORT. Blocks and rows of an attend task (spec/10_attention_kv.md R276, R278, R279, R282, R283): what a row's state takes in, how the
outputs are written, and what ATTEND_BLOCK does, a lemma for each of its cases. -/

namespace Sys2Proof.Machine

/-! ### Rows (R279, R282) -/

/-- The maximum of a row once it has taken in the scores of the visible keys, z the first of them. -/
def RowSt.newMax (r : RowSt) (z : W32 × Bool) (l : List (W32 × Bool)) : W32 :=
  fmax32 r.m (l.foldl (fun m y => fmax32 m y.1) (fmax32 negInf32 z.1))

/-- The products of a block's weights under maximum m with its values (R278). -/
def AttendEntry.products (a : AttendEntry) (xs : List W32) (vis : List Bool) (m : W32) (v : KvBlock) : List W32 :=
  (List.range a.d).map (fun d => (attendProduct a.fmtP a.fmtKv ((a.weights xs vis m).map (valueOf a.fmtP))
    (v.rows.map (fun row => nth (.fin {}) row d)) 0 v.scale).2)

/-- The state of a row whose maximum has become m, with the products o of the block's weights and values. -/
def AttendEntry.tookRow (a : AttendEntry) (r : RowSt) (xs : List W32) (vis : List Bool) (m : W32) (o : List W32) : RowSt :=
  let sum := blockSum ((a.weights xs vis m).map (fun k => w32 (valueOf a.fmtP k).exact))
  let acc := if r.acc.isEmpty then List.replicate a.d 0 else r.acc
  let k := fexp32 (fmul32 (fsub32 r.m m) log2e)
  let y := if (W32.val m).special then (w32 .nan, List.replicate a.d (w32 .nan))
    else if r.m = negInf32 then (sum, o)
    else if fCmp 4 (W32.val m) (W32.val r.m) then (ffma32 r.l k sum, List.zipWith (fun x y => ffma32 x k y) acc o)
    else (fadd32 r.l sum, List.zipWith fadd32 acc o)
  { m := m, l := y.1, acc := y.2, seen := true }

section
variable {a : AttendEntry} {r : RowSt} {xs : List W32} {vis : List Bool} (v : KvBlock)

theorem AttendEntry.rowStep_unseen (hidden : ∀ y ∈ List.zip xs vis, y.2 = false) : a.rowStep r xs vis v = (r, []) := by
  have none : (List.zip xs vis).filter (fun y => y.2) = [] := List.filter_eq_nil_iff.2 fun y listed => by simp [hidden y listed]
  rw [AttendEntry.rowStep, none]

theorem AttendEntry.rowStep_seen (visible : ∃ y ∈ List.zip xs vis, y.2 = true) :
    ∃ m o, (a.rowStep r xs vis v).1 = a.tookRow r xs vis m o := by
  obtain ⟨y, listed, sees⟩ := visible
  obtain ⟨z, l, seen⟩ := List.exists_cons_of_ne_nil (List.ne_nil_of_mem (List.mem_filter.2 ⟨listed, sees⟩ :
    y ∈ (List.zip xs vis).filter (fun y => y.2)))
  refine ⟨r.newMax z l, a.products xs vis (r.newMax z l) v, ?_⟩
  unfold RowSt.newMax AttendEntry.products AttendEntry.tookRow
  simp only [AttendEntry.rowStep, seen, List.map_map]
  split_ifs <;> rfl

end

theorem val_nan32 : W32.val (w32 .nan) = .nan := by decide

section
variable {a : AttendEntry} {r : RowSt} {xs : List W32} {vis : List Bool} {m : W32} {o : List W32}

theorem AttendEntry.tookRow_special (special : (W32.val m).special = true) :
    W32.val (a.tookRow r xs vis m o).l = .nan ∧ ∀ v ∈ (a.tookRow r xs vis m o).acc, W32.val v = .nan := by
  simp only [AttendEntry.tookRow, if_pos special]
  exact ⟨val_nan32, fun v listed => by rw [List.eq_of_mem_replicate listed, val_nan32]⟩

variable (sound : (W32.val m).special = false)
include sound

theorem AttendEntry.tookRow_first (first : r.m = negInf32) :
    (a.tookRow r xs vis m o).l = blockSum ((a.weights xs vis m).map (fun k => w32 (valueOf a.fmtP k).exact)) := by
  simp [AttendEntry.tookRow, sound, first]

variable (later : r.m ≠ negInf32)
include later

theorem AttendEntry.tookRow_rises (rises : fCmp 4 (W32.val m) (W32.val r.m) = true) : (a.tookRow r xs vis m o).l =
    ffma32 r.l (fexp32 (fmul32 (fsub32 r.m m) log2e)) (blockSum ((a.weights xs vis m).map (fun k => w32 (valueOf a.fmtP k).exact))) := by
  simp [AttendEntry.tookRow, sound, later, rises]

theorem AttendEntry.tookRow_stays (stays : fCmp 4 (W32.val m) (W32.val r.m) = false) : (a.tookRow r xs vis m o).l =
    fadd32 r.l (blockSum ((a.weights xs vis m).map (fun k => w32 (valueOf a.fmtP k).exact))) := by
  simp [AttendEntry.tookRow, sound, later, stays]

end

/-! ### Outputs (R283) -/

theorem State.ctx_spendSlot (s : State) (u i : Nat) : (s.spendSlot u i).ctx = s.ctx :=
  State.spendSlot_same State.ctx (fun s u x => (s.putStream_regs u x false).ctx) (fun s u => (State.SameUnits.endChans s false u).ctx) s u i

section
variable {s : State} {c t w : Nat} {a : AttendEntry} {x : AttendSt}

theorem State.attendFinish_done (running : s.running c t = true) (all : a.qHeads ≤ x.outs) (n : Nat) :
    ((s.attendFinish c t w a x (n + 1)).rt c t).att = some { x with done := true } := by
  obtain ⟨g, admitted⟩ := State.prog_of_running running
  have ctx := overList_same State.ctx (fun (q : Nat × Nat) u => u.spendSlot q.1 q.2) (fun q u => u.ctx_spendSlot q.1 q.2)
    ((List.range a.qHeads).filterMap (s.qSlot w a)) s
  rw [State.attendFinish, if_pos all, State.rt_updRt ((State.prog_congr ctx c).trans admitted)]

variable (more : x.outs < a.qHeads)
include more

theorem State.attendFinish_waits (held : s.attendFree c t w a x.outs = false) (n : Nat) : s.attendFinish c t w a x (n + 1) = s := by
  rw [State.attendFinish, if_neg (Nat.not_le.2 more), if_pos (by simp [held])]

theorem State.attendFinish_writes (free : s.attendFree c t w a x.outs = true) (n : Nat) : let y := { x with outs := x.outs + 1 }
    s.attendFinish c t w a x (n + 1) =
      ((s.attendOut c t w a x.rows x.outs).updRt c t (fun r => { r with att := some y })).attendFinish c t w a y n := by
  intro y
  rw [State.attendFinish, if_neg (Nat.not_le.2 more), if_neg (by simp [free])]

end

/-! ### The end of a task's attention (R276, R283) -/

section
variable {s : State} {c t w : Nat} {a : AttendEntry} {x : AttendSt} (att : (s.rt c t).att = some x)
include att

theorem State.attendEnd_waits (waits : s.qReady c t w a = false) : s.attendEnd c t w a = s := by
  rw [State.attendEnd, att]
  exact if_pos (by simp [waits])

variable (last : x.keyEnd ≤ x.block * a.blockKeys) (ready : s.qReady c t w a = true)
include last ready

theorem State.attendEnd_fails {f : State × Fail} (fails : s.qFail c t w a = some f) : s.attendEnd c t w a = f.1.failTask c t f.2 := by
  simp only [State.attendEnd, att, last, ready, fails, not_true, or_self, if_false]

theorem State.attendEnd_finishes (good : s.qFail c t w a = none) : s.attendEnd c t w a = s.attendFinish c t w a x (a.qHeads + 1) := by
  simp only [State.attendEnd, att, last, ready, good, not_true, or_self, if_false]

end

/-! ### ATTEND_BLOCK (R276, R278, R283) -/

/-- The state once an unmasked block has come to what it comes to. -/
def State.tookBlock (s : State) (c t w : Nat) (a : AttendEntry) : BlockRes → State
  | .stuck => s
  | .next u => u.attendEnd c t w a
  | .fail u f => u.failTask c t f

/-- What the next block comes to: from in-streams or from the task's sequence. -/
def State.nextBlock (s : State) (c t w : Nat) (a : AttendEntry) (x : AttendSt) (code : Nat) : BlockRes :=
  if a.fromStreams then s.blockFromStreams c t w a x code else s.blockFromSeq c t w a x code

/-- What comes of a block that the mask does not hide, once the query tiles and the hook are in reach. -/
def State.queryBlock (s : State) (c t w : Nat) (a : AttendEntry) (x : AttendSt) (code : Nat) : State :=
  match s.qFail c t w a with
  | some f => f.1.failTask c t f.2
  | none =>
    if a.hookLen ≠ 0 ∧ s.poisoned a.hookBase (8 * a.hookLen) then
      (s.galleryFail c a.hookBase (8 * a.hookLen)).2.failTask c t (s.galleryFail c a.hookBase (8 * a.hookLen)).1
    else s.tookBlock c t w a (s.nextBlock c t w a x code)

/-- What the next block comes to by the code of its mask tile. -/
def State.maskedBlock (s : State) (c t w : Nat) (a : AttendEntry) (x : AttendSt) : MaskRes → State
  | .fail f => s.failTask c t f
  | .stuck => s
  | .code code =>
    if a.skips code x.block then ((s.incFld RegF.kvaSkipBlocks 1 w).updRt c t
      (fun y => { y with att := some { x with block := x.block + 1, head := 0 } })).attendEnd c t w a
    else if ¬ s.qReady c t w a ∨ ¬ s.hookReach c t w a then s
    else s.queryBlock c t w a x code

section
variable {s : State} {c t : Nat} {a : AttendEntry} {x : AttendSt} (task : (s.task c t).attend = some a) (att : (s.rt c t).att = some x)
  (running : s.running c t = true) (undone : x.done = false)
include task att running undone

theorem exec_attendBlock_end (last : x.keyEnd ≤ x.block * a.blockKeys) :
    exec (.attendBlock c t) s = .next (s.attendEnd c t (s.task c t).wing a) := by
  show execAttendBlock c t s = _
  simp only [execAttendBlock, task, att, running, undone, last, not_true, false_or, Bool.false_eq_true, if_false, if_true]

theorem exec_attendBlock_next (more : x.block * a.blockKeys < x.keyEnd) {r : MaskRes}
    (mask : s.maskCode c t (s.task c t).wing a x.block = r) :
    exec (.attendBlock c t) s = .next (s.maskedBlock c t (s.task c t).wing a x r) := by
  show execAttendBlock c t s = _
  simp only [execAttendBlock, task, att]
  rw [if_neg (by simp [running, undone]), if_neg (Nat.not_le.2 more), mask]
  cases r with
  | fail f => rfl
  | stuck => rfl
  | code code =>
    rw [State.maskedBlock, apply_ite Host.Outcome.next, apply_ite Host.Outcome.next]
    refine if_congr Iff.rfl rfl (if_congr Iff.rfl rfl ?_)
    rw [State.queryBlock]
    cases s.qFail c t (s.task c t).wing a with
    | some f => rfl
    | none =>
      refine Eq.trans ?_ (apply_ite Host.Outcome.next _ _ _).symm
      refine if_congr Iff.rfl rfl ?_
      rw [State.nextBlock]
      cases (if a.fromStreams = true then s.blockFromStreams c t (s.task c t).wing a x code
        else s.blockFromSeq c t (s.task c t).wing a x code) <;> rfl

end

section
variable {s : State} {c t w : Nat} {a : AttendEntry} {x : AttendSt} {code : Nat}

theorem State.maskedBlock_skips (skips : a.skips code x.block = true) : s.maskedBlock c t w a x (.code code) =
    ((s.incFld RegF.kvaSkipBlocks 1 w).updRt c t
      (fun y => { y with att := some { x with block := x.block + 1, head := 0 } })).attendEnd c t w a := if_pos skips

theorem State.maskedBlock_waits (sees : a.skips code x.block = false) (waits : s.qReady c t w a = false ∨ s.hookReach c t w a = false) :
    s.maskedBlock c t w a x (.code code) = s := by
  rw [State.maskedBlock, if_neg (by simp [sees]), if_pos (by simpa using waits)]

theorem State.maskedBlock_takes (sees : a.skips code x.block = false) (ready : s.qReady c t w a = true) (reach : s.hookReach c t w a = true) :
    s.maskedBlock c t w a x (.code code) = s.queryBlock c t w a x code := by
  rw [State.maskedBlock, if_neg (by simp [sees]), if_neg (by simp [ready, reach])]

theorem State.queryBlock_queryFails {f : State × Fail} (fails : s.qFail c t w a = some f) :
    s.queryBlock c t w a x code = f.1.failTask c t f.2 := by
  rw [State.queryBlock, fails]

theorem State.queryBlock_hookFails (good : s.qFail c t w a = none) (hook : a.hookLen ≠ 0)
    (bad : s.poisoned a.hookBase (8 * a.hookLen) = true) : s.queryBlock c t w a x code =
      (s.galleryFail c a.hookBase (8 * a.hookLen)).2.failTask c t (s.galleryFail c a.hookBase (8 * a.hookLen)).1 := by
  rw [State.queryBlock, good]
  exact if_pos ⟨hook, bad⟩

theorem State.queryBlock_takes (good : s.qFail c t w a = none) (hook : a.hookLen = 0 ∨ s.poisoned a.hookBase (8 * a.hookLen) = false)
    {r : BlockRes} (block : s.nextBlock c t w a x code = r) : s.queryBlock c t w a x code = s.tookBlock c t w a r := by
  rw [State.queryBlock, good, ← block]
  exact if_neg fun ⟨long, bad⟩ => hook.elim long (by simp [bad])

theorem State.nextBlock_streams (streams : a.fromStreams = true) : s.nextBlock c t w a x code = s.blockFromStreams c t w a x code :=
  if_pos streams

variable (seq : a.fromStreams = false)
include seq

theorem State.nextBlock_pagesWait
    (pages : s.readPages c t x.seq (((a.keysOf x.block x.keyEnd).map (fun k => k / max 1 (s.seqOf x.seq).t)).eraseDups) = .stuck) :
    s.nextBlock c t w a x code = .stuck := by
  simp only [State.nextBlock, seq, Bool.false_eq_true, if_false, State.blockFromSeq, pages]

theorem State.nextBlock_pagesFail {u : State} {f : Fail}
    (pages : s.readPages c t x.seq (((a.keysOf x.block x.keyEnd).map (fun k => k / max 1 (s.seqOf x.seq).t)).eraseDups) = .fail u f) :
    s.nextBlock c t w a x code = .fail u f := by
  simp only [State.nextBlock, seq, Bool.false_eq_true, if_false, State.blockFromSeq, pages]

variable {u : State} {l : List (Nat × List Byte)}
  (pages : s.readPages c t x.seq (((a.keysOf x.block x.keyEnd).map (fun k => k / max 1 (s.seqOf x.seq).t)).eraseDups) = .pages u l)
include pages

theorem State.nextBlock_pages (fmt : (s.seqOf x.seq).fmt = a.fmtKv) (d : (s.seqOf x.seq).d = a.d) :
    let q := s.seqOf x.seq
    let keys := a.keysOf x.block x.keyEnd
    let r := u.takeBlock c t w a x (List.range a.qHeads) keys code (fun i =>
      (q.block l 0 (a.kvHead i q.h) keys, q.block l 1 (a.kvHead i q.h) keys))
    s.nextBlock c t w a x code = .next (r.1.updRt c t (fun y => { y with att := some { r.2 with block := x.block + 1 } })) := by
  simp only [State.nextBlock, seq, Bool.false_eq_true, if_false, State.blockFromSeq, pages, fmt, d, ne_eq, not_true, or_self]

theorem State.nextBlock_misfit (misfit : (s.seqOf x.seq).fmt ≠ a.fmtKv ∨ (s.seqOf x.seq).d ≠ a.d) :
    s.nextBlock c t w a x code = .fail (u.evSeal (uArray (u.attendArray c t w)) c 0
      ((s.seqOf x.seq).staged (a.keysOf x.block x.keyEnd).length)) (Fail.addr .tileSeal 0) := by
  simp only [State.nextBlock, seq, Bool.false_eq_true, if_false, State.blockFromSeq, pages, if_pos misfit]

end

/-! ### The statement -/

/-- Settles O34: the command by what its mask, its query tiles, its hook and its block come to; the outputs by the three cases of the next head;
a row by the state that it takes once a key is visible. -/
theorem attendBlocksAndRows : Obligations.AttendBlocksAndRows := by
  unfold Obligations.AttendBlocksAndRows
  refine ⟨fun s c t a x task att running undone => ⟨fun last => ?last, fun more => ?next, fun n => ⟨fun all =>
      State.attendFinish_done running all n, fun more held => State.attendFinish_waits more held n,
      fun more free => State.attendFinish_writes more free n⟩⟩,
    fun a r xs vis v => ⟨fun hidden => AttendEntry.rowStep_unseen v hidden, fun visible => ?row⟩,
    fun r d => ⟨fun h => ?empty, fun h => ?out⟩⟩
  case last =>
    rw [exec_attendBlock_end task att running undone last]
    exact ⟨fun waits => by rw [State.attendEnd_waits att waits], fun ready => ⟨fun f fails => by
      rw [State.attendEnd_fails att last ready fails, State.failTask], fun good => by rw [State.attendEnd_finishes att last ready good]⟩⟩
  case next =>
    have goes {r : MaskRes} := @exec_attendBlock_next s c t a x task att running undone more r
    refine ⟨fun f mask => by rw [goes mask, State.maskedBlock, State.failTask], fun mask => goes mask, fun code mask => ?_⟩
    rw [goes mask]
    refine ⟨fun skips => by rw [State.maskedBlock_skips skips], fun sees => ⟨fun waits => by rw [State.maskedBlock_waits sees waits],
      fun ready reach => ?_⟩⟩
    rw [State.maskedBlock_takes sees ready reach]
    refine ⟨fun f fails => ?_, fun good hook bad => ?_, fun good hook => ⟨fun seq => ⟨fun wait => ?_, fun u f fails => ?_,
      fun u l pages fmt d => ?_, fun u l pages misfit => ?_⟩, fun streams => ?_⟩⟩
    · rw [State.queryBlock_queryFails fails, State.failTask]
    · rw [State.queryBlock_hookFails good hook bad, State.failTask]
    · rw [State.queryBlock_takes good hook (State.nextBlock_pagesWait seq wait), State.tookBlock]
    · rw [State.queryBlock_takes good hook (State.nextBlock_pagesFail seq fails), State.tookBlock, State.failTask]
    · rw [State.queryBlock_takes good hook (State.nextBlock_pages seq pages fmt d), State.tookBlock]
    · exact ⟨_, 0, by rw [State.queryBlock_takes good hook (State.nextBlock_misfit seq pages misfit), State.tookBlock, State.failTask]; rfl⟩
    · rw [State.queryBlock_takes good hook (State.nextBlock_streams streams)]
      exact ⟨fun h => by rw [h, State.tookBlock], fun u h => by rw [h, State.tookBlock], fun u f h => by rw [h, State.tookBlock, State.failTask]⟩
  case row =>
    obtain ⟨m, o, took⟩ := AttendEntry.rowStep_seen v visible
    rw [took]
    exact ⟨rfl, fun special => AttendEntry.tookRow_special (Bool.eq_true_of_not_eq_false special), AttendEntry.tookRow_first,
      AttendEntry.tookRow_rises, AttendEntry.tookRow_stays⟩
  case empty => rw [RowSt.out, if_neg (by simp [h])]
  case out => rw [RowSt.out, if_pos h]

end Sys2Proof.Machine
end

section
/-! SUPPORT. Messages and flits (spec/11_ralda_link.md R310, R314): a message reads back from its bytes, the payloads of the flits of a
byte stream spell the stream with zeros after it, and the next message of such payloads is the first of the stream. -/

namespace Sys2Proof.Machine

/-! ### Fields of joined bytes -/

/-- A number in front of other bytes reads back. -/
theorem field_leBytes (n x : Nat) (t : List Byte) : field (leBytes n x ++ t) 0 n = x % 2 ^ (8 * n) := field_mid [] t n x

/-- A field behind the bytes in front of it. -/
theorem field_append_right {a : List Byte} (t : List Byte) {o : Nat} (n : Nat) (h : a.length ≤ o) :
    field (a ++ t) o n = field t (o - a.length) n := by
  rw [field, field, List.drop_append, List.drop_of_length_le h, List.nil_append]

/-- A field that lies in the first bytes. -/
theorem field_append_left {a : List Byte} (t : List Byte) {o n : Nat} (h : o + n ≤ a.length) : field (a ++ t) o n = field a o n := by
  rw [field, field, List.drop_append_of_le_length (by omega), List.take_append_of_le_length (by rw [List.length_drop]; omega)]

/-! ### The header of a message (R314) -/

/-- The 32 bytes of a message's header. -/
def Msg.header (m : Msg) : List Byte := m.bytes.take 32

theorem Msg.header_eq (m : Msg) : m.header =
    leBytes 1 (m.kind + 16 * m.hops) ++ (leBytes 1 (m.hop + 8 * m.dstWing) ++ (leBytes 2 m.srcDev ++ (leBytes 2 m.dstDev ++
      (leBytes 2 m.queue ++ (leBytes 3 m.route.toNat ++ (leBytes 1 0 ++ (leBytes 2 m.op ++ (leBytes 2 m.payload.length ++
        (leBytes 4 m.index ++ (leBytes 4 m.count ++ leBytes 8 m.time)))))))))) := by
  rw [Msg.header, Msg.bytes, List.take_left' (by simp)]
  simp only [List.append_assoc]

@[simp] theorem Msg.header_length (m : Msg) : m.header.length = 32 := by simp [Msg.header_eq]

theorem Msg.bytes_eq (m : Msg) : m.bytes = m.header ++ m.payload := by
  rw [Msg.header, Msg.bytes, List.take_left' (by simp)]

@[simp] theorem Msg.bytes_length (m : Msg) : m.bytes.length = 32 + m.payload.length := by simp [Msg.bytes_eq]

/-- A field of the header of a message at the front of a stream of bytes. -/
theorem Msg.field_bytes_append (m : Msg) (rest : List Byte) {o n : Nat} (inside : o + n ≤ 32) :
    field (m.bytes ++ rest) o n = field m.header o n := by
  rw [Msg.bytes_eq, List.append_assoc, field_append_left _ (by simpa using inside)]

/-- The fields of a message fit in those of its header. -/
structure Msg.Fits (m : Msg) : Prop where
  kind : m.kind < 16
  hops : m.hops < 16
  hop : m.hop < 8
  dstWing : m.dstWing < 4
  srcDev : m.srcDev < 2 ^ 16
  dstDev : m.dstDev < 2 ^ 16
  queue : m.queue < 64
  op : m.op < 2 ^ 16
  length : m.payload.length < 2 ^ 15
  index : m.index < 2 ^ 32
  count : m.count < 2 ^ 32
  time : m.time < 2 ^ 64

section
variable {m : Msg} (fits : m.Fits)
include fits

/-- The numbers of a message's header, at their bytes. -/
theorem Msg.header_fields : let h := m.header
    field h 0 1 = m.kind + 16 * m.hops ∧ field h 1 1 = m.hop + 8 * m.dstWing ∧ field h 2 2 = m.srcDev ∧ field h 4 2 = m.dstDev ∧
    field h 6 2 = m.queue ∧ field h 8 3 = m.route.toNat ∧ field h 12 2 = m.op ∧ field h 14 2 = m.payload.length ∧
    field h 16 4 = m.index ∧ field h 20 4 = m.count ∧ field h 24 8 = m.time := by
  have last : field (leBytes 8 m.time) 0 8 = m.time % 2 ^ 64 := by simpa using field_leBytes 8 m.time []
  have route := m.route.isLt
  obtain ⟨kind, hops, hop, wing, src, dst, queue, op, length, index, count, time⟩ := fits
  simp only [Msg.header_eq, field_append_right, field_leBytes, last, leBytes_length, Nat.reduceLeDiff, Nat.reduceSub]
  omega

/-- LENGTH of a message at the front of a stream. -/
theorem Msg.length_field (rest : List Byte) : field (m.bytes ++ rest) 14 2 % 2 ^ 15 = m.payload.length := by
  obtain ⟨-, -, -, -, -, -, -, length, -⟩ := Msg.header_fields fits
  rw [m.field_bytes_append rest (by omega), length, Nat.mod_eq_of_lt fits.length]

/-- KIND of a message at the front of a stream. -/
theorem Msg.kind_field (rest : List Byte) : field (m.bytes ++ rest) 0 1 % 16 = m.kind := by
  obtain ⟨kind, -⟩ := Msg.header_fields fits
  rw [m.field_bytes_append rest (by omega), kind, Nat.add_mul_mod_self_left, Nat.mod_eq_of_lt fits.kind]

/-- A message reads back from the front of a stream of bytes. -/
theorem Msg.ofBytes_append (rest : List Byte) : Msg.ofBytes (m.bytes ++ rest) = m := by
  have payload : ((m.bytes ++ rest).drop 32).take m.payload.length = m.payload := by
    rw [Msg.bytes_eq, List.append_assoc, List.drop_left' m.header_length, List.take_left]
  obtain ⟨kind, hop, src, dst, queue, route, op, -, index, count, time⟩ := Msg.header_fields fits
  have hops : (m.kind + 16 * m.hops) / 16 = m.hops := by have := fits.kind; omega
  have hop' : (m.hop + 8 * m.dstWing) % 8 = m.hop := by have := fits.hop; omega
  have wing : (m.hop + 8 * m.dstWing) / 8 % 4 = m.dstWing := by have := fits.hop; have := fits.dstWing; omega
  rw [Msg.ofBytes, Msg.length_field fits, Msg.kind_field fits, payload]
  simp only [m.field_bytes_append rest, Nat.reduceAdd, Nat.reduceLeDiff, kind, hop, src, dst, queue, route, op, index, count, time,
    hops, hop', wing, Nat.mod_eq_of_lt fits.queue, BitVec.ofNat_toNat, BitVec.setWidth_eq]

end

/-! ### Flit payloads (R310) -/

theorem pad_eq (n : Nat) (l : List Byte) : pad n l = l.take n ++ List.replicate (n - l.length) 0 := by
  rw [pad, List.take_append, List.take_replicate, Nat.min_self]

/-- Padding to a sum pads its parts one after the other. -/
theorem pad_add (a c : Nat) (l : List Byte) : pad (a + c) l = pad a l ++ pad c (l.drop a) := by
  simp only [pad_eq, List.length_drop]
  rcases Nat.le_total l.length a with short | long
  · rw [List.take_of_length_le (by omega), List.take_of_length_le short, List.drop_of_length_le short, List.take_nil, List.nil_append,
      List.append_assoc, List.replicate_append_replicate]
    congr 2
    omega
  · rw [List.take_add, Nat.sub_eq_zero_of_le long, List.replicate_zero, List.append_nil, List.append_assoc]
    congr 3
    omega

theorem pad_take (n : Nat) (l : List Byte) : pad n (l.take n) = pad n l := by
  simp only [pad_eq, List.take_take, Nat.min_self, List.length_take]
  congr 2
  omega

/-- The payloads of the first n flits of a stream of bytes. -/
def flitPayloads (b : List Byte) (n : Nat) : List (List Byte) := (List.range n).map (fun i => pad 304 ((b.drop (304 * i)).take 304))

theorem flitPayloads_succ (b : List Byte) (n : Nat) : flitPayloads b (n + 1) = pad 304 b :: flitPayloads (b.drop 304) n := by
  simp only [flitPayloads, List.range_succ_eq_map, List.map_cons, List.map_map, Nat.mul_zero, List.drop_zero, pad_take, List.drop_drop,
    Function.comp_def, Nat.mul_succ, Nat.add_comm]

/-- The payloads of n flits spell the stream, padded to their length or cut. -/
theorem flitPayloads_flatten (n : Nat) : ∀ b : List Byte, (flitPayloads b n).flatten = pad (304 * n) b := by
  induction n with
  | zero => simp [flitPayloads, pad]
  | succ n ih => intro b; rw [flitPayloads_succ, List.flatten_cons, ih, Nat.mul_succ, Nat.add_comm, pad_add]

/-! ### Taking the next message (R310) -/

theorem dropBytes_flatten : ∀ (l : List (List Byte)) (n k : Nat), (dropBytes n l k).1.flatten = l.flatten.drop n
  | [], n, k => by cases n <;> simp [dropBytes]
  | f :: l, n, k => by
    rw [List.flatten_cons, List.drop_append]
    unfold dropBytes
    split
    · rename_i whole
      rw [dropBytes_flatten l, List.drop_of_length_le whole, List.nil_append]
    · rename_i part
      rw [Nat.sub_eq_zero_of_le (by omega), List.drop_zero, List.flatten_cons]

/-- A message at the front of the payloads of flits is the next one, and the bytes after it are left. -/
theorem nextMsg_front {m : Msg} (fits : m.Fits) (named : 1 ≤ m.kind) {f : List Byte} (some' : 1 ≤ f.length) {r l : List (List Byte)}
    (cons : l = f :: r) {rest : List Byte} (stream : l.flatten = m.bytes ++ rest) :
    ∃ l' k, nextMsg l = some (m, l', k) ∧ l'.flatten = rest := by
  have first : field f 0 1 % 16 = m.kind := by
    rw [← Msg.kind_field fits rest, ← stream, cons, List.flatten_cons, field_append_left _ some']
  have noFill : dropFill l 0 = (l, 0) := by rw [cons, dropFill, if_neg (by omega)]
  have left := dropBytes_flatten l (32 + m.payload.length) 0
  rw [stream, List.drop_left' m.bytes_length] at left
  have whole : ¬ ((m.bytes ++ rest).length < 32 ∨ (m.bytes ++ rest).length < 32 + m.payload.length) := by
    rw [List.length_append, m.bytes_length]; omega
  refine ⟨_, (dropBytes (32 + m.payload.length) l 0).2, ?_, left⟩
  simp only [nextMsg, noFill, stream, Msg.length_field fits, Msg.ofBytes_append fits, if_neg whole]

/-- Settles O42: the message fits in its header, the payloads of the flits spell the stream and zeros, and the first message of a stream is
taken whole. -/
theorem messagesSurviveFlits : Obligations.MessagesSurviveFlits := by
  intro m rest named kind hops hop dstWing srcDev dstDev queue op length index count time
  have fits : m.Fits := ⟨kind, hops, hop, dstWing, srcDev, dstDev, queue, op, length, index, count, time⟩
  refine ⟨by simpa using Msg.ofBytes_append fits [], ?_⟩
  intro b
  have long : 32 ≤ b.length := by simp [b]; omega
  obtain ⟨n, flits⟩ : ∃ n, (b.length + 303) / 304 = n + 1 := ⟨(b.length + 303) / 304 - 1, by omega⟩
  have spelt : (flitPayloads b (n + 1)).flatten = m.bytes ++ (rest ++ List.replicate (304 * (n + 1) - b.length) 0) := by
    rw [flitPayloads_flatten, pad_eq, List.take_of_length_le (by omega), List.append_assoc]
  rw [flits, ← flitPayloads]
  obtain ⟨l, k, taken, left⟩ := nextMsg_front fits named (by simp) (flitPayloads_succ b n) spelt
  refine ⟨l, k, taken, by rw [left, List.take_left], fun z hz => ?_⟩
  rw [left, List.drop_left] at hz
  exact List.eq_of_mem_replicate hz

end Sys2Proof.Machine
end

section
/-! SUPPORT. Flits at their receiver (spec/11_ralda_link.md R304, R306, R310 to R313): what FLIT_RECEIVE does with each kind of flit, and what
a sequenced flit that is sent changes in its port. -/

namespace Sys2Proof.Machine

/-! ### A good flit (R310, R312) -/

/-- How far the sequence number of a flit lies beyond the last one received in order. -/
def Port.ahead (x : Port) (f : List Byte) : Nat := (flitSeq f + 4096 - x.rxSeq) % 4096

/-- A port that has received a sequenced flit in order. -/
def Port.took (x : Port) (f : List Byte) : Port := { x with rxSeq := flitSeq f, discard := false, replays := 0 }

section
variable {s : State} {p : Nat} {f : List Byte} {lanes : BitVec 9} (lt : p < 16) (up : s.portUp p = true) (len : f.length = 320)
  (good : flitGood f = true)
include lt up len good

theorem exec_flitReceive_reserved (kind : 3 < flitKind f) : exec (.flitReceive p f false lanes) s = .next s := by
  show execFlitReceive p f false lanes s = _
  rw [execFlitReceive, if_neg (by simp [lt, up, len]), if_neg (by simp [good]), if_pos kind]

theorem exec_flitReceive_idle (kind : flitKind f = 0) : exec (.flitReceive p f false lanes) s = .next (s.flitControl p f) := by
  show execFlitReceive p f false lanes s = _
  rw [execFlitReceive, if_neg (by simp [lt, up, len]), if_neg (by simp [good]), if_neg (by simp [kind]), if_pos kind]

variable (seq : flitKind f = 1 ∨ flitKind f = 2 ∨ flitKind f = 3)
include seq

/-- A sequenced flit is used where it is the next one, has no effect where it is a repeat or where flits are discarded, and asks for a replay
where it comes too early. -/
theorem exec_flitReceive_sequenced : exec (.flitReceive p f false lanes) s =
    let x := s.lport p
    let pay := (f.drop 8).take flitPayload
    if x.ahead f = 1 then .next ((when (flitKind f == 3) (fun s => s.takeCtrl p pay) (s.setPort p { x.took f with
        rx0 := if flitKind f = 1 then x.rx0 ++ [pay] else x.rx0, rx1 := if flitKind f = 2 then x.rx1 ++ [pay] else x.rx1 })).flitControl p f)
    else if x.discard = true ∨ x.ahead f = 0 ∨ 2048 ≤ x.ahead f then .next s
    else .next ((s.setPort p { x with discard := true }).sendIdle p true) := by
  show execFlitReceive p f false lanes s = _
  rw [execFlitReceive, if_neg (by simp [lt, up, len]), if_neg (by simp [good]), if_neg (by omega), if_neg (by omega)]
  rfl

theorem exec_flitReceive_next (next : (s.lport p).ahead f = 1) : exec (.flitReceive p f false lanes) s =
    let x := s.lport p
    let pay := (f.drop 8).take flitPayload
    .next ((when (flitKind f == 3) (fun s => s.takeCtrl p pay) (s.setPort p { x.took f with
      rx0 := if flitKind f = 1 then x.rx0 ++ [pay] else x.rx0, rx1 := if flitKind f = 2 then x.rx1 ++ [pay] else x.rx1 })).flitControl p f) := by
  rw [exec_flitReceive_sequenced lt up len good seq, if_pos next]

theorem exec_flitReceive_ignored (next : (s.lport p).ahead f ≠ 1)
    (old : (s.lport p).discard = true ∨ (s.lport p).ahead f = 0 ∨ 2048 ≤ (s.lport p).ahead f) :
    exec (.flitReceive p f false lanes) s = .next s := by
  rw [exec_flitReceive_sequenced lt up len good seq, if_neg next, if_pos old]

theorem exec_flitReceive_gap (early : 2 ≤ (s.lport p).ahead f) (near : (s.lport p).ahead f < 2048) (fresh : (s.lport p).discard = false) :
    exec (.flitReceive p f false lanes) s = .next ((s.setPort p { s.lport p with discard := true }).sendIdle p true) := by
  rw [exec_flitReceive_sequenced lt up len good seq, if_neg (by omega), if_neg (by simp [fresh]; omega)]

end

/-! ### A lost flit (R304, R312, R313) -/

theorem exec_flitReceive_lost {s : State} {p : Nat} {f : List Byte} (lt : p < 16) (up : s.portUp p = true) (len : f.length = 320)
    {bad : Bool} (lost : bad = true ∨ flitGood f = false) (lanes : BitVec 9) :
    exec (.flitReceive p f bad lanes) s = .next (s.flitLost p f lanes) := by
  show execFlitReceive p f bad lanes s = _
  rw [execFlitReceive, if_neg (by simp [lt, up, len]), if_pos (by simpa using lost)]

/-- The distinct values of a list are one value where the list has elements and all of them have it. -/
theorem eraseDups_eq_singleton (l : List Nat) (a : Nat) : l.eraseDups = [a] ↔ l ≠ [] ∧ ∀ b ∈ l, b = a := by
  constructor
  · intro h
    refine ⟨fun e => by simp [e] at h, fun b hb => ?_⟩
    rw [← List.mem_singleton, ← h, List.mem_eraseDups]
    exact hb
  · rintro ⟨some', all⟩
    obtain ⟨b, l, rfl⟩ := List.exists_cons_of_ne_nil some'
    obtain rfl := all b (List.mem_cons_self ..)
    have others : l.filter (fun c => !c == b) = [] :=
      List.filter_eq_nil_iff.2 fun c hc => by simp [all c (List.mem_cons_of_mem _ hc)]
    rw [List.eraseDups_cons, others, List.eraseDups_nil]

/-- A flit that is lost is a replay of the one that the port waits for, which has been lost before (log 66). -/
def Port.replayLost (x : Port) (f : List Byte) : Bool := x.discard && flitSeq f == (x.rxSeq + 1) % 4096 && decide (flitKind f ≠ 0)

theorem Port.replayLost_iff (x : Port) (f : List Byte) :
    x.replayLost f = true ↔ x.discard = true ∧ flitSeq f = (x.rxSeq + 1) % 4096 ∧ flitKind f ≠ 0 := by
  simp [Port.replayLost, and_assoc]

/-- A port that has lost a flit. -/
def Port.lostFlit (x : Port) (f : List Byte) (now : Nat) (lanes : BitVec 9) : Port :=
  { x with discard := true, replays := if x.replayLost f then x.replays + 1 else x.replays, badWords := x.words now lanes }

/-- Every uncorrectable codeword of the last millisecond was of one lane, and there was one. -/
def Port.onlyLane (x : Port) (l : Nat) : Prop := x.badWords ≠ [] ∧ ∀ b ∈ x.badWords, b.1 = l

theorem Port.onlyLane_iff (x : Port) (l : Nat) : (x.badWords.map (fun b => b.1)).eraseDups = [l] ↔ x.onlyLane l := by
  rw [eraseDups_eq_singleton]; simp [Port.onlyLane]

section
variable {s : State} {p : Nat} {f : List Byte} {lanes : BitVec 9} {y : Port} (lost : (s.lport p).lostFlit f s.time lanes = y)
include lost

theorem State.flitLost_asks (more : y.replays < max 1 (s.eff RegF.lnkCfgRetryLimit p)) :
    s.flitLost p f lanes = ((s.setPort p y).failWords p).sendIdle p true := by
  subst lost
  exact if_pos more

variable (limit : max 1 (s.eff RegF.lnkCfgRetryLimit p) ≤ y.replays)
include limit

theorem State.flitLost_fails {l : Nat} (only : y.onlyLane l) : s.flitLost p f lanes =
    (((s.setPort p y).setPort p { y with replays := 0 }).failLane p l 2 true).sendIdle p true := by
  subst lost
  refine (if_neg (Nat.not_lt.2 limit)).trans ?_
  have same := (Port.onlyLane_iff _ _).2 only
  dsimp only
  split
  · rename_i l' only'
    obtain ⟨rfl, -⟩ := List.cons.inj (only'.symm.trans same)
    rfl
  · rename_i other
    exact absurd same (other l)

theorem State.flitLost_down (none' : ∀ l, ¬ y.onlyLane l) : s.flitLost p f lanes = (s.setPort p y).portLost p 2 false := by
  subst lost
  refine (if_neg (Nat.not_lt.2 limit)).trans ?_
  dsimp only
  split
  · rename_i l only
    exact absurd ((Port.onlyLane_iff _ _).1 only) (none' l)
  · rfl

end

/-! ### Sending (R306, R311, R312) -/

/-- While a lane is being replaced flits are held. -/
theorem State.pump_held {s : State} {p : Nat} (held : (s.lport p).replacing ≠ []) : s.pump p = s := by
  rw [State.pump, if_pos (by simpa using held)]

/-- The flit of a class that a port would send next. -/
def Port.nextFlit (x : Port) (cls : Nat) (pay : List Byte) : List Byte :=
  flitBytes (cls + 1) x.txSeq x.rxSeq x.discard (min 255 x.owe0) (min 15 x.owe1) pay

/-- A port that has sent a sequenced flit of a class. -/
def Port.sentFlit (x : Port) (cls : Nat) (pay : List Byte) : Port :=
  { x.emit (x.nextFlit cls pay) with
    txSeq := (x.txSeq + 1) % 4096, replay := (x.replay ++ [x.nextFlit cls pay]).drop (x.replay.length + 1 - 1024),
    cr0 := if cls = 0 then x.cr0 - 1 else x.cr0, cr1 := if cls = 1 then x.cr1 - 1 else x.cr1, flitCount := x.flitCount + 1 }

theorem State.lport_sendSeq (s : State) (p cls : Nat) (pay : List Byte) : (s.sendSeq p cls pay).lport p = (s.lport p).sentFlit cls pay := by
  unfold State.sendSeq
  dsimp only
  split
  · exact (s.lport_setPort p _)
  · exact (s.lport_setPort p _)

/-- Settles O41: each kind of flit by its case of FLIT_RECEIVE, each lost one by its case of the retry limit. -/
theorem flitsUsedOnceInOrder : Obligations.FlitsUsedOnceInOrder := by
  intro s p f lanes lt up len x k d good
  have isGood (h : good) : flitGood f = true := by simpa [flitGood] using h
  refine ⟨fun h kind => exec_flitReceive_idle lt up len (isGood h) kind, fun h kind => exec_flitReceive_reserved lt up len (isGood h) kind,
    fun h kind next => ?_, fun h kind next => ?_, fun h seq old => ?_, fun h seq early near discards => ?_, fun h seq early near fresh => ?_,
    fun bad lost => ?_, State.pump_held, fun cls pay small => ?_⟩
  · rw [exec_flitReceive_next lt up len (isGood h) (kind.imp_right .inl) next]
    rcases (show flitKind f = 1 ∨ flitKind f = 2 from kind) with one | two
    · simp only [one, show k = 1 from one, if_true]
      rfl
    · simp only [two, show k = 2 from two]
      rfl
  · rw [exec_flitReceive_next lt up len (isGood h) (.inr (.inr kind)) next]
    simp only [show flitKind f = 3 from kind]
    rfl
  · exact exec_flitReceive_ignored lt up len (isGood h) seq (show d ≠ 1 by omega) (.inr old)
  · exact exec_flitReceive_ignored lt up len (isGood h) seq (show d ≠ 1 by omega) (.inl discards)
  · exact exec_flitReceive_gap lt up len (isGood h) seq early near fresh
  · intro same n y lim all u four
    have counted : (if x.replayLost f = true then x.replays + 1 else x.replays) = n := if_congr (x.replayLost_iff f) rfl rfl
    have port : x.lostFlit f s.time lanes = y := by rw [Port.lostFlit, counted]; rfl
    rw [exec_flitReceive_lost lt up len (lost.imp_right fun h => by simpa [flitGood] using h)]
    refine ⟨fun more => ?_, fun l limit only => ?_, fun limit none' => ?_⟩
    · rw [State.flitLost_asks port more, State.failWords, State.lport_setPort]
      rfl
    · rw [State.flitLost_fails port limit only]
    · rw [State.flitLost_down port limit none']
  · intro y
    have sent : y = x.sentFlit cls pay := s.lport_sendSeq p cls pay
    rw [sent]
    refine ⟨rfl, ?_, fun zero => ?_, fun one => ?_, rfl, rfl⟩
    · simp only [Port.sentFlit, List.length_drop, List.length_append, List.length_singleton]
      omega
    · subst zero; exact ⟨rfl, rfl⟩
    · subst one; exact ⟨rfl, rfl⟩

end Sys2Proof.Machine
end

section
/-! SUPPORT. Registers that a change may write: the relation `State.OtherRegs` of spec-level frames along sequences and lists of changes,
and the frames of events, of the holdings and of the lanes that a port shows. -/

namespace Sys2Proof.Machine

/-! ### Which registers a change writes -/

section
variable {s t u : State} {l : List Reg}

theorem State.OtherRegs.refl (s : State) (l : List Reg) : s.OtherRegs s l := fun _ _ _ _ => rfl

theorem State.OtherRegs.trans (h : s.OtherRegs t l) (h' : t.OtherRegs u l) : s.OtherRegs u l := fun r i j out =>
  (h' r i j out).trans (h r i j out)

theorem State.OtherRegs.of_regs (h : t.regs = s.regs) (l : List Reg) : s.OtherRegs t l := fun r i j _ => by rw [State.reg, State.reg, h]

theorem State.OtherRegs.mono (h : s.OtherRegs t l) {m : List Reg} (sub : l ⊆ m) : s.OtherRegs t m := fun r i j out =>
  h r i j fun inside => out (sub inside)

theorem State.OtherRegs.setFld (h : s.OtherRegs t l) {f : Fld} (inside : f.reg ∈ l) (v i j : Nat) : s.OtherRegs (t.setFld f v i j) l :=
  h.trans fun _ _ _ out => State.reg_setReg_other _ _ _ _ _ _ _ _ fun e => out ((Reg.key_inj _ _ _ _ _ _ e).1 ▸ inside)

theorem State.OtherRegs.incFld (h : s.OtherRegs t l) {f : Fld} (inside : f.reg ∈ l) (n i j : Nat) : s.OtherRegs (t.incFld f n i j) l :=
  h.setFld inside _ i j

theorem State.OtherRegs.overList {α : Type} {f : α → State → State} (hf : ∀ x t, State.OtherRegs t (f x t) l) (m : List α) (s : State) :
    s.OtherRegs (overList m f s) l :=
  overList_keeps (fun t => s.OtherRegs t l) f (fun x t h => h.trans (hf x t)) m s (.refl s l)

theorem State.OtherRegs.fld (h : s.OtherRegs t l) {f : Fld} (out : f.reg ∉ l) (i j : Nat) : t.fld f i j = s.fld f i j := by
  rw [State.fld, State.fld, h _ i j out]

end

section
variable (s : State)

/-- An event counts in EVR_MIRROR alone. -/
theorem State.event_otherRegs (source code severity : Nat) (c : Option Nat) (pl : List (Nat × Nat × Nat)) :
    s.OtherRegs (s.event source code severity c pl) [.evrMirror] := by
  unfold State.event State.storeEv
  dsimp only
  split
  · split
    · exact .trans (.incFld (f := RegF.evrMirrorSkipped) (.refl s _) (by decide) 1 0 0) (.of_regs rfl _)
    · exact .of_regs rfl _
  · split <;> exact .of_regs rfl _

/-! ### The holdings (spec/15_integrity_records_guarantees.md R417) -/

theorem State.OtherRegs.setHold (s : State) (l : List Reg) (o n v : Nat) : s.OtherRegs (s.setHold o n v) l := .refl s l

theorem State.holdChanged_eq (unit code : Nat) : let t := s.holdChanged unit code
    t = { s with regs := t.regs, hold := t.hold, evr := t.evr } ∧ s.OtherRegs t [.evrMirror] := by
  obtain ⟨r, e, event⟩ := (s.setHold 32 8 (s.holdField 32 8 + 1)).event_eq uCustodian 0x0011 1 none
    [(16, 8, s.holdField 32 8 + 1), (24, 2, unit), (26, 1, code)]
  refine ⟨?_, (State.OtherRegs.setHold s _ 32 8 _).trans (State.event_otherRegs _ _ _ _ _ _)⟩
  rw [State.holdChanged, event]
  rfl

/-- The holdings code of a port changes the holdings, and a record tells of it. -/
theorem State.setLinks_eq (p code : Nat) : let t := s.setLinks p code
    t = { s with regs := t.regs, hold := t.hold, evr := t.evr } ∧ s.OtherRegs t [.evrMirror] := by
  intro t
  simp only [t, State.setLinks]
  split
  · exact ⟨rfl, .refl s _⟩
  · obtain ⟨rest, regs⟩ := (s.setHold 12 4 (setBits (s.holdField 12 4) (2 * p) 2 code)).holdChanged_eq (uPort p) code
    exact ⟨rest, (State.OtherRegs.setHold s _ 12 4 _).trans regs⟩

theorem State.lport_congr {s t : State} (h : t.port = s.port) (p : Nat) : t.lport p = s.lport p := by rw [State.lport, State.lport, h]

theorem State.lport_setLinks (p code q : Nat) : (s.setLinks p code).lport q = s.lport q :=
  State.lport_congr (congrArg State.port (s.setLinks_eq p code).1) q

theorem State.ctx_setLinks (p code : Nat) : (s.setLinks p code).ctx = s.ctx := by rw [(s.setLinks_eq p code).1]

theorem State.lport_event (source code severity : Nat) (c : Option Nat) (pl : List (Nat × Nat × Nat)) (q : Nat) :
    (s.event source code severity c pl).lport q = s.lport q := by
  obtain ⟨r, e, h⟩ := s.event_eq source code severity c pl
  rw [h]
  rfl

theorem State.ctx_event (source code severity : Nat) (c : Option Nat) (pl : List (Nat × Nat × Nat)) :
    (s.event source code severity c pl).ctx = s.ctx := by
  obtain ⟨r, e, h⟩ := s.event_eq source code severity c pl
  rw [h]

/-! ### The lanes that a port shows (R303, R304) -/

theorem State.SameButRegs.lport {s t : State} (h : s.SameButRegs t) (p : Nat) : t.lport p = s.lport p := by rw [h]; rfl

theorem State.syncLanes_regs (p : Nat) : s.SameButRegs (s.syncLanes p) :=
  .overList (fun _ _ => (State.SameButRegs.refl.setFld _ _ _ _).setFld _ _ _ _) _ s

theorem State.syncLanes_otherRegs (p : Nat) : s.OtherRegs (s.syncLanes p) [.lnkLane] := by
  unfold State.syncLanes
  refine State.OtherRegs.overList (fun l t => ?_) _ s
  exact ((State.OtherRegs.refl t _).setFld (by decide) _ _ _).setFld (by decide) _ _ _

theorem State.lport_mapLanes (p n : Nat) :
    (s.mapLanes p n).lport p = { s.lport p with lanes := (s.healthyLanes p).take n, replacing := [] } := by
  rw [State.mapLanes, (State.syncLanes_regs _ p).lport, State.lport_setPort]

theorem State.SameButRegs.afterFree {s t : State} (h : s.free.2.SameButRegs t) : t = { s with regs := t.regs, freeCtr := t.freeCtr } := by
  rw [h]
  rfl

/-- Adapting a lane changes what LNK_LANE shows of it and uses a free value. -/
theorem State.adaptLane_eq (p l : Nat) : let t := s.adaptLane p l
    t = { s with regs := t.regs, freeCtr := t.freeCtr } ∧ s.OtherRegs t [.lnkLane] := by
  intro t
  simp only [t, State.adaptLane]
  split
  · exact ⟨rfl, .refl s _⟩
  · have used : s.OtherRegs s.free.2 [.lnkLane] := .of_regs rfl _
    exact ⟨State.SameButRegs.afterFree (((State.SameButRegs.refl.setFld _ _ _ _).setFld _ _ _ _).setFld _ _ _ _),
      ((used.setFld (by decide) _ _ _).setFld (by decide) _ _ _).setFld (by decide) _ _ _⟩

theorem State.adaptPort_eq (p : Nat) : let t := s.adaptPort p
    t = { s with regs := t.regs, freeCtr := t.freeCtr } ∧ s.OtherRegs t [.lnkLane] :=
  ⟨overList_keeps (fun t : State => t = { s with regs := t.regs, freeCtr := t.freeCtr }) _
      (fun l t h => by rw [(t.adaptLane_eq p l).1, h]) _ s rfl,
    .overList (fun l t => (t.adaptLane_eq p l).2) _ s⟩

theorem State.lport_adaptPort (p q : Nat) : (s.adaptPort p).lport q = s.lport q :=
  State.lport_congr (congrArg State.port (s.adaptPort_eq p).1) q

theorem State.ctx_adaptPort (p : Nat) : (s.adaptPort p).ctx = s.ctx := by rw [(s.adaptPort_eq p).1]

end

end Sys2Proof.Machine
end

section
/-! SUPPORT. Lanes and ports (spec/11_ralda_link.md R302, R304 to R308): what the failure of a lane changes and reports, and the courses that a
port's commands take. -/

namespace Sys2Proof.Machine

/-! ### The bytes of a flit (R310) -/

/-- KIND of a flit. -/
theorem flitKind_flitBytes {kind : Nat} (small : kind < 16) (seq ack : Nat) (nak : Bool) (cr0 cr1 : Nat) (pay : List Byte) :
    flitKind (flitBytes kind seq ack nak cr0 cr1 pay) = kind := by
  have byte : ∀ (x : Nat) (t : List Byte), field (leBytes 2 x ++ t) 0 1 = x % 256 := fun x t => by simp [field, leBytes, leNat]
  simp only [flitKind, flitBytes, List.append_assoc, byte]
  omega

/-- The payload of a flit from byte 8 on. -/
theorem field_flitBytes {pay : List Byte} (fits : pay.length ≤ 304) {o n : Nat} (inside : o + n ≤ pay.length) (kind seq ack : Nat)
    (nak : Bool) (cr0 cr1 : Nat) : field (flitBytes kind seq ack nak cr0 cr1 pay) (8 + o) n = field pay o n := by
  have front : 8 + o - 2 - 2 - 1 - 1 - 2 = o := by omega
  have cut : (pad flitPayload pay).length = 304 := pad_length _ _
  simp only [flitBytes, List.append_assoc]
  rw [field_append_right _ _ (by simp; omega), field_append_right _ _ (by simp; omega), field_append_right _ _ (by simp; omega),
    field_append_right _ _ (by simp; omega), field_append_right _ _ (by simp; omega)]
  simp only [leBytes_length, front]
  rw [field_append_left _ (by omega), pad_eq, show flitPayload = 304 from rfl, List.take_of_length_le fits, field_append_left _ inside]

/-- The bytes of the report of a failed lane (log 120). -/
theorem laneReport_fields {l cause : Nat} (hl : l < 256) (hc : cause < 256) : (laneReport l cause).length = 3 ∧
    field (laneReport l cause) 0 1 = 1 ∧ field (laneReport l cause) 1 1 = l ∧ field (laneReport l cause) 2 1 = cause := by
  simp [laneReport, field, leBytes, leNat, Nat.mod_eq_of_lt hl, Nat.mod_eq_of_lt hc]

/-! ### A lane that fails (R304, R306) -/

theorem State.healthy_of_otherRegs {s t : State} {r : List Reg} (h : s.OtherRegs t r) (out : .lnkSts ∉ r) (p l : Nat) :
    t.healthy p l = s.healthy p l := by
  rw [State.healthy, State.healthy, h.fld out]

/-- A lane dropped from LNK_STS.HEALTHY is not healthy, and every other is as before. -/
theorem State.healthy_drop (s : State) (p l j : Nat) :
    (s.setFld RegF.lnkStsHealthy (setBits (s.fld RegF.lnkStsHealthy p) l 1 0) p).healthy p j = (s.healthy p j && !decide (j = l)) := by
  have width : s.fld RegF.lnkStsHealthy p < 2 ^ 9 := bits_lt _ _ _
  have one : (l ≤ j ∧ j < l + 1) ↔ j = l := by omega
  rw [State.healthy, State.fld_setFld_same, Nat.testBit_mod_two_pow, setBits_zero_testBit, State.healthy]
  simp only [one]
  by_cases small : j < 9
  · simp [small, show RegF.lnkStsHealthy.w = 9 from rfl]
  · have : (s.fld RegF.lnkStsHealthy p).testBit j = false :=
      Nat.testBit_lt_two_pow (Nat.lt_of_lt_of_le width (Nat.pow_le_pow_right (by omega) (by omega)))
    simp [this]

/-- A port of which a lane has failed: an active one waits for its replacement. -/
def Port.lostLane (x : Port) (l : Nat) : Port :=
  { x with replacing := if x.lanes.contains l then x.replacing ++ [l] else x.replacing, badWords := x.badWords.filter (fun b => b.1 != l) }

/-- A healthy lane that fails and is reported: what its port, the lanes and the rest of the state are then. -/
theorem State.failLane_spec {s : State} {p l : Nat} (healthy : s.healthy p l = true) (cause : Nat) : let t := s.failLane p l cause true
    t.lport p = ((s.lport p).sentFlit 2 (laneReport l cause)).lostLane l ∧ (∀ j, t.healthy p j = (s.healthy p j && !decide (j = l))) ∧
      t = { s with regs := t.regs, port := t.port, evr := t.evr } := by
  intro t
  obtain ⟨u, hu⟩ : ∃ u, s.sendSeq p 2 (laneReport l cause) = u := ⟨_, rfl⟩
  obtain ⟨v, hv⟩ : ∃ v, u.setFld RegF.lnkStsHealthy (setBits (u.fld RegF.lnkStsHealthy p) l 1 0) p = v := ⟨_, rfl⟩
  obtain ⟨w, hw⟩ : ∃ w, v.event (uLane p l) 0x0200 2 none [(16, 1, cause)] = w := ⟨_, rfl⟩
  have made : t = (w.setPort p ((w.lport p).lostLane l)).syncLanes p := by
    subst hw hv hu
    exact if_neg (by simp [healthy])
  have sends : s.OnlySends u := hu ▸ .sendSeq ..
  have port : w.lport p = (s.lport p).sentFlit 2 (laneReport l cause) := by
    rw [← hw, State.lport_event, ← hv]
    exact (congrArg (State.lport · p) hu).symm.trans (s.lport_sendSeq ..)
  have shown := State.syncLanes_otherRegs (w.setPort p ((w.lport p).lostLane l)) p
  have same := State.syncLanes_regs (w.setPort p ((w.lport p).lostLane l)) p
  refine ⟨by rw [made, same.lport, State.lport_setPort, port], fun j => ?_, ?_⟩
  · rw [made, State.healthy_of_otherRegs shown (by decide)]
    have event : v.OtherRegs w [.evrMirror] := by rw [← hw]; exact v.event_otherRegs _ _ _ _ _
    have dropped : (w.setPort p ((w.lport p).lostLane l)).healthy p j = v.healthy p j :=
      State.healthy_of_otherRegs (event.trans (.of_regs rfl _)) (by decide) p j
    rw [dropped, ← hv, State.healthy_drop, State.healthy, sends.fld _ _ _ (by decide)]
    rfl
  · obtain ⟨r, e, event⟩ := v.event_eq (uLane p l) 0x0200 2 none [(16, 1, cause)]
    rw [made, same, ← hw, event, ← hv, sends.rest]
    rfl

/-- What was measured of a lane shows in LNK_LANE. -/
theorem State.showMeasure_frame (s : State) (p l : Nat) (cause : LaneFault) :
    s.SameButRegs (s.showMeasure p l cause) ∧ s.OtherRegs (s.showMeasure p l cause) [.lnkLane] := by
  cases cause with
  | errorRatio ber => exact ⟨State.SameButRegs.refl.setFld .., (State.OtherRegs.refl s _).setFld (by decide) _ _ _⟩
  | eye height => exact ⟨State.SameButRegs.refl.setFld .., (State.OtherRegs.refl s _).setFld (by decide) _ _ _⟩
  | codewords => exact ⟨.refl, .refl s _⟩
  | lock => exact ⟨.refl, .refl s _⟩

theorem exec_laneFailed {s : State} {p l : Nat} {cause : LaneFault} (lt : p < 16) (lane : l < 9) (up : s.portUp p = true)
    (measured : s.laneCause p cause = true) :
    exec (.laneFailed p l cause) s = .next ((s.showMeasure p l cause).failLane p l (causeCode cause) true) := by
  show execLaneFailed p l cause s = _
  rw [execLaneFailed, if_neg (by simp [lt, lane, up, measured])]

theorem exec_laneFailed_sound {s : State} {p : Nat} {cause : LaneFault} (sound : s.laneCause p cause = false) (l : Nat) :
    exec (.laneFailed p l cause) s = .next s := by
  show execLaneFailed p l cause s = _
  rw [execLaneFailed, if_pos (by simp [sound])]

/-- LANE_FAILED of a healthy lane of a port that is up: the lane is no longer healthy, an active one waits for its replacement, and a control
flit reports it to the peer. -/
theorem laneFailed_spec {s : State} {p l : Nat} {cause : LaneFault} (lt : p < 16) (lane : l < 9) (up : s.portUp p = true)
    (healthy : s.healthy p l = true) (measured : s.laneCause p cause = true) : ∃ t : State,
    exec (.laneFailed p l cause) s = .next t ∧ t.healthy p l = false ∧ (∀ j, j < 9 → j ≠ l → t.healthy p j = s.healthy p j) ∧
      (t.lport p).lanes = (s.lport p).lanes ∧
      (l ∈ (s.lport p).lanes → (t.lport p).replacing = (s.lport p).replacing ++ [l]) ∧
      (∃ f, (t.lport p).flits = (s.lport p).flits ++ [f] ∧ field f 0 1 % 16 = 3 ∧ field f 8 1 = 1 ∧ field f 9 1 = l ∧
        field f 10 1 = causeCode cause) ∧
      t.ctx = s.ctx ∧ t.hold = s.hold := by
  obtain ⟨same, shown⟩ := s.showMeasure_frame p l cause
  have still (j : Nat) : (s.showMeasure p l cause).healthy p j = s.healthy p j := State.healthy_of_otherRegs shown (by decide) p j
  obtain ⟨port, dropped, rest⟩ := State.failLane_spec ((still l).trans healthy) (causeCode cause)
  rw [same.lport] at port
  have code : causeCode cause < 256 := by cases cause <;> simp [causeCode]
  obtain ⟨long, one, which, why⟩ := laneReport_fields (show l < 256 by omega) code
  have byte {o : Nat} (inside : o < 3) := field_flitBytes (o := o) (n := 1) (show (laneReport l (causeCode cause)).length ≤ 304 by omega)
    (by omega) 3 (s.lport p).txSeq (s.lport p).rxSeq (s.lport p).discard (min 255 (s.lport p).owe0) (min 15 (s.lport p).owe1)
  refine ⟨_, exec_laneFailed lt lane up measured, by simp [dropped], fun j _ other => by simp [dropped, still, other], by rw [port]; rfl,
    fun active => by rw [port]; exact if_pos (List.contains_iff_mem.2 active),
    ⟨(s.lport p).nextFlit 2 (laneReport l (causeCode cause)), by rw [port]; rfl, flitKind_flitBytes (by omega) ..,
      (byte (o := 0) (by omega)).trans one, (byte (o := 1) (by omega)).trans which, (byte (o := 2) (by omega)).trans why⟩, ?_, ?_⟩
  · rw [rest, same]
  · rw [rest, same]

theorem exec_laneReplacementComplete {s : State} {p old new : Nat} {rest more : List Nat} (waits : (s.lport p).replacing = old :: rest)
    (idle : s.idleLanes p = new :: more) (up : s.portUp p = true) (spare : s.fld RegF.lnkCfgSpareEn p = 1) :
    exec (.laneReplacementComplete p) s = .next ((((s.setPort p { s.lport p with
      lanes := (s.lport p).lanes.map (fun l => if l = old then new else l), replacing := rest }).incFld RegF.lnkErrSpares 1 p).syncLanes p).pump
        p) := by
  show execLaneReplacementComplete p s = _
  simp only [execLaneReplacementComplete, waits, idle]
  rw [if_neg (by simp [up, State.flag, spare])]

/-! ### Half width, and a port that goes down (R307, R308) -/

theorem exec_lnkIsolate {s : State} (p : Nat) (ready : s.ready = true) : exec (.lnkIsolate p) s = .next (s.isolatePort p) := by
  show execLnkIsolate p s = _
  rw [execLnkIsolate, if_pos ready]

theorem exec_not_ready {s : State} (p : Nat) (notReady : s.ready = false) :
    exec (.lnkIsolate p) s = .next s ∧ exec (.release p) s = .next s ∧ exec (.retrain p) s = .next s := by
  refine ⟨?_, ?_, ?_⟩
  · show execLnkIsolate p s = _
    rw [execLnkIsolate, if_neg (by simp [notReady])]
  · show execRelease p s = _
    rw [execRelease, if_pos (by simp [notReady])]
  · show execRetrain p s = _
    rw [execRetrain, if_pos (by simp [notReady])]

section
variable {s : State} {p : Nat} (lt : p < 16)
include lt

theorem exec_portHalf (short : s.laneShort p = true) (can : s.canHalf p = true) : exec (.portHalf p) s =
    let u := (((s.setFld RegF.lnkStsState 3 p).mapLanes p 4).event (uPort p) 0x0201 2 none []).setLinks p 1
    let ts := (u.portTasks p ++ (u.mcastsOn p).map (fun m => (m.1, m.2.1))).filter (fun y => !((u.cert y.1).halfPorts.contains p))
    .next ((ts.foldl (fun v y => v.abortTask y.1 y.2 .linkDegraded (v.portDetail p)) (u.pump p)).settle) := by
  show execPortHalf p s = _
  rw [execPortHalf, if_neg (by simp [lt, short, can])]
  rfl

theorem exec_release (isolated : (s.lport p).isolated = true) (ready : s.ready = true) :
    exec (.release p) s = .next ((s.setPort p { s.lport p with isolated := false }).setFld RegF.lnkStsState 1 p) := by
  show execRelease p s = _
  rw [execRelease, if_neg (by simp [lt, isolated, ready])]

variable (free : (s.lport p).isolated = false) (ready : s.ready = true)

section
variable (up : s.portUp p = true)
include up

theorem exec_portDown {reason : Nat} (cause : reason = 1 ∧ s.laneShort p = true ∧ s.canHalf p = false ∨
    reason = 2 ∧ max 1 (s.eff RegF.lnkCfgRetryLimit p) ≤ (s.lport p).replays ∨ reason = 3) :
    exec (.portDown p reason) s = .next (s.portLost p reason false) := by
  show execPortDown p reason s = _
  rcases cause with ⟨rfl, short, half⟩ | ⟨rfl, limit⟩ | rfl
  · rw [execPortDown, if_neg (by simp [lt, up, short, half])]
  · rw [execPortDown, if_neg (by simpa [lt, up] using limit)]
  · rw [execPortDown, if_neg (by simp [lt, up])]

theorem exec_linkSilenceTimeout : exec (.linkSilenceTimeout p) s = .next (s.portLost p 3 false) := by
  show execLinkSilenceTimeout p s = _
  rw [execLinkSilenceTimeout, if_neg (by simp [lt, up])]

include free ready

theorem exec_lnkIsolate_up : exec (.lnkIsolate p) s = .next (s.portLost p 6 true) := by
  rw [exec_lnkIsolate p ready, State.isolatePort, if_neg (by simp [lt, free]), if_pos up]

theorem exec_retrain_up : exec (.retrain p) s = .next (s.portLost p 0 false) := by
  show execRetrain p s = _
  rw [execRetrain, if_neg (by simp [lt, free, ready]), if_pos up]

end

variable (down : s.portUp p = false)
include free ready down

theorem exec_lnkIsolate_down : exec (.lnkIsolate p) s =
    .next (((s.setPort p { s.lport p with isolated := true }).setFld RegF.lnkStsState 4 p).setFld RegF.lnkStsReason 6 p) := by
  rw [exec_lnkIsolate p ready, State.isolatePort, if_neg (by simp [lt, free]), if_neg (by simp [down])]

theorem exec_retrain_down : exec (.retrain p) s = .next (s.setFld RegF.lnkStsState 1 p) := by
  show execRetrain p s = _
  rw [execRetrain, if_neg (by simp [lt, free, ready]), if_neg (by simp [down])]

end

/-- STATE and REASON of LNK_STS as they are set one after the other. -/
theorem State.setState_setReason (s : State) (p st reason : Nat) :
    let t := (s.setFld RegF.lnkStsState st p).setFld RegF.lnkStsReason reason p
    t.fld RegF.lnkStsState p = st % 8 ∧ t.fld RegF.lnkStsReason p = reason % 8 := by
  refine ⟨?_, State.fld_setFld_same ..⟩
  rw [State.fld_setFld_beside _ RegF.lnkStsReason RegF.lnkStsState _ _ _ rfl (by decide), State.fld_setFld_same]
  rfl

/-! ### A port that has trained (R302, R305) -/

/-- Everything but link ports and the registers of BAR0 is in t as in s. -/
def State.SameButPorts (s t : State) : Prop := t = { s with port := t.port, regs := t.regs }

section
variable {s t u : State}

theorem State.SameButPorts.trans (h : s.SameButPorts t) (h' : t.SameButPorts u) : s.SameButPorts u := by
  unfold State.SameButPorts at *
  rw [h', h]

theorem State.SameButRegs.sameButPorts (h : s.SameButRegs t) : s.SameButPorts t := by
  unfold State.SameButPorts
  rw [h]

theorem State.fld_setPort (s : State) (p : Nat) (x : Port) (f : Fld) (i j : Nat) : (s.setPort p x).fld f i j = s.fld f i j := rfl

theorem State.healthyLanes_setPort (s : State) (p : Nat) (x : Port) (q : Nat) : (s.setPort p x).healthyLanes q = s.healthyLanes q := rfl

theorem State.OtherRegs.setPort (s : State) (l : List Reg) (p : Nat) (x : Port) : s.OtherRegs (s.setPort p x) l := .refl s l

theorem State.SameButPorts.setPort (s : State) (p : Nat) (x : Port) : s.SameButPorts (s.setPort p x) := rfl

end

/-- The set-up of a port whose training ends: its healthy lanes and its peer show. -/
def State.showTrained (s : State) (p : Nat) (h : BitVec 9) (dev prt : Nat) : State :=
  (((s.setFld RegF.lnkStsHealthy h.toNat p).setFld RegF.lnkStsPeerDev dev p).setFld RegF.lnkStsPeerPort prt p).setFld RegF.lnkStsPeerValid 1 p

/-- A port whose training ends: what was in flight is lost, and no lane has a place yet. -/
def State.trained (s : State) (p : Nat) (h : BitVec 9) (dev prt : Nat) : State :=
  let u := s.showTrained p h dev prt
  u.setPort p { (u.lport p).lost with lanes := [] }

/-- The lanes and the counts of a trained port that comes up at a width of w lanes. -/
def State.startPort (s : State) (p w : Nat) : State :=
  let u := (s.mapLanes p w).adaptPort p
  u.setPort p { u.lport p with txSeq := 0, rxSeq := 4095, cr0 := 512, cr1 := 32 }

/-- A trained port comes up at a width of w lanes: its state, a record of it, and the holdings. -/
def State.comesUp (s : State) (p w : Nat) : State :=
  (((s.startPort p w).setFld RegF.lnkStsState (if w = 8 then 2 else 3) p).event (uPort p) 0x0203 1 none [(16, 1, w)]).setLinks p
    (if w = 8 then 2 else 1)

/-- The lanes of a bit set. -/
def lanesOf (h : BitVec 9) : List Nat := (List.range 9).filter (fun l => h.getLsbD l)

section
variable (s : State) (p : Nat) (h : BitVec 9) (dev prt : Nat)

theorem State.showTrained_regs : s.SameButRegs (s.showTrained p h dev prt) :=
  (((State.SameButRegs.refl.setFld _ _ _ _).setFld _ _ _ _).setFld _ _ _ _).setFld _ _ _ _

theorem State.showTrained_otherRegs : s.OtherRegs (s.showTrained p h dev prt) [.lnkSts] :=
  ((((State.OtherRegs.refl s _).setFld (by decide) _ _ _).setFld (by decide) _ _ _).setFld (by decide) _ _ _).setFld (by decide) _ _ _

theorem State.showTrained_fields : let t := s.showTrained p h dev prt
    t.fld RegF.lnkStsHealthy p = h.toNat ∧ t.fld RegF.lnkStsPeerDev p = dev % 2 ^ 16 := by
  have above (g : Fld) (sts : g.reg = .lnkSts) (low : g.lo + g.w ≤ 48) (u : State) (v w : Nat) :
      ((u.setFld RegF.lnkStsPeerPort v p).setFld RegF.lnkStsPeerValid w p).fld g p = u.fld g p := by
    rw [State.fld_setFld_beside _ _ g _ _ _ sts (.inl (low.trans (by decide))),
      State.fld_setFld_beside _ _ g _ _ _ sts (.inl (low.trans (by decide)))]
  refine ⟨?_, ?_⟩
  · rw [State.showTrained, above _ rfl (by decide),
      State.fld_setFld_beside _ RegF.lnkStsPeerDev RegF.lnkStsHealthy _ _ _ rfl (by decide), State.fld_setFld_same]
    exact Nat.mod_eq_of_lt h.isLt
  · rw [State.showTrained, above _ rfl (by decide), State.fld_setFld_same]
    rfl

theorem State.trained_ports : s.SameButPorts (s.trained p h dev prt) :=
  (s.showTrained_regs p h dev prt).sameButPorts.trans (.setPort _ p _)

theorem State.trained_otherRegs : s.OtherRegs (s.trained p h dev prt) [.lnkSts] :=
  (s.showTrained_otherRegs p h dev prt).trans (.setPort _ _ p _)

theorem State.showTrained_healthyLanes : (s.showTrained p h dev prt).healthyLanes p = lanesOf h := by
  obtain ⟨healthy, -⟩ := s.showTrained_fields p h dev prt
  exact List.filter_congr fun l _ => by rw [State.healthy, healthy]; rfl

theorem State.trained_healthyLanes : (s.trained p h dev prt).healthyLanes p = lanesOf h := by
  rw [State.trained, State.healthyLanes_setPort, State.showTrained_healthyLanes]

theorem State.trained_peerDev : (s.trained p h dev prt).fld RegF.lnkStsPeerDev p = dev % 2 ^ 16 := by
  rw [State.trained, State.fld_setPort, (s.showTrained_fields p h dev prt).2]

/-- A trained port that stays down shows why, and nothing but ports and registers changes. -/
theorem State.staysDown_spec (reason : Nat) : let t := ((s.trained p h dev prt).staysDown p reason).syncLanes p
    s.SameButPorts t ∧ t.fld RegF.lnkStsState p = 0 ∧ t.fld RegF.lnkStsReason p = reason % 8 := by
  intro t
  have shows : (s.trained p h dev prt).SameButRegs ((s.trained p h dev prt).staysDown p reason) :=
    (State.SameButRegs.refl.setFld _ _ _ _).setFld _ _ _ _
  obtain ⟨st, why⟩ := (s.trained p h dev prt).setState_setReason p 0 reason
  have shown := State.syncLanes_otherRegs ((s.trained p h dev prt).staysDown p reason) p
  exact ⟨(s.trained_ports p h dev prt).trans (shows.trans (State.syncLanes_regs _ p)).sameButPorts, (shown.fld (by decide) p 0).trans st,
    (shown.fld (by decide) p 0).trans why⟩

theorem State.lport_startPort (w : Nat) : (s.startPort p w).lport p =
    { s.lport p with lanes := (s.healthyLanes p).take w, replacing := [], txSeq := 0, rxSeq := 4095, cr0 := 512, cr1 := 32 } := by
  rw [State.startPort, State.lport_setPort, State.lport_adaptPort, State.lport_mapLanes]

theorem State.startPort_otherRegs (w : Nat) : s.OtherRegs (s.startPort p w) [.lnkLane] :=
  have maps : s.OtherRegs (s.mapLanes p w) [.lnkLane] := (State.OtherRegs.setPort s _ p _).trans (State.syncLanes_otherRegs _ p)
  (maps.trans (State.adaptPort_eq _ p).2).trans (.setPort _ _ p _)

theorem State.ctx_startPort (w : Nat) : (s.startPort p w).ctx = s.ctx := by
  have maps : (s.mapLanes p w).ctx = s.ctx := (State.syncLanes_regs _ p).ctx
  rw [State.startPort, State.setPort_ctx, State.ctx_adaptPort, maps]

/-- A port that comes up at a width has that many of its lowest healthy lanes in order, the first sequence number and the credits of its
peer's buffers; its peer's number and the contexts are as before. -/
theorem State.comesUp_spec (w : Nat) : let t := s.comesUp p w
    t.fld RegF.lnkStsState p = (if w = 8 then 2 else 3) ∧ (t.lport p).lanes = (s.healthyLanes p).take w ∧ (t.lport p).txSeq = 0 ∧
      (t.lport p).cr0 = 512 ∧ (t.lport p).cr1 = 32 ∧ t.fld RegF.lnkStsPeerDev p = s.fld RegF.lnkStsPeerDev p ∧ t.ctx = s.ctx := by
  intro t
  have told : ((s.startPort p w).setFld RegF.lnkStsState (if w = 8 then 2 else 3) p).OtherRegs t [.evrMirror] :=
    .trans (State.event_otherRegs _ _ _ _ _ _) (State.setLinks_eq _ _ _).2
  have port : t.lport p = (s.startPort p w).lport p := by
    simp only [t, State.comesUp, State.lport_setLinks, State.lport_event]
    rfl
  rw [State.lport_startPort] at port
  refine ⟨?_, by rw [port], by rw [port], by rw [port], by rw [port], ?_, ?_⟩
  · rw [told.fld (by decide), State.fld_setFld_same]
    split <;> rfl
  · rw [told.fld (by decide), State.fld_setFld_beside _ RegF.lnkStsState RegF.lnkStsPeerDev _ _ _ rfl (by decide),
      (s.startPort_otherRegs p w).fld (by decide)]
  · simp only [t, State.comesUp, State.ctx_setLinks, State.ctx_event, State.setFld_ctx, State.ctx_startPort]

end

section
variable {s : State} {p : Nat} (lt : p < 16) (boot : s.bootState = 3 ∨ s.bootState = 4) (started : s.boot.started = true)
  (wing : s.ready = true → s.hasWing (p / 4) = true) (free : (s.lport p).isolated = false) (down : s.portUp p = false)
  (h : BitVec 9) (dev prt gen rtt : Nat)
include lt boot started wing free down

theorem exec_portUp : exec (.portUp p h dev prt gen rtt) s =
    let u := s.trained p h dev prt
    let n := ((s.showTrained p h dev prt).healthyLanes p).length
    if n < 4 ∨ (n < 8 ∧ ¬ u.flag RegF.lnkCfgHalfEn p) then .next ((u.staysDown p 1).syncLanes p)
    else if 700 < rtt then .next ((u.staysDown p 4).syncLanes p)
    else if gen ≠ u.fuse.generation then .next ((u.staysDown p 5).syncLanes p)
    else .next (u.comesUp p (if 8 ≤ n then 8 else 4)).settle := by
  have may : ¬ (16 ≤ p ∨ s.bootState < 3 ∨ 4 < s.bootState ∨ ¬ s.boot.started ∨ (s.ready ∧ ¬ s.hasWing (p / 4)) ∨
      (s.lport p).isolated ∨ s.portUp p) := by
    simp only [started, free, down, not_true, Bool.false_eq_true, false_or, or_false, not_or, not_and, not_not]
    exact ⟨by omega, by omega, by omega, wing⟩
  exact if_neg may

/-- What PORT_UP does, by the healthy lanes, the round trip and the peer's generation. -/
theorem exec_portUp_cases {n : Nat} (lanes : (lanesOf h).length = n) : exec (.portUp p h dev prt gen rtt) s =
    let u := s.trained p h dev prt
    if n < 4 ∨ (n < 8 ∧ s.fld RegF.lnkCfgHalfEn p ≠ 1) then .next ((u.staysDown p 1).syncLanes p)
    else if 700 < rtt then .next ((u.staysDown p 4).syncLanes p)
    else if gen ≠ s.fuse.generation then .next ((u.staysDown p 5).syncLanes p)
    else .next (u.comesUp p (if 8 ≤ n then 8 else 4)).settle := by
  have half : (s.trained p h dev prt).flag RegF.lnkCfgHalfEn p = true ↔ s.fld RegF.lnkCfgHalfEn p = 1 := by
    rw [State.flag, (s.trained_otherRegs p h dev prt).fld (by decide), beq_iff_eq]
  have fuse : (s.trained p h dev prt).fuse = s.fuse := by rw [s.trained_ports p h dev prt]
  rw [exec_portUp lt boot started wing free down h dev prt gen rtt, s.showTrained_healthyLanes p h dev prt, lanes]
  simp only [half, fuse, ne_eq]

variable {h}

/-- A port with enough healthy lanes for a width, a near peer and a peer of its own generation comes up at that width. -/
theorem portUp_comesUp {n : Nat} (lanes : (lanesOf h).length = n) (width : 8 ≤ n ∨ 4 ≤ n ∧ s.fld RegF.lnkCfgHalfEn p = 1)
    (near : rtt ≤ 700) (same : gen = s.fuse.generation) : let w := if 8 ≤ n then 8 else 4
    ∃ t : State, exec (.portUp p h dev prt gen rtt) s = .next t.settle ∧ t.fld RegF.lnkStsState p = (if w = 8 then 2 else 3) ∧
      (t.lport p).lanes = (lanesOf h).take w ∧ (t.lport p).txSeq = 0 ∧ (t.lport p).cr0 = 512 ∧ (t.lport p).cr1 = 32 ∧
      t.fld RegF.lnkStsPeerDev p = dev % 2 ^ 16 ∧ t.ctx = s.ctx := by
  intro w
  obtain ⟨up, first, seq, tc0, tc1, peer, ctx⟩ := (s.trained p h dev prt).comesUp_spec p w
  have wide : ¬ (n < 4 ∨ (n < 8 ∧ s.fld RegF.lnkCfgHalfEn p ≠ 1)) := by omega
  refine ⟨_, ?_, up, first.trans (congrArg (List.take w) (s.trained_healthyLanes p h dev prt)), seq, tc0, tc1,
    peer.trans (s.trained_peerDev p h dev prt), ctx.trans (by rw [s.trained_ports p h dev prt])⟩
  rw [exec_portUp_cases lt boot started wing free down h dev prt gen rtt lanes, if_neg wide, if_neg (by omega), if_neg (by simp [same])]

/-- A trained port stays down: too few lanes for its widths (1), a peer that is too far (4) or of another generation (5). -/
theorem portUp_staysDown {n reason : Nat} (lanes : (lanesOf h).length = n)
    (why : (n < 4 ∨ n < 8 ∧ s.fld RegF.lnkCfgHalfEn p = 0) ∧ reason = 1 ∨ 8 ≤ n ∧ 700 < rtt ∧ reason = 4 ∨
      (8 ≤ n ∨ 4 ≤ n ∧ s.fld RegF.lnkCfgHalfEn p = 1) ∧ rtt ≤ 700 ∧ gen ≠ s.fuse.generation ∧ reason = 5) :
    ∃ t : State, exec (.portUp p h dev prt gen rtt) s = .next t ∧ t = { s with port := t.port, regs := t.regs } ∧
      t.fld RegF.lnkStsState p = 0 ∧ t.fld RegF.lnkStsReason p = reason := by
  obtain ⟨ports, st, shown⟩ := s.staysDown_spec p h dev prt reason
  rw [Nat.mod_eq_of_lt (by omega)] at shown
  refine ⟨_, ?_, ports, st, shown⟩
  rw [exec_portUp_cases lt boot started wing free down h dev prt gen rtt lanes]
  rcases why with ⟨few, rfl⟩ | ⟨full, far, rfl⟩ | ⟨width, near, other, rfl⟩
  · rw [if_pos (by omega)]
  · rw [if_neg (by omega), if_pos far]
  · rw [if_neg (by omega), if_neg (by omega), if_pos other]

end

/-- Settles O46: each course of a lane or a port by the lemma of its command. -/
theorem lanesAndPorts : Obligations.LanesAndPorts := by
  intro s p lt x
  refine ⟨fun l cause n lane up healthy why => ?_,
    fun l ber h sound wide => ⟨exec_laneFailed_sound (by simpa [State.laneCause] using sound) l,
      exec_laneFailed_sound (by simpa [State.laneCause] using wide) l⟩,
    fun old rest new more waits idle up spare => exec_laneReplacementComplete waits idle up spare,
    fun short can => ⟨exec_portHalf lt short can, ?_⟩, fun up => ⟨fun short half => exec_portDown lt up (.inl ⟨rfl, short, half⟩),
      fun limit => exec_portDown lt up (.inr (.inl ⟨rfl, limit⟩)), exec_portDown lt up (.inr (.inr rfl)), exec_linkSilenceTimeout lt up,
      fun free ready => exec_lnkIsolate_up lt free ready up, fun free ready => exec_retrain_up lt free ready up⟩,
    exec_not_ready p, fun down free => ⟨fun ready => ?_, fun ready => exec_retrain_down lt free ready down⟩,
    fun isolated ready => exec_release lt isolated ready, fun h dev prt gen rtt boot started wing free down => ?_⟩
  · have measured : s.laneCause p cause = true ∧ causeCode cause = n := by
      rcases why with ⟨ber, rfl, bad, rfl⟩ | ⟨rfl, rfl⟩ | ⟨rfl, rfl⟩ | ⟨height, rfl, bad, rfl⟩
      · exact ⟨decide_eq_true bad, rfl⟩
      · exact ⟨rfl, rfl⟩
      · exact ⟨rfl, rfl⟩
      · exact ⟨decide_eq_true bad, rfl⟩
    rw [← measured.2]
    exact laneFailed_spec lt lane up healthy measured.1
  · rw [State.lport_setLinks, State.lport_event, State.lport_mapLanes]
  · rw [exec_lnkIsolate_down lt free ready down]
    obtain ⟨st, why⟩ := (s.setPort p { s.lport p with isolated := true }).setState_setReason p 4 6
    refine ⟨_, rfl, ((State.SameButPorts.setPort s p _).trans ((State.SameButRegs.refl.setFld _ _ _ _).setFld _ _ _ _).sameButPorts), ?_,
      st, why⟩
    exact congrArg Port.isolated (s.lport_setPort p _)
  · intro n
    have comes := portUp_comesUp lt boot started wing free down dev prt gen rtt (h := h) (n := n) rfl
    have stays {reason : Nat} := portUp_staysDown lt boot started wing free down dev prt gen rtt (h := h) (n := n) (reason := reason) rfl
    refine ⟨fun full near same => ?_, fun some' short half near same => ?_,
      fun some' short half => stays (.inl ⟨.inr ⟨short, half⟩, rfl⟩),
      fun width near other => stays (.inr (.inr ⟨width, near, other, rfl⟩)), fun full far => stays (.inr (.inl ⟨full, far, rfl⟩)),
      fun few => stays (.inl ⟨.inl few, rfl⟩)⟩
    · have up := comes (.inl full) near same
      rw [if_pos full] at up
      exact up
    · have up := comes (.inr ⟨some', half⟩) near same
      rw [if_neg (by omega)] at up
      exact up

end Sys2Proof.Machine
end

section
/-! SUPPORT. The idle tick (spec/11_ralda_link.md R303, R325, spec/14_clocks_power_condition.md R381, R391): what it counts, what it adapts, and
what it leaves as it was. -/

namespace Sys2Proof.Machine

/-! ### Counters of cycles (log 100) -/

/-- A counter of cycles: its field, and what does not make a unit. -/
def State.counter (s : State) (f : Fld) (i j : Nat) : Nat × Nat := (s.fld f i j, Tbl.get 0 s.accs (cycKey f i j))

/-- A counter of w bits that has taken in q eighths of cycles, where it counts. -/
def countedCycles (w q : Nat) (counts : Bool) (c : Nat × Nat) : Nat × Nat :=
  if counts then (satAdd w c.1 ((c.2 + q) / 8192), (c.2 + q) % 8192) else c

theorem State.counter_counted {s t : State} {f : Fld} {w q i : Nat} {counts : Bool}
    (h : t.counter f i 0 = countedCycles w q counts (s.counter f i 0)) : let n := Tbl.get 0 s.accs (cycKey f i 0) + q
    t.fld f i = (if counts then satAdd w (s.fld f i) (n / 8192) else s.fld f i) ∧
      Tbl.get 0 t.accs (cycKey f i 0) = if counts then n % 8192 else Tbl.get 0 s.accs (cycKey f i 0) := by
  cases counts <;> exact ⟨congrArg Prod.fst h, congrArg Prod.snd h⟩

/-- Counters of different registers keep their remainders apart. -/
theorem cycKey_ne {f g : Fld} (hf : f.lo < 64) (hg : g.lo < 64) {i j i' j' : Nat} (other : g.reg ≠ f.reg ∨ i' ≠ i) :
    cycKey g i' j' ≠ cycKey f i j := fun h => by
  unfold cycKey at h
  obtain ⟨reg, row, -⟩ := Reg.key_inj _ _ _ _ _ _ (show g.reg.key i' j' = f.reg.key i j by omega)
  exact other.elim (· reg) (· row)

section
variable (s : State) (f : Fld) (q i j : Nat)

theorem State.counter_addCycles : (s.addCycles f q i j).counter f i j = countedCycles f.w q true (s.counter f i j) := by
  have room : satAdd f.w (s.fld f i j) ((Tbl.get 0 s.accs (cycKey f i j) + q) / 8192) < 2 ^ f.w := by
    have := Nat.two_pow_pos f.w
    rw [satAdd_eq_min]
    omega
  refine Prod.ext ?_ (Tbl.get_set_same 0 s.accs _ _)
  exact (State.fld_setFld_same ..).trans (Nat.mod_eq_of_lt room)

theorem State.counter_addCycles_other {g : Fld} (hf : f.lo < 64) (hg : g.lo < 64) {i' : Nat} (other : g.reg ≠ f.reg ∨ i' ≠ i) (j' : Nat) :
    (s.addCycles f q i j).counter g i' j' = s.counter g i' j' := by
  refine Prod.ext ?_ (Tbl.get_set_other 0 0 s.accs _ _ _ (cycKey_ne hf hg other))
  refine State.fld_setFld_other _ f g _ i j i' j' fun h => ?_
  obtain ⟨reg, row, -⟩ := Reg.key_inj _ _ _ _ _ _ h
  exact other.elim (· reg) (· row)

end

section
variable {α β : Type} {g : State → β} {f : α → State → State} {x : α} (keeps : ∀ y t, y ≠ x → g (f y t) = g t)
include keeps

theorem overList_apart : ∀ {l : List α}, x ∉ l → ∀ s, g (overList l f s) = g s
  | [], _, _ => rfl
  | y :: l, out, s => by
    rw [overList_cons, overList_apart fun h => out (List.mem_cons_of_mem y h), keeps y s fun same => out (same ▸ List.mem_cons_self ..)]

/-- Where one element of a list without repeats changes a view of the state, the whole list changes it so. -/
theorem overList_once {F : β → β} (changes : ∀ t, g (f x t) = F (g t)) :
    ∀ {l : List α}, l.Nodup → x ∈ l → ∀ s, g (overList l f s) = F (g s)
  | y :: l, fresh, inside, s => by
    obtain ⟨new, fresh⟩ := List.nodup_cons.1 fresh
    rw [overList_cons]
    by_cases same : y = x
    · subst same
      rw [overList_apart keeps new, changes]
    · rw [overList_once changes fresh ((List.mem_cons.1 inside).resolve_left (Ne.symm same)), keeps y s same]

end

/-- Only registers of a list, the remainders of cycle counters and the use of free values differ. -/
structure State.OnlyTicks (s t : State) (l : List Reg) : Prop where
  rest : t = { s with regs := t.regs, accs := t.accs, freeCtr := t.freeCtr }
  regs : s.OtherRegs t l

section
variable {s t u : State} {l : List Reg}

theorem State.OnlyTicks.refl : s.OnlyTicks s l := ⟨rfl, .refl s l⟩

theorem State.OnlyTicks.trans (h : s.OnlyTicks t l) (h' : t.OnlyTicks u l) : s.OnlyTicks u l :=
  ⟨by rw [h'.rest, h.rest], h.regs.trans h'.regs⟩

theorem State.OnlyTicks.addCycles {f : Fld} (inside : f.reg ∈ l) (q i j : Nat) : s.OnlyTicks (s.addCycles f q i j) l :=
  ⟨rfl, State.OtherRegs.incFld (.of_regs rfl l) inside _ i j⟩

theorem State.OnlyTicks.overList {α : Type} {f : α → State → State} (hf : ∀ x t, State.OnlyTicks t (f x t) l) (m : List α) (s : State) :
    s.OnlyTicks (overList m f s) l :=
  overList_keeps (fun t => s.OnlyTicks t l) f (fun x t h => h.trans (hf x t)) m s .refl

end

/-! ### The waits of a tick -/

/-- What a tick counts of a stream's waits. -/
def State.countStream (s : State) (u : Nat) (t : State) : State :=
  if s.waitsMark u then t.addCycles RegF.wingStrmCntMarkWait (s.eighths (u / 128)) (u / 128) (u % 128)
  else if s.waitsFill u then t.addCycles RegF.wingStrmCntFillWait (s.eighths (u / 128)) (u / 128) (u % 128) else t

/-- A wing's out-streams wait on a push. -/
def State.wingPushWaits (s : State) (w : Nat) : Bool := (s.strm.map (fun u => u.1)).any (fun u => u / 128 == w && s.waitsPush u)

/-- A wing's counter takes in q eighths of cycles where it counts. -/
def State.countIf (s : State) (counts : Bool) (f : Fld) (q w : Nat) : State := if counts then s.addCycles f q w else s

/-- What a tick counts of a wing's waits. -/
def State.countWing (s : State) (w : Nat) (t : State) : State :=
  (t.countIf (s.wingPushWaits w) RegF.wingDepWaitPushWait (s.eighths w) w).countIf (s.idlesLate w) RegF.wingLateTileIdle (s.eighths w) w

theorem State.countWaits_eq (s : State) :
    s.countWaits = overList (List.range 4) s.countWing (overList (s.strm.map (fun u => u.1)) s.countStream s) := rfl

/-- The registers that a tick may write: those of the wait counters, and what the lanes of ports measure. -/
def tickRegs : List Reg := [.wingStrmCnt, .wingDepWait, .wingLateTile, .lnkLane]

section
variable (s : State)

theorem State.counter_countIf (counts : Bool) (f : Fld) (q w : Nat) :
    (s.countIf counts f q w).counter f w 0 = countedCycles f.w q counts (s.counter f w 0) := by
  cases counts
  · rfl
  · exact s.counter_addCycles f q w 0

theorem State.counter_countIf_other (counts : Bool) {f g : Fld} (hf : f.lo < 64) (hg : g.lo < 64) (q : Nat) {w v : Nat}
    (other : g.reg ≠ f.reg ∨ v ≠ w) : (s.countIf counts f q w).counter g v 0 = s.counter g v 0 := by
  cases counts
  · rfl
  · exact s.counter_addCycles_other f q w 0 hf hg other 0

theorem State.OnlyTicks.countIf (counts : Bool) {f : Fld} {l : List Reg} (inside : f.reg ∈ l) (q w : Nat) :
    s.OnlyTicks (s.countIf counts f q w) l := by
  cases counts
  · exact .refl
  · exact .addCycles inside q w 0

variable (u w : Nat) (t : State)

theorem State.countStream_onlyTicks : t.OnlyTicks (s.countStream u t) tickRegs := by
  unfold State.countStream
  split
  · exact .addCycles (by decide) _ _ _
  · split
    · exact .addCycles (by decide) _ _ _
    · exact .refl

theorem State.countWing_onlyTicks : t.OnlyTicks (s.countWing w t) tickRegs :=
  (State.OnlyTicks.countIf t _ (by decide) _ _).trans (.countIf _ _ (by decide) _ _)

/-- A tick counts the waits of streams and wings in their counters alone. -/
theorem State.countWaits_onlyTicks : s.OnlyTicks s.countWaits tickRegs :=
  (State.OnlyTicks.overList s.countStream_onlyTicks _ s).trans (.overList s.countWing_onlyTicks _ _)

theorem State.counter_countStream {g : Fld} (hg : g.lo < 64) (other : g.reg ≠ .wingStrmCnt) (i : Nat) :
    (s.countStream u t).counter g i 0 = t.counter g i 0 := by
  unfold State.countStream
  split
  · exact State.counter_addCycles_other t _ _ _ _ (by decide) hg (.inl other) 0
  · split
    · exact State.counter_addCycles_other t _ _ _ _ (by decide) hg (.inl other) 0
    · rfl

theorem State.counter_countWing_other {g : Fld} (hg : g.lo < 64) {v : Nat}
    (other : (g.reg ≠ .wingDepWait ∧ g.reg ≠ .wingLateTile) ∨ v ≠ w) : (s.countWing w t).counter g v 0 = t.counter g v 0 := by
  rw [State.countWing, State.counter_countIf_other _ _ (by decide) hg _ (other.imp_left (·.2)),
    State.counter_countIf_other _ _ (by decide) hg _ (other.imp_left (·.1))]

theorem State.counter_countWing_pushWait : (s.countWing w t).counter RegF.wingDepWaitPushWait w 0 =
    countedCycles 32 (s.eighths w) (s.wingPushWaits w) (t.counter RegF.wingDepWaitPushWait w 0) := by
  rw [State.countWing, State.counter_countIf_other _ _ (by decide) (by decide) _ (.inl (by decide)), State.counter_countIf]
  rfl

theorem State.counter_countWing_idle : (s.countWing w t).counter RegF.wingLateTileIdle w 0 =
    countedCycles 32 (s.eighths w) (s.idlesLate w) (t.counter RegF.wingLateTileIdle w 0) := by
  rw [State.countWing, State.counter_countIf, State.counter_countIf_other _ _ (by decide) (by decide) _ (.inl (by decide))]
  rfl

/-- A tick leaves a counter that is of no stream and no wing. -/
theorem State.counter_countWaits_other {g : Fld} (hg : g.lo < 64) (other : g.reg ∉ tickRegs) (i : Nat) :
    s.countWaits.counter g i 0 = s.counter g i 0 := by
  simp only [tickRegs, List.mem_cons, List.not_mem_nil, or_false, not_or] at other
  obtain ⟨stream, push, idle, -⟩ := other
  rw [State.countWaits_eq,
    overList_same (fun t => State.counter t g i 0) _ (fun w t => s.counter_countWing_other w t hg (.inl ⟨push, idle⟩)),
    overList_same (fun t => State.counter t g i 0) _ (fun u t => s.counter_countStream u t hg stream i)]

variable {w}

/-- The counter of a wing after a tick, from what the wing's own count does to it. -/
theorem State.counter_countWaits_wing {g : Fld} (hg : g.lo < 64) (other : g.reg ≠ .wingStrmCnt) (lt : w < 4) {F : Nat × Nat → Nat × Nat}
    (counts : ∀ t, (s.countWing w t).counter g w 0 = F (State.counter t g w 0)) : s.countWaits.counter g w 0 = F (s.counter g w 0) := by
  have wings := overList_once (g := fun t => State.counter t g w 0) (f := s.countWing) (x := w)
    (fun y t apart => s.counter_countWing_other y t hg (.inr apart.symm)) counts List.nodup_range (List.mem_range.2 lt)
  rw [State.countWaits_eq, wings, overList_same (fun t => State.counter t g w 0) _ (fun u t => s.counter_countStream u t hg other w)]

end

/-! ### The device time (R325) -/

/-- The parts of a tick that are to hand at its end, of 400,000 · PERIOD: those kept, and those of the rate. -/
def State.timeParts (s : State) : Int :=
  (min (Tbl.get 0 s.accs (cycKey RegF.glbTimeTime 0 0)) (400000 * max 1 (s.fld RegF.glbTimeCfgPeriod) - 1) : Nat) +
    syncRate s.rate (max 1 (s.fld RegF.glbTimeCfgPeriod))

/-- The parts of a tick. -/
def State.timeUnit (s : State) : Int := (400000 * max 1 (s.fld RegF.glbTimeCfgPeriod) : Nat)

theorem State.countTime_eq (s : State) : s.countTime = { s with
    time := ((s.time : Int) + 1 + s.timeParts / s.timeUnit).toNat % 2 ^ 64,
    accs := Tbl.set 0 s.accs (cycKey RegF.glbTimeTime 0 0) (s.timeParts % s.timeUnit).toNat } := rfl

theorem State.timeUnit_pos (s : State) : 0 < s.timeUnit := by
  unfold State.timeUnit
  omega

/-- At 200 ppm a tick takes in no part of a period's correction beyond one tick. -/
theorem State.timeParts_range (s : State) : -1 ≤ s.timeParts / s.timeUnit ∧ s.timeParts / s.timeUnit ≤ 1 := by
  obtain ⟨low, high, -⟩ := syncRate_spec s.rate (max 1 (s.fld RegF.glbTimeCfgPeriod))
  have parts : -1 * s.timeUnit ≤ s.timeParts ∧ s.timeParts < 2 * s.timeUnit := by
    unfold State.timeParts State.timeUnit
    omega
  exact ⟨(Int.le_ediv_iff_mul_le s.timeUnit_pos).2 parts.1, Int.lt_add_one_iff.1 ((Int.ediv_lt_iff_lt_mul s.timeUnit_pos).2 parts.2)⟩

/-- What the time takes in depends on the time's own registers and remainder alone. -/
theorem State.timeParts_congr {s t : State} (rate : t.rate = s.rate) (period : t.fld RegF.glbTimeCfgPeriod = s.fld RegF.glbTimeCfgPeriod)
    (kept : Tbl.get 0 t.accs (cycKey RegF.glbTimeTime 0 0) = Tbl.get 0 s.accs (cycKey RegF.glbTimeTime 0 0)) :
    t.timeParts = s.timeParts ∧ t.timeUnit = s.timeUnit := by
  simp only [State.timeParts, State.timeUnit, rate, period, kept, and_self]

/-! ### The tick (log 20) -/

theorem State.smbRead_idle {s : State} (idle : s.pins.smbAlert = false) : s.smbRead = s := if_neg (by simp [idle])

theorem State.smbRead_waits {s : State} (waits : s.pins.smbAlert = true) :
    ∃ b, s.smbRead = { s with pins := { s.pins with smbAlert := b }, freeCtr := s.freeCtr + 1 } := ⟨_, if_pos waits⟩

/-- The lanes of ports that are up adapt. -/
def State.adaptPorts (s : State) : State := overList ((List.range 16).filter (fun p => s.portUp p)) (fun p s => s.adaptPort p) s

theorem State.adaptPorts_onlyTicks (s : State) : s.OnlyTicks s.adaptPorts [.lnkLane] :=
  .overList (fun p t => by
    obtain ⟨rest, regs⟩ := t.adaptPort_eq p
    exact ⟨by rw [rest], regs⟩) _ s

theorem State.accs_adaptPorts (s : State) : s.adaptPorts.accs = s.accs :=
  overList_same (fun t => t.accs) _ (fun p t => by rw [(t.adaptPort_eq p).1]) _ s

theorem State.tick_stopped {s : State} (stopped : s.smbRead.timeRun = false ∨ s.smbRead.pwr.fpll = false) : s.tick = s.smbRead :=
  if_neg (by rcases stopped with h | h <;> simp [h])

theorem State.tick_runs {s : State} (run : s.smbRead.timeRun = true) (locked : s.smbRead.pwr.fpll = true) :
    s.tick = s.smbRead.countWaits.adaptPorts.countTime :=
  if_pos (by simp [run, locked])

section
variable (s : State)

/-- Before the time goes on, a tick has changed the counters of waits and the lanes. -/
theorem State.waited_onlyTicks : s.OnlyTicks s.countWaits.adaptPorts tickRegs :=
  have lanes := s.countWaits.adaptPorts_onlyTicks
  s.countWaits_onlyTicks.trans ⟨lanes.rest, lanes.regs.mono (by decide)⟩

/-- A counter of cycles other than the time's own is after a tick as the counting of waits left it. -/
theorem State.counter_ticked {g : Fld} (hg : g.lo < 64) (time : g.reg ≠ .glbTime) (lane : g.reg ∉ [Reg.lnkLane]) (i : Nat) :
    s.countWaits.adaptPorts.countTime.counter g i 0 = s.countWaits.counter g i 0 := by
  refine Prod.ext (s.countWaits.adaptPorts_onlyTicks.regs.fld lane i 0) ?_
  rw [State.counter, State.countTime_eq, Tbl.get_set_other _ _ _ _ _ _ (cycKey_ne (by decide) hg (.inl time)), State.accs_adaptPorts]
  rfl

/-- The time takes in the rate and the remainder that were to hand before the tick. -/
theorem State.timeParts_waited : s.countWaits.adaptPorts.timeParts = s.timeParts ∧ s.countWaits.adaptPorts.timeUnit = s.timeUnit := by
  obtain ⟨rest, regs⟩ := s.waited_onlyTicks
  refine State.timeParts_congr (by rw [rest]) (regs.fld (by decide) 0 0) ?_
  rw [State.accs_adaptPorts]
  exact congrArg Prod.snd (s.counter_countWaits_other (g := RegF.glbTimeTime) (by decide) (by decide) 0)

end

/-- Settles O1: the queue's front runs; on an empty queue each part of a tick by its lemma. -/
theorem stepRunsFrontCommand : Obligations.StepRunsFrontCommand := by
  refine ⟨fun s c rest front => by rw [step, front], fun s => ⟨State.smbRead_idle, State.smbRead_waits⟩,
    fun s₀ idle => ⟨s₀.tick, by rw [step, idle], ?_⟩⟩
  intro s
  refine ⟨State.tick_stopped, fun run locked => ?_⟩
  rw [State.tick_runs run locked]
  obtain ⟨rest, regs⟩ := s.waited_onlyTicks
  refine ⟨?_, fun r i j strm push late lane => regs r i j (by simp [tickRegs, strm, push, late, lane]), fun w lt => ?_⟩
  · intro p unit lim n
    have sum : s.timeParts = n := by simp [State.timeParts, syncRate, n, lim, p]
    have whole : s.timeUnit = unit := by simp [State.timeUnit, unit, p]
    obtain ⟨parts, same⟩ := s.timeParts_waited
    have ticked := s.countWaits.adaptPorts.countTime_eq
    rw [parts, same] at ticked
    rw [← sum, ← whole]
    refine ⟨by rw [ticked, rest], ?_, s.timeParts_range⟩
    rw [ticked, Tbl.get_set_same, Int.toNat_of_nonneg (Int.emod_nonneg _ s.timeUnit_pos.ne')]
  · intro q counts
    have idles := s.counter_countWaits_wing (by decide) (by decide) lt (s.counter_countWing_idle w)
    have pushes := s.counter_countWaits_wing (by decide) (by decide) lt (s.counter_countWing_pushWait w)
    exact ⟨State.counter_counted ((s.counter_ticked (by decide) (by decide) (by decide) w).trans idles),
      State.counter_counted ((s.counter_ticked (by decide) (by decide) (by decide) w).trans pushes)⟩

end Sys2Proof.Machine
end
